-- ==== Sys2Proof/Word.lean ====
section
/-! DEFINITION. The word types of the machine and its finite maps as plain data. -/

namespace Sys2Proof

/-- A 64-bit scalar value (R123). -/
abbrev Word := BitVec 64

/-- A byte of memory. -/
abbrev Byte := BitVec 8

/-- A 32-bit instruction word (R62). -/
abbrev IWord := BitVec 32

/-- The 128 bytes of a cache line, byte 0 in bits [7:0] (R264, R2). -/
abbrev LineData := BitVec 1024

/-- The 512 bytes of a vector register, tile row or data-queue entry (R153, R196, R244). -/
abbrev VData := BitVec 4096

/-- The 2,048 bytes of a DRAM row (R218). -/
abbrev RowData := BitVec 16384

/-- A finite map from numbers, kept in ascending key order. -/
abbrev NMap (α : Type) := List (Nat × α)

end Sys2Proof
end

