-- ==== Sys2Proof/Config.lean ====
section
/-! DEFINITION. What an implementation fixes and the free values: opaque constants of which nothing can be proved. -/

namespace Sys2Proof.Config

/-- Byte that a load from host memory returns: address and the free-value counter (R411) (DESIGN CHOICE, log entry 5). -/
opaque hostByte : Nat → Nat → Byte

/-- Byte that a load from another package's memory returns (R363) (DESIGN CHOICE, log entry 5). -/
opaque remoteByte : Nat → Nat → Byte

/-- Whether that byte is poisoned in the other package's memory (R253, R363) (DESIGN CHOICE, log entry 5). -/
opaque remoteBad : Nat → Nat → Bool

/-- Byte that a read which completes with a bus error leaves with its reader (R17): address and the free-value counter (DESIGN CHOICE, log entry 65). -/
opaque busByte : Nat → Nat → Byte

/-- Base virtual address of a launch's code segment, which the runtime chooses (R52): ASID, module, code object (DESIGN CHOICE, log entry 6). -/
opaque codeBase : Nat → Nat → Nat → Nat

/-- Draw from which firmware's place for a context record is made (R376): launch, gang, team, half (DESIGN CHOICE, log entry 6). -/
opaque recordDraw : Nat → Nat → Nat → Nat → Nat

/-- Draw from which the place of the result journal is made, which firmware reserves at boot (R314): resets so far (DESIGN CHOICE, log entry 6). -/
opaque journalDraw : Nat → Nat

/-- The signature checks of R418: key, digest and signature. -/
opaque edVerify : List Byte → BitVec 384 → List Byte → Bool
opaque mlVerify : List Byte → BitVec 384 → List Byte → Bool

/-- The digest of the boot ROM (R419) (DESIGN CHOICE, log entry 6). -/
opaque bootRomDigest : BitVec 384

/-- Keys of slot 0, which the maker holds (R421). -/
opaque makerEd : List Byte
opaque makerMl : List Byte

/-- Kind, security version, length, digest and key slot that a 256-byte header holds; their places in it are not given (R418) (DESIGN CHOICE, log entry 6). -/
opaque imageHeader : List Byte → Nat × Nat × Nat × BitVec 384 × Nat

/-- What Obsidian writes into the firewall's table at boot, whether writes are allowed: requester code of FW_DENY and block (R417) (DESIGN CHOICE, log entry 6). -/
opaque policy : Nat → Nat → Bool

/-- The same for reads (R417) (DESIGN CHOICE, log entry 6). -/
opaque readPolicy : Nat → Nat → Bool

/-- The physical ranges, first and last byte, in which the PMP that Obsidian programs confines a firmware processor, by requester code (R416)
(DESIGN CHOICE, log entry 6). -/
opaque pmpRanges : Nat → List (Nat × Nat)

/-- The number of the built core that the configuration record maps to core i of stack k, by the record's bytes, whose layout is not given (R401)
(DESIGN CHOICE, log entry 6). -/
opaque recordMap : List Byte → Nat → Nat → Nat

/-- The device identity keys that the SRAM PUF gives: Ed25519 and ML-DSA-65 (R419) (DESIGN CHOICE, log entry 6). -/
opaque identityKey : Nat → List Byte

/-- A signature of an attestation response (R422): algorithm, identity key and transcript hash (DESIGN CHOICE, log entry 6). -/
opaque spdmSign : Nat → List Byte → BitVec 384 → Nat

/-- The certificate chain of slot 0 (R422) (DESIGN CHOICE, log entry 6). -/
opaque certChain : List Byte

/-- Draw from which the refresh phase of a bank is made (R227): core, bank (DESIGN CHOICE, log entry 22) (DESIGN CHOICE, log entry 6). -/
opaque refreshDraw : Nat → Nat → Nat

/-- Where an uncorrectable error leaves the bits of the struck value (R211, R374) (DESIGN CHOICE, log entry 6). -/
opaque eccBits : Nat → Nat

end Sys2Proof.Config
end

