-- ==== Sys2Proof/Syntax.lean ====
section
/-! DEFINITION. The instructions and events of the VX8-768: one constructor of Instr per row of the opcode table. -/

namespace Sys2Proof

/-- The four engines of a core (R123), in the order seq, mem, vec, mtx of R286. -/
inductive Engine where
  | seq | mem | vec | mtx
  deriving DecidableEq, Repr

/-- Element types by their codes 0 to 15 (R8). -/
inductive ElemType where
  | i8 | u8 | i16 | u16 | i32 | u32 | i64 | u64
  | e4m3 | e5m2 | f16 | bf16 | f32 | f64 | e2m1 | e8m0
  deriving DecidableEq, Repr

/-- A scalar source field (R71): a register of the engine's file, or the engine's own QS queue. -/
inductive SSrc where
  | reg (n : Nat)
  | qs
  deriving DecidableEq, Repr

/-- A scalar destination field (R71): a register, or QR. -/
inductive SDst where
  | reg (n : Nat)
  | qr
  deriving DecidableEq, Repr

/-- A vector source field of the vector engine (R71). -/
inductive VSrc where
  | reg (n : Nat)
  | lq (n : Nat)
  | zero
  | lane
  deriving DecidableEq, Repr

/-- A vector destination field of the vector engine (R71). -/
inductive VDst where
  | reg (n : Nat)
  | sq (n : Nat)
  deriving DecidableEq, Repr

/-- A vector destination of the access engine (R245). -/
inductive MVDst where
  | reg (n : Nat)
  | lq (n : Nat)
  deriving DecidableEq, Repr

/-- A vector data source of the access engine (R245). -/
inductive MVSrc where
  | reg (n : Nat)
  | sq (n : Nat)
  | zero
  | lane
  deriving DecidableEq, Repr

/-- An index vector of VGATH, VSCAT and VAMO (R245, R321). -/
inductive VIdx where
  | reg (n : Nat)
  | zero
  | lane
  deriving DecidableEq, Repr

/-- The PRED and PN fields (R68). -/
structure Pred where
  idx : Nat := 0
  neg : Bool := false
  deriving DecidableEq, Repr

/-- Predicate and sync fields of an L64 or X96 instruction (R68, R69). -/
structure Ctl where
  pred : Pred := {}
  wait : Option Nat := none
  post : Option Nat := none
  deriving DecidableEq, Repr

/-- Ordering codes (R66). -/
inductive Ord where
  | rlx | acq | rel | ar | sc
  deriving DecidableEq, Repr

/-- Conditions of CMP (R78). -/
inductive CmpCond where
  | eq | ne | lt | ge | le | gt | ltu | geu | leu | gtu
  deriving DecidableEq, Repr

/-- Conditions of BRC (R134) and of VCMP (R181). -/
inductive Cond where
  | eq | ne | lt | ge | le | gt
  deriving DecidableEq, Repr

/-- SPACE of L64-M (R242). -/
inductive Space where
  | global | spm
  deriving DecidableEq, Repr

/-- The element type of a floating-point atomic (R321). -/
inductive AmoF where
  | f32 | f64 | f16x2 | bf16x2
  deriving DecidableEq, Repr

/-- The MODE of a shoot-down (R276). -/
inductive ShootMode where
  | unmap | wrprotect | inval
  deriving DecidableEq, Repr

/-- I/O-coherent agents (R349) and the host in plain-endpoint mode (R410). -/
inductive IoAgent where
  | copy (core queue : Nat)
  | dma (galena : Nat)
  | host
  /-- The packet cores of a Galena, whose flush writes their lines back (R349, R427). -/
  | packet (galena : Nat)
  /-- Firmware and the hub's own units. -/
  | hub
  deriving DecidableEq, Repr

/-- The virtual name of a line: ASID tag and line address (R264). -/
structure LineKey where
  asid : Nat
  va : Nat
  deriving DecidableEq, Repr

/-- The requesters that the access firewall tells apart (R417, R431). -/
inductive Requester where
  | host | quartz | worker | scheduler | packetCore | rou | power | obsidian
  deriving DecidableEq, Repr

/-- A signed image or record as the checker sees it (R418). -/
structure Image where
  kind : Nat
  svn : BitVec 32
  length : Nat
  slot : Nat
  digest : BitVec 384
  body : List Byte
  edSig : List Byte
  mlSig : List Byte
  deriving DecidableEq, Repr

/-- What an uncorrectable matrix-storage error hits (R211). -/
inductive MatrixErr where
  | tileRow (tile row : Nat)
  | accGran (acc row gran : Nat)
  | shadowGran (row gran : Nat)
  deriving DecidableEq, Repr

/-- What an uncorrectable register error hits (R374). -/
inductive RegErr where
  | scalar (e : Engine) (n : Nat)
  | scalarQueue (q idx : Nat)
  | vgran (reg gran : Nat)
  | dqgran (q idx gran : Nat)
  | mask (n : Nat)
  deriving DecidableEq, Repr

/-- A name in the stream packets: the requester of an operation (R304). -/
structure ReqPacket where
  src : Nat
  handle : Nat
  serial : Nat
  ack : Nat
  op : Nat
  ord : Ord
  type : Nat
  asid : Nat
  va : Nat
  mask : BitVec 128
  opnd : List (BitVec 128)
  deriving DecidableEq, Repr

/-- The STATUS of REPLY and OPENED (R308). -/
inductive RStatus where
  | done | busy | fault | streamLost
  deriving DecidableEq, Repr

/-- The capability table of a chiplet as enumeration reads it (R400): `unit` is its place on the substrate, 0 to 7 a stack, 8 and 9 a Galena and
10 the hub itself; `zero` says that its reserved bytes and those of its agent entries are zero, and an agent is its TYPE, CLASS and COUNT. -/
structure CapTable where
  unit : Nat
  magic : Nat
  version : Nat
  kind : Nat
  isa : Nat
  built : Nat
  passed : Nat
  spares : Nat
  nmod : Nat
  colstat : BitVec 64
  modstat : BitVec 16
  modhalf : BitVec 16
  geom : Nat
  fwver : Nat
  zero : Bool
  agents : List (Nat × Nat × Nat)
  deriving DecidableEq, Repr

/-- The instructions of the four engines and the events of the device. Register and code fields are
numbers or operand forms; `wellFormed` gives their ranges. `k` carries predicate and sync fields. -/
inductive Instr where
  -- common group, S32 (R75)
  | nop
  | ret
  | halt
  | endl
  | brReg (a : SSrc)
  | callReg (a : SSrc)
  | chk (a : SSrc)
  | trap (n : Nat)
  | bkpt (n : Nat)
  | rdcr (d : SDst) (cr : Nat)
  | wrcr (cr : Nat) (a : SSrc)
  | semw (n : Nat)
  | semp (n : Nat)
  -- common group, L64 and X96 (R75)
  | br (p : Pred) (slot line : Nat)
  | brc (p : Pred) (cc : Cond) (a : SSrc) (slot line : Nat)
  | call (p : Pred) (slot line : Nat)
  | loopReg (k : Ctl) (a : SSrc)
  | loopImm (k : Ctl) (n : BitVec 32)
  | semwL64 (k : Ctl) (n : Nat)
  | sempL64 (k : Ctl) (n : Nat)
  | nopL64 (k : Ctl)
  -- integer group, S32 (R77)
  | add (d : SDst) (a b : SSrc) (sh : Nat)
  | sub (d : SDst) (a b : SSrc) (sh : Nat)
  | mul (d : SDst) (a b : SSrc)
  | mulh (d : SDst) (a b : SSrc)
  | mulhu (d : SDst) (a b : SSrc)
  | div (d : SDst) (a b : SSrc)
  | divu (d : SDst) (a b : SSrc)
  | rem (d : SDst) (a b : SSrc)
  | remu (d : SDst) (a b : SSrc)
  | and (d : SDst) (a b : SSrc)
  | or (d : SDst) (a b : SSrc)
  | xor (d : SDst) (a b : SSrc)
  | andn (d : SDst) (a b : SSrc)
  | shl (d : SDst) (a b : SSrc)
  | shr (d : SDst) (a b : SSrc)
  | sar (d : SDst) (a b : SSrc)
  | rotr (d : SDst) (a b : SSrc)
  | min (d : SDst) (a b : SSrc)
  | minu (d : SDst) (a b : SSrc)
  | max (d : SDst) (a b : SSrc)
  | maxu (d : SDst) (a b : SSrc)
  | clz (d : SDst) (a : SSrc)
  | ctz (d : SDst) (a : SSrc)
  | popc (d : SDst) (a : SSrc)
  | cmp (cc : CmpCond) (d : SDst) (a b : SSrc)
  | mov (d : SDst) (a : SSrc)
  | addi (d : SDst) (a : SSrc) (imm : BitVec 11)
  | andi (d : SDst) (a : SSrc) (imm : BitVec 11)
  | ori (d : SDst) (a : SSrc) (imm : BitVec 11)
  | xori (d : SDst) (a : SSrc) (imm : BitVec 11)
  | shlImm (d : SDst) (a : SSrc) (n : Nat)
  | shrImm (d : SDst) (a : SSrc) (n : Nat)
  | sarImm (d : SDst) (a : SSrc) (n : Nat)
  | rotrImm (d : SDst) (a : SSrc) (n : Nat)
  -- integer group, L64 and X96 (R79)
  | movi (k : Ctl) (d : SDst) (lit : BitVec 32)
  | moviHi (k : Ctl) (d : Nat) (lit : BitVec 32)
  | addiX96 (k : Ctl) (d : SDst) (a : SSrc) (lit : BitVec 32)
  | andiX96 (k : Ctl) (d : SDst) (a : SSrc) (lit : BitVec 32)
  | oriX96 (k : Ctl) (d : SDst) (a : SSrc) (lit : BitVec 32)
  | xoriX96 (k : Ctl) (d : SDst) (a : SSrc) (lit : BitVec 32)
  | ext (k : Ctl) (sx : Bool) (d : SDst) (a : SSrc) (pos width : Nat)
  | ins (k : Ctl) (d : Nat) (a : SSrc) (pos width : Nat)
  | sel (k : Ctl) (d : SDst) (a b c : SSrc)
  -- sequencer (R80)
  | lds (k : Ctl) (size : Nat) (sx acq : Bool) (hint : Nat) (d a : Nat) (lit : BitVec 32)
  | sts (k : Ctl) (size : Nat) (rel : Bool) (hint : Nat) (a b : Nat) (lit : BitVec 32)
  | qpush (k : Ctl) (q : Nat) (a : Nat)
  | qpop (k : Ctl) (d : Nat)
  | fork (k : Ctl) (eng : Nat) (sem : Nat) (a : Nat) (slot line : Nat)
  | launch (k : Ctl) (d a : Nat)
  | waitch (k : Ctl) (d a : Nat)
  | exit (k : Ctl) (a : Nat)
  | yield (k : Ctl) (d : Nat)
  | rdid (k : Ctl) (d sel : Nat)
  | hintRem (k : Ctl) (a : Nat)
  | cba (k : Ctl) (d bar count : Nat)
  | cbw (k : Ctl) (d a bar : Nat)
  | gbar (k : Ctl) (d : Nat)
  | watch (k : Ctl) (a : Nat)
  | mwait (k : Ctl) (d a : Nat)
  | cqPut (k : Ctl) (q : Nat) (a : Nat) (cpost : Option Nat)
  | cqMcast (k : Ctl) (q : Nat) (a : Nat) (cpost : Option Nat)
  | cqFence (k : Ctl) (q mask : Nat) (cpost : Option Nat)
  -- access engine (R81, R251)
  | lda (k : Ctl) (size : Nat) (sx acq : Bool) (sp : Space) (hint : Nat) (d : SDst) (a : SSrc) (lit : BitVec 32)
  | sta (k : Ctl) (size : Nat) (rel : Bool) (sp : Space) (hint : Nat) (a b : SSrc) (lit : BitVec 32)
  | vld (k : Ctl) (acq : Bool) (sp : Space) (hint : Nat) (d : MVDst) (a : SSrc) (lit : BitVec 32)
  | vst (k : Ctl) (rel : Bool) (sp : Space) (hint : Nat) (d : MVSrc) (a : SSrc) (lit : BitVec 32)
  | vlds (k : Ctl) (size : Nat) (acq : Bool) (sp : Space) (hint : Nat) (d : MVDst) (a : SSrc) (lit : BitVec 32)
  | vsts (k : Ctl) (size : Nat) (rel : Bool) (sp : Space) (hint : Nat) (d : MVSrc) (a : SSrc) (lit : BitVec 32)
  | vgath (k : Ctl) (size : Nat) (acq : Bool) (sp : Space) (hint : Nat) (d : MVDst) (a : SSrc) (b : VIdx)
  | vscat (k : Ctl) (size : Nat) (rel : Bool) (sp : Space) (hint : Nat) (d : MVSrc) (a : SSrc) (b : VIdx)
  | tld (k : Ctl) (acq : Bool) (sp : Space) (hint : Nat) (d : Nat) (a b : SSrc)
  | tst (k : Ctl) (rel : Bool) (sp : Space) (hint : Nat) (d : Nat) (a b : SSrc)
  | ldS (k : Ctl) (size : Nat) (sx : Bool) (sp : Space) (hint : Nat) (d : SDst) (a : SSrc) (lit : BitVec 32)
  | rspSt (k : Ctl) (hint : Nat) (d : MVSrc) (a b : SSrc) (lit : BitVec 32)
  | pref (k : Ctl) (hint : Nat) (a : SSrc) (lit : BitVec 32)
  | fenceAcq (k : Ctl)
  | fenceRel (k : Ctl)
  | fenceSc (k : Ctl)
  | acqr (k : Ctl) (a b : SSrc)
  | cwb (k : Ctl) (a b : SSrc)
  | rowAct (k : Ctl) (a b : SSrc)
  | rowCon (k : Ctl) (d : Nat) (a : SSrc) (quad : Nat)
  | rowCon2 (k : Ctl) (d : Nat) (a b : SSrc) (quad : Nat)
  | rowPut (k : Ctl) (d : Nat) (a : SSrc) (quad : Nat)
  | rowPre (k : Ctl) (a : SSrc)
  | rowStat (k : Ctl) (d : SDst) (sel : Nat)
  | rowWait (k : Ctl)
  | amoAdd (k : Ctl) (size : Nat) (o : Ord) (hint : Nat) (d : SDst) (a b : SSrc)
  | amoSub (k : Ctl) (size : Nat) (o : Ord) (hint : Nat) (d : SDst) (a b : SSrc)
  | amoMin (k : Ctl) (size : Nat) (o : Ord) (hint : Nat) (d : SDst) (a b : SSrc)
  | amoMax (k : Ctl) (size : Nat) (o : Ord) (hint : Nat) (d : SDst) (a b : SSrc)
  | amoMinu (k : Ctl) (size : Nat) (o : Ord) (hint : Nat) (d : SDst) (a b : SSrc)
  | amoMaxu (k : Ctl) (size : Nat) (o : Ord) (hint : Nat) (d : SDst) (a b : SSrc)
  | amoAnd (k : Ctl) (size : Nat) (o : Ord) (hint : Nat) (d : SDst) (a b : SSrc)
  | amoOr (k : Ctl) (size : Nat) (o : Ord) (hint : Nat) (d : SDst) (a b : SSrc)
  | amoXor (k : Ctl) (size : Nat) (o : Ord) (hint : Nat) (d : SDst) (a b : SSrc)
  | amoSwp (k : Ctl) (size : Nat) (o : Ord) (hint : Nat) (d : SDst) (a b : SSrc)
  | amoCas (k : Ctl) (size : Nat) (o : Ord) (hint : Nat) (d : Nat) (a b : SSrc)
  | amoFadd (k : Ctl) (t : AmoF) (o : Ord) (hint : Nat) (d : SDst) (a b : SSrc)
  | amoFmin (k : Ctl) (t : AmoF) (o : Ord) (hint : Nat) (d : SDst) (a b : SSrc)
  | amoFmax (k : Ctl) (t : AmoF) (o : Ord) (hint : Nat) (d : SDst) (a b : SSrc)
  | acas128 (k : Ctl) (o : Ord) (hint : Nat) (d : Nat) (a : SSrc) (b : Nat)
  | redAdd (k : Ctl) (size : Nat) (o : Ord) (hint : Nat) (a b : SSrc)
  | redSub (k : Ctl) (size : Nat) (o : Ord) (hint : Nat) (a b : SSrc)
  | redMin (k : Ctl) (size : Nat) (o : Ord) (hint : Nat) (a b : SSrc)
  | redMax (k : Ctl) (size : Nat) (o : Ord) (hint : Nat) (a b : SSrc)
  | redMinu (k : Ctl) (size : Nat) (o : Ord) (hint : Nat) (a b : SSrc)
  | redMaxu (k : Ctl) (size : Nat) (o : Ord) (hint : Nat) (a b : SSrc)
  | redAnd (k : Ctl) (size : Nat) (o : Ord) (hint : Nat) (a b : SSrc)
  | redOr (k : Ctl) (size : Nat) (o : Ord) (hint : Nat) (a b : SSrc)
  | redXor (k : Ctl) (size : Nat) (o : Ord) (hint : Nat) (a b : SSrc)
  | redFadd (k : Ctl) (t : AmoF) (o : Ord) (hint : Nat) (a b : SSrc)
  | redFmin (k : Ctl) (t : AmoF) (o : Ord) (hint : Nat) (a b : SSrc)
  | redFmax (k : Ctl) (t : AmoF) (o : Ord) (hint : Nat) (a b : SSrc)
  | vamoAdd (k : Ctl) (size : Nat) (o : Ord) (hint : Nat) (d : Nat) (a : SSrc) (b : VIdx)
  | vamoSub (k : Ctl) (size : Nat) (o : Ord) (hint : Nat) (d : Nat) (a : SSrc) (b : VIdx)
  | vamoMin (k : Ctl) (size : Nat) (o : Ord) (hint : Nat) (d : Nat) (a : SSrc) (b : VIdx)
  | vamoMax (k : Ctl) (size : Nat) (o : Ord) (hint : Nat) (d : Nat) (a : SSrc) (b : VIdx)
  | vamoMinu (k : Ctl) (size : Nat) (o : Ord) (hint : Nat) (d : Nat) (a : SSrc) (b : VIdx)
  | vamoMaxu (k : Ctl) (size : Nat) (o : Ord) (hint : Nat) (d : Nat) (a : SSrc) (b : VIdx)
  | vamoAnd (k : Ctl) (size : Nat) (o : Ord) (hint : Nat) (d : Nat) (a : SSrc) (b : VIdx)
  | vamoOr (k : Ctl) (size : Nat) (o : Ord) (hint : Nat) (d : Nat) (a : SSrc) (b : VIdx)
  | vamoXor (k : Ctl) (size : Nat) (o : Ord) (hint : Nat) (d : Nat) (a : SSrc) (b : VIdx)
  | vamoSwp (k : Ctl) (size : Nat) (o : Ord) (hint : Nat) (d : Nat) (a : SSrc) (b : VIdx)
  | vamoFadd (k : Ctl) (t : AmoF) (o : Ord) (hint : Nat) (d : Nat) (a : SSrc) (b : VIdx)
  | vamoFmin (k : Ctl) (t : AmoF) (o : Ord) (hint : Nat) (d : Nat) (a : SSrc) (b : VIdx)
  | vamoFmax (k : Ctl) (t : AmoF) (o : Ord) (hint : Nat) (d : Nat) (a : SSrc) (b : VIdx)
  -- vector arithmetic (R163 to R174)
  | vadd (k : Ctl) (t : ElemType) (d : VDst) (a b : VSrc)
  | vsub (k : Ctl) (t : ElemType) (d : VDst) (a b : VSrc)
  | vmul (k : Ctl) (t : ElemType) (d : VDst) (a b : VSrc)
  | vfma (k : Ctl) (t : ElemType) (d : Nat) (a b : VSrc)
  | vfms (k : Ctl) (t : ElemType) (d : Nat) (a b : VSrc)
  | vfnma (k : Ctl) (t : ElemType) (d : Nat) (a b : VSrc)
  | vmin (k : Ctl) (t : ElemType) (d : VDst) (a b : VSrc)
  | vmax (k : Ctl) (t : ElemType) (d : VDst) (a b : VSrc)
  | vabs (k : Ctl) (t : ElemType) (d : VDst) (a : VSrc)
  | vneg (k : Ctl) (t : ElemType) (d : VDst) (a : VSrc)
  | vadds (k : Ctl) (t : ElemType) (d : VDst) (a b : VSrc)
  | vsubs (k : Ctl) (t : ElemType) (d : VDst) (a b : VSrc)
  | vmulh (k : Ctl) (t : ElemType) (d : VDst) (a b : VSrc)
  | vdiv (k : Ctl) (t : ElemType) (d : VDst) (a b : VSrc)
  | vsqrt (k : Ctl) (t : ElemType) (d : VDst) (a : VSrc)
  | vrcp (k : Ctl) (t : ElemType) (d : VDst) (a : VSrc)
  | vrsq (k : Ctl) (t : ElemType) (d : VDst) (a : VSrc)
  | vexp2 (k : Ctl) (t : ElemType) (d : VDst) (a : VSrc)
  | vlog2 (k : Ctl) (t : ElemType) (d : VDst) (a : VSrc)
  | vsinp (k : Ctl) (t : ElemType) (d : VDst) (a : VSrc)
  | vcosp (k : Ctl) (t : ElemType) (d : VDst) (a : VSrc)
  | vcvt (k : Ctl) (td ts : ElemType) (part : Nat) (d : VDst) (a : VSrc)
  | vqnt (k : Ctl) (td ts : ElemType) (part : Nat) (d : VDst) (a : VSrc) (s : SDst)
  | vdqnt (k : Ctl) (td ts : ElemType) (part : Nat) (d : VDst) (a : VSrc) (s : SSrc)
  | vand (k : Ctl) (t : ElemType) (d : VDst) (a b : VSrc)
  | vor (k : Ctl) (t : ElemType) (d : VDst) (a b : VSrc)
  | vxor (k : Ctl) (t : ElemType) (d : VDst) (a b : VSrc)
  | vnot (k : Ctl) (t : ElemType) (d : VDst) (a : VSrc)
  | vshl (k : Ctl) (t : ElemType) (d : VDst) (a b : VSrc)
  | vshr (k : Ctl) (t : ElemType) (d : VDst) (a b : VSrc)
  | vsar (k : Ctl) (t : ElemType) (d : VDst) (a b : VSrc)
  | vclz (k : Ctl) (t : ElemType) (d : VDst) (a : VSrc)
  | vpopc (k : Ctl) (t : ElemType) (d : VDst) (a : VSrc)
  | vmov (k : Ctl) (t : ElemType) (d : VDst) (a : VSrc)
  | vbcast (k : Ctl) (t : ElemType) (d : VDst) (a : SSrc)
  | vextr (k : Ctl) (t : ElemType) (d : SDst) (a : VSrc) (b : SSrc)
  | vins (k : Ctl) (t : ElemType) (d : Nat) (a b : SSrc)
  -- lanes, masks, bit network (R179)
  | vcmp (k : Ctl) (cc : Cond) (t : ElemType) (d : Nat) (a b : VSrc)
  | vsel (k : Ctl) (t : ElemType) (d : VDst) (a b : VSrc) (m : Nat)
  | kand (k : Ctl) (d a b : Nat)
  | kor (k : Ctl) (d a b : Nat)
  | kxor (k : Ctl) (d a b : Nat)
  | knot (k : Ctl) (d a : Nat)
  | kpop (k : Ctl) (d : SDst) (a : Nat)
  | kmovMask (k : Ctl) (d a : Nat)
  | kmovFromVector (k : Ctl) (d : Nat) (a : VSrc)
  | kmovToVector (k : Ctl) (d : VDst) (a : Nat)
  | vshuf (k : Ctl) (hi : Bool) (t : ElemType) (d : VDst) (a b : VSrc)
  | vxswp (k : Ctl) (t : ElemType) (d : VDst) (a : VSrc) (dist : Nat)
  | vrot (k : Ctl) (t : ElemType) (d : VDst) (a : VSrc) (b : SSrc)
  | vredsum (k : Ctl) (t : ElemType) (d : SDst) (a : VSrc)
  | vredmax (k : Ctl) (t : ElemType) (d : SDst) (a : VSrc)
  | vredmin (k : Ctl) (t : ElemType) (d : SDst) (a : VSrc)
  | vscan (k : Ctl) (t : ElemType) (d : Nat) (a : VSrc)
  | vvoteAny (k : Ctl) (t : ElemType) (d : SDst) (a : VSrc)
  | vvoteAll (k : Ctl) (t : ElemType) (d : SDst) (a : VSrc)
  | vvoteBallot (k : Ctl) (t : ElemType) (d : Nat) (a : VSrc)
  | vcompress (k : Ctl) (t : ElemType) (d : VDst) (a : VSrc) (m : Nat)
  | vexpand (k : Ctl) (t : ElemType) (d : Nat) (a : VSrc) (m : Nat)
  | vbperm (k : Ctl) (d : VDst) (a : VSrc) (pat : Nat)
  | vbpload (k : Ctl) (pat : Nat) (a : VSrc) (part : Nat)
  -- matrix engine (R202)
  | tset (k : Ctl) (acc : Bool) (d : Nat) (a : SSrc)
  | tget (k : Ctl) (acc : Bool) (d : SDst) (a : Nat)
  | tzero (k : Ctl) (d : Nat)
  | azero (k : Ctl) (d : Nat)
  | tmov (k : Ctl) (d a : Nat)
  | ttr (k : Ctl) (d a : Nat)
  | tcvt (k : Ctl) (d a : Nat)
  | tacc (k : Ctl) (d a : Nat)
  | atile (k : Ctl) (d a : Nat)
  | mma (k : Ctl) (sat : Bool) (d a b : Nat)
  | mmaP (k : Ctl) (sat : Bool) (d a b : Nat)
  | mmaSp (k : Ctl) (sat : Bool) (n : Nat) (d a b : Nat)
  | mfence (k : Ctl)
  -- events: retirement, fetch, memory (R159, R60, R247, R250, R272, R278)
  | retire (core : Nat) (e : Engine)
  | lineFetch (core : Nat) (e : Engine)
  | accessClear (core id : Nat)
  | loadReturn (core id : Nat)
  | llcFill (key : LineKey)
  | migIntervalExpiry
  -- events: the registry (R338 to R341, R349, R442)
  | coreStoreRequest (core id part : Nat)
  | coreReadRequest (core id part : Nat)
  | ioCoherentWrite (ag : IoAgent) (pa : Nat) (data : List Byte)
  | ioCoherentRead (ag : IoAgent) (pa n : Nat)
  | revocation (core : Nat) (key : LineKey)
  | revocationAnswer (core : Nat) (key : LineKey)
  | forwardRequest (core : Nat) (key : LineKey)
  | forwardAnswer (core : Nat) (key : LineKey)
  | writeBack (core : Nat) (key : LineKey)
  | registrationAnswer (core : Nat) (key : LineKey)
  | writeBackAck (core : Nat) (key : LineKey)
  -- events: completion of waits
  | mwaitWake (core : Nat)
  | mwaitTimeout (core : Nat)
  | cbwComplete (core : Nat)
  | gbarPhaseComplete (launch gang : Nat)
  | waitchComplete (core : Nat)
  | fenceComplete (core : Nat)
  -- events: rows, refresh, heat (R225 to R237)
  | rowActComplete (core bank : Nat)
  | rowPreComplete (core bank : Nat)
  | leaseExpiry (core bank : Nat)
  | refreshDue (core bank : Nat)
  | refreshEnd (core bank : Nat)
  | tempHot (stack : Nat)
  | tempNormal (stack : Nat)
  | activationWindowSet (w : Nat)
  | matrixIssueGapSet (n : Nat)
  -- events: errors in state (R211, R374)
  | tileEccError (core : Nat) (w : MatrixErr)
  | stateEcc (core : Nat)
  -- events: teams (R100 to R108, R367 to R382)
  | teamStart (core : Nat)
  | contextRestore (core : Nat)
  | streamRestart (core : Nat)
  | contextSave (core : Nat)
  | teamRetire (launch gang team : Nat)
  | launchRetire (launch : Nat)
  | teamStop (core : Nat)
  | trapDrainLimit (core : Nat)
  | watchdog (core : Nat) (e : Engine)
  | sliceExpiry (launch gang : Nat)
  -- events: placement and schedulers (R395 to R399)
  | placementRound
  | gangSteal (stack : Nat) (launch gang : Nat)
  | schedulerHeartbeat (stack : Nat)
  | schedAdopt (stack : Nat)
  | schedulerReturn (stack : Nat)
  | workerFailover (w : Nat)
  | quartzMismatch (pc : Nat)
  | quartzRestart
  -- events: dispatch (R386 to R393)
  | dispQwptr (q v : Nat)
  | dispQctl (q : Nat) (v : Word)
  | packetCopy (q : Nat)
  | childDispatch (parent child : Nat)
  | tokenTick
  -- events: remote operations (R303 to R320)
  | openPkt (src slot nonce : Nat)
  | opened (owner slot nonce : Nat) (handle : Nat) (st : RStatus)
  | req (p : ReqPacket)
  | homeCommit (handle serial : Nat)
  | reply (owner handle serial : Nat) (st : RStatus) (fcode : Nat) (value : List (BitVec 128))
  | ack (src handle f : Nat)
  | acked (owner handle dest : Nat)
  | close (src handle f : Nat)
  | closed (owner handle : Nat)
  | closeAll (src : Nat)
  | ackTimer (slot : Nat)
  | retransmit (slot serial : Nat)
  | rouRecovery
  | requesterHubReset
  | remoteLoad (src va n : Nat)
  -- events: the fabric (R364, R365) and copy queues (R360)
  | fabPkgLost (pkg : Nat)
  | fabAgeDrop (port n : Nat)
  | fabPortDown (galena port : Nat)
  | fabPortUp (galena port : Nat)
  | copyPiece (core q piece : Nat)
  -- events: firmware mailbox (R429)
  | allot (slot : Nat)
  | reclaim (slot : Nat)
  | isolate (slot : Nat)
  | rejoin (slot : Nat) (caps : List CapTable)
  | loadimg (slot : Nat)
  | unloadimg (slot : Nat)
  | resume (slot : Nat)
  | kill (slot : Nat)
  | pageResume (slot : Nat)
  | pageDecline (slot : Nat)
  | enroll (slot : Nat)
  | disable (slot : Nat)
  | extend (slot : Nat)
  | modreg (slot : Nat)
  | modunreg (slot : Nat)
  | chunkVerify (module shard chunk : Nat)
  | loadimgTimeout (slot : Nat)
  -- events: shoot-down, migration ring, rings, flush (R276 to R279, R427, R430)
  | shootdownUnmap
  | shootdownWrprotect
  | shootdownInval
  | shootdownDone
  | migRingRptr (v : Nat)
  | migRingCtl (v : Word)
  | migRingBase (v : Word)
  | trapRptr (v : Nat)
  | galenaFlush (g : Nat) (v : Word)
  | galenaFlushDone (g : Nat)
  | registerWrite (who : Requester) (off : Nat) (w64 : Bool) (v : Word)
  -- events: the host (R350, R351, R409 to R411)
  | hostReadShared (key : LineKey)
  | hostReadExclusive (key : LineKey)
  | hostWriteBack (key : LineKey) (data : LineData)
  | hostSnoopAnswer (key : LineKey) (dirty : Option LineData)
  | slateRecallLost (key : LineKey)
  | slateTimeout (core id : Nat)
  | linkUp (accepts : Bool) (gts width : Nat)
  | linkWakeSlow (stack module : Nat)
  | stackLost (stack : Nat)
  | moduleRetrain (unit module : Nat) (half : Bool)
  | coreFailure (core : Nat)
  -- events: boot and attestation (R418 to R422)
  | coldReset (imgs : List Image) (caps : List CapTable)
  | warmReset (imgs : List Image)
  | getVersion
  | getCapabilities
  | negotiateAlgorithms (sig : Nat)
  | getDigests
  | getCertificate (slot : Nat)
  | challenge (slot : Nat) (nonce : Nat)
  | getMeasurements (idx : Nat)
  | spdmUnsupported (code : Nat)
  | registerUncorrectableError (core : Nat) (w : RegErr)
  | incomingRspStWrite (target : Nat)
  | apertureStoreDelivered (core id : Nat)
  | refreshStart (core bank : Nat)
  deriving DecidableEq, Repr

end Sys2Proof
end

