-- ==== Sys2Proof/Machine/Fields.lean ====
section
/-! DEFINITION. Field limits of every instruction (R62 to R83 and the encoding rules of the chapters): the parts of well-formedness. -/

namespace Sys2Proof

/-- Code of an element type (R8). -/
def ElemType.code : ElemType → Nat
  | .i8 => 0 | .u8 => 1 | .i16 => 2 | .u16 => 3 | .i32 => 4 | .u32 => 5 | .i64 => 6 | .u64 => 7
  | .e4m3 => 8 | .e5m2 => 9 | .f16 => 10 | .bf16 => 11 | .f32 => 12 | .f64 => 13 | .e2m1 => 14 | .e8m0 => 15

/-- The element type of a 4-bit code (R8). -/
def ElemType.ofCode (n : Nat) : ElemType :=
  match n with
  | 0 => .i8 | 1 => .u8 | 2 => .i16 | 3 => .u16 | 4 => .i32 | 5 => .u32 | 6 => .i64 | 7 => .u64
  | 8 => .e4m3 | 9 => .e5m2 | 10 => .f16 | 11 => .bf16 | 12 => .f32 | 13 => .f64 | 14 => .e2m1 | _ => .e8m0

/-- Width in bits of an element type (R8, R9, R24). -/
def ElemType.width : ElemType → Nat
  | .i8 | .u8 | .e4m3 | .e5m2 | .e8m0 => 8
  | .i16 | .u16 | .f16 | .bf16 => 16
  | .i32 | .u32 | .f32 => 32
  | .i64 | .u64 | .f64 => 64
  | .e2m1 => 4

/-- Integer types, codes 0 to 7. -/
def ElemType.isInt (t : ElemType) : Bool := t.code < 8

/-- Signed integer types. -/
def ElemType.isSigned : ElemType → Bool
  | .i8 | .i16 | .i32 | .i64 => true
  | _ => false

/-- The float types of vector arithmetic, codes 10 to 13 (R163). -/
def ElemType.isVFloat (t : ElemType) : Bool := 10 ≤ t.code && t.code ≤ 13

/-- Any floating-point type, codes 8 to 15 but E8M0. -/
def ElemType.isFloat (t : ElemType) : Bool := 8 ≤ t.code && t.code ≤ 14

/-- Lanes of a 512-byte register at this width (R154). -/
def ElemType.lanes (t : ElemType) : Nat := 4096 / t.width

namespace Machine

/-- Highest scalar register number of an engine (R71). -/
def lastScalar : Engine → Nat
  | .seq => 63 | .mem => 31 | .vec => 31 | .mtx => 15

/-- Number that names the engine's own QS queue as a source (R71); the sequencer has none. -/
def qsCode : Engine → Nat
  | .mtx => 16 | _ => 32

/-- Number that names QR as a destination (R71). -/
def qrCode : Engine → Nat
  | .mtx => 17 | _ => 33

/-- A legal scalar source (R71). -/
def okSrc (e : Engine) : SSrc → Bool
  | .reg n => n ≤ lastScalar e
  | .qs => e != .seq

/-- A legal scalar destination (R71). -/
def okDst (e : Engine) : SDst → Bool
  | .reg n => n ≤ lastScalar e
  | .qr => e != .seq

/-- A register destination that is also read: no queue and not the zero register (R79). -/
def okRmw (e : Engine) (d : Nat) : Bool := 1 ≤ d && d ≤ lastScalar e

/-- An S register. -/
def okS (n : Nat) : Bool := n < 64

def okVSrc : VSrc → Bool
  | .reg n => n < 384 | .lq n => n < 4 | .zero => true | .lane => true

def okVDst : VDst → Bool
  | .reg n => n < 384 | .sq n => n < 2

def okMVDst : MVDst → Bool
  | .reg n => n < 384 | .lq n => n < 4

def okMVSrc : MVSrc → Bool
  | .reg n => n < 384 | .sq n => n < 2 | .zero => true | .lane => true

def okVIdx : VIdx → Bool
  | .reg n => n < 384 | .zero => true | .lane => true

/-- Clusters named by operands (R156). -/
def clusterVSrc : VSrc → Option Nat
  | .reg n => some (n / 128) | _ => none
def clusterVDst : VDst → Option Nat
  | .reg n => some (n / 128) | _ => none
def clusterMVDst : MVDst → Option Nat
  | .reg n => some (n / 128) | _ => none
def clusterMVSrc : MVSrc → Option Nat
  | .reg n => some (n / 128) | _ => none
def clusterVIdx : VIdx → Option Nat
  | .reg n => some (n / 128) | _ => none

/-- Two operands do not name two clusters (R156). -/
def sameCluster : Option Nat → Option Nat → Bool
  | some a, some b => a == b
  | _, _ => true

/-- Three operands do not name two clusters (R156). -/
def sameCluster3 (a b c : Option Nat) : Bool :=
  sameCluster a b && sameCluster a c && sameCluster b c

/-- Unpredicated, or a predicate or mask 1 to 7 (R68). -/
def okPred (p : Pred) : Bool := p.idx < 8 && (p.idx != 0 || !p.neg)

/-- PRED and PN zero. -/
def noPred (p : Pred) : Bool := p.idx == 0 && !p.neg

def okSem : Option Nat → Bool
  | none => true | some n => n < 32

/-- Sync fields in range (R69). -/
def okSync (k : Ctl) : Bool := okSem k.wait && okSem k.post

/-- Predicate and sync fields of an instruction without lanes (R68, R126). -/
def okCtl (e : Engine) (k : Ctl) : Bool :=
  okSync k && (if e == .seq then okPred k.pred else noPred k.pred)

/-- Predicate and sync fields of a lane-wise vector instruction (R68). -/
def okLane (k : Ctl) : Bool := okSync k && okPred k.pred

/-- Predicate and sync fields where PRED is zero only. -/
def okPlain (k : Ctl) : Bool := okSync k && noPred k.pred

/-- Engines with an integer group (R74). -/
def hasInt (e : Engine) : Bool := e != .mtx

/-- Control-register numbers that RDCR reads (R128). -/
def okCr (e : Engine) (cr : Nat) : Bool := cr < 8 || (e == .seq && cr < 0x11)

/-- Control-register numbers that WRCR writes (R128). -/
def okCrW (e : Engine) (cr : Nat) : Bool :=
  cr == 0 || cr == 1 || cr == 6 || (e == .seq && 8 ≤ cr && cr ≤ 15)

/-- A branch target of L64-B (R67). -/
def okTgt (slot line : Nat) : Bool := 1 ≤ slot && slot ≤ 15 && line < 2 ^ 24

/-- Predicate of a branch in layout L64-B (R68). -/
def okBrPred (e : Engine) (p : Pred) : Bool := if e == .seq then okPred p else noPred p

def okHint (h : Nat) : Bool := h < 4

/-- ORD values of a reduction (R321). -/
def okRedOrd : Ord → Bool
  | .rlx | .rel | .sc => true
  | _ => false

/-- acquire is accepted with SPACE 0 only (R251). -/
def okAcq (acq : Bool) (sp : Space) : Bool := !acq || sp == .global

def fI (t : ElemType) : Bool := t.isInt || t.isVFloat
def bitT (t : ElemType) : Bool := t.code != 14

/-- Parts of a conversion (R167). -/
def convRatio (td ts : ElemType) : Nat := max td.width ts.width / min td.width ts.width

def okVTwo (d : VDst) (a b : VSrc) : Bool :=
  okVDst d && okVSrc a && okVSrc b && sameCluster3 (clusterVDst d) (clusterVSrc a) (clusterVSrc b)

def okVOne (d : VDst) (a : VSrc) : Bool :=
  okVDst d && okVSrc a && sameCluster (clusterVDst d) (clusterVSrc a)

/-- D, which is also read, is V0 to V383 (R162). -/
def okVRmw (d : Nat) (a b : VSrc) : Bool :=
  d < 384 && okVSrc a && okVSrc b && sameCluster3 (some (d / 128)) (clusterVSrc a) (clusterVSrc b)

def okMask (n : Nat) : Bool := n < 16
def okMaskD (n : Nat) : Bool := 1 ≤ n && n < 16

/-- Source types of VQNT and destination types of VDQNT (R169, R170). -/
def okQWide (t : ElemType) : Bool := t == .f16 || t == .bf16 || t == .f32
/-- Element types of block formats (R169, R170). -/
def okQNarrow (t : ElemType) : Bool := t == .e4m3 || t == .e5m2 || t == .e2m1 || t == .i8

def okTile (n : Nat) : Bool := n < 16
def okAcc (n : Nat) : Bool := n < 3

/-- SIZE of a scalar or strided access. -/
def okSize (n : Nat) : Bool := n < 4
/-- SIZE of a gather lane or an integer atomic: 32 or 64 bits. -/
def okSize23 (n : Nat) : Bool := n == 2 || n == 3

def okInt3 (e : Engine) (d : SDst) (a b : SSrc) : Bool := hasInt e && okDst e d && okSrc e a && okSrc e b
def okInt2 (e : Engine) (d : SDst) (a : SSrc) : Bool := hasInt e && okDst e d && okSrc e a

def okAmo (e : Engine) (k : Ctl) (hint : Nat) (d : SDst) (a b : SSrc) : Bool :=
  e == .mem && okCtl e k && okHint hint && okDst e d && okSrc e a && okSrc e b
def okRed (e : Engine) (k : Ctl) (o : Ord) (hint : Nat) (a b : SSrc) : Bool :=
  e == .mem && okCtl e k && okRedOrd o && okHint hint && okSrc e a && okSrc e b
def okVamo (e : Engine) (k : Ctl) (hint : Nat) (d : Nat) (a : SSrc) (b : VIdx) : Bool :=
  e == .mem && okCtl e k && okHint hint && d < 384 && okSrc e a && okVIdx b &&
    sameCluster (some (d / 128)) (clusterVIdx b)

end Machine
end Sys2Proof
end

