-- ==== Sys2Proof/WellFormed.lean ====
section
/-! DEFINITION. wellFormed: which instructions an engine accepts. -/

namespace Sys2Proof
open Machine

/-- The instruction belongs to the engine's map and every field is one the encoding accepts
(R62 to R83, the check of order 3 of R73). Events carry no encoding and are well formed. -/
def wellFormed (e : Engine) (i : Instr) : Bool :=
  match i with
  | .nop => true
  | .ret => true
  | .halt => true
  | .endl => true
  | .brReg a => okSrc e a
  | .callReg a => okSrc e a
  | .chk a => okSrc e a
  | .trap n => n < 1024
  | .bkpt n => n < 1024
  | .rdcr d cr => okDst e d && okCr e cr
  | .wrcr cr a => okCrW e cr && okSrc e a
  | .semw n => n < 32
  | .semp n => n < 32
  | .br p slot line => okBrPred e p && okTgt slot line
  | .brc p _ a slot line => okBrPred e p && okSrc e a && okTgt slot line
  | .call p slot line => okBrPred e p && okTgt slot line
  | .loopReg k a => okCtl e k && okSrc e a
  | .loopImm k _ => okCtl e k
  | .semwL64 k n => okCtl e k && n < 32
  | .sempL64 k n => okCtl e k && n < 32
  | .nopL64 k => okCtl e k
  | .add d a b sh => okInt3 e d a b && sh < 32
  | .sub d a b sh => okInt3 e d a b && sh < 32
  | .mul d a b => okInt3 e d a b
  | .mulh d a b => okInt3 e d a b
  | .mulhu d a b => okInt3 e d a b
  | .div d a b => okInt3 e d a b
  | .divu d a b => okInt3 e d a b
  | .rem d a b => okInt3 e d a b
  | .remu d a b => okInt3 e d a b
  | .and d a b => okInt3 e d a b
  | .or d a b => okInt3 e d a b
  | .xor d a b => okInt3 e d a b
  | .andn d a b => okInt3 e d a b
  | .shl d a b => okInt3 e d a b
  | .shr d a b => okInt3 e d a b
  | .sar d a b => okInt3 e d a b
  | .rotr d a b => okInt3 e d a b
  | .min d a b => okInt3 e d a b
  | .minu d a b => okInt3 e d a b
  | .max d a b => okInt3 e d a b
  | .maxu d a b => okInt3 e d a b
  | .clz d a => okInt2 e d a
  | .ctz d a => okInt2 e d a
  | .popc d a => okInt2 e d a
  | .cmp _ d a b => okInt3 e d a b
  | .mov d a => okInt2 e d a
  | .addi d a _ => okInt2 e d a
  | .andi d a _ => okInt2 e d a
  | .ori d a _ => okInt2 e d a
  | .xori d a _ => okInt2 e d a
  | .shlImm d a n => okInt2 e d a && n < 64
  | .shrImm d a n => okInt2 e d a && n < 64
  | .sarImm d a n => okInt2 e d a && n < 64
  | .rotrImm d a n => okInt2 e d a && n < 64
  | .movi k d _ => hasInt e && okCtl e k && okDst e d
  | .moviHi k d _ => hasInt e && okCtl e k && okRmw e d
  | .addiX96 k d a _ => okCtl e k && okInt2 e d a
  | .andiX96 k d a _ => okCtl e k && okInt2 e d a
  | .oriX96 k d a _ => okCtl e k && okInt2 e d a
  | .xoriX96 k d a _ => okCtl e k && okInt2 e d a
  | .ext k _ d a pos width => okCtl e k && okInt2 e d a && pos < 64 && 1 ≤ width && pos + width ≤ 64
  | .ins k d a pos width => hasInt e && okCtl e k && okRmw e d && okSrc e a && pos < 64 && 1 ≤ width && pos + width ≤ 64
  | .sel k d a b c => okCtl e k && okInt3 e d a b && okSrc e c
  | .lds k size _ _ hint d a _ => e == .seq && okCtl e k && okSize size && okHint hint && okS d && okS a
  | .sts k size _ hint a b _ => e == .seq && okCtl e k && okSize size && okHint hint && okS a && okS b
  | .qpush k q a => e == .seq && okCtl e k && q < 3 && okS a
  | .qpop k d => e == .seq && okCtl e k && okS d
  | .fork k eng sem a slot line => e == .seq && okCtl e k && 1 ≤ eng && eng ≤ 3 && sem < 32 && okS a && okTgt slot line
  | .launch k d a => e == .seq && okCtl e k && okS d && okS a
  | .waitch k d a => e == .seq && okCtl e k && okS d && okS a
  | .exit k a => e == .seq && okCtl e k && okS a
  | .yield k d => e == .seq && okCtl e k && okS d
  | .rdid k d sel => e == .seq && okCtl e k && okS d && sel < 10
  | .hintRem k a => e == .seq && okCtl e k && okS a
  | .cba k d bar count => e == .seq && okCtl e k && okS d && bar < 16 && 1 ≤ count && count ≤ 8
  | .cbw k d a bar => e == .seq && okCtl e k && okS d && okS a && bar < 16
  | .gbar k d => e == .seq && okCtl e k && okS d
  | .watch k a => e == .seq && okCtl e k && okS a
  | .mwait k d a => e == .seq && okCtl e k && okS d && okS a
  | .cqPut k q a cpost => e == .seq && okCtl e k && q < 2 && okS a && okSem cpost
  | .cqMcast k q a cpost => e == .seq && okCtl e k && q < 2 && okS a && okSem cpost
  | .cqFence k q mask cpost => e == .seq && okCtl e k && q < 2 && 1 ≤ mask && mask ≤ 3 && okSem cpost
  | .lda k size _ acq sp hint d a _ => e == .mem && okCtl e k && okSize size && okAcq acq sp && okHint hint && okDst e d && okSrc e a
  | .sta k size rel sp hint a b _ => e == .mem && okCtl e k && okSize size && okAcq rel sp && okHint hint && okSrc e a && okSrc e b
  | .vld k acq sp hint d a _ => e == .mem && okCtl e k && okAcq acq sp && okHint hint && okMVDst d && okSrc e a
  | .vst k rel sp hint d a _ => e == .mem && okCtl e k && okAcq rel sp && okHint hint && okMVSrc d && okSrc e a
  | .vlds k size acq sp hint d a _ => e == .mem && okCtl e k && okSize size && okAcq acq sp && okHint hint && okMVDst d && okSrc e a
  | .vsts k size rel sp hint d a _ => e == .mem && okCtl e k && okSize size && okAcq rel sp && okHint hint && okMVSrc d && okSrc e a
  | .vgath k size acq sp hint d a b => e == .mem && okCtl e k && okSize23 size && okAcq acq sp && okHint hint && okMVDst d && okSrc e a && okVIdx b &&
      sameCluster (clusterMVDst d) (clusterVIdx b)
  | .vscat k size rel sp hint d a b => e == .mem && okCtl e k && okSize23 size && okAcq rel sp && okHint hint && okMVSrc d && okSrc e a && okVIdx b &&
      sameCluster (clusterMVSrc d) (clusterVIdx b)
  | .tld k acq sp hint d a b => e == .mem && okCtl e k && okAcq acq sp && okHint hint && okTile d && okSrc e a && okSrc e b
  | .tst k rel sp hint d a b => e == .mem && okCtl e k && okAcq rel sp && okHint hint && okTile d && okSrc e a && okSrc e b
  | .ldS k size _ _ hint d a _ => e == .mem && okCtl e k && okSize size && okHint hint && okDst e d && okSrc e a
  | .rspSt k hint d a b _ => e == .mem && okCtl e k && okHint hint && okMVSrc d && okSrc e a && okSrc e b
  | .pref k hint a _ => e == .mem && okCtl e k && okHint hint && okSrc e a
  | .fenceAcq k => e == .mem && okCtl e k
  | .fenceRel k => e == .mem && okCtl e k
  | .fenceSc k => e == .mem && okCtl e k
  | .acqr k a b => e == .mem && okCtl e k && okSrc e a && okSrc e b
  | .cwb k a b => e == .mem && okCtl e k && okSrc e a && okSrc e b
  | .rowAct k a b => e == .mem && okCtl e k && okSrc e a && okSrc e b
  | .rowCon k d a quad => e == .mem && okCtl e k && okTile d && okSrc e a && quad < 32
  | .rowPut k d a quad => e == .mem && okCtl e k && okTile d && okSrc e a && quad < 32
  | .rowCon2 k d a b quad => e == .mem && okCtl e k && okTile d && okSrc e a && okSrc e b && quad < 31
  | .rowPre k a => e == .mem && okCtl e k && okSrc e a
  | .rowStat k d sel => e == .mem && okCtl e k && okDst e d && sel < 4
  | .rowWait k => e == .mem && okCtl e k
  | .amoAdd k size _ hint d a b => okAmo e k hint d a b && okSize23 size
  | .amoSub k size _ hint d a b => okAmo e k hint d a b && okSize23 size
  | .amoMin k size _ hint d a b => okAmo e k hint d a b && okSize23 size
  | .amoMax k size _ hint d a b => okAmo e k hint d a b && okSize23 size
  | .amoMinu k size _ hint d a b => okAmo e k hint d a b && okSize23 size
  | .amoMaxu k size _ hint d a b => okAmo e k hint d a b && okSize23 size
  | .amoAnd k size _ hint d a b => okAmo e k hint d a b && okSize23 size
  | .amoOr k size _ hint d a b => okAmo e k hint d a b && okSize23 size
  | .amoXor k size _ hint d a b => okAmo e k hint d a b && okSize23 size
  | .amoSwp k size _ hint d a b => okAmo e k hint d a b && okSize23 size
  | .amoCas k size _ hint d a b => okAmo e k hint (.reg d) a b && okSize23 size
  | .amoFadd k _ _ hint d a b => okAmo e k hint d a b
  | .amoFmin k _ _ hint d a b => okAmo e k hint d a b
  | .amoFmax k _ _ hint d a b => okAmo e k hint d a b
  | .acas128 k _ hint d a b => okAmo e k hint (.reg d) a (.reg b) && d % 2 == 0 && b % 2 == 0
  | .redAdd k size o hint a b => okRed e k o hint a b && okSize23 size
  | .redSub k size o hint a b => okRed e k o hint a b && okSize23 size
  | .redMin k size o hint a b => okRed e k o hint a b && okSize23 size
  | .redMax k size o hint a b => okRed e k o hint a b && okSize23 size
  | .redMinu k size o hint a b => okRed e k o hint a b && okSize23 size
  | .redMaxu k size o hint a b => okRed e k o hint a b && okSize23 size
  | .redAnd k size o hint a b => okRed e k o hint a b && okSize23 size
  | .redOr k size o hint a b => okRed e k o hint a b && okSize23 size
  | .redXor k size o hint a b => okRed e k o hint a b && okSize23 size
  | .redFadd k _ o hint a b => okRed e k o hint a b
  | .redFmin k _ o hint a b => okRed e k o hint a b
  | .redFmax k _ o hint a b => okRed e k o hint a b
  | .vamoAdd k size _ hint d a b => okVamo e k hint d a b && okSize23 size
  | .vamoSub k size _ hint d a b => okVamo e k hint d a b && okSize23 size
  | .vamoMin k size _ hint d a b => okVamo e k hint d a b && okSize23 size
  | .vamoMax k size _ hint d a b => okVamo e k hint d a b && okSize23 size
  | .vamoMinu k size _ hint d a b => okVamo e k hint d a b && okSize23 size
  | .vamoMaxu k size _ hint d a b => okVamo e k hint d a b && okSize23 size
  | .vamoAnd k size _ hint d a b => okVamo e k hint d a b && okSize23 size
  | .vamoOr k size _ hint d a b => okVamo e k hint d a b && okSize23 size
  | .vamoXor k size _ hint d a b => okVamo e k hint d a b && okSize23 size
  | .vamoSwp k size _ hint d a b => okVamo e k hint d a b && okSize23 size
  | .vamoFadd k _ _ hint d a b => okVamo e k hint d a b
  | .vamoFmin k _ _ hint d a b => okVamo e k hint d a b
  | .vamoFmax k _ _ hint d a b => okVamo e k hint d a b
  | .vadd k t d a b => e == .vec && okLane k && fI t && okVTwo d a b
  | .vsub k t d a b => e == .vec && okLane k && fI t && okVTwo d a b
  | .vmul k t d a b => e == .vec && okLane k && fI t && okVTwo d a b
  | .vmin k t d a b => e == .vec && okLane k && fI t && okVTwo d a b
  | .vmax k t d a b => e == .vec && okLane k && fI t && okVTwo d a b
  | .vfma k t d a b => e == .vec && okLane k && fI t && okVRmw d a b
  | .vfms k t d a b => e == .vec && okLane k && fI t && okVRmw d a b
  | .vfnma k t d a b => e == .vec && okLane k && fI t && okVRmw d a b
  | .vabs k t d a => e == .vec && okLane k && (t.isVFloat || t.isSigned) && okVOne d a
  | .vneg k t d a => e == .vec && okLane k && (t.isVFloat || t.isSigned) && okVOne d a
  | .vadds k t d a b => e == .vec && okLane k && t.isInt && okVTwo d a b
  | .vsubs k t d a b => e == .vec && okLane k && t.isInt && okVTwo d a b
  | .vmulh k t d a b => e == .vec && okLane k && t.isInt && okVTwo d a b
  | .vdiv k t d a b => e == .vec && okLane k && t.isVFloat && okVTwo d a b
  | .vsqrt k t d a => e == .vec && okLane k && t.isVFloat && okVOne d a
  | .vrcp k t d a => e == .vec && okLane k && okQWide t && okVOne d a
  | .vrsq k t d a => e == .vec && okLane k && okQWide t && okVOne d a
  | .vexp2 k t d a => e == .vec && okLane k && okQWide t && okVOne d a
  | .vlog2 k t d a => e == .vec && okLane k && okQWide t && okVOne d a
  | .vsinp k t d a => e == .vec && okLane k && okQWide t && okVOne d a
  | .vcosp k t d a => e == .vec && okLane k && okQWide t && okVOne d a
  | .vcvt k td ts part d a => e == .vec && okLane k && td != .e8m0 && ts != .e8m0 && !(td == .e2m1 && ts == .e2m1) &&
      part < convRatio td ts && okVOne d a
  | .vqnt k td ts part d a s => e == .vec && okPlain k && okQWide ts && okQNarrow td && part < convRatio td ts && okVOne d a && okDst e s
  | .vdqnt k td ts part d a s => e == .vec && okPlain k && okQWide td && okQNarrow ts && part < convRatio td ts && okVOne d a && okSrc e s
  | .vand k t d a b => e == .vec && okLane k && t.isInt && okVTwo d a b
  | .vor k t d a b => e == .vec && okLane k && t.isInt && okVTwo d a b
  | .vxor k t d a b => e == .vec && okLane k && t.isInt && okVTwo d a b
  | .vshl k t d a b => e == .vec && okLane k && t.isInt && okVTwo d a b
  | .vshr k t d a b => e == .vec && okLane k && t.isInt && okVTwo d a b
  | .vsar k t d a b => e == .vec && okLane k && t.isInt && okVTwo d a b
  | .vnot k t d a => e == .vec && okLane k && t.isInt && okVOne d a
  | .vclz k t d a => e == .vec && okLane k && t.isInt && okVOne d a
  | .vpopc k t d a => e == .vec && okLane k && t.isInt && okVOne d a
  | .vmov k t d a => e == .vec && okLane k && bitT t && okVDst d && okVSrc a
  | .vbcast k t d a => e == .vec && okLane k && bitT t && okVDst d && okSrc e a
  | .vextr k t d a b => e == .vec && okPlain k && bitT t && okDst e d && okVSrc a && okSrc e b
  | .vins k t d a b => e == .vec && okPlain k && bitT t && d < 384 && okSrc e a && okSrc e b
  | .vcmp k _ t d a b => e == .vec && okLane k && fI t && okMaskD d && okVSrc a && okVSrc b && sameCluster (clusterVSrc a) (clusterVSrc b)
  | .vsel k t d a b m => e == .vec && okLane k && bitT t && okVTwo d a b && okMask m
  | .kand k d a b => e == .vec && okPlain k && okMaskD d && okMask a && okMask b
  | .kor k d a b => e == .vec && okPlain k && okMaskD d && okMask a && okMask b
  | .kxor k d a b => e == .vec && okPlain k && okMaskD d && okMask a && okMask b
  | .knot k d a => e == .vec && okPlain k && okMaskD d && okMask a
  | .kpop k d a => e == .vec && okPlain k && okDst e d && okMask a
  | .kmovMask k d a => e == .vec && okPlain k && okMaskD d && okMask a
  | .kmovFromVector k d a => e == .vec && okPlain k && okMaskD d && okVSrc a
  | .kmovToVector k d a => e == .vec && okPlain k && okVDst d && okMask a
  | .vshuf k hi t d a b => e == .vec && okLane k && bitT t && (!hi || t.width == 8) && okVTwo d a b
  | .vxswp k t d a dist => e == .vec && okLane k && bitT t && okVOne d a && 1 ≤ dist && dist < t.lanes
  | .vrot k t d a b => e == .vec && okLane k && bitT t && okVOne d a && okSrc e b
  | .vredsum k t d a => e == .vec && okLane k && fI t && okDst e d && okVSrc a
  | .vredmax k t d a => e == .vec && okLane k && fI t && okDst e d && okVSrc a
  | .vredmin k t d a => e == .vec && okLane k && fI t && okDst e d && okVSrc a
  | .vscan k t d a => e == .vec && okLane k && fI t && d < 384 && okVSrc a && sameCluster (some (d / 128)) (clusterVSrc a)
  | .vvoteAny k t d a => e == .vec && okLane k && bitT t && okDst e d && okVSrc a
  | .vvoteAll k t d a => e == .vec && okLane k && bitT t && okDst e d && okVSrc a
  | .vvoteBallot k t d a => e == .vec && okLane k && bitT t && okMaskD d && okVSrc a
  | .vcompress k t d a m => e == .vec && okPlain k && bitT t && okVOne d a && okMask m
  | .vexpand k t d a m => e == .vec && okPlain k && bitT t && d < 384 && okVSrc a && sameCluster (some (d / 128)) (clusterVSrc a) && okMask m
  | .vbperm k d a pat => e == .vec && okPlain k && okVOne d a && pat < 8
  | .vbpload k pat a part => e == .vec && okPlain k && pat < 8 && okVSrc a && part < 4
  | .tset k acc d a => e == .mtx && okCtl e k && (if acc then okAcc d else okTile d) && okSrc e a
  | .tget k acc d a => e == .mtx && okCtl e k && okDst e d && (if acc then okAcc a else okTile a)
  | .tzero k d => e == .mtx && okCtl e k && okTile d
  | .azero k d => e == .mtx && okCtl e k && okAcc d
  | .tmov k d a => e == .mtx && okCtl e k && okTile d && okTile a
  | .ttr k d a => e == .mtx && okCtl e k && okTile d && okTile a
  | .tcvt k d a => e == .mtx && okCtl e k && okTile d && okTile a
  | .tacc k d a => e == .mtx && okCtl e k && okTile d && okAcc a
  | .atile k d a => e == .mtx && okCtl e k && okAcc d && okTile a
  | .mma k _ d a b => e == .mtx && okCtl e k && okAcc d && okTile a && okTile b
  | .mmaP k _ d a b => e == .mtx && okCtl e k && okAcc d && okTile a && okTile b
  | .mmaSp k _ n d a b => e == .mtx && okCtl e k && n < 4 && okAcc d && okTile a && okTile b
  | .mfence k => e == .mtx && okCtl e k
  | .retire _ _ => true
  | .lineFetch _ _ => true
  | .accessClear _ _ => true
  | .loadReturn _ _ => true
  | .llcFill _ => true
  | .migIntervalExpiry => true
  | .coreStoreRequest _ _ _ => true
  | .coreReadRequest _ _ _ => true
  | .ioCoherentWrite _ _ _ => true
  | .ioCoherentRead _ _ _ => true
  | .revocation _ _ => true
  | .revocationAnswer _ _ => true
  | .forwardRequest _ _ => true
  | .forwardAnswer _ _ => true
  | .writeBack _ _ => true
  | .registrationAnswer _ _ => true
  | .writeBackAck _ _ => true
  | .mwaitWake _ => true
  | .mwaitTimeout _ => true
  | .cbwComplete _ => true
  | .gbarPhaseComplete _ _ => true
  | .waitchComplete _ => true
  | .fenceComplete _ => true
  | .rowActComplete _ _ => true
  | .rowPreComplete _ _ => true
  | .leaseExpiry _ _ => true
  | .refreshDue _ _ => true
  | .refreshEnd _ _ => true
  | .tempHot _ => true
  | .tempNormal _ => true
  | .activationWindowSet _ => true
  | .matrixIssueGapSet _ => true
  | .tileEccError _ _ => true
  | .stateEcc _ => true
  | .teamStart _ => true
  | .contextRestore _ => true
  | .streamRestart _ => true
  | .contextSave _ => true
  | .teamRetire _ _ _ => true
  | .launchRetire _ => true
  | .teamStop _ => true
  | .trapDrainLimit _ => true
  | .watchdog _ _ => true
  | .sliceExpiry _ _ => true
  | .placementRound => true
  | .gangSteal _ _ _ => true
  | .schedulerHeartbeat _ => true
  | .schedAdopt _ => true
  | .schedulerReturn _ => true
  | .workerFailover _ => true
  | .quartzMismatch _ => true
  | .quartzRestart => true
  | .dispQwptr _ _ => true
  | .dispQctl _ _ => true
  | .packetCopy _ => true
  | .childDispatch _ _ => true
  | .tokenTick => true
  | .openPkt _ _ _ => true
  | .opened _ _ _ _ _ => true
  | .req _ => true
  | .homeCommit _ _ => true
  | .reply _ _ _ _ _ _ => true
  | .ack _ _ _ => true
  | .acked _ _ _ => true
  | .close _ _ _ => true
  | .closed _ _ => true
  | .closeAll _ => true
  | .ackTimer _ => true
  | .retransmit _ _ => true
  | .rouRecovery => true
  | .requesterHubReset => true
  | .remoteLoad _ _ _ => true
  | .fabPkgLost _ => true
  | .fabAgeDrop _ _ => true
  | .fabPortDown _ _ => true
  | .fabPortUp _ _ => true
  | .copyPiece _ _ _ => true
  | .allot _ => true
  | .reclaim _ => true
  | .isolate _ => true
  | .rejoin _ _ => true
  | .loadimg _ => true
  | .unloadimg _ => true
  | .resume _ => true
  | .kill _ => true
  | .pageResume _ => true
  | .pageDecline _ => true
  | .enroll _ => true
  | .disable _ => true
  | .extend _ => true
  | .modreg _ => true
  | .modunreg _ => true
  | .chunkVerify _ _ _ => true
  | .loadimgTimeout _ => true
  | .shootdownUnmap => true
  | .shootdownWrprotect => true
  | .shootdownInval => true
  | .shootdownDone => true
  | .migRingRptr _ => true
  | .migRingCtl _ => true
  | .migRingBase _ => true
  | .trapRptr _ => true
  | .galenaFlush _ _ => true
  | .galenaFlushDone _ => true
  | .registerWrite _ _ _ _ => true
  | .hostReadShared _ => true
  | .hostReadExclusive _ => true
  | .hostWriteBack _ _ => true
  | .hostSnoopAnswer _ _ => true
  | .slateRecallLost _ => true
  | .slateTimeout _ _ => true
  | .linkUp _ _ _ => true
  | .linkWakeSlow _ _ => true
  | .stackLost _ => true
  | .moduleRetrain _ _ _ => true
  | .coreFailure _ => true
  | .coldReset _ _ => true
  | .warmReset _ => true
  | .getVersion => true
  | .getCapabilities => true
  | .negotiateAlgorithms _ => true
  | .getDigests => true
  | .getCertificate _ => true
  | .challenge _ _ => true
  | .getMeasurements _ => true
  | .spdmUnsupported _ => true
  | .registerUncorrectableError _ _ => true
  | .incomingRspStWrite _ => true
  | .apertureStoreDelivered _ _ => true
  | .refreshStart _ _ => true

end Sys2Proof
end

