-- ==== Sys2Proof/Decode.lean ====
section
/-! DEFINITION. Instruction words: the encoder, the decoder with the named rejections of R73, and words as bytes. -/

namespace Sys2Proof
open Machine

/-- Why a word is not an instruction, in the order of R73. -/
inductive Reject where
  /-- Bits [1:0] are 0b11, or the instruction runs past FILL. -/
  | length
  /-- The opcode is unassigned in the map for this length. -/
  | opcode
  /-- A field holds a value that the instruction does not accept. -/
  | field
  deriving DecidableEq, Repr

/-- The fields of an L64 or X96 instruction (R65, R67); `c` and `b` are also read through L64-M (R66). -/
structure Raw where
  ctl : Ctl
  a : Nat
  d : Nat
  hint : Nat
  c : Nat
  b : Nat
  cond : Nat
  slot : Nat
  line : Nat
  lit : Nat
  deriving DecidableEq, Repr

namespace Machine

/-- The five operand fields of S32-R (R64). -/
def r32 (f b a d op : Nat) : Nat := f * 2 ^ 27 + b * 2 ^ 21 + a * 2 ^ 15 + d * 2 ^ 9 + op * 4

/-- S32-I: IMM11 lies in bits [31:21] (R64). -/
def i32 (imm a d op : Nat) : Nat := imm * 2 ^ 21 + a * 2 ^ 15 + d * 2 ^ 9 + op * 4

/-- Word 0 of R65. -/
def w0Of (p : Pred) (a d op len : Nat) : Nat :=
  p.neg.toNat * 2 ^ 31 + p.idx * 2 ^ 28 + a * 2 ^ 19 + d * 2 ^ 10 + op * 4 + len

/-- An enable bit above a semaphore number. -/
def semBits : Option Nat → Nat
  | none => 0
  | some n => 32 + n

/-- Word 1 of R65. -/
def w1Of (k : Ctl) (hint c b : Nat) : Nat :=
  hint * 2 ^ 30 + semBits k.post * 2 ^ 24 + semBits k.wait * 2 ^ 18 + c * 2 ^ 9 + b

def l64 (k : Ctl) (a d op hint c b : Nat) : List Nat := [w0Of k.pred a d op 1, w1Of k hint c b]
def x96 (k : Ctl) (a d op hint c b lit : Nat) : List Nat := [w0Of k.pred a d op 2, w1Of k hint c b, lit]

/-- L64-B (R67). -/
def lB (p : Pred) (a op cond slot line : Nat) : List Nat :=
  [w0Of p a 0 op 1, cond * 2 ^ 28 + slot * 2 ^ 24 + line]

/-- C of L64-M (R66). -/
def cM (subf ord space size : Nat) : Nat := subf * 128 + ord * 16 + space * 8 + size

def sv (e : Engine) : SSrc → Nat
  | .reg n => n | .qs => qsCode e
def dv (e : Engine) : SDst → Nat
  | .reg n => n | .qr => qrCode e
def srcOf (e : Engine) (n : Nat) : SSrc := if n = qsCode e ∧ e ≠ .seq then .qs else .reg n
def dstOf (e : Engine) (n : Nat) : SDst := if n = qrCode e ∧ e ≠ .seq then .qr else .reg n

def vsv : VSrc → Nat
  | .reg n => n | .lq n => 384 + n | .zero => 390 | .lane => 391
def vsOf (n : Nat) : VSrc :=
  if n = 390 then .zero else if n = 391 then .lane else if 384 ≤ n ∧ n < 388 then .lq (n - 384) else .reg n
def vdv : VDst → Nat
  | .reg n => n | .sq n => 388 + n
def vdOf (n : Nat) : VDst := if n = 388 ∨ n = 389 then .sq (n - 388) else .reg n

def mvdD : MVDst → Nat
  | .reg n => n | .lq n => n
def mvdSub : MVDst → Nat
  | .reg _ => 0 | .lq _ => 1
def mvdOf (sub n : Nat) : MVDst := if sub = 1 then .lq n else .reg n
def mvsD : MVSrc → Nat
  | .reg n => n | .sq n => n | .zero => 390 | .lane => 391
def mvsSub : MVSrc → Nat
  | .sq _ => 1 | _ => 0
def mvsOf (sub n : Nat) : MVSrc :=
  if sub = 1 then .sq n else if n = 390 then .zero else if n = 391 then .lane else .reg n
def vix : VIdx → Nat
  | .reg n => n | .zero => 390 | .lane => 391
def vixOf (n : Nat) : VIdx := if n = 390 then .zero else if n = 391 then .lane else .reg n

def spCode : Space → Nat
  | .global => 0 | .spm => 1
def ordCode : Ord → Nat
  | .rlx => 0 | .acq => 1 | .rel => 2 | .ar => 3 | .sc => 4
def ordOf (n : Nat) : Ord :=
  if n = 1 then .acq else if n = 2 then .rel else if n = 3 then .ar else if n = 4 then .sc else .rlx
def amoSub : AmoF → Nat
  | .f16x2 => 1 | .bf16x2 => 2 | _ => 0
def amoSize : AmoF → Nat
  | .f64 => 3 | _ => 2
def condCode : Cond → Nat
  | .eq => 0 | .ne => 1 | .lt => 2 | .ge => 3 | .le => 4 | .gt => 5
def condOf (n : Nat) : Cond :=
  if n = 1 then .ne else if n = 2 then .lt else if n = 3 then .ge else if n = 4 then .le
  else if n = 5 then .gt else .eq
def cmpCode : CmpCond → Nat
  | .eq => 0 | .ne => 1 | .lt => 2 | .ge => 3 | .le => 4 | .gt => 5 | .ltu => 6 | .geu => 7 | .leu => 8 | .gtu => 9
def cmpOf (n : Nat) : Option CmpCond :=
  match n with
  | 0 => some .eq | 1 => some .ne | 2 => some .lt | 3 => some .ge | 4 => some .le | 5 => some .gt
  | 6 => some .ltu | 7 => some .geu | 8 => some .leu | 9 => some .gtu | _ => none

/-- C[3] and C[8:4] of the copy-queue instructions (R358). -/
def cpostBits : Option Nat → Nat
  | none => 0 | some n => 8 + 16 * n
def cpostOf (c : Nat) : Option Nat := if c / 8 % 2 = 1 then some (c / 16) else none

/-- An enable bit and a semaphore number, read back (R65). -/
def semOf (n : Nat) : Option Nat := if n / 32 % 2 = 1 then some (n % 32) else none

end Machine

/-- The fields of word 0, word 1 and the literal (R65, R67). -/
def rawOf (w0 w1 lit : Nat) : Raw :=
  { ctl := { pred := { idx := w0 / 2 ^ 28 % 8, neg := w0 / 2 ^ 31 % 2 == 1 },
             wait := semOf (w1 / 2 ^ 18 % 64), post := semOf (w1 / 2 ^ 24 % 64) },
    a := w0 / 2 ^ 19 % 512, d := w0 / 2 ^ 10 % 512,
    hint := w1 / 2 ^ 30 % 4, c := w1 / 2 ^ 9 % 512, b := w1 % 512,
    cond := w1 / 2 ^ 28 % 16, slot := w1 / 2 ^ 24 % 16, line := w1 % 2 ^ 24, lit := lit }

/-- SUBF, ORD, SPACE and SIZE of L64-M (R66). -/
def Raw.subf (r : Raw) : Nat := r.c / 128
def Raw.ord (r : Raw) : Ord := ordOf (r.c / 16 % 8)
def Raw.isAcq (r : Raw) : Bool := r.c / 16 % 8 == 1
def Raw.isRel (r : Raw) : Bool := r.c / 16 % 8 == 2
def Raw.space (r : Raw) : Space := if r.c / 8 % 2 = 1 then .spm else .global
def Raw.size (r : Raw) : Nat := r.c % 8
def Raw.subOne (r : Raw) : Bool := r.subf == 1
/-- The float type of an atomic (R321). -/
def Raw.amoT (r : Raw) : AmoF :=
  if r.subf = 1 then .f16x2 else if r.subf = 2 then .bf16x2 else if r.size = 3 then .f64 else .f32
/-- C[3:0] as an element type (R82). -/
def Raw.ty (r : Raw) : ElemType := ElemType.ofCode (r.c % 16)

/-- An opcode has one length (R63). -/
def inForm (len form : Nat) (i : Instr) : Option Instr := if len = form then some i else none

/-- The words of a well-formed instruction in an engine's map (R64 to R67, R75 to R83 and the encoding tables of the
chapters). An event has no words (DEDUCED, log entry 61). -/
def encode (e : Engine) (i : Instr) : List Nat :=
  match i with
  | .nop => [r32 0 0 0 0 0x0]
  | .ret => [r32 0 0 0 0 0x1]
  | .halt => [r32 0 0 0 0 0x2]
  | .endl => [r32 0 0 0 0 0x3]
  | .brReg a => [r32 0 0 (sv e a) 0 0x4]
  | .callReg a => [r32 0 0 (sv e a) 0 0x5]
  | .chk a => [r32 0 0 (sv e a) 0 0x6]
  | .trap n => [i32 n 0 0 0x7]
  | .bkpt n => [i32 n 0 0 0x8]
  | .rdcr d cr => [i32 cr 0 (dv e d) 0x9]
  | .wrcr cr a => [i32 cr (sv e a) 0 0xa]
  | .semw n => [i32 n 0 0 0xb]
  | .semp n => [i32 n 0 0 0xc]
  | .add d a b sh => [r32 sh (sv e b) (sv e a) (dv e d) 0x10]
  | .sub d a b sh => [r32 sh (sv e b) (sv e a) (dv e d) 0x11]
  | .mul d a b => [r32 0 (sv e b) (sv e a) (dv e d) 0x12]
  | .mulh d a b => [r32 0 (sv e b) (sv e a) (dv e d) 0x13]
  | .mulhu d a b => [r32 0 (sv e b) (sv e a) (dv e d) 0x14]
  | .div d a b => [r32 0 (sv e b) (sv e a) (dv e d) 0x15]
  | .divu d a b => [r32 0 (sv e b) (sv e a) (dv e d) 0x16]
  | .rem d a b => [r32 0 (sv e b) (sv e a) (dv e d) 0x17]
  | .remu d a b => [r32 0 (sv e b) (sv e a) (dv e d) 0x18]
  | .and d a b => [r32 0 (sv e b) (sv e a) (dv e d) 0x19]
  | .or d a b => [r32 0 (sv e b) (sv e a) (dv e d) 0x1a]
  | .xor d a b => [r32 0 (sv e b) (sv e a) (dv e d) 0x1b]
  | .andn d a b => [r32 0 (sv e b) (sv e a) (dv e d) 0x1c]
  | .shl d a b => [r32 0 (sv e b) (sv e a) (dv e d) 0x1d]
  | .shr d a b => [r32 0 (sv e b) (sv e a) (dv e d) 0x1e]
  | .sar d a b => [r32 0 (sv e b) (sv e a) (dv e d) 0x1f]
  | .rotr d a b => [r32 0 (sv e b) (sv e a) (dv e d) 0x20]
  | .min d a b => [r32 0 (sv e b) (sv e a) (dv e d) 0x21]
  | .minu d a b => [r32 0 (sv e b) (sv e a) (dv e d) 0x22]
  | .max d a b => [r32 0 (sv e b) (sv e a) (dv e d) 0x23]
  | .maxu d a b => [r32 0 (sv e b) (sv e a) (dv e d) 0x24]
  | .clz d a => [r32 0 0 (sv e a) (dv e d) 0x25]
  | .ctz d a => [r32 0 0 (sv e a) (dv e d) 0x26]
  | .popc d a => [r32 0 0 (sv e a) (dv e d) 0x27]
  | .cmp cc d a b => [r32 (cmpCode cc) (sv e b) (sv e a) (dv e d) 0x28]
  | .mov d a => [r32 0 0 (sv e a) (dv e d) 0x29]
  | .addi d a imm => [i32 imm.toNat (sv e a) (dv e d) 0x2a]
  | .andi d a imm => [i32 imm.toNat (sv e a) (dv e d) 0x2b]
  | .ori d a imm => [i32 imm.toNat (sv e a) (dv e d) 0x2c]
  | .xori d a imm => [i32 imm.toNat (sv e a) (dv e d) 0x2d]
  | .shlImm d a n => [i32 n (sv e a) (dv e d) 0x2e]
  | .shrImm d a n => [i32 n (sv e a) (dv e d) 0x2f]
  | .sarImm d a n => [i32 n (sv e a) (dv e d) 0x30]
  | .rotrImm d a n => [i32 n (sv e a) (dv e d) 0x31]
  | .br p slot line => lB p 0 0x0 0 slot line
  | .brc p cc a slot line => lB p (sv e a) 0x1 (condCode cc) slot line
  | .call p slot line => lB p 0 0x2 0 slot line
  | .loopReg k a => l64 k (sv e a) 0 0x3 0 0 0
  | .loopImm k n => x96 k 0 0 0x4 0 0 0 n.toNat
  | .semwL64 k n => l64 k 0 0 0x5 0 n 0
  | .sempL64 k n => l64 k 0 0 0x6 0 n 0
  | .nopL64 k => l64 k 0 0 0x7 0 0 0
  | .movi k d lit => x96 k 0 (dv e d) 0x20 0 0 0 lit.toNat
  | .moviHi k d lit => x96 k 0 d 0x20 0 1 0 lit.toNat
  | .addiX96 k d a lit => x96 k (sv e a) (dv e d) 0x21 0 0 0 lit.toNat
  | .andiX96 k d a lit => x96 k (sv e a) (dv e d) 0x22 0 0 0 lit.toNat
  | .oriX96 k d a lit => x96 k (sv e a) (dv e d) 0x23 0 0 0 lit.toNat
  | .xoriX96 k d a lit => x96 k (sv e a) (dv e d) 0x24 0 0 0 lit.toNat
  | .ext k sx d a pos width => l64 k (sv e a) (dv e d) 0x25 0 (width + 128 * sx.toNat) pos
  | .ins k d a pos width => l64 k (sv e a) d 0x26 0 width pos
  | .sel k d a b c => l64 k (sv e a) (dv e d) 0x27 0 (sv e c) (sv e b)
  | .lds k size sx acq hint d a lit => x96 k a d 0x40 hint (cM sx.toNat acq.toNat 0 size) 0 lit.toNat
  | .sts k size rel hint a b lit => x96 k a 0 0x41 hint (cM 0 (2 * rel.toNat) 0 size) b lit.toNat
  | .qpush k q a => l64 k a 0 0x42 0 q 0
  | .qpop k d => l64 k 0 d 0x43 0 0 0
  | .fork k eng sem a slot line => x96 k a 0 0x44 0 (32 * eng + sem) 0 (slot * 2 ^ 24 + line)
  | .launch k d a => l64 k a d 0x45 0 0 0
  | .waitch k d a => l64 k a d 0x46 0 0 0
  | .exit k a => l64 k a 0 0x47 0 0 0
  | .yield k d => l64 k 0 d 0x48 0 0 0
  | .rdid k d sel => l64 k 0 d 0x49 0 sel 0
  | .hintRem k a => l64 k a 0 0x4a 0 0 0
  | .cba k d bar count => l64 k 0 d 0x4b 0 (16 * count + bar) 0
  | .cbw k d a bar => l64 k a d 0x4c 0 bar 0
  | .gbar k d => l64 k 0 d 0x4d 0 0 0
  | .watch k a => l64 k a 0 0x4e 0 0 0
  | .mwait k d a => l64 k a d 0x4f 0 0 0
  | .cqPut k q a cpost => l64 k a 0 0x50 0 (q + cpostBits cpost) 0
  | .cqMcast k q a cpost => l64 k a 0 0x51 0 (q + cpostBits cpost) 0
  | .cqFence k q mask cpost => l64 k 0 0 0x52 0 (q + 2 * mask + cpostBits cpost) 0
  | .lda k size sx acq sp hint d a lit => x96 k (sv e a) (dv e d) 0x40 hint (cM sx.toNat acq.toNat (spCode sp) size) 0 lit.toNat
  | .sta k size rel sp hint a b lit => x96 k (sv e a) 0 0x41 hint (cM 0 (2 * rel.toNat) (spCode sp) size) (sv e b) lit.toNat
  | .vld k acq sp hint d a lit => x96 k (sv e a) (mvdD d) 0x42 hint (cM (mvdSub d) acq.toNat (spCode sp) 5) 0 lit.toNat
  | .vst k rel sp hint d a lit => x96 k (sv e a) (mvsD d) 0x43 hint (cM (mvsSub d) (2 * rel.toNat) (spCode sp) 5) 0 lit.toNat
  | .vlds k size acq sp hint d a lit => x96 k (sv e a) (mvdD d) 0x44 hint (cM (mvdSub d) acq.toNat (spCode sp) size) 0 lit.toNat
  | .vsts k size rel sp hint d a lit => x96 k (sv e a) (mvsD d) 0x45 hint (cM (mvsSub d) (2 * rel.toNat) (spCode sp) size) 0 lit.toNat
  | .vgath k size acq sp hint d a b => l64 k (sv e a) (mvdD d) 0x46 hint (cM (mvdSub d) acq.toNat (spCode sp) size) (vix b)
  | .vscat k size rel sp hint d a b => l64 k (sv e a) (mvsD d) 0x47 hint (cM (mvsSub d) (2 * rel.toNat) (spCode sp) size) (vix b)
  | .tld k acq sp hint d a b => l64 k (sv e a) d 0x48 hint (cM 0 acq.toNat (spCode sp) 5) (sv e b)
  | .tst k rel sp hint d a b => l64 k (sv e a) d 0x49 hint (cM 0 (2 * rel.toNat) (spCode sp) 5) (sv e b)
  | .ldS k size sx sp hint d a lit => x96 k (sv e a) (dv e d) 0x4a hint (cM sx.toNat 0 (spCode sp) size) 0 lit.toNat
  | .rspSt k hint d a b lit => x96 k (sv e a) (mvsD d) 0x4b hint (cM (mvsSub d) 0 1 5) (sv e b) lit.toNat
  | .pref k hint a lit => x96 k (sv e a) 0 0x4c hint 0 0 lit.toNat
  | .fenceAcq k => l64 k 0 0 0x4d 0 16 0
  | .fenceRel k => l64 k 0 0 0x4d 0 32 0
  | .fenceSc k => l64 k 0 0 0x4d 0 64 0
  | .acqr k a b => l64 k (sv e a) 0 0x4e 0 0 (sv e b)
  | .cwb k a b => l64 k (sv e a) 0 0x4f 0 0 (sv e b)
  | .rowAct k a b => l64 k (sv e a) 0 0x50 0 0 (sv e b)
  | .rowCon k d a quad => l64 k (sv e a) d 0x51 0 quad 0
  | .rowPut k d a quad => l64 k (sv e a) d 0x53 0 quad 0
  | .rowCon2 k d a b quad => l64 k (sv e a) d 0x52 0 quad (sv e b)
  | .rowPre k a => l64 k (sv e a) 0 0x54 0 0 0
  | .rowStat k d sel => l64 k 0 (dv e d) 0x55 0 sel 0
  | .rowWait k => l64 k 0 0 0x56 0 0 0
  | .amoAdd k size o hint d a b => l64 k (sv e a) (dv e d) 0x60 hint (cM 0 (ordCode o) 0 size) (sv e b)
  | .amoSub k size o hint d a b => l64 k (sv e a) (dv e d) 0x61 hint (cM 0 (ordCode o) 0 size) (sv e b)
  | .amoMin k size o hint d a b => l64 k (sv e a) (dv e d) 0x62 hint (cM 0 (ordCode o) 0 size) (sv e b)
  | .amoMax k size o hint d a b => l64 k (sv e a) (dv e d) 0x63 hint (cM 0 (ordCode o) 0 size) (sv e b)
  | .amoMinu k size o hint d a b => l64 k (sv e a) (dv e d) 0x64 hint (cM 0 (ordCode o) 0 size) (sv e b)
  | .amoMaxu k size o hint d a b => l64 k (sv e a) (dv e d) 0x65 hint (cM 0 (ordCode o) 0 size) (sv e b)
  | .amoAnd k size o hint d a b => l64 k (sv e a) (dv e d) 0x66 hint (cM 0 (ordCode o) 0 size) (sv e b)
  | .amoOr k size o hint d a b => l64 k (sv e a) (dv e d) 0x67 hint (cM 0 (ordCode o) 0 size) (sv e b)
  | .amoXor k size o hint d a b => l64 k (sv e a) (dv e d) 0x68 hint (cM 0 (ordCode o) 0 size) (sv e b)
  | .amoSwp k size o hint d a b => l64 k (sv e a) (dv e d) 0x69 hint (cM 0 (ordCode o) 0 size) (sv e b)
  | .amoCas k size o hint d a b => l64 k (sv e a) d 0x6a hint (cM 0 (ordCode o) 0 size) (sv e b)
  | .amoFadd k t o hint d a b => l64 k (sv e a) (dv e d) 0x6b hint (cM (amoSub t) (ordCode o) 0 (amoSize t)) (sv e b)
  | .amoFmin k t o hint d a b => l64 k (sv e a) (dv e d) 0x6c hint (cM (amoSub t) (ordCode o) 0 (amoSize t)) (sv e b)
  | .amoFmax k t o hint d a b => l64 k (sv e a) (dv e d) 0x6d hint (cM (amoSub t) (ordCode o) 0 (amoSize t)) (sv e b)
  | .acas128 k o hint d a b => l64 k (sv e a) d 0x6e hint (cM 0 (ordCode o) 0 4) b
  | .redAdd k size o hint a b => l64 k (sv e a) 0 0x70 hint (cM 0 (ordCode o) 0 size) (sv e b)
  | .redSub k size o hint a b => l64 k (sv e a) 0 0x71 hint (cM 0 (ordCode o) 0 size) (sv e b)
  | .redMin k size o hint a b => l64 k (sv e a) 0 0x72 hint (cM 0 (ordCode o) 0 size) (sv e b)
  | .redMax k size o hint a b => l64 k (sv e a) 0 0x73 hint (cM 0 (ordCode o) 0 size) (sv e b)
  | .redMinu k size o hint a b => l64 k (sv e a) 0 0x74 hint (cM 0 (ordCode o) 0 size) (sv e b)
  | .redMaxu k size o hint a b => l64 k (sv e a) 0 0x75 hint (cM 0 (ordCode o) 0 size) (sv e b)
  | .redAnd k size o hint a b => l64 k (sv e a) 0 0x76 hint (cM 0 (ordCode o) 0 size) (sv e b)
  | .redOr k size o hint a b => l64 k (sv e a) 0 0x77 hint (cM 0 (ordCode o) 0 size) (sv e b)
  | .redXor k size o hint a b => l64 k (sv e a) 0 0x78 hint (cM 0 (ordCode o) 0 size) (sv e b)
  | .redFadd k t o hint a b => l64 k (sv e a) 0 0x79 hint (cM (amoSub t) (ordCode o) 0 (amoSize t)) (sv e b)
  | .redFmin k t o hint a b => l64 k (sv e a) 0 0x7a hint (cM (amoSub t) (ordCode o) 0 (amoSize t)) (sv e b)
  | .redFmax k t o hint a b => l64 k (sv e a) 0 0x7b hint (cM (amoSub t) (ordCode o) 0 (amoSize t)) (sv e b)
  | .vamoAdd k size o hint d a b => l64 k (sv e a) d 0x80 hint (cM 0 (ordCode o) 0 size) (vix b)
  | .vamoSub k size o hint d a b => l64 k (sv e a) d 0x81 hint (cM 0 (ordCode o) 0 size) (vix b)
  | .vamoMin k size o hint d a b => l64 k (sv e a) d 0x82 hint (cM 0 (ordCode o) 0 size) (vix b)
  | .vamoMax k size o hint d a b => l64 k (sv e a) d 0x83 hint (cM 0 (ordCode o) 0 size) (vix b)
  | .vamoMinu k size o hint d a b => l64 k (sv e a) d 0x84 hint (cM 0 (ordCode o) 0 size) (vix b)
  | .vamoMaxu k size o hint d a b => l64 k (sv e a) d 0x85 hint (cM 0 (ordCode o) 0 size) (vix b)
  | .vamoAnd k size o hint d a b => l64 k (sv e a) d 0x86 hint (cM 0 (ordCode o) 0 size) (vix b)
  | .vamoOr k size o hint d a b => l64 k (sv e a) d 0x87 hint (cM 0 (ordCode o) 0 size) (vix b)
  | .vamoXor k size o hint d a b => l64 k (sv e a) d 0x88 hint (cM 0 (ordCode o) 0 size) (vix b)
  | .vamoSwp k size o hint d a b => l64 k (sv e a) d 0x89 hint (cM 0 (ordCode o) 0 size) (vix b)
  | .vamoFadd k t o hint d a b => l64 k (sv e a) d 0x8a hint (cM (amoSub t) (ordCode o) 0 (amoSize t)) (vix b)
  | .vamoFmin k t o hint d a b => l64 k (sv e a) d 0x8b hint (cM (amoSub t) (ordCode o) 0 (amoSize t)) (vix b)
  | .vamoFmax k t o hint d a b => l64 k (sv e a) d 0x8c hint (cM (amoSub t) (ordCode o) 0 (amoSize t)) (vix b)
  | .vadd k t d a b => l64 k (vsv a) (vdv d) 0x40 0 t.code (vsv b)
  | .vsub k t d a b => l64 k (vsv a) (vdv d) 0x41 0 t.code (vsv b)
  | .vmul k t d a b => l64 k (vsv a) (vdv d) 0x42 0 t.code (vsv b)
  | .vfma k t d a b => l64 k (vsv a) d 0x43 0 t.code (vsv b)
  | .vfms k t d a b => l64 k (vsv a) d 0x44 0 t.code (vsv b)
  | .vfnma k t d a b => l64 k (vsv a) d 0x45 0 t.code (vsv b)
  | .vmin k t d a b => l64 k (vsv a) (vdv d) 0x46 0 t.code (vsv b)
  | .vmax k t d a b => l64 k (vsv a) (vdv d) 0x47 0 t.code (vsv b)
  | .vabs k t d a => l64 k (vsv a) (vdv d) 0x48 0 t.code 0
  | .vneg k t d a => l64 k (vsv a) (vdv d) 0x49 0 t.code 0
  | .vadds k t d a b => l64 k (vsv a) (vdv d) 0x4a 0 t.code (vsv b)
  | .vsubs k t d a b => l64 k (vsv a) (vdv d) 0x4b 0 t.code (vsv b)
  | .vmulh k t d a b => l64 k (vsv a) (vdv d) 0x4c 0 t.code (vsv b)
  | .vdiv k t d a b => l64 k (vsv a) (vdv d) 0x4d 0 t.code (vsv b)
  | .vsqrt k t d a => l64 k (vsv a) (vdv d) 0x4e 0 t.code 0
  | .vrcp k t d a => l64 k (vsv a) (vdv d) 0x4f 0 t.code 0
  | .vrsq k t d a => l64 k (vsv a) (vdv d) 0x50 0 t.code 0
  | .vexp2 k t d a => l64 k (vsv a) (vdv d) 0x51 0 t.code 0
  | .vlog2 k t d a => l64 k (vsv a) (vdv d) 0x52 0 t.code 0
  | .vsinp k t d a => l64 k (vsv a) (vdv d) 0x53 0 t.code 0
  | .vcosp k t d a => l64 k (vsv a) (vdv d) 0x54 0 t.code 0
  | .vcvt k td ts part d a => l64 k (vsv a) (vdv d) 0x55 0 (16 * td.code + ts.code) part
  | .vqnt k td ts part d a s => l64 k (vsv a) (vdv d) 0x56 0 (16 * td.code + ts.code) (8 * dv e s + part)
  | .vdqnt k td ts part d a s => l64 k (vsv a) (vdv d) 0x57 0 (16 * td.code + ts.code) (8 * sv e s + part)
  | .vand k t d a b => l64 k (vsv a) (vdv d) 0x58 0 t.code (vsv b)
  | .vor k t d a b => l64 k (vsv a) (vdv d) 0x59 0 t.code (vsv b)
  | .vxor k t d a b => l64 k (vsv a) (vdv d) 0x5a 0 t.code (vsv b)
  | .vshl k t d a b => l64 k (vsv a) (vdv d) 0x5c 0 t.code (vsv b)
  | .vshr k t d a b => l64 k (vsv a) (vdv d) 0x5d 0 t.code (vsv b)
  | .vsar k t d a b => l64 k (vsv a) (vdv d) 0x5e 0 t.code (vsv b)
  | .vnot k t d a => l64 k (vsv a) (vdv d) 0x5b 0 t.code 0
  | .vclz k t d a => l64 k (vsv a) (vdv d) 0x5f 0 t.code 0
  | .vpopc k t d a => l64 k (vsv a) (vdv d) 0x60 0 t.code 0
  | .vmov k t d a => l64 k (vsv a) (vdv d) 0x61 0 t.code 0
  | .vbcast k t d a => l64 k (sv e a) (vdv d) 0x62 0 t.code 0
  | .vextr k t d a b => l64 k (vsv a) (dv e d) 0x63 0 t.code (sv e b)
  | .vins k t d a b => l64 k (sv e a) d 0x64 0 t.code (sv e b)
  | .vcmp k cc t d a b => l64 k (vsv a) d 0x68 0 (16 * condCode cc + t.code) (vsv b)
  | .vsel k t d a b m => l64 k (vsv a) (vdv d) 0x69 0 (16 * m + t.code) (vsv b)
  | .kand k d a b => l64 k a d 0x6a 0 0 b
  | .kor k d a b => l64 k a d 0x6b 0 0 b
  | .kxor k d a b => l64 k a d 0x6c 0 0 b
  | .knot k d a => l64 k a d 0x6d 0 0 0
  | .kpop k d a => l64 k a (dv e d) 0x6e 0 0 0
  | .kmovMask k d a => l64 k a d 0x6f 0 0 0
  | .kmovFromVector k d a => l64 k (vsv a) d 0x6f 0 16 0
  | .kmovToVector k d a => l64 k a (vdv d) 0x6f 0 32 0
  | .vshuf k hi t d a b => l64 k (vsv a) (vdv d) 0x70 0 (16 * hi.toNat + t.code) (vsv b)
  | .vxswp k t d a dist => l64 k (vsv a) (vdv d) 0x71 0 t.code dist
  | .vrot k t d a b => l64 k (vsv a) (vdv d) 0x72 0 t.code (sv e b)
  | .vredsum k t d a => l64 k (vsv a) (dv e d) 0x73 0 t.code 0
  | .vredmax k t d a => l64 k (vsv a) (dv e d) 0x74 0 t.code 0
  | .vredmin k t d a => l64 k (vsv a) (dv e d) 0x75 0 t.code 0
  | .vscan k t d a => l64 k (vsv a) d 0x76 0 t.code 0
  | .vvoteAny k t d a => l64 k (vsv a) (dv e d) 0x77 0 t.code 0
  | .vvoteAll k t d a => l64 k (vsv a) (dv e d) 0x77 0 (16 + t.code) 0
  | .vvoteBallot k t d a => l64 k (vsv a) d 0x77 0 (32 + t.code) 0
  | .vcompress k t d a m => l64 k (vsv a) (vdv d) 0x78 0 (16 * m + t.code) 0
  | .vexpand k t d a m => l64 k (vsv a) d 0x79 0 (16 * m + t.code) 0
  | .vbperm k d a pat => l64 k (vsv a) (vdv d) 0x7a 0 (16 * pat) 0
  | .vbpload k pat a part => l64 k (vsv a) 0 0x7b 0 (128 * part + 16 * pat) 0
  | .tset k acc d a => l64 k (sv e a) d 0x40 0 acc.toNat 0
  | .tget k acc d a => l64 k a (dv e d) 0x41 0 acc.toNat 0
  | .tzero k d => l64 k 0 d 0x42 0 0 0
  | .azero k d => l64 k 0 d 0x43 0 0 0
  | .tmov k d a => l64 k a d 0x44 0 0 0
  | .ttr k d a => l64 k a d 0x45 0 0 0
  | .tcvt k d a => l64 k a d 0x46 0 0 0
  | .tacc k d a => l64 k a d 0x47 0 0 0
  | .atile k d a => l64 k a d 0x48 0 0 0
  | .mma k sat d a b => l64 k a d 0x50 0 sat.toNat b
  | .mmaP k sat d a b => l64 k a d 0x51 0 sat.toNat b
  | .mmaSp k sat n d a b => l64 k a d 0x52 0 (2 * n + sat.toNat) b
  | .mfence k => l64 k 0 0 0x58 0 0 0
  | .retire _ _ => []
  | .lineFetch _ _ => []
  | .accessClear _ _ => []
  | .loadReturn _ _ => []
  | .llcFill _ => []
  | .migIntervalExpiry => []
  | .coreStoreRequest _ _ _ => []
  | .coreReadRequest _ _ _ => []
  | .ioCoherentWrite _ _ _ => []
  | .ioCoherentRead _ _ _ => []
  | .revocation _ _ => []
  | .revocationAnswer _ _ => []
  | .forwardRequest _ _ => []
  | .forwardAnswer _ _ => []
  | .writeBack _ _ => []
  | .registrationAnswer _ _ => []
  | .writeBackAck _ _ => []
  | .mwaitWake _ => []
  | .mwaitTimeout _ => []
  | .cbwComplete _ => []
  | .gbarPhaseComplete _ _ => []
  | .waitchComplete _ => []
  | .fenceComplete _ => []
  | .rowActComplete _ _ => []
  | .rowPreComplete _ _ => []
  | .leaseExpiry _ _ => []
  | .refreshDue _ _ => []
  | .refreshEnd _ _ => []
  | .tempHot _ => []
  | .tempNormal _ => []
  | .activationWindowSet _ => []
  | .matrixIssueGapSet _ => []
  | .tileEccError _ _ => []
  | .stateEcc _ => []
  | .teamStart _ => []
  | .contextRestore _ => []
  | .streamRestart _ => []
  | .contextSave _ => []
  | .teamRetire _ _ _ => []
  | .launchRetire _ => []
  | .teamStop _ => []
  | .trapDrainLimit _ => []
  | .watchdog _ _ => []
  | .sliceExpiry _ _ => []
  | .placementRound => []
  | .gangSteal _ _ _ => []
  | .schedulerHeartbeat _ => []
  | .schedAdopt _ => []
  | .schedulerReturn _ => []
  | .workerFailover _ => []
  | .quartzMismatch _ => []
  | .quartzRestart => []
  | .dispQwptr _ _ => []
  | .dispQctl _ _ => []
  | .packetCopy _ => []
  | .childDispatch _ _ => []
  | .tokenTick => []
  | .openPkt _ _ _ => []
  | .opened _ _ _ _ _ => []
  | .req _ => []
  | .homeCommit _ _ => []
  | .reply _ _ _ _ _ _ => []
  | .ack _ _ _ => []
  | .acked _ _ _ => []
  | .close _ _ _ => []
  | .closed _ _ => []
  | .closeAll _ => []
  | .ackTimer _ => []
  | .retransmit _ _ => []
  | .rouRecovery => []
  | .requesterHubReset => []
  | .remoteLoad _ _ _ => []
  | .fabPkgLost _ => []
  | .fabAgeDrop _ _ => []
  | .fabPortDown _ _ => []
  | .fabPortUp _ _ => []
  | .copyPiece _ _ _ => []
  | .allot _ => []
  | .reclaim _ => []
  | .isolate _ => []
  | .rejoin _ _ => []
  | .loadimg _ => []
  | .unloadimg _ => []
  | .resume _ => []
  | .kill _ => []
  | .pageResume _ => []
  | .pageDecline _ => []
  | .enroll _ => []
  | .disable _ => []
  | .extend _ => []
  | .modreg _ => []
  | .modunreg _ => []
  | .chunkVerify _ _ _ => []
  | .loadimgTimeout _ => []
  | .shootdownUnmap => []
  | .shootdownWrprotect => []
  | .shootdownInval => []
  | .shootdownDone => []
  | .migRingRptr _ => []
  | .migRingCtl _ => []
  | .migRingBase _ => []
  | .trapRptr _ => []
  | .galenaFlush _ _ => []
  | .galenaFlushDone _ => []
  | .registerWrite _ _ _ _ => []
  | .hostReadShared _ => []
  | .hostReadExclusive _ => []
  | .hostWriteBack _ _ => []
  | .hostSnoopAnswer _ _ => []
  | .slateRecallLost _ => []
  | .slateTimeout _ _ => []
  | .linkUp _ _ _ => []
  | .linkWakeSlow _ _ => []
  | .stackLost _ => []
  | .moduleRetrain _ _ _ => []
  | .coreFailure _ => []
  | .coldReset _ _ => []
  | .warmReset _ => []
  | .getVersion => []
  | .getCapabilities => []
  | .negotiateAlgorithms _ => []
  | .getDigests => []
  | .getCertificate _ => []
  | .challenge _ _ => []
  | .getMeasurements _ => []
  | .spdmUnsupported _ => []
  | .registerUncorrectableError _ _ => []
  | .incomingRspStWrite _ => []
  | .apertureStoreDelivered _ _ => []
  | .refreshStart _ _ => []

/-- S32 opcodes of the common group (R75). -/
def common32 (e : Engine) (op a d imm : Nat) : Option Instr :=
  match op with
  | 0x0 => some .nop
  | 0x1 => some .ret
  | 0x2 => some .halt
  | 0x3 => some .endl
  | 0x4 => some (.brReg (srcOf e a))
  | 0x5 => some (.callReg (srcOf e a))
  | 0x6 => some (.chk (srcOf e a))
  | 0x7 => some (.trap imm)
  | 0x8 => some (.bkpt imm)
  | 0x9 => some (.rdcr (dstOf e d) imm)
  | 0xa => some (.wrcr imm (srcOf e a))
  | 0xb => some (.semw imm)
  | 0xc => some (.semp imm)
  | _ => none

/-- S32 opcodes of the integer group (R77, R78); an F value outside the map of CMP names no instruction. -/
def int32 (e : Engine) (op f b a d imm : Nat) : Option Instr :=
  match op with
  | 0x10 => some (.add (dstOf e d) (srcOf e a) (srcOf e b) f)
  | 0x11 => some (.sub (dstOf e d) (srcOf e a) (srcOf e b) f)
  | 0x12 => some (.mul (dstOf e d) (srcOf e a) (srcOf e b))
  | 0x13 => some (.mulh (dstOf e d) (srcOf e a) (srcOf e b))
  | 0x14 => some (.mulhu (dstOf e d) (srcOf e a) (srcOf e b))
  | 0x15 => some (.div (dstOf e d) (srcOf e a) (srcOf e b))
  | 0x16 => some (.divu (dstOf e d) (srcOf e a) (srcOf e b))
  | 0x17 => some (.rem (dstOf e d) (srcOf e a) (srcOf e b))
  | 0x18 => some (.remu (dstOf e d) (srcOf e a) (srcOf e b))
  | 0x19 => some (.and (dstOf e d) (srcOf e a) (srcOf e b))
  | 0x1a => some (.or (dstOf e d) (srcOf e a) (srcOf e b))
  | 0x1b => some (.xor (dstOf e d) (srcOf e a) (srcOf e b))
  | 0x1c => some (.andn (dstOf e d) (srcOf e a) (srcOf e b))
  | 0x1d => some (.shl (dstOf e d) (srcOf e a) (srcOf e b))
  | 0x1e => some (.shr (dstOf e d) (srcOf e a) (srcOf e b))
  | 0x1f => some (.sar (dstOf e d) (srcOf e a) (srcOf e b))
  | 0x20 => some (.rotr (dstOf e d) (srcOf e a) (srcOf e b))
  | 0x21 => some (.min (dstOf e d) (srcOf e a) (srcOf e b))
  | 0x22 => some (.minu (dstOf e d) (srcOf e a) (srcOf e b))
  | 0x23 => some (.max (dstOf e d) (srcOf e a) (srcOf e b))
  | 0x24 => some (.maxu (dstOf e d) (srcOf e a) (srcOf e b))
  | 0x25 => some (.clz (dstOf e d) (srcOf e a))
  | 0x26 => some (.ctz (dstOf e d) (srcOf e a))
  | 0x27 => some (.popc (dstOf e d) (srcOf e a))
  | 0x28 => (cmpOf f).map fun cc => .cmp cc (dstOf e d) (srcOf e a) (srcOf e b)
  | 0x29 => some (.mov (dstOf e d) (srcOf e a))
  | 0x2a => some (.addi (dstOf e d) (srcOf e a) (BitVec.ofNat 11 imm))
  | 0x2b => some (.andi (dstOf e d) (srcOf e a) (BitVec.ofNat 11 imm))
  | 0x2c => some (.ori (dstOf e d) (srcOf e a) (BitVec.ofNat 11 imm))
  | 0x2d => some (.xori (dstOf e d) (srcOf e a) (BitVec.ofNat 11 imm))
  | 0x2e => some (.shlImm (dstOf e d) (srcOf e a) imm)
  | 0x2f => some (.shrImm (dstOf e d) (srcOf e a) imm)
  | 0x30 => some (.sarImm (dstOf e d) (srcOf e a) imm)
  | 0x31 => some (.rotrImm (dstOf e d) (srcOf e a) imm)
  | _ => none

/-- The common L64 and X96 map (R75). -/
def com64 (e : Engine) (op len : Nat) (r : Raw) : Option Instr :=
  match op with
  | 0x0 => inForm len 1 (.br r.ctl.pred r.slot r.line)
  | 0x1 => inForm len 1 (.brc r.ctl.pred (condOf r.cond) (srcOf e r.a) r.slot r.line)
  | 0x2 => inForm len 1 (.call r.ctl.pred r.slot r.line)
  | 0x3 => inForm len 1 (.loopReg r.ctl (srcOf e r.a))
  | 0x4 => inForm len 2 (.loopImm r.ctl (BitVec.ofNat 32 r.lit))
  | 0x5 => inForm len 1 (.semwL64 r.ctl r.c)
  | 0x6 => inForm len 1 (.sempL64 r.ctl r.c)
  | 0x7 => inForm len 1 (.nopL64 r.ctl)
  | _ => none

/-- The integer L64 and X96 map (R79). -/
def int64 (e : Engine) (op len : Nat) (r : Raw) : Option Instr :=
  match op with
  | 0x20 => inForm len 2 (if r.c = 1 then .moviHi r.ctl r.d (BitVec.ofNat 32 r.lit) else .movi r.ctl (dstOf e r.d) (BitVec.ofNat 32 r.lit))
  | 0x21 => inForm len 2 (.addiX96 r.ctl (dstOf e r.d) (srcOf e r.a) (BitVec.ofNat 32 r.lit))
  | 0x22 => inForm len 2 (.andiX96 r.ctl (dstOf e r.d) (srcOf e r.a) (BitVec.ofNat 32 r.lit))
  | 0x23 => inForm len 2 (.oriX96 r.ctl (dstOf e r.d) (srcOf e r.a) (BitVec.ofNat 32 r.lit))
  | 0x24 => inForm len 2 (.xoriX96 r.ctl (dstOf e r.d) (srcOf e r.a) (BitVec.ofNat 32 r.lit))
  | 0x25 => inForm len 1 (.ext r.ctl (r.c / 128 % 2 == 1) (dstOf e r.d) (srcOf e r.a) r.b (r.c % 128))
  | 0x26 => inForm len 1 (.ins r.ctl r.d (srcOf e r.a) r.b r.c)
  | 0x27 => inForm len 1 (.sel r.ctl (dstOf e r.d) (srcOf e r.a) (srcOf e r.b) (srcOf e r.c))
  | _ => none

/-- The sequencer map (R80). -/
def seq64 (e : Engine) (op len : Nat) (r : Raw) : Option Instr :=
  match op with
  | 0x40 => inForm len 2 (.lds r.ctl r.size r.subOne r.isAcq r.hint r.d r.a (BitVec.ofNat 32 r.lit))
  | 0x41 => inForm len 2 (.sts r.ctl r.size r.isRel r.hint r.a r.b (BitVec.ofNat 32 r.lit))
  | 0x42 => inForm len 1 (.qpush r.ctl r.c r.a)
  | 0x43 => inForm len 1 (.qpop r.ctl r.d)
  | 0x44 => inForm len 2 (.fork r.ctl (r.c / 32) (r.c % 32) r.a (r.lit / 2 ^ 24) (r.lit % 2 ^ 24))
  | 0x45 => inForm len 1 (.launch r.ctl r.d r.a)
  | 0x46 => inForm len 1 (.waitch r.ctl r.d r.a)
  | 0x47 => inForm len 1 (.exit r.ctl r.a)
  | 0x48 => inForm len 1 (.yield r.ctl r.d)
  | 0x49 => inForm len 1 (.rdid r.ctl r.d r.c)
  | 0x4a => inForm len 1 (.hintRem r.ctl r.a)
  | 0x4b => inForm len 1 (.cba r.ctl r.d (r.c % 16) (r.c / 16))
  | 0x4c => inForm len 1 (.cbw r.ctl r.d r.a r.c)
  | 0x4d => inForm len 1 (.gbar r.ctl r.d)
  | 0x4e => inForm len 1 (.watch r.ctl r.a)
  | 0x4f => inForm len 1 (.mwait r.ctl r.d r.a)
  | 0x50 => inForm len 1 (.cqPut r.ctl (r.c % 2) r.a (cpostOf r.c))
  | 0x51 => inForm len 1 (.cqMcast r.ctl (r.c % 2) r.a (cpostOf r.c))
  | 0x52 => inForm len 1 (.cqFence r.ctl (r.c % 2) (r.c / 2 % 4) (cpostOf r.c))
  | _ => none

/-- The access map (R81). -/
def mem64 (e : Engine) (op len : Nat) (r : Raw) : Option Instr :=
  match op with
  | 0x40 => inForm len 2 (.lda r.ctl r.size r.subOne r.isAcq r.space r.hint (dstOf e r.d) (srcOf e r.a) (BitVec.ofNat 32 r.lit))
  | 0x41 => inForm len 2 (.sta r.ctl r.size r.isRel r.space r.hint (srcOf e r.a) (srcOf e r.b) (BitVec.ofNat 32 r.lit))
  | 0x42 => inForm len 2 (.vld r.ctl r.isAcq r.space r.hint (mvdOf r.subf r.d) (srcOf e r.a) (BitVec.ofNat 32 r.lit))
  | 0x43 => inForm len 2 (.vst r.ctl r.isRel r.space r.hint (mvsOf r.subf r.d) (srcOf e r.a) (BitVec.ofNat 32 r.lit))
  | 0x44 => inForm len 2 (.vlds r.ctl r.size r.isAcq r.space r.hint (mvdOf r.subf r.d) (srcOf e r.a) (BitVec.ofNat 32 r.lit))
  | 0x45 => inForm len 2 (.vsts r.ctl r.size r.isRel r.space r.hint (mvsOf r.subf r.d) (srcOf e r.a) (BitVec.ofNat 32 r.lit))
  | 0x46 => inForm len 1 (.vgath r.ctl r.size r.isAcq r.space r.hint (mvdOf r.subf r.d) (srcOf e r.a) (vixOf r.b))
  | 0x47 => inForm len 1 (.vscat r.ctl r.size r.isRel r.space r.hint (mvsOf r.subf r.d) (srcOf e r.a) (vixOf r.b))
  | 0x48 => inForm len 1 (.tld r.ctl r.isAcq r.space r.hint r.d (srcOf e r.a) (srcOf e r.b))
  | 0x49 => inForm len 1 (.tst r.ctl r.isRel r.space r.hint r.d (srcOf e r.a) (srcOf e r.b))
  | 0x4a => inForm len 2 (.ldS r.ctl r.size r.subOne r.space r.hint (dstOf e r.d) (srcOf e r.a) (BitVec.ofNat 32 r.lit))
  | 0x4b => inForm len 2 (.rspSt r.ctl r.hint (mvsOf r.subf r.d) (srcOf e r.a) (srcOf e r.b) (BitVec.ofNat 32 r.lit))
  | 0x4c => inForm len 2 (.pref r.ctl r.hint (srcOf e r.a) (BitVec.ofNat 32 r.lit))
  | 0x4d => inForm len 1 (if r.c = 16 then .fenceAcq r.ctl else if r.c = 32 then .fenceRel r.ctl else .fenceSc r.ctl)
  | 0x4e => inForm len 1 (.acqr r.ctl (srcOf e r.a) (srcOf e r.b))
  | 0x4f => inForm len 1 (.cwb r.ctl (srcOf e r.a) (srcOf e r.b))
  | 0x50 => inForm len 1 (.rowAct r.ctl (srcOf e r.a) (srcOf e r.b))
  | 0x51 => inForm len 1 (.rowCon r.ctl r.d (srcOf e r.a) r.c)
  | 0x53 => inForm len 1 (.rowPut r.ctl r.d (srcOf e r.a) r.c)
  | 0x52 => inForm len 1 (.rowCon2 r.ctl r.d (srcOf e r.a) (srcOf e r.b) r.c)
  | 0x54 => inForm len 1 (.rowPre r.ctl (srcOf e r.a))
  | 0x55 => inForm len 1 (.rowStat r.ctl (dstOf e r.d) r.c)
  | 0x56 => inForm len 1 (.rowWait r.ctl)
  | 0x60 => inForm len 1 (.amoAdd r.ctl r.size r.ord r.hint (dstOf e r.d) (srcOf e r.a) (srcOf e r.b))
  | 0x61 => inForm len 1 (.amoSub r.ctl r.size r.ord r.hint (dstOf e r.d) (srcOf e r.a) (srcOf e r.b))
  | 0x62 => inForm len 1 (.amoMin r.ctl r.size r.ord r.hint (dstOf e r.d) (srcOf e r.a) (srcOf e r.b))
  | 0x63 => inForm len 1 (.amoMax r.ctl r.size r.ord r.hint (dstOf e r.d) (srcOf e r.a) (srcOf e r.b))
  | 0x64 => inForm len 1 (.amoMinu r.ctl r.size r.ord r.hint (dstOf e r.d) (srcOf e r.a) (srcOf e r.b))
  | 0x65 => inForm len 1 (.amoMaxu r.ctl r.size r.ord r.hint (dstOf e r.d) (srcOf e r.a) (srcOf e r.b))
  | 0x66 => inForm len 1 (.amoAnd r.ctl r.size r.ord r.hint (dstOf e r.d) (srcOf e r.a) (srcOf e r.b))
  | 0x67 => inForm len 1 (.amoOr r.ctl r.size r.ord r.hint (dstOf e r.d) (srcOf e r.a) (srcOf e r.b))
  | 0x68 => inForm len 1 (.amoXor r.ctl r.size r.ord r.hint (dstOf e r.d) (srcOf e r.a) (srcOf e r.b))
  | 0x69 => inForm len 1 (.amoSwp r.ctl r.size r.ord r.hint (dstOf e r.d) (srcOf e r.a) (srcOf e r.b))
  | 0x6a => inForm len 1 (.amoCas r.ctl r.size r.ord r.hint r.d (srcOf e r.a) (srcOf e r.b))
  | 0x6b => inForm len 1 (.amoFadd r.ctl r.amoT r.ord r.hint (dstOf e r.d) (srcOf e r.a) (srcOf e r.b))
  | 0x6c => inForm len 1 (.amoFmin r.ctl r.amoT r.ord r.hint (dstOf e r.d) (srcOf e r.a) (srcOf e r.b))
  | 0x6d => inForm len 1 (.amoFmax r.ctl r.amoT r.ord r.hint (dstOf e r.d) (srcOf e r.a) (srcOf e r.b))
  | 0x6e => inForm len 1 (.acas128 r.ctl r.ord r.hint r.d (srcOf e r.a) r.b)
  | 0x70 => inForm len 1 (.redAdd r.ctl r.size r.ord r.hint (srcOf e r.a) (srcOf e r.b))
  | 0x71 => inForm len 1 (.redSub r.ctl r.size r.ord r.hint (srcOf e r.a) (srcOf e r.b))
  | 0x72 => inForm len 1 (.redMin r.ctl r.size r.ord r.hint (srcOf e r.a) (srcOf e r.b))
  | 0x73 => inForm len 1 (.redMax r.ctl r.size r.ord r.hint (srcOf e r.a) (srcOf e r.b))
  | 0x74 => inForm len 1 (.redMinu r.ctl r.size r.ord r.hint (srcOf e r.a) (srcOf e r.b))
  | 0x75 => inForm len 1 (.redMaxu r.ctl r.size r.ord r.hint (srcOf e r.a) (srcOf e r.b))
  | 0x76 => inForm len 1 (.redAnd r.ctl r.size r.ord r.hint (srcOf e r.a) (srcOf e r.b))
  | 0x77 => inForm len 1 (.redOr r.ctl r.size r.ord r.hint (srcOf e r.a) (srcOf e r.b))
  | 0x78 => inForm len 1 (.redXor r.ctl r.size r.ord r.hint (srcOf e r.a) (srcOf e r.b))
  | 0x79 => inForm len 1 (.redFadd r.ctl r.amoT r.ord r.hint (srcOf e r.a) (srcOf e r.b))
  | 0x7a => inForm len 1 (.redFmin r.ctl r.amoT r.ord r.hint (srcOf e r.a) (srcOf e r.b))
  | 0x7b => inForm len 1 (.redFmax r.ctl r.amoT r.ord r.hint (srcOf e r.a) (srcOf e r.b))
  | 0x80 => inForm len 1 (.vamoAdd r.ctl r.size r.ord r.hint r.d (srcOf e r.a) (vixOf r.b))
  | 0x81 => inForm len 1 (.vamoSub r.ctl r.size r.ord r.hint r.d (srcOf e r.a) (vixOf r.b))
  | 0x82 => inForm len 1 (.vamoMin r.ctl r.size r.ord r.hint r.d (srcOf e r.a) (vixOf r.b))
  | 0x83 => inForm len 1 (.vamoMax r.ctl r.size r.ord r.hint r.d (srcOf e r.a) (vixOf r.b))
  | 0x84 => inForm len 1 (.vamoMinu r.ctl r.size r.ord r.hint r.d (srcOf e r.a) (vixOf r.b))
  | 0x85 => inForm len 1 (.vamoMaxu r.ctl r.size r.ord r.hint r.d (srcOf e r.a) (vixOf r.b))
  | 0x86 => inForm len 1 (.vamoAnd r.ctl r.size r.ord r.hint r.d (srcOf e r.a) (vixOf r.b))
  | 0x87 => inForm len 1 (.vamoOr r.ctl r.size r.ord r.hint r.d (srcOf e r.a) (vixOf r.b))
  | 0x88 => inForm len 1 (.vamoXor r.ctl r.size r.ord r.hint r.d (srcOf e r.a) (vixOf r.b))
  | 0x89 => inForm len 1 (.vamoSwp r.ctl r.size r.ord r.hint r.d (srcOf e r.a) (vixOf r.b))
  | 0x8a => inForm len 1 (.vamoFadd r.ctl r.amoT r.ord r.hint r.d (srcOf e r.a) (vixOf r.b))
  | 0x8b => inForm len 1 (.vamoFmin r.ctl r.amoT r.ord r.hint r.d (srcOf e r.a) (vixOf r.b))
  | 0x8c => inForm len 1 (.vamoFmax r.ctl r.amoT r.ord r.hint r.d (srcOf e r.a) (vixOf r.b))
  | _ => none

/-- The vector map (R82). -/
def vec64 (e : Engine) (op len : Nat) (r : Raw) : Option Instr :=
  match op with
  | 0x40 => inForm len 1 (.vadd r.ctl r.ty (vdOf r.d) (vsOf r.a) (vsOf r.b))
  | 0x41 => inForm len 1 (.vsub r.ctl r.ty (vdOf r.d) (vsOf r.a) (vsOf r.b))
  | 0x42 => inForm len 1 (.vmul r.ctl r.ty (vdOf r.d) (vsOf r.a) (vsOf r.b))
  | 0x43 => inForm len 1 (.vfma r.ctl r.ty r.d (vsOf r.a) (vsOf r.b))
  | 0x44 => inForm len 1 (.vfms r.ctl r.ty r.d (vsOf r.a) (vsOf r.b))
  | 0x45 => inForm len 1 (.vfnma r.ctl r.ty r.d (vsOf r.a) (vsOf r.b))
  | 0x46 => inForm len 1 (.vmin r.ctl r.ty (vdOf r.d) (vsOf r.a) (vsOf r.b))
  | 0x47 => inForm len 1 (.vmax r.ctl r.ty (vdOf r.d) (vsOf r.a) (vsOf r.b))
  | 0x48 => inForm len 1 (.vabs r.ctl r.ty (vdOf r.d) (vsOf r.a))
  | 0x49 => inForm len 1 (.vneg r.ctl r.ty (vdOf r.d) (vsOf r.a))
  | 0x4a => inForm len 1 (.vadds r.ctl r.ty (vdOf r.d) (vsOf r.a) (vsOf r.b))
  | 0x4b => inForm len 1 (.vsubs r.ctl r.ty (vdOf r.d) (vsOf r.a) (vsOf r.b))
  | 0x4c => inForm len 1 (.vmulh r.ctl r.ty (vdOf r.d) (vsOf r.a) (vsOf r.b))
  | 0x4d => inForm len 1 (.vdiv r.ctl r.ty (vdOf r.d) (vsOf r.a) (vsOf r.b))
  | 0x4e => inForm len 1 (.vsqrt r.ctl r.ty (vdOf r.d) (vsOf r.a))
  | 0x4f => inForm len 1 (.vrcp r.ctl r.ty (vdOf r.d) (vsOf r.a))
  | 0x50 => inForm len 1 (.vrsq r.ctl r.ty (vdOf r.d) (vsOf r.a))
  | 0x51 => inForm len 1 (.vexp2 r.ctl r.ty (vdOf r.d) (vsOf r.a))
  | 0x52 => inForm len 1 (.vlog2 r.ctl r.ty (vdOf r.d) (vsOf r.a))
  | 0x53 => inForm len 1 (.vsinp r.ctl r.ty (vdOf r.d) (vsOf r.a))
  | 0x54 => inForm len 1 (.vcosp r.ctl r.ty (vdOf r.d) (vsOf r.a))
  | 0x55 => inForm len 1 (.vcvt r.ctl (ElemType.ofCode (r.c / 16 % 16)) r.ty r.b (vdOf r.d) (vsOf r.a))
  | 0x56 => inForm len 1 (.vqnt r.ctl (ElemType.ofCode (r.c / 16 % 16)) r.ty (r.b % 8) (vdOf r.d) (vsOf r.a) (dstOf e (r.b / 8)))
  | 0x57 => inForm len 1 (.vdqnt r.ctl (ElemType.ofCode (r.c / 16 % 16)) r.ty (r.b % 8) (vdOf r.d) (vsOf r.a) (srcOf e (r.b / 8)))
  | 0x58 => inForm len 1 (.vand r.ctl r.ty (vdOf r.d) (vsOf r.a) (vsOf r.b))
  | 0x59 => inForm len 1 (.vor r.ctl r.ty (vdOf r.d) (vsOf r.a) (vsOf r.b))
  | 0x5a => inForm len 1 (.vxor r.ctl r.ty (vdOf r.d) (vsOf r.a) (vsOf r.b))
  | 0x5c => inForm len 1 (.vshl r.ctl r.ty (vdOf r.d) (vsOf r.a) (vsOf r.b))
  | 0x5d => inForm len 1 (.vshr r.ctl r.ty (vdOf r.d) (vsOf r.a) (vsOf r.b))
  | 0x5e => inForm len 1 (.vsar r.ctl r.ty (vdOf r.d) (vsOf r.a) (vsOf r.b))
  | 0x5b => inForm len 1 (.vnot r.ctl r.ty (vdOf r.d) (vsOf r.a))
  | 0x5f => inForm len 1 (.vclz r.ctl r.ty (vdOf r.d) (vsOf r.a))
  | 0x60 => inForm len 1 (.vpopc r.ctl r.ty (vdOf r.d) (vsOf r.a))
  | 0x61 => inForm len 1 (.vmov r.ctl r.ty (vdOf r.d) (vsOf r.a))
  | 0x62 => inForm len 1 (.vbcast r.ctl r.ty (vdOf r.d) (srcOf e r.a))
  | 0x63 => inForm len 1 (.vextr r.ctl r.ty (dstOf e r.d) (vsOf r.a) (srcOf e r.b))
  | 0x64 => inForm len 1 (.vins r.ctl r.ty r.d (srcOf e r.a) (srcOf e r.b))
  | 0x68 => inForm len 1 (.vcmp r.ctl (condOf (r.c / 16)) r.ty r.d (vsOf r.a) (vsOf r.b))
  | 0x69 => inForm len 1 (.vsel r.ctl r.ty (vdOf r.d) (vsOf r.a) (vsOf r.b) (r.c / 16))
  | 0x6a => inForm len 1 (.kand r.ctl r.d r.a r.b)
  | 0x6b => inForm len 1 (.kor r.ctl r.d r.a r.b)
  | 0x6c => inForm len 1 (.kxor r.ctl r.d r.a r.b)
  | 0x6d => inForm len 1 (.knot r.ctl r.d r.a)
  | 0x6e => inForm len 1 (.kpop r.ctl (dstOf e r.d) r.a)
  | 0x6f => inForm len 1 (if r.c = 16 then .kmovFromVector r.ctl r.d (vsOf r.a) else if r.c = 32 then .kmovToVector r.ctl (vdOf r.d) r.a else .kmovMask r.ctl r.d r.a)
  | 0x70 => inForm len 1 (.vshuf r.ctl ((r.c / 16) == 1) r.ty (vdOf r.d) (vsOf r.a) (vsOf r.b))
  | 0x71 => inForm len 1 (.vxswp r.ctl r.ty (vdOf r.d) (vsOf r.a) r.b)
  | 0x72 => inForm len 1 (.vrot r.ctl r.ty (vdOf r.d) (vsOf r.a) (srcOf e r.b))
  | 0x73 => inForm len 1 (.vredsum r.ctl r.ty (dstOf e r.d) (vsOf r.a))
  | 0x74 => inForm len 1 (.vredmax r.ctl r.ty (dstOf e r.d) (vsOf r.a))
  | 0x75 => inForm len 1 (.vredmin r.ctl r.ty (dstOf e r.d) (vsOf r.a))
  | 0x76 => inForm len 1 (.vscan r.ctl r.ty r.d (vsOf r.a))
  | 0x77 => inForm len 1 (if (r.c / 16) = 1 then .vvoteAll r.ctl r.ty (dstOf e r.d) (vsOf r.a) else if (r.c / 16) = 2 then .vvoteBallot r.ctl r.ty r.d (vsOf r.a) else .vvoteAny r.ctl r.ty (dstOf e r.d) (vsOf r.a))
  | 0x78 => inForm len 1 (.vcompress r.ctl r.ty (vdOf r.d) (vsOf r.a) (r.c / 16))
  | 0x79 => inForm len 1 (.vexpand r.ctl r.ty r.d (vsOf r.a) (r.c / 16))
  | 0x7a => inForm len 1 (.vbperm r.ctl (vdOf r.d) (vsOf r.a) (r.c / 16))
  | 0x7b => inForm len 1 (.vbpload r.ctl (r.c / 16 % 8) (vsOf r.a) (r.c / 128))
  | _ => none

/-- The matrix map (R83). -/
def mtx64 (e : Engine) (op len : Nat) (r : Raw) : Option Instr :=
  match op with
  | 0x40 => inForm len 1 (.tset r.ctl (r.c == 1) r.d (srcOf e r.a))
  | 0x41 => inForm len 1 (.tget r.ctl (r.c == 1) (dstOf e r.d) r.a)
  | 0x42 => inForm len 1 (.tzero r.ctl r.d)
  | 0x43 => inForm len 1 (.azero r.ctl r.d)
  | 0x44 => inForm len 1 (.tmov r.ctl r.d r.a)
  | 0x45 => inForm len 1 (.ttr r.ctl r.d r.a)
  | 0x46 => inForm len 1 (.tcvt r.ctl r.d r.a)
  | 0x47 => inForm len 1 (.tacc r.ctl r.d r.a)
  | 0x48 => inForm len 1 (.atile r.ctl r.d r.a)
  | 0x50 => inForm len 1 (.mma r.ctl (r.c == 1) r.d r.a r.b)
  | 0x51 => inForm len 1 (.mmaP r.ctl (r.c == 1) r.d r.a r.b)
  | 0x52 => inForm len 1 (.mmaSp r.ctl (r.c % 2 == 1) (r.c / 2) r.d r.a r.b)
  | 0x58 => inForm len 1 (.mfence r.ctl)
  | _ => none

/-- The instruction that a word's S32 opcode and fields name in an engine's map (R74). -/
def cand32 (e : Engine) (w : Nat) : Option Instr :=
  let op := w / 4 % 128
  let f := w / 2 ^ 27 % 32
  let b := w / 2 ^ 21 % 64
  let a := w / 2 ^ 15 % 64
  let d := w / 2 ^ 9 % 64
  let imm := w / 2 ^ 21 % 2 ^ 11
  if op < 0x10 then common32 e op a d imm
  else if op < 0x40 ∧ e ≠ .mtx then int32 e op f b a d imm
  else none

/-- The instruction that an L64 or X96 opcode and its fields name in an engine's map (R74). -/
def cand64 (e : Engine) (op len : Nat) (r : Raw) : Option Instr :=
  if op < 0x20 then com64 e op len r
  else if op < 0x40 then (if e = .mtx then none else int64 e op len r)
  else match e with
    | .seq => seq64 e op len r
    | .mem => mem64 e op len r
    | .vec => vec64 e op len r
    | .mtx => mtx64 e op len r

/-- The check of order 3 of R73: the fields are accepted, and every field that the instruction does
not use is zero, so that its own words are exactly these. -/
def accept (e : Engine) (ws : List Nat) (c : Option Instr) : Except Reject (Instr × Nat) :=
  match c with
  | none => .error .opcode
  | some i => if wellFormed e i && encode e i == ws then .ok (i, ws.length) else .error .field

/-- Decodes the instruction at the head of the words that remain in its line up to FILL (R62, R73),
with the number of words it takes (DEDUCED, log entry 61). -/
def decode (e : Engine) (ws : List Nat) : Except Reject (Instr × Nat) :=
  match ws with
  | [] => .error .length
  | w0 :: rest =>
    if w0 % 4 = 0 then accept e [w0] (cand32 e w0)
    else if w0 % 4 = 1 then
      match rest with
      | w1 :: _ => accept e [w0, w1] (cand64 e (w0 / 4 % 256) 1 (rawOf w0 w1 0))
      | [] => .error .length
    else if w0 % 4 = 2 then
      match rest with
      | w1 :: w2 :: _ => accept e [w0, w1, w2] (cand64 e (w0 / 4 % 256) 2 (rawOf w0 w1 w2))
      | _ => .error .length
    else .error .length

/-- The number of words of an instruction (R62). -/
def instrWords (i : Instr) : Nat := (encode .seq i).length

/-- The 32-bit words of a number, low word first (R62). -/
def wordsOfNat : Nat → Nat → List Nat
  | 0, _ => []
  | n + 1, w => w % 2 ^ 32 :: wordsOfNat n (w / 2 ^ 32)

/-- The first engine, in the order seq, mem, vec, mtx, whose map gives these words a meaning. -/
def tableEngine (ws : List Nat) : Option (Engine × Instr) :=
  let try1 (e : Engine) : Option (Engine × Instr) :=
    match decode e ws with
    | .ok (i, _) => some (e, i)
    | .error _ => none
  (try1 .seq) <|> (try1 .mem) <|> (try1 .vec) <|> (try1 .mtx)

/-- The instruction read from bits numbered as the opcode table numbers them. The longest instruction has
three words; bits above nbits are zero (DESIGN CHOICE, log entry 4). -/
def decodeTableWord (nbits w : Nat) : Option Instr :=
  (tableEngine (wordsOfNat 3 (w % 2 ^ nbits))).map (·.2)

end Sys2Proof
end

