-- ==== Sys2Proof/Machine/Ctl.lean ====
section
/-! DEFINITION. The predicate and sync fields of every instruction. -/

namespace Sys2Proof.Machine

/-- Predicate and sync fields of an instruction (R68, R69): an S32 form and an event have none, a branch in layout
L64-B has a predicate only. -/
def instrCtl (i : Instr) : Ctl :=
  match i with
  | .br p _ _ => { pred := p }
  | .brc p _ _ _ _ => { pred := p }
  | .call p _ _ => { pred := p }
  | .loopReg k _ => k
  | .loopImm k _ => k
  | .semwL64 k _ => k
  | .sempL64 k _ => k
  | .nopL64 k => k
  | .movi k _ _ => k
  | .moviHi k _ _ => k
  | .addiX96 k _ _ _ => k
  | .andiX96 k _ _ _ => k
  | .oriX96 k _ _ _ => k
  | .xoriX96 k _ _ _ => k
  | .ext k _ _ _ _ _ => k
  | .ins k _ _ _ _ => k
  | .sel k _ _ _ _ => k
  | .lds k _ _ _ _ _ _ _ => k
  | .sts k _ _ _ _ _ _ => k
  | .qpush k _ _ => k
  | .qpop k _ => k
  | .fork k _ _ _ _ _ => k
  | .launch k _ _ => k
  | .waitch k _ _ => k
  | .exit k _ => k
  | .yield k _ => k
  | .rdid k _ _ => k
  | .hintRem k _ => k
  | .cba k _ _ _ => k
  | .cbw k _ _ _ => k
  | .gbar k _ => k
  | .watch k _ => k
  | .mwait k _ _ => k
  | .cqPut k _ _ _ => k
  | .cqMcast k _ _ _ => k
  | .cqFence k _ _ _ => k
  | .lda k _ _ _ _ _ _ _ _ => k
  | .sta k _ _ _ _ _ _ _ => k
  | .vld k _ _ _ _ _ _ => k
  | .vst k _ _ _ _ _ _ => k
  | .vlds k _ _ _ _ _ _ _ => k
  | .vsts k _ _ _ _ _ _ _ => k
  | .vgath k _ _ _ _ _ _ _ => k
  | .vscat k _ _ _ _ _ _ _ => k
  | .tld k _ _ _ _ _ _ => k
  | .tst k _ _ _ _ _ _ => k
  | .ldS k _ _ _ _ _ _ _ => k
  | .rspSt k _ _ _ _ _ => k
  | .pref k _ _ _ => k
  | .fenceAcq k => k
  | .fenceRel k => k
  | .fenceSc k => k
  | .acqr k _ _ => k
  | .cwb k _ _ => k
  | .rowAct k _ _ => k
  | .rowCon k _ _ _ => k
  | .rowCon2 k _ _ _ _ => k
  | .rowPut k _ _ _ => k
  | .rowPre k _ => k
  | .rowStat k _ _ => k
  | .rowWait k => k
  | .amoAdd k _ _ _ _ _ _ => k
  | .amoSub k _ _ _ _ _ _ => k
  | .amoMin k _ _ _ _ _ _ => k
  | .amoMax k _ _ _ _ _ _ => k
  | .amoMinu k _ _ _ _ _ _ => k
  | .amoMaxu k _ _ _ _ _ _ => k
  | .amoAnd k _ _ _ _ _ _ => k
  | .amoOr k _ _ _ _ _ _ => k
  | .amoXor k _ _ _ _ _ _ => k
  | .amoSwp k _ _ _ _ _ _ => k
  | .amoCas k _ _ _ _ _ _ => k
  | .amoFadd k _ _ _ _ _ _ => k
  | .amoFmin k _ _ _ _ _ _ => k
  | .amoFmax k _ _ _ _ _ _ => k
  | .acas128 k _ _ _ _ _ => k
  | .redAdd k _ _ _ _ _ => k
  | .redSub k _ _ _ _ _ => k
  | .redMin k _ _ _ _ _ => k
  | .redMax k _ _ _ _ _ => k
  | .redMinu k _ _ _ _ _ => k
  | .redMaxu k _ _ _ _ _ => k
  | .redAnd k _ _ _ _ _ => k
  | .redOr k _ _ _ _ _ => k
  | .redXor k _ _ _ _ _ => k
  | .redFadd k _ _ _ _ _ => k
  | .redFmin k _ _ _ _ _ => k
  | .redFmax k _ _ _ _ _ => k
  | .vamoAdd k _ _ _ _ _ _ => k
  | .vamoSub k _ _ _ _ _ _ => k
  | .vamoMin k _ _ _ _ _ _ => k
  | .vamoMax k _ _ _ _ _ _ => k
  | .vamoMinu k _ _ _ _ _ _ => k
  | .vamoMaxu k _ _ _ _ _ _ => k
  | .vamoAnd k _ _ _ _ _ _ => k
  | .vamoOr k _ _ _ _ _ _ => k
  | .vamoXor k _ _ _ _ _ _ => k
  | .vamoSwp k _ _ _ _ _ _ => k
  | .vamoFadd k _ _ _ _ _ _ => k
  | .vamoFmin k _ _ _ _ _ _ => k
  | .vamoFmax k _ _ _ _ _ _ => k
  | .vadd k _ _ _ _ => k
  | .vsub k _ _ _ _ => k
  | .vmul k _ _ _ _ => k
  | .vfma k _ _ _ _ => k
  | .vfms k _ _ _ _ => k
  | .vfnma k _ _ _ _ => k
  | .vmin k _ _ _ _ => k
  | .vmax k _ _ _ _ => k
  | .vabs k _ _ _ => k
  | .vneg k _ _ _ => k
  | .vadds k _ _ _ _ => k
  | .vsubs k _ _ _ _ => k
  | .vmulh k _ _ _ _ => k
  | .vdiv k _ _ _ _ => k
  | .vsqrt k _ _ _ => k
  | .vrcp k _ _ _ => k
  | .vrsq k _ _ _ => k
  | .vexp2 k _ _ _ => k
  | .vlog2 k _ _ _ => k
  | .vsinp k _ _ _ => k
  | .vcosp k _ _ _ => k
  | .vcvt k _ _ _ _ _ => k
  | .vqnt k _ _ _ _ _ _ => k
  | .vdqnt k _ _ _ _ _ _ => k
  | .vand k _ _ _ _ => k
  | .vor k _ _ _ _ => k
  | .vxor k _ _ _ _ => k
  | .vnot k _ _ _ => k
  | .vshl k _ _ _ _ => k
  | .vshr k _ _ _ _ => k
  | .vsar k _ _ _ _ => k
  | .vclz k _ _ _ => k
  | .vpopc k _ _ _ => k
  | .vmov k _ _ _ => k
  | .vbcast k _ _ _ => k
  | .vextr k _ _ _ _ => k
  | .vins k _ _ _ _ => k
  | .vcmp k _ _ _ _ _ => k
  | .vsel k _ _ _ _ _ => k
  | .kand k _ _ _ => k
  | .kor k _ _ _ => k
  | .kxor k _ _ _ => k
  | .knot k _ _ => k
  | .kpop k _ _ => k
  | .kmovMask k _ _ => k
  | .kmovFromVector k _ _ => k
  | .kmovToVector k _ _ => k
  | .vshuf k _ _ _ _ _ => k
  | .vxswp k _ _ _ _ => k
  | .vrot k _ _ _ _ => k
  | .vredsum k _ _ _ => k
  | .vredmax k _ _ _ => k
  | .vredmin k _ _ _ => k
  | .vscan k _ _ _ => k
  | .vvoteAny k _ _ _ => k
  | .vvoteAll k _ _ _ => k
  | .vvoteBallot k _ _ _ => k
  | .vcompress k _ _ _ _ => k
  | .vexpand k _ _ _ _ => k
  | .vbperm k _ _ _ => k
  | .vbpload k _ _ _ => k
  | .tset k _ _ _ => k
  | .tget k _ _ _ => k
  | .tzero k _ => k
  | .azero k _ => k
  | .tmov k _ _ => k
  | .ttr k _ _ => k
  | .tcvt k _ _ => k
  | .tacc k _ _ => k
  | .atile k _ _ => k
  | .mma k _ _ _ _ => k
  | .mmaP k _ _ _ _ => k
  | .mmaSp k _ _ _ _ _ => k
  | .mfence k => k
  | _ => {}

end Sys2Proof.Machine
end

