-- ==== Sys2Proof/Machine/CoreTypes.lean ====
section
/-! DEFINITION. The plain-data types of one core's state: poisoned values, streams, queues, flights, accesses, cached lines, banks, copy entries. -/

namespace Sys2Proof.Machine

/-- The cause carried by a poison tag (R372); 5 to 7 are never written. -/
inductive Cause where
  | speculative | memory | faultAtOwner | streamLost | ownerLost
  deriving DecidableEq, Repr

/-- A 64-bit scalar with its poison tag and cause (R123, R372). -/
structure SVal where
  val : Word := 0
  tag : Option Cause := none
  deriving DecidableEq, Repr

/-- 512 bytes with 64 granule tags of four bits: bit 0 the tag, bits [3:1] the cause (R161, R377). -/
structure VVal where
  data : VData := 0
  tags : BitVec 256 := 0
  deriving DecidableEq, Repr

/-- A mask register with its tag (R175). -/
structure MaskVal where
  bits : BitVec 512 := 0
  tag : Option Cause := none
  deriving DecidableEq, Repr

/-- A tile row with its tag (R196). -/
structure TileRow where
  data : VData := 0
  tag : Option Cause := none
  deriving DecidableEq, Repr

/-- A program counter (R56): a slot of a line, or END. -/
inductive Pc where
  | pos (line slot : Nat)
  | fin
  deriving DecidableEq, Repr

/-- The traps of R371. -/
inductive Trap where
  | illegalLength | illegalOpcode | illegalField
  | lineEngine | lineKind | lineSlot
  | branchTarget | rstackOverflow | rstackEmpty
  | loopCount | loopState | trap | poisonUse
  | misaligned | busError | spmRange
  | pagePerm | pageBad | pageMissing | pageMoving | rspTarget
  | vecType | tileShape | mmaType | pairRole | sparseMeta | tilePoison
  | rowRange | rowMode | rowBusy | rowClosed | rowLapsed | rowEarly
  | forkActive | launchDepth | launchAlign | childLimit | semOverflow | barCount | barGang
  | remoteOwnerLost | remoteLost | remoteFault | cqDesc | cqOverlap | cqFault
  | preempt | kill | watchdog | bkpt | stackLost | stateEcc | ctxBad
  deriving DecidableEq, Repr

/-- A fault recorded in an engine's block (R379): its code, cause and address; `arg` is the code of TRAP or
BKPT (R140) or the half named by an MMA.P fault (R208), for the report. -/
structure FaultRec where
  trap : Trap
  cause : Nat := 0
  addr : Word := 0
  arg : Nat := 0
  /-- Later failures of the remote-failure record that the fault reports (R317). -/
  count : Nat := 0
  /-- FCODE of a failed operation that the fault reports (R317). -/
  fcode : Nat := 0
  /-- PC of the instruction where it is not the saved PC (R140, R288). -/
  instrPc : Option Nat := none
  deriving DecidableEq, Repr

/-- The kinds of access that translation checks (R272). -/
inductive AccKind where
  | load | store | fetch | readWrite
  deriving DecidableEq, Repr

/-- A resumable halt (R275): its trap, ASID, address and access kind. -/
structure HaltRec where
  trap : Trap
  asid : Nat
  va : Nat
  kind : AccKind
  deriving DecidableEq, Repr

/-- What an instruction that waits inside itself waits for (R380, step 2, last bullet). -/
inductive WaitKind where
  | cbw (d bar : Nat) (phase err : Bool)
  | gbar (d : Nat)
  | mwait (d : Nat)
  | waitch (d child : Nat)
  | fenceAcq | fenceRel | fenceSc
  | exit (status : Word)
  deriving DecidableEq, Repr

/-- A waiting instruction with the post it makes when it retires and the PC after it. -/
structure Waiting where
  kind : WaitKind
  post : Option Nat := none
  next : Pc := .fin
  /-- The successor lies in another line, reached by fall-through. -/
  cross : Bool := false
  deriving DecidableEq, Repr

/-- A matrix instruction pending on a cluster (R158), and the first core cycle in which it could have issued but for the
matrix issue gap (R201); or a ROW.ACT that has passed its checks and waits for the activation window or a refresh, with its bank and row (R230). -/
structure Pending where
  cluster : Nat := 0
  ready : Option Nat := none
  act : Option (Nat × Nat) := none
  deriving DecidableEq, Repr

/-- A request to host memory or to another package that has left and is not answered: hub cycles of its first and its last copy, and how often it
was repeated (R316, R363, R411). -/
structure LoadAsk where
  va : Nat
  n : Nat
  firstAt : Nat
  sentAt : Nat
  tries : Nat := 0
  /-- Whose request it is, and for which of its parts: an engine's code number, a copy queue from 4 on with its piece, or an agent of the hub. -/
  who : Nat := 0
  idx : Nat := 0
  deriving DecidableEq, Repr

/-- One engine of a core: its stream, scalar file and control registers (R123, R128, R379). -/
structure Stream where
  active : Bool := false
  pc : Pc := .fin
  /-- A line entry not yet checked (R58); true when it was by fall-through. -/
  entry : Option Bool := none
  halted : Option HaltRec := none
  fault : Option FaultRec := none
  waitDone : Bool := false
  arrived : Bool := false
  endSem : Nat := 0
  /-- FTZ of an abandoned MMA (R40, R210). -/
  replayFtz : Option Bool := none
  /-- FTZ of the follower's half of an abandoned MMA.P, kept with its leader (R40, R210). -/
  replayPair : Option Bool := none
  /-- The stream has reached HALT or END and ends when its instructions have retired (R101). -/
  ending : Bool := false
  /-- Its end post has been made in the cycle in which it ends (R286). -/
  endPosted : Bool := false
  rstack : List Pc := []
  /-- CR.LOOP (R130). -/
  loop : Word := 0x8000000000000000
  fpmode : Word := 0
  fpstat : Word := 0
  regs : NMap SVal := []
  /-- First core cycle in which the engine may issue its next instruction (R159, R201, R247). -/
  nextIssue : Nat := 0
  /-- CR.CYCLE at the engine's last issue (R369). -/
  lastIssue : Nat := 0
  waiting : Option Waiting := none
  pending : Option Pending := none
  /-- The fetch of a code line from host memory or from another package (R60, R363, R411). -/
  codeAsk : Option LoadAsk := none
  deriving DecidableEq, Repr

/-- The scalar queues (R151) and data queues (R244). -/
inductive QName where
  | qsMem | qsVec | qsMtx | qr | lq (n : Nat) | sq (n : Nat)
  deriving DecidableEq, Repr

/-- An entry of a scalar queue: reserved by a flight until it is filled (R72). -/
structure SSlot where
  val : Option SVal := none
  flight : Nat := 0
  /-- The engine that reserved it and the core cycle of the reservation (R72, R151). -/
  eng : Engine := .seq
  cycle : Option Nat := none
  deriving DecidableEq, Repr

/-- An entry of a data queue. -/
structure DSlot where
  val : Option VVal := none
  flight : Nat := 0
  deriving DecidableEq, Repr

/-- What an issued instruction holds until it retires (R124, R158, R160, R180, R200, R246). -/
inductive Res where
  | sreg (e : Engine) (n : Nat)
  | vreg (n : Nat)
  | mask (n : Nat)
  | bp (n : Nat)
  | tile (n : Nat)
  /-- A vector or access instruction names cluster n. -/
  | cluster (n : Nat)
  /-- A matrix instruction makes cluster n busy. -/
  | acc (n : Nat)
  /-- A bank of the row column: written by ROW.PUT (R234). -/
  | bank (n : Nat)
  /-- A control register whose flags the instruction will raise. -/
  | fpstat (e : Engine)
  deriving DecidableEq, Repr

structure Claim where
  res : Res
  write : Bool
  deriving DecidableEq, Repr

/-- What retirement pushes into a reserved queue entry (R72). -/
inductive Fill where
  | scalar (q : QName) (v : SVal)
  | vector (q : QName) (v : VVal)
  deriving DecidableEq, Repr

/-- An instruction in flight: issued and not retired. `retireAt` is none while it waits for memory or a reply (DEDUCED, log entry 12). -/
structure Flight where
  id : Nat
  eng : Engine
  retireAt : Option Nat := none
  claims : List Claim := []
  fills : List Fill := []
  post : Option Nat := none
  /-- Its post has been made in its last cycle, before it retires (R286). -/
  posted : Bool := false
  flags : BitVec 6 := 0
  /-- The PC of the instruction, and whether its sync-field wait was taken (R210, R380). -/
  pc : Pc := .fin
  waited : Bool := false
  /-- The shadow's accumulator and FTZ, for an MMA-family operation (R207, R210). -/
  mma : Option (Nat × Bool) := none
  /-- Tiles an MMA-family operation reads, with the rows used (R211). -/
  mmaTiles : List (Nat × Nat) := []
  /-- The follower's core of an MMA.P (R208). -/
  partner : Option Nat := none
  /-- The semaphore a SEMP in flight increments (R290). -/
  semp : Option Nat := none
  deriving DecidableEq, Repr

/-- The progress of one line of a global access: not yet sent, waiting at the registry, or performed. -/
inductive PieceState where
  | idle | sent | done
  deriving DecidableEq, Repr

/-- Where the bytes of a piece lie, known when the access clears (R266, R411). -/
inductive Route where
  | cached
  | host (pa : Nat)
  | remote (pkg : Nat)
  deriving DecidableEq, Repr

/-- The bytes of one element of a global access in one 128-byte line: `off` is their place in the
instruction's data; `data` holds what is stored or has been loaded, `bad` marks the loaded bytes that carry poison. -/
structure Piece where
  va : Nat
  n : Nat
  off : Nat
  st : PieceState := .idle
  route : Route := .cached
  data : List Byte := []
  bad : List Bool := []
  /-- The poison stands for a package that was declared unreachable (R363). -/
  lost : Bool := false
  /-- Physical address and permissions (R, W, X, MIG in bits 0 to 3) that its translation gave (R264). -/
  xpa : Option (Nat × Nat) := none
  /-- Its line has got a miss-status entry for this access (R249). -/
  ent : Bool := false
  /-- Hub cycles of the last copy of its load packet and of its first, and how often it was repeated (R316, R363). -/
  sentAt : Nat := 0
  firstAt : Nat := 0
  tries : Nat := 0
  deriving DecidableEq, Repr

/-- Where the data of a load goes (R148, R254 to R258, R117, R359). -/
inductive LoadDst where
  | none
  | scalar (e : Engine) (d : SDst) (size : Nat) (sx spec : Bool)
  | vec (d : MVDst)
  | tile (t rows rbytes : Nat)
  | launch (d : Nat)
  | cqDesc (q : Nat) (mcast : Bool) (cpost : Option Nat)
  | cqList (q : Nat) (desc : List Byte) (cpost : Option Nat)
  deriving DecidableEq, Repr

/-- An operation of a requester stream, outstanding or not yet left (R303 to R307, R316): the opcode and TYPE of its request
(R308), the bytes it touches, its operands, and what the requester keeps for the reply. -/
structure RemOp where
  serial : Nat := 0
  /-- Access-engine opcode, or 0xF0 for a store piece; SIZE in the low three bits of `type` and SUBF above them. -/
  code : Nat
  type : Nat := 0
  ord : Ord := .rlx
  asid : Nat
  va : Nat
  n : Nat
  mask : BitVec 128 := 0
  /-- Operand; expected and new value of a CAS; line data, and the poisoned bytes of a copied piece; lane operands. -/
  opnd : List (BitVec 128) := []
  /-- Lanes of the group in ascending order and their operands, for VAMO (R326). -/
  lanes : List Nat := []
  vals : List Nat := []
  core : Nat
  eng : Engine := .mem
  flight : Nat := 0
  /-- The access whose piece this is. -/
  acc : Option Nat := none
  piece : Nat := 0
  /-- The copy queue, sequence, byte index and destination, for copy writes. -/
  copy : Option (Nat × Nat × Nat × Nat) := none
  /-- Hub cycles of its last copy and of its departure, and how often it has been resent (R316, R364). -/
  sentAt : Nat := 0
  leftAt : Nat := 0
  tries : Nat := 0
  /-- Insertion class at the home LLC when the owner is local (R321). -/
  hint : Nat := 0
  /-- The requester was killed: its reply is discarded (R320). -/
  discard : Bool := false
  /-- The team is saved: the reply goes to its record (R320). -/
  saved : Bool := false
  deriving DecidableEq, Repr

/-- A global access that is issued and not yet wholly performed (R247, R248). -/
structure Access where
  id : Nat
  eng : Engine
  store : Bool
  flight : Nat
  asid : Nat
  hint : Nat := 0
  /-- SIZE and SUBF of a store, for its pieces in other packages (R308). -/
  type : Nat := 0
  acq : Bool := false
  /-- A release store: its operations in other packages carry the ordering (R308, R315). -/
  rel : Bool := false
  cleared : Bool := false
  /-- Its parts have passed checks 6 and 7 and have taken their places (R252). -/
  checked : Bool := false
  issuedAt : Nat := 0
  dst : LoadDst := .none
  pieces : List Piece := []
  /-- Requested before an acquire: its fills install nothing (R342). -/
  noInstall : Bool := false
  /-- Ranges of the ACQRs that came after its request: its fills install none of their words (R284, R342). -/
  acqrs : List (Nat × Nat) := []
  /-- A prefetch holds nothing back and never faults (R262). -/
  pref : Bool := false
  /-- A VSCAT: its lines are taken in lane order (R303). -/
  scatter : Bool := false
  /-- Remote operations that have not been handed to a stream (R303, R306). -/
  ops : List RemOp := []
  /-- Queue entries popped at issue, which a fault gives back (R247). -/
  undoS : List SVal := []
  undoD : List (QName × VVal) := []
  deriving DecidableEq, Repr

/-- An L1 line (R264, R267, R337): valid and owned words, the write-backs sent and not acknowledged, and the translation it was
filled with. -/
structure L1Line where
  key : LineKey
  pa : Nat
  r : Bool
  w : Bool
  x : Bool
  /-- The page counts misses for migration (R278). -/
  mig : Bool := false
  valid : BitVec 32
  owned : BitVec 32
  data : LineData
  poison : BitVec 128 := 0
  rrpv : Nat := 0
  deriving DecidableEq, Repr

/-- A message of the coherence protocol that a core still has to see (R338 to R342, R442). -/
inductive CoreMsg where
  /-- Revoke these words; the slice waits for an answer. -/
  | revoke (key : LineKey) (words : BitVec 32)
  /-- Supply these words and keep them. -/
  | forward (key : LineKey) (words : BitVec 32)
  /-- The registry's answer to a store. -/
  | registered (key : LineKey) (words : BitVec 32) (acc part : Nat) (data : LineData) (poison : BitVec 128) (own : Bool)
  /-- A write-back was accepted. -/
  | wbAck (key : LineKey) (words : BitVec 32)
  deriving DecidableEq, Repr

/-- A write-back the core has sent and the slice has not acknowledged (R442). -/
structure WbOut where
  key : LineKey
  words : BitVec 32
  data : LineData
  poison : BitVec 128 := 0
  /-- The slice has received it and its acknowledgement is under way. -/
  taken : Bool := false
  /-- The CWB that waits for the acknowledgement (R283). -/
  cwb : Option Nat := none
  deriving DecidableEq, Repr

/-- A semaphore (R285). -/
structure Sem where
  count : Nat := 0
  cqrel : Bool := false
  deriving DecidableEq, Repr

/-- What one core cycle has done to the semaphores (R286): the waits granted, each with whether it cleared CQREL, and the posts applied, each with
its source: 0 and 1 for CQ0 and CQ1, 2 to 5 for seq, mem, vec and mtx. -/
structure SemLog where
  cycle : Nat := 0
  waits : List (Nat × Bool) := []
  posts : List (Nat × Nat) := []
  deriving DecidableEq, Repr

/-- The states of a bank of the row column (R223); open is ready from t_act + 14. -/
inductive BankMode where
  | closed | openNotReady | openReady | lapsedClosed
  deriving DecidableEq, Repr

/-- A bank of the core's row column (R223 to R227). Times are core cycles. -/
structure Bank where
  mode : BankMode := .closed
  row : Nat := 0
  tAct : Nat := 0
  lease : Nat := 0
  /-- First cycle in which the lease has run out (R225, R240). -/
  leaseEnd : Nat := 0
  leaseRun : Bool := false
  /-- Cycle of the last precharge by ROW.PRE or by refresh (R224), and of the last by any cause (R227, R240). -/
  tPre : Option Nat := none
  tClose : Option Nat := none
  /-- The row buffer as replaced by ROW.PUT (R233). -/
  put : Option RowData := none
  /-- Cycle in which a refresh that has not started fell due (R227). -/
  refreshDue : Option Nat := none
  /-- First cycle after a running refresh (R227). -/
  refreshEnd : Option Nat := none
  /-- Cycle in which the running refresh interval ends; none until the bank group is first allotted (R227). -/
  dueAt : Option Nat := none
  deriving DecidableEq, Repr

/-- A row instruction that has issued and not completed (R237). -/
structure RowJob where
  act : Bool
  bank : Nat
  ends : Nat
  deriving DecidableEq, Repr

/-- A copy command descriptor (R356). -/
structure CopyDesc where
  src : Nat
  dst : Nat
  width : Nat
  height : Nat
  sstride : Int
  dstride : Int
  ssp : Bool
  dsp : Bool
  n : Nat
  dhint : Nat
  deriving DecidableEq, Repr

/-- The kinds of copy-queue entry (R354, R359). -/
inductive CqKind where
  | put | mcast | fence
  deriving DecidableEq, Repr

/-- An entry of a copy queue (R354 to R360): `done` lists the indexes of pieces performed, `sent` those that have left
for another package; `waits` are the sequence numbers that a fence entry still awaits. -/
structure CqEntry where
  kind : CqKind
  seqNo : Nat
  desc : Option CopyDesc := none
  list : List Nat := []
  post : Option Nat := none
  cursor : Nat := 0
  done : List Nat := []
  sent : List Nat := []
  waits : List (Nat × Nat) := []
  /-- Destinations that have performed a piece: byte index and destination (R362). -/
  acks : List (Nat × Nat) := []
  /-- Reads of lines that the home has answered: physical address, the bytes asked for, what they hold and their poison (R350, R360). -/
  got : List (Nat × BitVec 128 × LineData × BitVec 128) := []
  /-- A source piece that has been read and waits for a stream to some destination: its index, bytes and poison (R362). -/
  held : Option (Nat × List Byte × List Bool) := none
  /-- Its reads in other packages, and its accesses to host memory, that wait for their answers (R363, R411). -/
  asks : List LoadAsk := []
  /-- It raised CQ_FAULT: cause and destination index (R361, R362). -/
  fail : Option (Nat × Nat) := none
  paused : Option HaltRec := none
  deriving DecidableEq, Repr

/-- Where the reply to a remote operation goes (R320, R325). -/
inductive RemoteDst where
  | none
  | scalar (d : SDst) (size : Nat)
  | pair (d : Nat)
  | lanes (d : Nat) (size : Nat)
  deriving DecidableEq, Repr

/-- An entry of a core's pending-remote table (R320, R377): the instruction, its ordering, its destination, how many of its
operations still have no reply, the stream slot and serial of the lowest one, and whether it acquires. -/
structure PendRemote where
  flight : Nat
  eng : Engine
  code : Nat
  type : Nat := 0
  ord : Ord
  dst : RemoteDst
  left : Nat
  slot : Nat := 0
  serial : Nat := 0
  /-- The semaphore that the instruction posts when it retires. -/
  post : Option Nat := none
  deriving DecidableEq, Repr

/-- A child launch recorded by a team (R117, R118). -/
structure Child where
  id : Nat
  status : Nat := 0
  retired : Bool := false
  deriving DecidableEq, Repr

/-- The core's watch-table entry (R297). -/
structure WatchEnt where
  key : LineKey
  va : Nat
  wake : Bool := false
  deriving DecidableEq, Repr

/-- The remote-failure record of a core (R317, R378). -/
structure RFail where
  cause : Cause
  count : Nat
  serial : Nat
  handle : Nat
  owner : Nat
  /-- FCODE of the first failure, for its report. -/
  fcode : Nat := 0
  deriving DecidableEq, Repr

/-- Where a poison tag stands: a scalar register, a V register, a mask, or an entry of a queue by the number of its instruction. -/
inductive TagPlace where
  | sreg (e : Engine) (n : Nat)
  | vreg (n : Nat)
  | mask (n : Nat)
  | entry (q : QName) (flight : Nat)
  deriving DecidableEq, Repr

/-- A failed operation whose destination holds a poison tag (R317): where the tag stands, and what the fault's report names. -/
structure TagOp where
  dst : Option TagPlace
  cause : Cause
  owner : Nat
  handle : Nat
  serial : Nat
  fcode : Nat
  deriving DecidableEq, Repr

/-- Who occupies a core (R98): a team of a gang of a launch, and the half (R10). -/
structure Occ where
  launch : Nat
  gang : Nat
  team : Nat
  half : Nat
  deriving DecidableEq, Repr

/-- The accumulator shadow (R210). -/
structure Shadow where
  acc : Nat
  rows : NMap VVal
  deriving DecidableEq, Repr

/-- How far a team has come to a stop (R367, R370). -/
inductive RunState where
  | running
  /-- A precise fault was raised in this core cycle; the other engines run on (R367). -/
  | draining (since : Nat)
  /-- Stopped by a trap and saved with STATE 2. -/
  | stopped
  deriving DecidableEq, Repr

/-- One core: its engines and everything a resident team owns (R98, R123 to R302) (DESIGN CHOICE, log entry 55). -/
structure CoreSt where
  inService : Bool := true
  occ : Option Occ := none
  run : RunState := .running
  seq : Stream := {}
  mem : Stream := {}
  vec : Stream := {}
  mtx : Stream := {}
  /-- P0 to P7 (R126, R129). -/
  preds : BitVec 8 := 1
  /-- CR.CYCLE counts from this value (R128): cycles of residence before the core cycle `resStart`. -/
  resBase : Nat := 0
  resStart : Nat := 0
  /-- Core cycle of the event that stopped the team here: the residence ends with it (R128, R370). -/
  stoppedAt : Option Nat := none
  /-- Cycle in which a restored team's streams restart (R240). -/
  restartAt : Option Nat := none
  /-- Remaining-time estimate and the residence at its last write (R112, R122). -/
  estVal : Nat := 0
  estAt : Nat := 0
  masks : NMap MaskVal := []
  bps : NMap (BitVec 1024) := []
  /-- V registers, which are the accumulator rows (R153). -/
  vregs : NMap VVal := []
  /-- Tile rows, row r of Tn under 128 n + r (R196). -/
  tiles : NMap TileRow := []
  /-- TC.T0 to TC.T15 (R197) and TC.ACC0 to TC.ACC2 (R199). -/
  tcT : NMap Word := []
  tcAcc : NMap Word := []
  shadow : Option Shadow := none
  /-- The follower of an MMA.P in flight issues nothing (R208). -/
  held : Bool := false
  /-- First core cycle in which the EXIT of a follower may complete after an MMA.P (R208, R438). -/
  heldTo : Nat := 0
  /-- Cluster on which the leader's MMA.P is pending in this half (R158). -/
  pairPend : Option Nat := none
  spm : List Host.Cell := []
  /-- Poisoned 8-byte granules of the scratchpad (R243). -/
  spmPoison : NMap Unit := []
  sems : NMap Sem := []
  /-- The semaphores in the current core cycle (R286). -/
  semLog : SemLog := {}
  qsMem : List SSlot := []
  qsVec : List SSlot := []
  qsMtx : List SSlot := []
  qr : List SSlot := []
  /-- Sequencer queues that were full at their last pop, with the cycle of that pop once its instruction has issued (R437). -/
  freed : NMap (Option Nat) := []
  /-- LQ0 to LQ3 under 0 to 3 and SQ0, SQ1 under 4 and 5 (R244). -/
  dqs : NMap (List DSlot) := []
  flights : List Flight := []
  nextId : Nat := 0
  accesses : List Access := []
  /-- Requests that found no free miss-status entry, in order of their first rejection: access and line (R249). -/
  mseWait : List (Nat × Nat) := []
  l1 : List L1Line := []
  inbox : List CoreMsg := []
  wbOut : List WbOut := []
  /-- Answers to revocations and to forward requests on their way to the slice (R340). -/
  rvkOut : List WbOut := []
  fwdOut : List WbOut := []
  /-- Instruction memories: line i of an engine's memory (R60). -/
  imemSeq : NMap (BitVec 512) := []
  imemMem : NMap (BitVec 512) := []
  imemVec : NMap (BitVec 512) := []
  imemMtx : NMap (BitVec 512) := []
  banks : NMap Bank := []
  rowJobs : List RowJob := []
  actCount : Nat := 0
  /-- Issue cycles of recent ROW.ACT instructions, newest first (R226). -/
  actTimes : List Nat := []
  cq0 : List CqEntry := []
  cq1 : List CqEntry := []
  cqSeq : Nat := 0
  pend : List PendRemote := []
  /-- Stream bindings of the core, CQ0 and CQ1: requester slot by owner package (R304, R377). -/
  bindCore : NMap Nat := []
  bindCq0 : NMap Nat := []
  bindCq1 : NMap Nat := []
  rfail : Option RFail := none
  /-- Failed operations with a tagged destination, newest first (R317). -/
  tagOps : List TagOp := []
  children : List Child := []
  childId : Nat := 0
  watch : Option WatchEnt := none
  overflow : Bool := false
  /-- End of an MWAIT's timeout in hub cycles (R300, R378). -/
  deadline : Option Nat := none
  acqPending : Bool := false
  exitStatus : Option Word := none
  /-- RSP.ST writes on their way to this core, oldest first: offset and data (R259). -/
  rspIn : List (Nat × Nat × VData) := []
  /-- First trap of the team (R371, R378). -/
  tcode : Nat := 0
  tcodePrio : Nat := 8
  tcodeEng : Engine := .seq
  /-- A tile error has abandoned an operation of this core in this core cycle: the first trap as it stood before (R211, R382). -/
  tileTrap : Option (Nat × Nat × Nat × Engine) := none
  /-- Code and PC of a BKPT (R140). -/
  bkptArg : Option (Nat × Nat) := none
  /-- The copy command that TCODE is about: its queue, its sequence and, once it has left, its index from the head (R288, R361). -/
  cqArg : Option (Nat × Nat × Option Nat) := none
  /-- A team-level event stops all four engines (R370). -/
  event : Bool := false
  /-- Cycle of a copy queue's SEM_OVERFLOW: the waits of that cycle are granted all the same (R288). -/
  grace : Option Nat := none
  deriving DecidableEq, Repr

end Sys2Proof.Machine
end

