-- ==== Sys2Proof/Machine/Float.lean ====
section
/-! DEFINITION. Number formats and exact arithmetic: decoding, rounding, flags, conversions and special functions (R23 to R44). -/

namespace Sys2Proof.Machine

/-- Layout of a floating-point format (R25). -/
structure Fmt where
  ew : Nat
  fw : Nat
  bias : Nat
  /-- It has infinities; E4M3 and E2M1 have none. -/
  hasInf : Bool
  /-- Bits of the canonical NaN (R29); E2M1 has none. -/
  nan : Option Nat
  /-- FTZ acts on the format (R35). -/
  flush : Bool
  deriving DecidableEq, Repr

/-- Rounding modes (R33). -/
inductive RMode where
  | rne | rtz | rup | rdn
  deriving DecidableEq, Repr

/-- Formats by element type (R25, R29); an integer type takes the FP32 entry, which is never used. -/
def fmtOf : ElemType → Fmt
  | .f64 => ⟨11, 52, 1023, true, some 0x7FF8000000000000, true⟩
  | .f16 => ⟨5, 10, 15, true, some 0x7E00, true⟩
  | .bf16 => ⟨8, 7, 127, true, some 0x7FC0, true⟩
  | .e5m2 => ⟨5, 2, 15, true, some 0x7E, false⟩
  | .e4m3 => ⟨4, 3, 7, false, some 0x7F, false⟩
  | .e2m1 => ⟨2, 1, 1, false, none, false⟩
  | _ => ⟨8, 23, 127, true, some 0x7FC00000, true⟩

/-- A value: NaN (signalling or not), an infinity, or the exact number m × 2^e with a sign (zero has m = 0). -/
inductive FVal where
  | nan (sig : Bool)
  | inf (neg : Bool)
  | fin (neg : Bool) (m : Nat) (e : Int)
  deriving DecidableEq, Repr

/-- Flags of CR.FPSTAT (R37). -/
abbrev Flags := BitVec 6
def flNV : Flags := 0b000001
def flDZ : Flags := 0b000010
def flOF : Flags := 0b000100
def flUF : Flags := 0b001000
def flNX : Flags := 0b010000

/-- Sign bit position of a format. -/
def Fmt.signBit (t : Fmt) : Nat := t.ew + t.fw

/-- The value of an encoding (R25 to R27). -/
def decodeF (t : Fmt) (bits : Nat) : FVal :=
  let neg := bits.testBit t.signBit
  let ex := bits >>> t.fw % 2 ^ t.ew
  let fr := bits % 2 ^ t.fw
  if t.hasInf && ex == 2 ^ t.ew - 1 then
    if fr = 0 then .inf neg else .nan (!(fr.testBit (t.fw - 1)))
  else if !t.hasInf && t.nan.isSome && ex == 2 ^ t.ew - 1 && fr == 2 ^ t.fw - 1 then .nan false
  else if ex = 0 then .fin neg fr (1 - (t.bias : Int) - t.fw)
  else .fin neg (fr + 2 ^ t.fw) ((ex : Int) - t.bias - t.fw)

/-- FTZ on an input: a subnormal is read as zero of its sign (R35). -/
def flushIn (t : Fmt) (ftz : Bool) (v : FVal) : FVal :=
  match v with
  | .fin neg m e => if ftz && t.flush && m < 2 ^ t.fw then .fin neg 0 e else v
  | _ => v

/-- An input of a vector float instruction. -/
def readF (t : Fmt) (ftz : Bool) (bits : Nat) : FVal := flushIn t ftz (decodeF t bits)

def signBits (t : Fmt) (neg : Bool) : Nat := if neg then 2 ^ t.signBit else 0
/-- Bits of ± infinity, or of the largest finite value where the format has none. -/
def maxBits (t : Fmt) : Nat :=
  if t.hasInf then (2 ^ t.ew - 2) * 2 ^ t.fw + (2 ^ t.fw - 1)
  else if t.nan.isSome then 2 ^ (t.ew + t.fw) - 2 else 2 ^ (t.ew + t.fw) - 1
def infBits (t : Fmt) : Nat := if t.hasInf then (2 ^ t.ew - 1) * 2 ^ t.fw else maxBits t
def nanBits (t : Fmt) : Nat := t.nan.getD 0

/-- Whether a rounding goes away from zero: quotient parity, remainder against half, sticky below (R34). -/
def roundsUp (rm : RMode) (neg odd : Bool) (cmpHalf : Ordering) (inexact : Bool) : Bool :=
  match rm with
  | .rne => (match cmpHalf with | .gt => true | .eq => odd | .lt => false)
  | .rtz => false
  | .rup => inexact && !neg
  | .rdn => inexact && neg

/-- m / 2^sh rounded to an integer, with whether it was inexact; `sticky` says that the exact value lies above m
by less than one unit of m. -/
def roundShift (rm : RMode) (neg : Bool) (m sh : Nat) (sticky : Bool) : Nat × Bool :=
  let q := m >>> sh
  let r := m % 2 ^ sh
  let half := 2 ^ (sh - 1)
  let inexact := r != 0 || sticky
  let c : Ordering :=
    if sh = 0 then .lt else if r > half then .gt else if r < half then .lt else if sticky then .gt else .eq
  (if roundsUp rm neg (q % 2 == 1) c inexact then q + 1 else q, inexact)

/-- m × 2^e with a guard of at least `g` low bits, so that a sticky value can be rounded. -/
def widen (m : Nat) (e : Int) (g : Nat) : Nat × Int := (m <<< g, e - g)

/-- round_to of a non-zero magnitude (R34, R35): bits and flags. `sat` is the saturating rule of VQNT (R169), which
raises no overflow. -/
def roundMag (t : Fmt) (rm : RMode) (ftz sat neg : Bool) (m0 : Nat) (e0 : Int) (sticky : Bool) : Nat × Flags :=
  let (m, e) := widen m0 e0 (t.fw + 4)
  let E : Int := (Nat.log2 m : Int) + e
  let q : Int := E - t.fw
  let (r, inx) := roundShift rm neg m (q - e).toNat sticky
  let carry := r == 2 ^ (t.fw + 1)
  let E' := if carry then E + 1 else E
  let r' := if carry then 2 ^ t.fw else r
  let emin : Int := 1 - t.bias
  let sg := signBits t neg
  if E' < emin then
    if ftz && t.flush then (sg, flUF ||| flNX)
    else
      let (s, inx') := roundShift rm neg m (emin - t.fw - e).toNat sticky
      (sg + s, if inx' then flUF ||| flNX else 0)
  else
    let body := (E' + t.bias).toNat * 2 ^ t.fw + (r' - 2 ^ t.fw)
    if (E' + t.bias).toNat ≥ 2 ^ t.ew || body > maxBits t then
      if sat then (sg + maxBits t, flNX)
      else
        let toInf := match rm with | .rne => true | .rtz => false | .rup => !neg | .rdn => neg
        (sg + (if toInf then infBits t else maxBits t), flOF ||| flNX)
    else (sg + body, if inx then flNX else 0)

/-- A result before rounding, with the flags that its operation raised. -/
structure FRes where
  v : FVal
  sticky : Bool := false
  fl : Flags := 0
  deriving DecidableEq, Repr

/-- Rounds a result into a format (R29, R34, R35). -/
def roundF (t : Fmt) (rm : RMode) (ftz : Bool) (x : FRes) : Nat × Flags :=
  match x.v with
  | .nan _ => (nanBits t, x.fl)
  | .inf neg => (signBits t neg + infBits t, x.fl)
  | .fin neg m e =>
    if m = 0 then (signBits t neg, x.fl)
    else
      let (b, f) := roundMag t rm ftz false neg m e x.sticky
      (b, f ||| x.fl)

/-- Invalid when an input is a signalling NaN (R36). -/
def sigFlag (v : FVal) : Flags := match v with | .nan true => flNV | _ => 0
def FVal.isNan : FVal → Bool
  | .nan _ => true | _ => false
def FVal.isInf : FVal → Bool
  | .inf _ => true | _ => false
def FVal.isZero : FVal → Bool
  | .fin _ 0 _ => true | _ => false
def FVal.neg : FVal → Bool
  | .nan _ => false | .inf s => s | .fin s _ _ => s
def FVal.flip : FVal → FVal
  | .nan s => .nan s | .inf s => .inf (!s) | .fin s m e => .fin (!s) m e

/-- A signed number at a common exponent. -/
def signedAt (neg : Bool) (m : Nat) (e base : Int) : Int :=
  let k : Int := ((m <<< (e - base).toNat : Nat) : Int)
  if neg then -k else k

/-- Sum of two finite values, exact, with the zero sign of R164. -/
def addFin (rm : RMode) (n1 : Bool) (m1 : Nat) (e1 : Int) (n2 : Bool) (m2 : Nat) (e2 : Int) : FVal :=
  let b := min e1 e2
  let s := signedAt n1 m1 e1 b + signedAt n2 m2 e2 b
  if s = 0 then
    .fin (if m1 = 0 ∧ m2 = 0 ∧ n1 = n2 then n1 else rm == .rdn) 0 b
  else .fin (s < 0) s.natAbs b

/-- Product of two values (R36). -/
def mulV (a b : FVal) : FRes :=
  let fl := sigFlag a ||| sigFlag b
  if a.isNan || b.isNan then { v := .nan false, fl := fl }
  else match a, b with
  | .fin n1 m1 e1, .fin n2 m2 e2 => { v := .fin (n1 != n2) (m1 * m2) (e1 + e2) }
  | x, y =>
    if x.isZero || y.isZero then { v := .nan false, fl := flNV } else { v := .inf (x.neg != y.neg) }

/-- Sum of two values (R36). -/
def addV (rm : RMode) (a b : FVal) : FRes :=
  let fl := sigFlag a ||| sigFlag b
  if a.isNan || b.isNan then { v := .nan false, fl := fl }
  else match a, b with
  | .fin n1 m1 e1, .fin n2 m2 e2 => { v := addFin rm n1 m1 e1 n2 m2 e2 }
  | .inf s, .inf t => if s = t then { v := .inf s } else { v := .nan false, fl := flNV }
  | .inf s, _ => { v := .inf s }
  | _, y => { v := .inf y.neg }

/-- a × b + c with one rounding; 0 × ∞ is invalid whatever the addend (R36, R164). -/
def fmaV (rm : RMode) (a b c : FVal) : FRes :=
  let p := mulV a b
  let fl := p.fl ||| sigFlag c
  match p.v with
  | .nan _ => { v := .nan false, fl := fl }
  | pv =>
    let s := addV rm pv c
    { s with fl := s.fl ||| fl }

/-- minimumNumber and maximumNumber (R164): the chosen operand, or NaN when both are. -/
def lessV (a b : FVal) : Bool :=
  match a, b with
  | .inf s, .inf t => s && !t
  | .inf s, _ => s
  | _, .inf t => !t
  | .fin n1 m1 e1, .fin n2 m2 e2 =>
    let base := min e1 e2
    signedAt n1 m1 e1 base < signedAt n2 m2 e2 base
  | _, _ => false

/-- Total order on numbers that puts −0 below +0. -/
def lessZ (a b : FVal) : Bool :=
  if a.isZero && b.isZero then a.neg && !b.neg else lessV a b

def minMaxV (isMax : Bool) (a b : FVal) : FRes :=
  let fl := sigFlag a ||| sigFlag b
  if a.isNan && b.isNan then { v := .nan false, fl := fl }
  else if a.isNan then { v := b, fl := fl }
  else if b.isNan then { v := a, fl := fl }
  else if isMax then { v := if lessZ a b then b else a } else { v := if lessZ b a then b else a }

/-- x / y (R36); a quotient of finite numbers carries enough bits and a sticky remainder. -/
def divV (prec : Nat) (a b : FVal) : FRes :=
  let fl := sigFlag a ||| sigFlag b
  let s := a.neg != b.neg
  if a.isNan || b.isNan then { v := .nan false, fl := fl }
  else match a, b with
  | .inf _, .inf _ => { v := .nan false, fl := flNV }
  | .inf _, _ => { v := .inf s }
  | _, .inf _ => { v := .fin s 0 0 }
  | .fin _ m1 e1, .fin _ m2 e2 =>
    if m2 = 0 then
      if m1 = 0 then { v := .nan false, fl := flNV } else { v := .inf s, fl := flDZ }
    else if m1 = 0 then { v := .fin s 0 0 }
    else
      let k := prec + 4 + Nat.log2 m2
      let n := m1 <<< k
      { v := .fin s (n / m2) (e1 - e2 - k), sticky := n % m2 != 0 }
  | _, _ => { v := .nan false, fl := fl }

/-- Integer square root, bit by bit from bit `k`. -/
def isqrtFrom : Nat → Nat → Nat → Nat
  | 0, n, r => if (r + 1) * (r + 1) ≤ n then r + 1 else r
  | k + 1, n, r =>
    let r' := r + 2 ^ (k + 1)
    isqrtFrom k n (if r' * r' ≤ n then r' else r)

def isqrt (n : Nat) : Nat := isqrtFrom (Nat.log2 n / 2 + 1) n 0

/-- An exponent made even: (m, e) with e even. -/
def evenExp (m : Nat) (e : Int) : Nat × Int := if e % 2 = 0 then (m, e) else (m * 2, e - 1)

/-- √x (R36). -/
def sqrtV (prec : Nat) (a : FVal) : FRes :=
  match a with
  | .nan s => { v := .nan false, fl := sigFlag (.nan s) }
  | .inf true => { v := .nan false, fl := flNV }
  | .inf false => { v := .inf false }
  | .fin neg m e =>
    if m = 0 then { v := .fin neg 0 0 }
    else if neg then { v := .nan false, fl := flNV }
    else
      let (m', e') := evenExp m e
      let k := prec + 4
      let n := m' <<< (2 * k)
      let r := isqrt n
      { v := .fin false r (e' / 2 - k), sticky := r * r != n }

/-- 1/√x (R36). -/
def rsqV (prec : Nat) (a : FVal) : FRes :=
  match a with
  | .nan s => { v := .nan false, fl := sigFlag (.nan s) }
  | .inf true => { v := .nan false, fl := flNV }
  | .inf false => { v := .fin false 0 0 }
  | .fin neg m e =>
    if m = 0 then { v := .inf neg, fl := flDZ }
    else if neg then { v := .nan false, fl := flNV }
    else
      let (m', e') := evenExp m e
      let k := prec + 4 + Nat.log2 m'
      let n := 1 <<< (2 * k)
      let r := isqrt (n / m')
      { v := .fin false r (-(e' / 2) - k), sticky := r * r * m' != n }

/-- Fraction bits of the fixed-point evaluation of the transcendental functions. -/
def fxBits : Nat := 600
/-- Floor of π × 2^600 and of ln 2 × 2^600. -/
def fxPi : Nat := 13036087627152999135228793149325883706411451860641517059512692589349356927284956232122985947124868324260373329126004229970251138265841936145774751301626362401504686637351871636910347
def fxLn2 : Nat := 2876225017259457803941422075936356235510355236981739542476444676843237809403636166587937224051855780383968483986161182568312219414999934030440139693377154550791842205675450932055002
def fxMul (a b : Nat) : Nat := (a * b) >>> fxBits

/-- Sum of y^k / k! from term k on, in fixed point. -/
def expSum : Nat → Nat → Nat → Nat → Nat
  | 0, _, _, _ => 0
  | f + 1, y, k, term => term + expSum f y (k + 1) (fxMul term y / (k + 1))

/-- 2^f for a fraction f in fixed point. -/
def fxExp2 (f : Nat) : Nat := expSum 150 (fxMul f fxLn2) 0 (1 <<< fxBits)

/-- Sum of z^(2k+1) / (2k+1). -/
def atanhSum : Nat → Nat → Nat → Nat → Nat
  | 0, _, _, _ => 0
  | f + 1, z2, k, p => p / (2 * k + 1) + atanhSum f z2 (k + 1) (fxMul p z2)

/-- log2 of y in [1, 2), in fixed point: 2 atanh((y − 1)/(y + 1)) / ln 2. -/
def fxLog2 (y : Nat) : Nat :=
  let one := 1 <<< fxBits
  let z := ((y - one) <<< fxBits) / (y + one)
  ((2 * atanhSum 200 (fxMul z z) 0 z) <<< fxBits) / fxLn2

/-- Alternating series of sine or cosine: signed sum from term k on. -/
def trigSum : Nat → Nat → Nat → Nat → Int
  | 0, _, _, _ => 0
  | f + 1, y2, k, term => (term : Int) - trigSum f y2 (k + 2) (fxMul term y2 / ((k + 1) * (k + 2)))

/-- sin(π t) and cos(π t) for t in (0, 1/2), in fixed point. -/
def fxSinPi (t : Nat) : Nat :=
  let y := fxMul t fxPi
  (trigSum 100 (fxMul y y) 1 y).toNat
def fxCosPi (t : Nat) : Nat :=
  let y := fxMul t fxPi
  (trigSum 100 (fxMul y y) 0 (1 <<< fxBits)).toNat

/-- A finite value as an integer part and a fraction in fixed point (floor division for negatives); exact, since the operands
of the special functions have at most 149 fraction bits. -/
def fxSplit (neg : Bool) (m : Nat) (e : Int) : Int × Nat :=
  let n : Int := signedAt neg m (e + fxBits) 0
  (n / (2 ^ fxBits : Nat), (n % (2 ^ fxBits : Nat)).toNat)

/-- 2^x (R43, R44). A magnitude beyond every exponent range overflows or underflows at once. -/
def exp2V (a : FVal) : FRes :=
  match a with
  | .nan s => { v := .nan false, fl := sigFlag (.nan s) }
  | .inf true => { v := .fin false 0 0 }
  | .inf false => { v := .inf false }
  | .fin neg m e =>
    if m = 0 then { v := .fin false 1 0 }
    else if (Nat.log2 m : Int) + e ≥ 12 then { v := .fin false 1 (if neg then -5000 else 5000), sticky := true }
    else
      let (n, f) := fxSplit neg m e
      if f = 0 then { v := .fin false 1 n }
      else { v := .fin false (fxExp2 f) (n - fxBits), sticky := true }

/-- log2 x (R36, R43, R44). -/
def log2V (a : FVal) : FRes :=
  match a with
  | .nan s => { v := .nan false, fl := sigFlag (.nan s) }
  | .inf true => { v := .nan false, fl := flNV }
  | .inf false => { v := .inf false }
  | .fin neg m e =>
    if m = 0 then { v := .inf true, fl := flDZ }
    else if neg then { v := .nan false, fl := flNV }
    else
      let l := Nat.log2 m
      let E : Int := l + e
      if m = 2 ^ l then { v := .fin (E < 0) E.natAbs 0 }
      else
        let s : Int := E * (2 ^ fxBits : Nat) + fxLog2 ((m <<< fxBits) >>> l)
        { v := .fin (s < 0) s.natAbs (-fxBits), sticky := true }

/-- sin(π t) for a reduced t in [0, 2) in fixed point, as a sign, a magnitude and whether it is exact. -/
def sinQuad (t : Nat) : Bool × Nat × Bool :=
  let one := 1 <<< fxBits
  let neg := decide (t ≥ one)
  let u := if neg then t - one else t
  let half := one / 2
  if u = 0 then (neg, 0, true)
  else if u = half then (neg, one, true)
  else
    let w := if u > half then one - u else u
    (neg, if w > one / 4 then fxCosPi (half - w) else fxSinPi w, false)

/-- A finite value modulo 2, in fixed point: exact, since a large magnitude has no fraction bits. -/
def fxMod2 (neg : Bool) (m : Nat) (e : Int) : Nat :=
  let n : Int := signedAt neg m (e + fxBits) 0
  (n % (2 ^ (fxBits + 1) : Nat)).toNat

/-- sin πx (R36, R43, R44): the zero of an integer takes the sign of its argument. -/
def sinpV (a : FVal) : FRes :=
  match a with
  | .nan s => { v := .nan false, fl := sigFlag (.nan s) }
  | .inf _ => { v := .nan false, fl := flNV }
  | .fin neg m e =>
    let (s, y, exact) := sinQuad (fxMod2 neg m e)
    if y = 0 then { v := .fin neg 0 0 } else { v := .fin s y (-fxBits), sticky := !exact }

/-- cos πx = sin π(x + 1/2) (R36, R43, R44): a zero is +0. -/
def cospV (a : FVal) : FRes :=
  match a with
  | .nan s => { v := .nan false, fl := sigFlag (.nan s) }
  | .inf _ => { v := .nan false, fl := flNV }
  | .fin neg m e =>
    let (s, y, exact) := sinQuad ((fxMod2 neg m e + 2 ^ (fxBits - 1)) % 2 ^ (fxBits + 1))
    if y = 0 then { v := .fin false 0 0 } else { v := .fin s y (-fxBits), sticky := !exact }

/-- Rounding mode of CR.FPMODE (R33). -/
def rmOf (fpmode : Word) : RMode :=
  match (fpmode.toNat % 4) with
  | 0 => .rne | 1 => .rtz | 2 => .rup | _ => .rdn
def ftzOf (fpmode : Word) : Bool := fpmode.getLsbD 2

/-- A w-bit pattern as a signed number. -/
def asInt (w n : Nat) : Int := if n.testBit (w - 1) then (n : Int) - (2 ^ w : Nat) else n

/-- Value of a w-bit integer lane of a type. -/
def intVal (sgn : Bool) (w n : Nat) : Int := if sgn then asInt w n else n

/-- wrap_to (R7). -/
def wrapTo (w : Nat) (x : Int) : Nat := (x % (2 ^ w : Nat)).toNat

/-- Range of an integer type. -/
def intMin (sgn : Bool) (w : Nat) : Int := if sgn then -(2 ^ (w - 1) : Nat) else 0
def intMax (sgn : Bool) (w : Nat) : Int := if sgn then (2 ^ (w - 1) : Nat) - 1 else (2 ^ w : Nat) - 1

/-- saturate_to (R7). -/
def satTo (sgn : Bool) (w : Nat) (x : Int) : Nat :=
  wrapTo w (if x < intMin sgn w then intMin sgn w else if x > intMax sgn w then intMax sgn w else x)

/-- A float to an integer type: rounding, clamping and flags (R42). -/
def floatToInt (rm : RMode) (sgn : Bool) (w : Nat) (v : FVal) : Nat × Flags :=
  match v with
  | .nan _ => (0, flNV)
  | .inf neg => (wrapTo w (if neg then intMin sgn w else intMax sgn w), flNV)
  | .fin neg m e =>
    let (q, inx) := if e ≥ 0 then (m <<< e.toNat, false) else roundShift rm neg m (-e).toNat false
    let x : Int := if neg then -(q : Int) else q
    if x < intMin sgn w ∨ x > intMax sgn w then (satTo sgn w x, flNV)
    else (wrapTo w x, if inx then flNX else 0)

/-- An integer as an exact value. -/
def intToF (x : Int) : FVal := .fin (x < 0) x.natAbs 0

/-- A float to a float format (R41). -/
def floatToFloat (t : Fmt) (rm : RMode) (ftz : Bool) (v : FVal) : Nat × Flags :=
  match v with
  | .nan s => (nanBits t, (if s || t.nan.isNone then flNV else 0))
  | .inf neg => (signBits t neg + infBits t, if t.hasInf then 0 else flNV)
  | x => roundF t rm ftz { v := x }

/-- Conversion of one element between any two types but E8M0 (R41, R42, R168); INT4 is an integer type of width 4. -/
def convElem (rm : RMode) (ftz : Bool) (ts td : ElemType) (ws wd : Nat) (x : Nat) : Nat × Flags :=
  if ts.isInt then
    let v := intVal ts.isSigned ws x
    if td.isInt then
      (if wd > ws then wrapTo wd v else satTo td.isSigned wd v, 0)
    else roundF (fmtOf td) rm ftz { v := intToF v }
  else
    let v := readF (fmtOf ts) ftz x
    if td.isInt then floatToInt rm td.isSigned wd v else floatToFloat (fmtOf td) rm ftz v

end Sys2Proof.Machine
end

