-- ==== Sys2Proof/Machine/Flags.lean ====
section
/-! DEFINITION. The flag and mode registers of an engine: which bits exist, sticky setting, and the flags of a list of lanes. -/

namespace Sys2Proof.Machine

/-- Bits of CR.FPMODE that are not reserved (R33, R3). -/
def fpmodeBits : Word := 0x7

/-- Bits of CR.FPSTAT that are not reserved (R37, R3). -/
def fpstatBits : Word := 0x3F

/-- Flags are sticky: an instruction sets them and never clears one (R38). -/
def stickyFlags (fpstat : Word) (f : Flags) : Word := fpstat ||| f.setWidth 64

/-- What one lane of a vector instruction gives: its bits, its tag and the flags it raises (R161, R162). -/
structure LaneOut where
  val : Nat
  tag : Option Cause := none
  flags : Flags := 0
  deriving DecidableEq, Repr

/-- Flags of all active lanes (R38); an inactive lane is none. -/
def laneFlags : List (Option LaneOut) → Flags
  | [] => 0
  | none :: t => laneFlags t
  | some x :: t => x.flags ||| laneFlags t

end Sys2Proof.Machine
end

