-- ==== Sys2Proof/Machine/HubTypes.lean ====
section
/-! DEFINITION. The plain-data types of the hub: LLC lines with registry and host directory, translation, migration, remote operation streams, dispatch, placement. -/

namespace Sys2Proof.Machine

/-- Host directory states of a line (R350) (DEDUCED, log entry 28). -/
inductive HostDir where
  | hi | hs | he | ho | hm
  deriving DecidableEq, Repr

/-- An owner slot of a registry entry (R337). -/
structure OwnSlot where
  core : Nat
  words : BitVec 32
  time : Nat
  deriving DecidableEq, Repr

/-- Requests that a slice serves at a line (R338, R339). -/
inductive LineReq where
  /-- A store of core's access `acc`, piece `part`: bytes of the line written, and whether words are registered. -/
  | store (core acc part : Nat) (own : Bool)
  | read (core acc part : Nat) (hint : Nat)
  /-- An I/O-coherent write; of a copy command, with its sequence and the byte index of its piece. -/
  | ioWrite (ag : IoAgent) (seqNo idx : Nat) (mask : BitVec 128) (data : LineData) (poison : BitVec 128)
  | ioRead (ag : IoAgent) (mask : BitVec 128)
  | hostShared
  | hostExclusive
  /-- A home-atomic-unit operation, by handle and serial (R311). -/
  | home (handle serial : Nat) (words : BitVec 32)
  deriving DecidableEq, Repr

/-- States of a registry entry (R340) and of the host directory's transients (R351). -/
inductive LineSt where
  | stable
  /-- Waits for one answer from each core listed, for the words revoked. -/
  | rvk (wait : List Nat) (words : BitVec 32) (req : LineReq)
  /-- Waits for the owners' words. -/
  | fwd (wait : List Nat) (req : LineReq)
  | hrev (wait : List Nat) (words : BitVec 32) (req : LineReq)
  /-- Waits for the host: invalidation, snoop, recall (HSI, HSN, HRC). -/
  | hsi (req : LineReq)
  | hsn (req : LineReq)
  | hrc (req : LineReq)
  deriving DecidableEq, Repr

/-- An LLC line (R264, R253, R337): its translation and bytes, whether it was written since it was filled, and the registry
and host directory entries. `poison` marks the bytes of a marked 64-byte granule that have not been written since. -/
structure LlcLine where
  key : LineKey
  pa : Nat
  r : Bool
  w : Bool
  x : Bool
  /-- Its misses count for migration (R278). -/
  mig : Bool := false
  /-- It holds the place of a line that is not allocated, while an access with HINT 3 is under way at it (R267). -/
  temp : Bool := false
  data : LineData
  dirty : Bool := false
  poison : BitVec 128 := 0
  rrpv : Nat := 0
  slots : List OwnSlot := []
  st : LineSt := .stable
  queue : List LineReq := []
  host : HostDir := .hi
  /-- What the host supplied for a read at the home while it keeps the line dirty (HO, R350). -/
  snoop : Option LineData := none
  /-- Words forwarded by owners while in FWD (R340). -/
  fwdData : LineData := 0
  fwdBad : BitVec 128 := 0
  fwdWords : BitVec 32 := 0
  /-- Cores whose write-back was taken as their answer: their next answer completes nothing (R341). -/
  stale : List Nat := []
  /-- A home-atomic-unit operation, by handle and serial, is between steps 3 and 5 of R311. -/
  held : Option (Nat × Nat) := none
  /-- Hub cycle in which the transient state was entered, and that of the last request performed. -/
  since : Nat := 0
  servedAt : Option Nat := none
  /-- Hub cycle and rank of the last request that arrived (R339). -/
  arrivedAt : Option (Nat × Nat) := none
  deriving DecidableEq, Repr

/-- A TLB entry of a translation agent (R273). -/
structure TlbEnt where
  agent : Nat
  asid : Nat
  desc : Nat
  page : Nat
  pa : Nat
  r : Bool
  w : Bool
  x : Bool
  moving : Bool
  base : Nat
  size : Nat
  mig : Bool
  deriving DecidableEq, Repr

/-- A region of the migration counter table (R278). -/
structure MigRegion where
  asid : Nat
  va : Nat
  counts : List Nat
  /-- Physical address of the access that made the region, whose stack is its home when its first page is not mapped. -/
  pa : Nat := 0
  /-- Hub cycle in which a request was last raised. -/
  raised : Option Nat := none
  deriving DecidableEq, Repr

/-- Who holds a requester slot: a core's engines or one of its copy queues (R304, R360). -/
inductive StreamUser where
  | core | cq0 | cq1
  deriving DecidableEq, Repr

/-- State of a requester slot (R304, R305). -/
inductive SlotSt where
  | free | opening | isOpen | closing
  deriving DecidableEq, Repr

/-- A requester stream slot (R304). -/
structure ReqSlot where
  st : SlotSt := .free
  handle : Nat := 0
  owner : Nat := 0
  next : Nat := 0
  floor : Nat := 0
  nonce : Nat := 0
  bound : Option Occ := none
  core : Nat := 0
  user : StreamUser := .core
  out : List RemOp := []
  /-- Operations that wait to leave, oldest first (R304, R306). -/
  waitq : List RemOp := []
  /-- Highest FLOOR the owner has confirmed (R307). -/
  acked : Nat := 0
  /-- Hub cycle of the first FLOOR advance that no packet has carried yet (R307). -/
  floorAt : Option Nat := none
  /-- The ACK packets that are repeated until they are answered, oldest first: FLOOR, the hub cycle of the last copy, how often it was repeated, and
  the hub cycle of the first copy (R307, R316). -/
  ackSent : List (Nat × Nat × Nat × Nat) := []
  /-- Hub cycle of the last copy of OPEN or CLOSE, of its first copy, and of the last use. -/
  lastSent : Nat := 0
  ctlSince : Nat := 0
  lastUse : Nat := 0
  ctlTries : Nat := 0
  /-- Its requester has ended or was killed: it closes when its last reply has arrived (R304, R320). -/
  dead : Bool := false
  deriving DecidableEq, Repr

/-- Result-cache entry states (R310); a free entry is not listed. -/
inductive EntSt where
  | held | executing | done
  deriving DecidableEq, Repr

/-- The effect a commit will have at step 5 of R311: line, physical address, byte mask and bytes. -/
structure Commit where
  key : Option LineKey := none
  pa : Nat := 0
  mask : BitVec 128 := 0
  data : LineData := 0
  poison : BitVec 128 := 0
  deriving DecidableEq, Repr

/-- A result-cache entry of the owner (R310) with its journal record (R311). -/
structure OwnEnt where
  handle : Nat
  serial : Nat
  /-- Number of the entry, and so of its journal record (R314). -/
  idx : Nat := 0
  st : EntSt
  packet : ReqPacket
  status : RStatus := .done
  fcode : Nat := 0
  value : List (BitVec 128) := []
  commit : Commit := {}
  journaled : Bool := false
  applied : Bool := false
  /-- Its bytes lie in host memory at this address, and are to be read there (R411). -/
  hostPa : Option Nat := none
  deriving DecidableEq, Repr

/-- An owner's stream record (R309, R314). -/
structure OwnStream where
  handle : Nat
  pkg : Nat
  slot : Nat
  nonce : Nat
  floor : Nat := 0
  lost : Bool := false
  /-- Number of its record in the journal (R314). -/
  idx : Nat := 0
  deriving DecidableEq, Repr

/-- Packets that the package sends (R308, R363), in the order they leave. -/
inductive Packet where
  | req (dest : Nat) (p : ReqPacket)
  | reply (dest handle serial : Nat) (st : RStatus) (fcode : Nat) (value : List (BitVec 128))
  | openPkt (dest slot nonce : Nat)
  | opened (dest slot nonce handle : Nat) (st : RStatus)
  | ack (dest handle f : Nat)
  | acked (dest handle : Nat)
  | close (dest handle f : Nat)
  | closed (dest handle : Nat)
  | closeAll (dest : Nat)
  | load (dest va n : Nat)
  | loadReply (dest va : Nat) (data : List Byte) (bad : List Bool)
  /-- The front end's update of a completion signal at another package (R391). -/
  | signal (dest va status : Nat)
  deriving DecidableEq, Repr

/-- A dispatch queue (R386). -/
structure DispQ where
  qbase : Word := 0
  qctl : Word := 0
  wptr : Nat := 0
  rptr : Nat := 0
  tokens : Nat := 0
  deriving DecidableEq, Repr

/-- A program header and code segment of a variant (R52, R94). -/
structure Variant where
  isa : Nat
  lines : Nat
  entry : Nat
  remtime : Nat
  paramsz : Nat
  spmuse : Nat
  bgmask : Nat
  flags : Nat
  wimage : Nat
  deriving DecidableEq, Repr

/-- A registered module: its code objects, each a list of variants (R93, R429). -/
structure Module where
  asid : Nat := 0
  va : Nat := 0
  size : Nat := 0
  objs : List (List Variant)
  /-- Weight images of the module (R96). -/
  images : Nat := 0
  deriving DecidableEq, Repr

/-- A dispatch packet (R389). -/
structure DPacket where
  type : Nat
  prio : Nat
  pmask : Nat
  paired : Bool
  cluster : Bool
  barrier : Bool
  resv : Bool
  code : Nat
  gangs : Nat
  teams : Nat
  tokreq : Nat
  param : Nat
  signal : Nat
  module : Nat
  deriving DecidableEq, Repr

/-- Where a team of a gang stands. -/
inductive TeamSt where
  | waiting
  /-- Placed on a core (leader) and not yet started. -/
  | placed (core : Nat)
  | resident (core : Nat)
  | saved
  | exited (status : Nat)
  | dead
  deriving DecidableEq, Repr

/-- A team (R97, R106): its state, whether it has ever run, the core it is pinned to, the stack it left, whether a trap has stopped it,
and, while it is saved, the statuses of the halves that have ended (R103). -/
structure Team where
  st : TeamSt := .waiting
  started : Bool := false
  pin : Option Nat := none
  /-- The physical cores of its place when it was pinned (R10, R13, R106). -/
  pinGen : Nat := 0
  leftStack : Option Nat := none
  stopped : Bool := false
  /-- While it is saved: the follower's FTZ of the MMA.P at which its leader stands (R40, R210). -/
  pairFtz : Option Bool := none
  halfExit : List (Nat × Nat) := []
  /-- Hub cycle in which it was last placed (R398). -/
  placedAt : Nat := 0
  deriving DecidableEq, Repr

/-- A cluster barrier (R291). -/
structure CBar where
  phase : Bool := false
  n : Nat := 0
  arr : Nat := 0
  err : Bool := false
  /-- Core cycle of the last arrival that completed a phase or put the barrier in error (R294). -/
  doneAt : Nat := 0
  /-- PHASE and ERR as that cycle found them: what a waiter sees in it (R294). -/
  phase0 : Bool := false
  err0 : Bool := false
  deriving DecidableEq, Repr

/-- A gang (R97, R99, R105). -/
structure Gang where
  teams : List Team
  age : Nat := 0
  /-- Hub cycle in which its save began (R398). -/
  swapAt : Nat := 0
  /-- It is in the placement order. -/
  waiting : Bool := true
  reserved : List Nat := []
  target : Option Nat := none
  /-- Resident since this hub cycle, for the slice (R109). -/
  residentAt : Option Nat := none
  /-- Gang barrier: arrivals (cores as team and half) in this phase (R296). -/
  gbar : List (Nat × Nat) := []
  /-- Cores whose phase has completed and whose GBAR has not retired (R296). -/
  gbarRel : List (Nat × Nat) := []
  cbs : NMap CBar := []
  /-- The team whose record holds the cluster barriers while the gang is saved (R291). -/
  cbTeam : Option Nat := none
  /-- Blocked in MWAIT and swapped out (R301). -/
  asleep : Bool := false
  /-- Its teams are being saved, and their cores are freed as each save ends (R109, R113). -/
  swap : Bool := false
  /-- Victims of the pre-emption begun on its behalf that have not freed their cores: launch and gang (R395). -/
  victims : List (Nat × Nat) := []
  deriving DecidableEq, Repr

/-- A launch (R97, R108). -/
structure Launch where
  queue : Option Nat := none
  asid : Nat := 0
  prio : Nat := 0
  depth : Nat := 0
  module : Nat := 0
  pkt : DPacket
  var : Option Variant := none
  gangs : List Gang := []
  /-- The parent launch, gang, team, half and the child id (R117). -/
  parent : Option (Nat × Nat × Nat × Nat × Nat) := none
  /-- The graph launch and node index (R393). -/
  node : Option (Nat × Nat) := none
  heldImage : Bool := false
  /-- Killed, with this trap code (R113, R384, R368). -/
  killed : Option Nat := none
  /-- Base of the code segment (R52). -/
  codeBase : Nat := 0
  /-- Newcomers on whose behalf the launch drains (R113). -/
  draining : List Nat := []
  /-- Discarded replies of a kill: handle, owner, serial (R320). -/
  discards : List (Nat × Nat × Nat) := []
  deriving DecidableEq, Repr

/-- A node of a running graph (R392, R393). -/
inductive NodeSt where
  | idle | running (launch : Nat) | done (status : Nat)
  deriving DecidableEq, Repr

structure GNode where
  pkt : DPacket
  preds : Nat
  succ : List Nat
  st : NodeSt := .idle
  deriving DecidableEq, Repr

/-- A graph (R392). -/
structure Graph where
  queue : Nat
  signal : Nat
  asid : Nat
  nodes : List GNode
  deriving DecidableEq, Repr

/-- A stack scheduler (R396 to R398). -/
structure Scheduler where
  working : Bool := true
  lastBeat : Nat := 0
  adopter : Option Nat := none
  returning : Bool := false
  /-- Run list: core, launch, gang, team of teams placed and not started, in placement order. -/
  runList : List (Nat × Nat × Nat × Nat) := []
  deriving DecidableEq, Repr

/-- A context record (R376): the team's half it belongs to, and its bytes by offset. -/
structure Record where
  occ : Occ
  core : Nat
  bytes : List Host.Cell := []
  /-- What reports of tagged destinations name; the layout of R377 has no place for it (R317). -/
  tagOps : List TagOp := []
  /-- The matrix engine stands at an abandoned operation, whose FTZ is bit 9 of its ESTAT (R40, R379). -/
  replay : Bool := false
  /-- CR.CYCLE at the last issue of each engine; the layout of R379 has no place for it (R128, R369). -/
  lastIssue : List Nat := []
  /-- This half's own wake bit: the record of half 0 shows the bit of either half (R301, R376). -/
  woke : Bool := false
  /-- FTZ of the follower's half of the MMA.P at which its leader stands, where bit 9 of the follower's ESTAT belongs to an operation of its own
  (R40, R210). -/
  pairFtz : Option Bool := none
  /-- Copy commands that are paused: queue, place from the head, and the halt; the layout of R377 has no place for it (R361, R429). -/
  pauses : List (Nat × Nat × HaltRec) := []
  deriving DecidableEq, Repr

/-- A report of the trap-report ring (R430). -/
structure Report where
  seqNo : Nat := 0
  kind : Nat
  engine : Nat := 0xFF
  code : Nat := 0
  launch : Nat := 0
  gang : Nat := 0
  team : Nat := 0
  half : Nat := 0
  aux : Nat := 0
  core : Nat := 0
  asid : Nat := 0
  pc : Nat := 0
  status : Nat := 0
  addr : Word := 0
  ctx : Nat := 0
  count : Nat := 0
  serial : Nat := 0
  /-- What the report names beside the fields of the 64 bytes (R140, R288, R317, R362): the code of TRAP or BKPT, the destination index of
  a multicast, or FCODE; and the owner package, handle and serial of a remote operation. -/
  arg : Nat := 0
  op : Option (Nat × Nat × Nat) := none
  /-- Later failures of the remote-failure record whose fault a TRAP report is about (R317). -/
  later : Nat := 0
  /-- The discarded-reply list of a kill report: handle, owner, serial. -/
  list : List (Nat × Nat × Nat) := []
  deriving DecidableEq, Repr

/-- An Onyx event (R423): payload as fields of a byte count and a value. -/
structure OnyxEvent where
  time : Nat
  seqNo : Nat
  code : Nat
  src : Nat
  sev : Nat
  payload : List (Nat × Nat)
  deriving DecidableEq, Repr

/-- An Onyx ring with its control register (R423, R424); the events are the newest first. -/
structure OnyxRing where
  en : Bool := true
  frozen : Bool := false
  wptr : Nat := 0
  events : List OnyxEvent := []
  deriving DecidableEq, Repr

/-- States of a chiplet in the capability summary (R402). -/
inductive UnitSt where
  | absent | inService | degraded | isolated | lost
  deriving DecidableEq, Repr

/-- A Mica stack as the hub sees it (R228, R402). -/
structure StackUnit where
  st : UnitSt := .inService
  spares : Nat := 0
  modstat : BitVec 16 := 0x3F
  modhalf : BitVec 16 := 0
  fwver : Nat := 0
  hot : Bool := false
  /-- Changes of the temperature state: core cycle and state entered, newest first (R228). -/
  hotLog : List (Nat × Bool) := []
  /-- Firmware is emptying the stack to isolate it (R385). -/
  leaving : Bool := false
  /-- Modules for whose current wake LINK_WAKE_SLOW has been logged (R383). -/
  slowLogged : List Nat := []
  deriving DecidableEq, Repr

/-- A Galena chiplet (R402, R427). -/
structure GalenaUnit where
  st : UnitSt := .inService
  modstat : BitVec 16 := 0xFF
  modhalf : BitVec 16 := 0
  ports : BitVec 18 := 0x3FFFF
  fwver : Nat := 0
  flushDone : Bool := true
  /-- Writes that its packet cores' caches hold, oldest first: physical address and bytes (R349). -/
  cached : List (Nat × List Byte) := []
  deriving DecidableEq, Repr

/-- States of a weight-image shard (R412). -/
inductive ShardSt where
  | invalid | loading | valid | failed (cause chunk : Nat)
  deriving DecidableEq, Repr

/-- A shard of a module's weight images (R96, R412): its entry, its image and the chunk being loaded with the failed tries. -/
structure Shard where
  module : Nat
  image : Nat
  idx : Nat
  pkg : Nat
  core : Nat
  bgmask : Nat
  src : Nat
  len : Nat
  dst : Nat
  digests : List (BitVec 384)
  st : ShardSt := .invalid
  chunk : Nat := 0
  tries : Nat := 0
  /-- The chunk has been copied and is to be read back (R413). -/
  copied : Bool := false
  deriving DecidableEq, Repr

/-- A LOADIMG under way (R413). -/
structure LoadReq where
  slot : Nat
  module : Nat
  image : Nat
  hosttab : Nat
  nblk : Nat
  deadline : Nat
  /-- A stack of the request was lost while it loaded. -/
  lost : Bool := false
  deriving DecidableEq, Repr

/-- A key slot (R421). -/
structure KeySlot where
  ed : List Byte := []
  ml : List Byte := []
  enabled : Bool := false
  deriving DecidableEq, Repr

/-- Boot phases (R419). -/
inductive BootPhase where
  | reset | running | recovery
  deriving DecidableEq, Repr

/-- The SPDM responses of R422: the version 1.3; certificates, challenges and measurements, without key exchange and sessions; the negotiated
signature algorithm beside SHA-384; digests and chains of the certificate slots; and signed responses with both signatures. -/
inductive SpdmResp where
  | version (v : Nat)
  | capabilities (cert chal meas keyEx : Bool)
  | algorithms (hash sig : Nat)
  | digests (slots : List (Nat × BitVec 384))
  | certificate (slot : Nat) (chain : List Byte)
  | challengeAuth (slot nonce sig opaqueSig : Nat)
  | measurements (idx : Nat) (blocks : List (Nat × BitVec 384)) (sig opaqueSig : Nat)
  | error (code : Nat)
  deriving DecidableEq, Repr

/-- A shoot-down under way (R276, R277): the lines still to be revoked. -/
structure Shoot where
  mode : ShootMode
  asid : Nat
  base : Nat
  len : Nat
  deriving DecidableEq, Repr

/-- The home of a region and the hub's caches and translation (R264 to R281, R337 to R351) (DESIGN CHOICE, log entry 55). -/
structure Hub where
  dram : List Host.Cell := []
  /-- Poisoned 64-byte granules of DRAM (R238). -/
  dramPoison : NMap Unit := []
  llc : List LlcLine := []
  tlb : List TlbEnt := []
  transRoot : Word := 0
  shootAsid : Word := 0
  shootBase : Word := 0
  shootLen : Word := 0
  shootMode : BitVec 2 := 0
  shootDone : Bool := true
  shoot : Option Shoot := none
  migThresh : Word := 4096
  migMargin : Word := 1024
  migInterval : Word := 100
  migDropped : Word := 0
  migRegions : List MigRegion := []
  /-- Hub cycle in which the last counting interval ended (R278). -/
  migEnd : Nat := 0
  migRingBase : Word := 0
  migRingCtl : Word := 0
  migWptr : BitVec 32 := 0
  migRptr : BitVec 32 := 0
  /-- Entries of the ring that are not written yet, oldest first: address and bytes (R279). -/
  migWait : List (Nat × List Byte) := []
  /-- Requests of the hub's own agents to host memory that are not answered (R411). -/
  hostAsks : List LoadAsk := []
  /-- Mode of bank groups: core * 16 + group to the launch it is allotted to; unlisted is line mode (R219). -/
  rows : NMap Nat := []
  /-- Activation window W and matrix issue gap (R15, R226). -/
  window : Nat := 12
  gap : Nat := 0
  deriving DecidableEq, Repr

/-- The Remote Operation Unit (R303 to R319). -/
structure Rou where
  slots : NMap ReqSlot := []
  nonce : Nat := 0
  streams : List OwnStream := []
  entries : List OwnEnt := []
  /-- The handle allocator: the next handle, and the block number in the board's counter (R305). -/
  nextHandle : Nat := 1
  block : Option Nat := none
  exhausted : Bool := false
  journalBase : Nat := 0
  outbox : List Packet := []
  lostPkgs : List Nat := []
  /-- Operations of a requester that wait for a slot without their core: their team is saved, or the stream they waited in has ended (R304, R317,
  R320). -/
  parked : List (Occ × RemOp) := []
  /-- Hub cycle of the last packet that arrived from each package (R364). -/
  heard : NMap Nat := []
  /-- The ROU recovers since this hub cycle and drops every request (R318). -/
  recovering : Option Nat := none
  deriving DecidableEq, Repr

/-- Dispatch, placement and the stack schedulers (R386 to R399). -/
structure Disp where
  queues : NMap DispQ := []
  agelim : Nat := 64
  slice : Nat := 2000
  drain : Nat := 262144
  wdog : Nat := 2 ^ 30
  launches : NMap Launch := []
  graphs : NMap Graph := []
  nextLaunch : Nat := 1
  /-- Child packets submitted by LAUNCH and not yet taken by the front end: packet, parent launch, gang, team, half,
  child id (R117). -/
  children : List (DPacket × Nat × Nat × Nat × Nat × Nat) := []
  scheds : NMap Scheduler := []
  /-- Ticks of the package timer since cold reset (R388). -/
  ticks : Nat := 0
  workersDown : List Nat := []
  /-- Something has happened since the last placement round that makes one run (R105). -/
  roundDue : Bool := false
  quartzStopped : Bool := false
  quartzLast : Option Nat := none
  quartzCount : Nat := 0
  deriving DecidableEq, Repr

/-- Firmware, trust and the board (R402, R412 to R430). -/
structure Firm where
  boot : BootPhase := .reset
  /-- The firewall's table, which Obsidian writes at boot: whether a requester reads and writes a block; key 32 requester + block (R417). -/
  policy : NMap (Bool × Bool) := []
  /-- The ranges in which the PMP of each firmware processor confines it, by requester code (R416). -/
  pmp : NMap (List (Nat × Nat)) := []
  /-- The device identity keys, Ed25519 and ML-DSA-65 (R419). -/
  idKeys : List (List Byte) := []
  /-- The configuration record that has been accepted (R401, R419). -/
  record : List Byte := []
  /-- The capability tables that enumeration has read, by unit, and the classes assigned to their agents: TYPE and class (R400, R403). -/
  caps : NMap CapTable := []
  classes : NMap (List (Nat × Nat)) := []
  /-- Built core behind each package core number that a record has mapped (R401, R13). -/
  builtCore : NMap Nat := []
  micas : NMap StackUnit := []
  galenas : NMap GalenaUnit := []
  /-- Spares that have replaced the core of a package core number: a changed count is another physical core (R10, R13). -/
  sparesUsed : NMap Nat := []
  /-- Built cores that have failed in the field since their stack was enumerated: stack and built core (R13). -/
  failedCores : List (Nat × Nat) := []
  gen : Nat := 0
  /-- Hub cycle in which the summary was last rewritten: GEN is odd while it is (R402). -/
  genAt : Option Nat := none
  inDomain : Bool := true
  domain : List Nat := []
  /-- Physical ranges that firmware keeps for itself, the journal among them (R314): first and last byte. -/
  kept : List (Nat × Nat) := []
  /-- Context areas: a core's half of a team and the physical address of its record, from its start until it is over (R376). -/
  areas : List (Occ × Nat) := []
  records : List Record := []
  modules : NMap Module := []
  shards : List Shard := []
  loads : List LoadReq := []
  /-- Mailbox slots: 32 words of 8 bytes each, slot i from 32 i (R428). -/
  mbx : NMap Word := []
  /-- The copies of the requests that firmware has taken, in the same layout (R428). -/
  mbxReq : NMap Word := []
  mbxBusy : List Nat := []
  mbxDone : BitVec 16 := 0
  mbxIrq : Word := 0
  trapWptr : BitVec 32 := 0
  trapRptr : BitVec 32 := 0
  trapIrq : Word := 0
  reports : List Report := []
  heldReports : List Report := []
  /-- MSI-X vectors sent, newest first (R410). -/
  msix : List Nat := []
  onyxHub : OnyxRing := {}
  onyxStacks : NMap OnyxRing := []
  mrs : NMap (BitVec 384) := []
  keys : NMap KeySlot := []
  svn : NMap Nat := []
  /-- Security versions of the images accepted since the cold reset, by kind (R418, R419). -/
  accepted : NMap Nat := []
  /-- Processors that Obsidian has released, by kind (R419). -/
  released : List Nat := []
  spdmSig : Option Nat := none
  /-- The transcript: messages up to the negotiation, and those about certificates since (R422). -/
  spdmVca : List Byte := []
  spdmCerts : List Byte := []
  spdmOut : List SpdmResp := []
  slate : Bool := false
  linkUp : Bool := false
  linkWidth : Nat := 0
  /-- Writes that have left for host memory: physical address and bytes, newest first (R411). -/
  hostOut : List (Nat × List Byte) := []
  /-- Accesses by physical address that completed with a bus error, newest first (R17, R219): agent and address. -/
  ioErrors : List (IoAgent × Nat) := []
  /-- The hub cycle of the host's last register write: firmware's writes of that cycle take effect before it (R425). -/
  hostWrote : Option Nat := none
  /-- Accesses of register space that completed with a bus error, newest first: who and offset (R425). -/
  regErrors : List (Requester × Nat) := []
  /-- Bytes of the BAR2 window (R410). -/
  bar2 : Nat := 2 ^ 40
  /-- The last read of register space: who, offset and the value returned (R3, R425). -/
  regRead : Option (Requester × Nat × Word) := none
  resets : Nat := 0
  deriving DecidableEq, Repr

end Sys2Proof.Machine
end

