-- ==== Sys2Proof/Machine/State.lean ====
section
/-! DEFINITION. The machine's state: one VX8-768 package as plain data, its stops, and the state after reset. -/

namespace Sys2Proof.Machine

/-- Why a step stops. -/
inductive Fault where
  /-- Raised by an engine instruction when the engine in focus has no running stream: no team occupies the core, the
  engine is idle, halted, faulted or waits inside an instruction. Safe: the hardware issues nothing there. -/
  | noStream
  deriving DecidableEq, Repr

/-- Why an instruction has no meaning here. -/
inductive Refusal where
  /-- Raised by Dispatch for an instruction whose meaning is not written. Safe. -/
  | notModelled (mnemonic : String)
  deriving DecidableEq, Repr

/-- What happens outside the modelled agents and has no row in the opcode table (DESIGN CHOICE, log entry 65). -/
inductive EnvEvent where
  /-- A read of register space (R3, R425). -/
  | registerRead (who : Requester) (off : Nat) (w64 : Bool)
  /-- The runtime writes bytes of a context record: launch, gang, team, half (R368, R376). -/
  | recordWrite (launch gang team half off : Nat) (bytes : List Byte)
  /-- An access of register space of a width other than 4 or 8 bytes (R425). -/
  | registerWidth (who : Requester) (off n : Nat)
  /-- The host resizes the BAR2 window to 2^n bytes (R410). -/
  | bar2Resize (n : Nat)
  /-- A chunk of a weight image is copied, or its copy ends in CQ_FAULT (R411, R413, R414). -/
  | chunkCopy (module shard chunk : Nat)
  /-- ECC corrects an error: stack, structure, core and address of R431. -/
  | corrected (stack struct core addr : Nat)
  /-- An uncorrectable error in an 8-byte granule of a scratchpad (R243). -/
  | spmError (core gran : Nat)
  /-- An uncorrectable error in a 64-byte granule of DRAM (R238). -/
  | dramError (pa : Nat)
  /-- The fabric drops packets (R308, R364). -/
  | checkDrop (port n : Nat)
  | kindDrop (src kind n : Nat)
  /-- A load packet is sent again (R363). -/
  | loadAgain (core acc part : Nat)
  /-- The load packet of a copy queue or of a code line is sent again (R363): core and address. -/
  | askAgain (core va : Nat)
  /-- The ROU's firmware restarts (R318). -/
  | rouRestart
  /-- A packet core of a Galena writes into its own caches (R349). -/
  | packetWrite (galena pa : Nat) (bytes : List Byte)
  deriving DecidableEq, Repr

/-- What acts next (guide: the order of agents is plain data). -/
inductive Actor where
  /-- A stream fetches and issues. -/
  | stream (core : Nat) (e : Engine)
  /-- An event of the opcode table happens. -/
  | event (i : Instr)
  /-- An L1 evicts a line (R267, R338). -/
  | evictL1 (core : Nat) (key : LineKey)
  /-- The LLC evicts a line (R267). -/
  | evictLlc (key : LineKey)
  /-- The environment acts. -/
  | env (e : EnvEvent)
  deriving DecidableEq, Repr

/-- An actor that acts after `delay` hub cycles. -/
structure Sched where
  delay : Nat := 0
  actor : Actor
  deriving DecidableEq, Repr

/-- The state of one package. -/
structure State where
  /-- Hub cycles since cold reset (R5, R423). -/
  time : Nat := 0
  /-- The model's own counter of free values (not the spec's). -/
  fresh : Nat := 0
  /-- The model's own record of what acts next, which stands for the interleaving and the environment. -/
  schedule : List Sched := []
  /-- The stream that steps when nothing is scheduled or due: core and engine. -/
  focusCore : Nat := 0
  focusEng : Engine := .seq
  /-- Package number in the domain (R22, R402). -/
  pkg : Nat := 0
  cores : NMap CoreSt := []
  hub : Hub := {}
  rou : Rou := {}
  disp : Disp := {}
  fw : Firm := {}
  deriving DecidableEq, Repr

/-- The machine right after a cold reset, before the boot ROM runs (DESIGN CHOICE, log entry 55). -/
def State.reset : State := {}

end Sys2Proof.Machine
end

