-- ==== Sys2Proof/Machine/Store.lean ====
section
/-! DEFINITION. Operations on finite maps and on byte memory, and the packing of vectors into lanes, granules and bytes. -/

namespace Sys2Proof.Machine

/-- The value of a key: the first entry that holds it. -/
def mget {α : Type} (m : NMap α) (k : Nat) : Option α :=
  match m with
  | [] => none
  | (j, v) :: t => if k = j then some v else mget t k

/-- Sets a key, in its place in the ascending order. -/
def mset {α : Type} (m : NMap α) (k : Nat) (v : α) : NMap α :=
  match m with
  | [] => [(k, v)]
  | (j, w) :: t => if k < j then (k, v) :: (j, w) :: t else if k = j then (k, v) :: t else (j, w) :: mset t k v

/-- Removes a key. -/
def mdel {α : Type} (m : NMap α) (k : Nat) : NMap α := m.filter (fun p => p.1 != k)

def mgetD {α : Type} (d : α) (m : NMap α) (k : Nat) : α := (mget m k).getD d

/-- Sets a key of a map whose unlisted keys read as `d`: the default value is not listed. -/
def mputD {α : Type} [DecidableEq α] (d : α) (m : NMap α) (k : Nat) (v : α) : NMap α :=
  if v = d then mdel m k else mset m k v

/-- Keys strictly ascending. -/
def mwf {α : Type} (m : NMap α) : Bool :=
  match m with
  | [] => true
  | (j, _) :: t => t.all (fun p => j < p.1) && mwf t

/-- The canonical form of memory: addresses strictly rising, and no listed byte equal to 0, which an unlisted
address reads as (DESIGN CHOICE, log entry 2). -/
def Memory.wf (m : List Host.Cell) : Bool := mwf m && m.all (fun p => p.2 != 0)

/-- A byte of memory: a byte that nothing has written reads 0 (DESIGN CHOICE, log entry 2). -/
def readByte (m : List Host.Cell) (a : Nat) : Byte := mgetD 0 m a
def writeByte (m : List Host.Cell) (a : Nat) (b : Byte) : List Host.Cell := mputD 0 m a b

/-- n bytes from address a up. -/
def readBytes (m : List Host.Cell) (a : Nat) : Nat → List Byte
  | 0 => []
  | n + 1 => readByte m a :: readBytes m (a + 1) n

def writeBytes (m : List Host.Cell) (a : Nat) : List Byte → List Host.Cell
  | [] => m
  | b :: t => writeBytes (writeByte m a b) (a + 1) t

/-- Little-endian number of a list of bytes (R2). -/
def leNat : List Byte → Nat
  | [] => 0
  | b :: t => b.toNat + 256 * leNat t

/-- The n bytes of a number, low byte first. -/
def leBytes : Nat → Nat → List Byte
  | 0, _ => []
  | n + 1, x => BitVec.ofNat 8 x :: leBytes n (x / 256)

/-- Lane i of width w of a vector read as a number (R153). -/
def laneOf (w n i : Nat) : Nat := (n >>> (w * i)) % 2 ^ w

/-- A vector from its lanes, lane 0 first. -/
def packLanes (w : Nat) : List Nat → Nat
  | [] => 0
  | x :: t => x % 2 ^ w + (packLanes w t) <<< w

/-- Replaces lane i. -/
def setLane (w n i x : Nat) : Nat :=
  n - (laneOf w n i) <<< (w * i) + (x % 2 ^ w) <<< (w * i)

/-- Codes of causes (R372). -/
def Cause.code : Cause → Nat
  | .speculative => 0 | .memory => 1 | .faultAtOwner => 2 | .streamLost => 3 | .ownerLost => 4

def Cause.ofCode (n : Nat) : Cause :=
  match n with
  | 0 => .speculative | 1 => .memory | 2 => .faultAtOwner | 3 => .streamLost | _ => .ownerLost

/-- A tag as four bits: bit 0 the tag, bits [3:1] the cause (R377). -/
def tagNib : Option Cause → Nat
  | none => 0
  | some c => 1 + 2 * c.code
def nibTag (n : Nat) : Option Cause := if n % 2 = 1 then some (Cause.ofCode (n / 2 % 8)) else none

/-- The greatest cause of several tags (R372). -/
def maxTag (a b : Option Cause) : Option Cause :=
  match a, b with
  | none, t => t
  | t, none => t
  | some x, some y => if x.code < y.code then some y else some x

/-- Tag of granule g (R161). -/
def granTag (tags : Nat) (g : Nat) : Option Cause := nibTag (laneOf 4 tags g)

/-- Tag of lane i of width w: that of its granule. -/
def laneTag (w tags i : Nat) : Option Cause := granTag tags (w * i / 64)

/-- The bytes of a vector, and a vector of bytes. -/
def vecBytes (n : Nat) (count : Nat) : List Byte := leBytes count n
def bytesVec (l : List Byte) : Nat := leNat l

/-- Whether two byte ranges share a byte. -/
def overlaps (a n b m : Nat) : Bool := a < b + m && b < a + n

end Sys2Proof.Machine
end

