-- ==== Sys2Proof/Machine/Log.lean ====
section
/-! DEFINITION. The Onyx recorder (R423, R424, R431), the trap-report ring (R430) and MSI-X vectors (R410). -/

namespace Sys2Proof.Machine

/-- An interrupt vector sent to the host; a vector beyond the 64 does not exist (R410) (DESIGN CHOICE, log entry 71). -/
def sendMsix (s : State) (v : Nat) : State :=
  { s with fw := { s.fw with msix := if 64 ≤ v then s.fw.msix else v :: s.fw.msix } }

/-! ### Onyx -/

/-- Severity of a code (R431). -/
def sevOf (code : Nat) : Nat :=
  if code < 0x0800 then 1
  else if code = 0x0802 ∨ code = 0x0809 ∨ (0x080C ≤ code ∧ code ≤ 0x080D) ∨ (0x080F ≤ code ∧ code ≤ 0x0811) ∨ code = 0x0814 then 1
  else 0

/-- An event takes the next entry of a ring of `size` entries, unless recording is off or frozen; events of one hub cycle are numbered by
ascending SRC, the hub's first (R423, R424). What the entries held before stays as long as they are being written (DESIGN CHOICE, log entry 70). -/
def ringAdd (size : Nat) (r : OnyxRing) (ev : OnyxEvent) : OnyxRing :=
  if !r.en || r.frozen then r
  else
    let after (e : OnyxEvent) : Bool := e.time == ev.time && ev.src < e.src
    let late := r.events.takeWhile after
    let moved := late.map fun e => { e with seqNo := (e.seqNo + 1) % 2 ^ 32 }
    let n := (r.wptr + 2 ^ 32 - late.length) % 2 ^ 32
    { r with wptr := (r.wptr + 1) % 2 ^ 32, events := (moved ++ { ev with seqNo := n } :: r.events.dropWhile after).take (2 * size) }

/-- The newest event of this kind is taken out again, as though it had not been recorded. -/
def ringDrop (p : OnyxEvent → Bool) (r : OnyxRing) : OnyxRing :=
  match r.events.dropWhile fun e => !p e with
  | [] => r
  | _ :: t => { r with wptr := (r.wptr + 2 ^ 32 - 1) % 2 ^ 32
                       events := ((r.events.takeWhile fun e => !p e).map fun e => { e with seqNo := (e.seqNo + 2 ^ 32 - 1) % 2 ^ 32 }) ++ t }

/-- A fatal event freezes every ring (R424). -/
def freezeRings (s : State) : State :=
  { s with fw := { s.fw with onyxHub := { s.fw.onyxHub with frozen := true }
                             onyxStacks := (List.range 8).map fun k => (k, { mgetD {} s.fw.onyxStacks k with frozen := true }) } }

/-- SRC (R423): unit in [15:8], agent in [7:0]; the agent is written as 0, since the spec numbers no agents (DESIGN CHOICE, log entry 72). -/
def logHubSev (s : State) (code sev : Nat) (payload : List (Nat × Nat)) : State :=
  let ev : OnyxEvent := { time := s.time, seqNo := 0, code := code, src := 0, sev := sev, payload := payload }
  let s := { s with fw := { s.fw with onyxHub := ringAdd 8192 s.fw.onyxHub ev } }
  if sev = 2 then freezeRings s else s

def logHub (s : State) (code : Nat) (payload : List (Nat × Nat)) : State := logHubSev s code (sevOf code) payload

/-- An event of a Galena is recorded in the hub's ring with the Galena as its source. -/
def logGalena (s : State) (g code : Nat) (payload : List (Nat × Nat)) : State :=
  let ev : OnyxEvent := { time := s.time, seqNo := 0, code := code, src := (9 + g) * 256, sev := sevOf code, payload := payload }
  { s with fw := { s.fw with onyxHub := ringAdd 8192 s.fw.onyxHub ev } }

def logStack (s : State) (k code : Nat) (payload : List (Nat × Nat)) : State :=
  let ev : OnyxEvent := { time := s.time, seqNo := 0, code := code, src := (1 + k) * 256, sev := sevOf code, payload := payload }
  { s with fw := { s.fw with onyxStacks := mset s.fw.onyxStacks k (ringAdd 1024 (mgetD {} s.fw.onyxStacks k) ev) } }

/-- A trap of a core in this core cycle did not happen (R382). -/
def unlogTrap (s : State) (k c code : Nat) : State :=
  let p (e : OnyxEvent) : Bool := e.code == code && e.time / 2 == s.time / 2 && e.payload[5]? == some (2, c)
  { s with fw := { s.fw with onyxStacks := mset s.fw.onyxStacks k (ringDrop p (mgetD {} s.fw.onyxStacks k)) } }

/-- ECC_CORRECTED (R431): structure, core, address. -/
def logCorrected (s : State) (k struct core addr : Nat) : State :=
  logStack s k 0x0813 [(1, struct), (2, core), (8, addr)]

/-! ### Reports -/

/-- Writes a report at the ring's next entry (R430). -/
def writeReport (s : State) (r : Report) : State :=
  let n := s.fw.trapWptr
  let s := { s with fw := { s.fw with trapWptr := n + 1, reports := ({ r with seqNo := n.toNat } :: s.fw.reports).take 1024 } }
  if s.fw.trapIrq.getLsbD 8 then sendMsix s (s.fw.trapIrq.toNat % 256) else s

/-- The ring holds 1,024 reports that the runtime has not consumed. -/
def ringFull (s : State) : Bool := (s.fw.trapWptr - s.fw.trapRptr).toNat == 1024

/-- A report would be held. -/
def reportsWait (s : State) : Bool := ringFull s || !s.fw.heldReports.isEmpty

/-- Posts a report, or holds it while the ring is full or earlier reports are held. -/
def postReport (s : State) (r : Report) : State :=
  if reportsWait s then { s with fw := { s.fw with heldReports := s.fw.heldReports ++ [r] } }
  else writeReport s r

/-- Writes held reports while there is room. -/
def drainReports : Nat → State → State
  | 0, s => s
  | k + 1, s =>
    match s.fw.heldReports with
    | [] => s
    | r :: t => if ringFull s then s else drainReports k (writeReport { s with fw := { s.fw with heldReports := t } } r)

end Sys2Proof.Machine
end

