-- ==== Sys2Proof/Machine/Ops.lean ====
section
/-! DEFINITION. The shared operations: cores and streams, program counters, registers, queues, semaphores, claims, taking a trap, acquire, retirement, and the issue of one instruction. -/

namespace Sys2Proof.Machine

abbrev Out := Host.Outcome State Fault Refusal

/-! ### Time, cores, streams -/

/-- The current core cycle: two hub cycles (R5, R16). -/
def coreCycle (s : State) : Nat := s.time / 2

def getCore (s : State) (c : Nat) : CoreSt := mgetD {} s.cores c
def setCore (s : State) (c : Nat) (cs : CoreSt) : State := { s with cores := mset s.cores c cs }

def CoreSt.stream (cs : CoreSt) : Engine → Stream
  | .seq => cs.seq | .mem => cs.mem | .vec => cs.vec | .mtx => cs.mtx

def CoreSt.setStream (cs : CoreSt) (e : Engine) (st : Stream) : CoreSt :=
  match e with
  | .seq => { cs with seq := st }
  | .mem => { cs with mem := st }
  | .vec => { cs with vec := st }
  | .mtx => { cs with mtx := st }

def getStream (s : State) (c : Nat) (e : Engine) : Stream := (getCore s c).stream e
def setStream (s : State) (c : Nat) (e : Engine) (st : Stream) : State :=
  setCore s c ((getCore s c).setStream e st)

/-- Core cycles for which the team has been resident, up to the event that stopped it; a restore before cycle R does not count (R128). -/
def residence (s : State) (cs : CoreSt) : Nat :=
  if cs.restartAt.isSome then cs.resBase else cs.resBase + ((cs.stoppedAt.getD (coreCycle s)) - cs.resStart)

/-- All four engines of a core stop: an event reaches it (R370). -/
def stopEngines (s : State) (cs : CoreSt) : CoreSt := { cs with event := true, stoppedAt := some (cs.stoppedAt.getD (coreCycle s)) }

/-- The other core of a pair (R10). -/
def pairOf (c : Nat) : Nat := if c % 2 = 0 then c + 1 else c - 1

def launchOf (s : State) (cs : CoreSt) : Option Launch := cs.occ.bind fun o => mget s.disp.launches o.launch
/-- A gang of a launch. -/
def getGang (s : State) (l g : Nat) : Option Gang := (mget s.disp.launches l).bind fun x => x.gangs[g]?

/-- A team of the gang that has not exited is not on its cores: none of the gang's streams runs (R99). -/
def Team.away (t : Team) : Bool := match t.st with
  | .waiting | .placed _ | .saved => true
  | .resident _ | .exited _ | .dead => false

/-- The gang of a core's team is resident as a whole (R99). -/
def gangTogether (s : State) (cs : CoreSt) : Bool :=
  cs.occ.all fun o => (getGang s o.launch o.gang).all fun g => g.teams.all fun t => !t.away

def isPaired (s : State) (cs : CoreSt) : Bool := ((launchOf s cs).map (·.pkt.paired)).getD false
def asidOf (s : State) (cs : CoreSt) : Nat := ((launchOf s cs).map (·.asid)).getD 0

def engCode : Engine → Nat
  | .seq => 0 | .mem => 1 | .vec => 2 | .mtx => 3

/-! ### Program counters and code lines (R54 to R57) -/

/-- A PC as a 32-bit word (R56). -/
def packPc : Pc → Nat
  | .pos line slot => slot * 2 ^ 24 + line
  | .fin => 2 ^ 31

/-- A 64-bit branch target (R76): none is malformed. -/
def readTarget (v : Word) : Option Pc :=
  let n := v.toNat
  let fin := n.testBit 31
  let slot := n >>> 24 % 16
  if n >>> 32 ≠ 0 ∨ n >>> 28 % 8 ≠ 0 ∨ (!fin && slot == 0) then none
  else if fin then some .fin else some (.pos (n % 2 ^ 24) slot)

/-- Word k of a code line. -/
def lineWord (l : BitVec 512) (k : Nat) : Nat := (l.toNat >>> (32 * k)) % 2 ^ 32

/-- Fields of a link word (R54). -/
def linkEng (w : Nat) : Nat := w >>> 30 % 4
def linkKind (w : Nat) : Nat := w >>> 28 % 4
def linkFill (w : Nat) : Nat := w >>> 24 % 16
def linkNext (w : Nat) : Nat := w % 2 ^ 24

def CoreSt.imem (cs : CoreSt) : Engine → NMap (BitVec 512)
  | .seq => cs.imemSeq | .mem => cs.imemMem | .vec => cs.imemVec | .mtx => cs.imemMtx

def CoreSt.setImem (cs : CoreSt) (e : Engine) (m : NMap (BitVec 512)) : CoreSt :=
  match e with
  | .seq => { cs with imemSeq := m }
  | .mem => { cs with imemMem := m }
  | .vec => { cs with imemVec := m }
  | .mtx => { cs with imemMtx := m }

/-- The successor of an instruction of w words at slot s of a line with this link word (R57). -/
def succPc (link line slot w : Nat) : Pc × Bool :=
  if slot + w ≤ linkFill link then (.pos line (slot + w), false)
  else if linkKind link = 0 then (.pos (linkNext link) 1, true)
  else (.fin, true)

/-- The successor of the instruction at `pc`, and whether it enters another line (R57). -/
def nextPc (cs : CoreSt) (e : Engine) (pc : Pc) (w : Nat) : Pc × Bool :=
  match pc with
  | .fin => (.fin, false)
  | .pos line slot => succPc (lineWord (mgetD 0 (cs.imem e) line) 0) line slot w

/-! ### Scalar registers (R71, R123, R125) -/

/-- Whether the engine's register n reads zero and discards writes. -/
def isZeroReg (e : Engine) (n : Nat) : Bool := n == 0 && e != .mtx

def readReg (st : Stream) (e : Engine) (n : Nat) : SVal := if isZeroReg e n then {} else mgetD {} st.regs n

def writeReg (st : Stream) (e : Engine) (n : Nat) (v : SVal) : Stream :=
  if isZeroReg e n then st else { st with regs := mputD {} st.regs n v }

def setReg (cs : CoreSt) (e : Engine) (n : Nat) (v : SVal) : CoreSt := cs.setStream e (writeReg (cs.stream e) e n v)

/-! ### Queues (R72, R151, R244) -/

def qsName : Engine → QName
  | .mtx => .qsMtx | .vec => .qsVec | _ => .qsMem

def getSq (cs : CoreSt) : QName → List SSlot
  | .qsMem => cs.qsMem | .qsVec => cs.qsVec | .qsMtx => cs.qsMtx | .qr => cs.qr | _ => []

def setSq (cs : CoreSt) (q : QName) (l : List SSlot) : CoreSt :=
  match q with
  | .qsMem => { cs with qsMem := l }
  | .qsVec => { cs with qsVec := l }
  | .qsMtx => { cs with qsMtx := l }
  | .qr => { cs with qr := l }
  | _ => cs

def dqKey : QName → Nat
  | .lq n => n | .sq n => 4 + n | _ => 6

def getDq (cs : CoreSt) (q : QName) : List DSlot := mgetD [] cs.dqs (dqKey q)
def setDq (cs : CoreSt) (q : QName) (l : List DSlot) : CoreSt := { cs with dqs := mputD [] cs.dqs (dqKey q) l }

def sqKey : QName → Nat
  | .qsMem => 0 | .qsVec => 1 | .qsMtx => 2 | _ => 3

/-- A queue of the sequencer that a pop finds full: QPUSH takes the entry in the next cycle only (R437). -/
def noteFull (cs : CoreSt) (q : QName) : CoreSt :=
  match q with
  | .qsMem | .qsVec | .qsMtx => if 16 ≤ (getSq cs q).length then { cs with freed := mset cs.freed (sqKey q) none } else cs
  | _ => cs

/-- The head of a queue, when it is filled. -/
def popSq (cs : CoreSt) (q : QName) : Option (SVal × CoreSt) :=
  match getSq cs q with
  | ⟨some v, _, _, _⟩ :: t => some (v, setSq (noteFull cs q) q t)
  | _ => none

def popDq (cs : CoreSt) (q : QName) : Option (VVal × CoreSt) :=
  match getDq cs q with
  | ⟨some v, _⟩ :: t => some (v, setDq cs q t)
  | _ => none

/-- A free entry that no earlier instruction has reserved. -/
def roomSq (cs : CoreSt) (q : QName) : Bool := (getSq cs q).length < 16
/-- The queue was full until a pop of this cycle (R437). -/
def freedNow (s : State) (cs : CoreSt) (q : QName) : Bool := mget cs.freed (sqKey q) == some (some (coreCycle s))
def roomDq (cs : CoreSt) (q : QName) : Bool := (getDq cs q).length < 8

/-- An entry reserved in a cycle stands before those that engines later in the order mem, vec, mtx reserved in the same cycle (R151). -/
def insertSlot (x : SSlot) : List SSlot → List SSlot
  | [] => [x]
  | y :: t => if x.cycle.isSome && y.cycle == x.cycle && engCode x.eng < engCode y.eng then x :: y :: t else y :: insertSlot x t

def reserveSq (cs : CoreSt) (q : QName) (id : Nat) : CoreSt := setSq cs q (getSq cs q ++ [{ flight := id }])
/-- An entry of QR reserved by engine e in core cycle `now`. -/
def reserveQr (cs : CoreSt) (e : Engine) (now id : Nat) : CoreSt :=
  { cs with qr := insertSlot { flight := id, eng := e, cycle := some now } cs.qr }
def reserveDq (cs : CoreSt) (q : QName) (id : Nat) : CoreSt := setDq cs q (getDq cs q ++ [⟨none, id⟩])

/-- Fills the first entry that the flight reserved and has not filled. -/
def fillSlotS (id : Nat) (v : SVal) : List SSlot → List SSlot
  | [] => []
  | x :: t => if x.val.isNone && x.flight == id then { x with val := some v } :: t else x :: fillSlotS id v t

def fillSlotD (id : Nat) (v : VVal) : List DSlot → List DSlot
  | [] => []
  | x :: t => if x.val.isNone && x.flight == id then ⟨some v, id⟩ :: t else x :: fillSlotD id v t

def applyFill (cs : CoreSt) (id : Nat) : Fill → CoreSt
  | .scalar q v => setSq cs q (fillSlotS id v (getSq cs q))
  | .vector q v => setDq cs q (fillSlotD id v (getDq cs q))

/-- Drops the entries that a flight reserved and has not filled (R247). -/
def dropReserved (cs : CoreSt) (id : Nat) : CoreSt :=
  let keepS (l : List SSlot) := l.filter fun x => x.val.isSome || x.flight != id
  let cs := { cs with qsMem := keepS cs.qsMem, qsVec := keepS cs.qsVec, qsMtx := keepS cs.qsMtx, qr := keepS cs.qr }
  { cs with dqs := cs.dqs.map fun p => (p.1, p.2.filter fun x => x.val.isSome || x.flight != id) }

/-- Reads scalar sources in the order given; a queue source pops its own entry (R72). None waits. -/
def takeSrcs (cs : CoreSt) (e : Engine) : List SSrc → Option (List SVal × CoreSt)
  | [] => some ([], cs)
  | .reg n :: t => (takeSrcs cs e t).map fun r => (readReg (cs.stream e) e n :: r.1, r.2)
  | .qs :: t =>
    match popSq cs (qsName e) with
    | none => none
    | some (v, cs') => (takeSrcs cs' e t).map fun r => (v :: r.1, r.2)

/-! ### Claims and hazards (R124, R158 to R160, R180, R200, R246) -/

def srcRes (e : Engine) : SSrc → List Res
  | .reg n => [.sreg e n] | .qs => []
def dstRes (e : Engine) : SDst → List Res
  | .reg n => [.sreg e n] | .qr => []

/-- Claims on the clusters of the registers in a list. -/
def clusterOf : Res → List Res
  | .vreg n => [.cluster (n / 128)] | _ => []

/-- The claims of an instruction that reads and writes these resources. -/
def claimsOf (reads writes : List Res) : List Claim :=
  (reads.map fun r => ⟨r, false⟩) ++ (writes.map fun r => ⟨r, true⟩) ++
  (reads.flatMap clusterOf).map (fun r => ⟨r, false⟩) ++ (writes.flatMap clusterOf).map (fun r => ⟨r, true⟩)

/-- A reader waits for the write of an unretired instruction of its engine (R124, R250);
a later write must not end first. -/
def afterWrite (f : Flight) (ends : Nat) (q h : Claim) : Bool :=
  h.write && (!q.write || (match f.retireAt with | none => true | some t => ends ≤ t))

/-- Whether an unretired instruction of the same engine holds back one that makes claim `q` and retires at `ends`:
results are read after they are delivered, and writes to one register stay in program order. The register that reads
as zero holds nothing back. -/
def blocksOwn (f : Flight) (ends : Nat) (q : Claim) (h : Claim) : Bool :=
  if h.res != q.res then false
  else match h.res with
    | .cluster _ | .acc _ => false
    | .tile _ => (f.retireAt.isNone && q.write) || afterWrite f ends q h
    | .sreg e n => !isZeroReg e n && afterWrite f ends q h
    | _ => afterWrite f ends q h

/-- Whether an unretired instruction of another engine of the core holds it back. -/
def blocksOther (h q : Claim) : Bool :=
  match h.res, q.res with
  | .tile a, .tile b => a == b && (h.write || q.write)
  | .cluster a, .cluster b => a == b && (h.write || q.write)
  | .acc a, .cluster b => a == b
  | .cluster a, .acc b => a == b
  | .acc a, .acc b => a == b
  | _, _ => false

def flightBlocks (e : Engine) (ends : Nat) (cl : List Claim) (f : Flight) : Bool :=
  f.claims.any fun h => cl.any fun q => if f.eng = e then blocksOwn f ends q h else blocksOther h q

/-- The clusters on which a matrix instruction is pending (R158). -/
def pendBlocks (cs : CoreSt) (e : Engine) (cl : List Claim) : Bool :=
  let on (n : Nat) : Bool := e != .mtx && cl.any fun q => q.res == .cluster n
  ((cs.mtx.pending.map fun p => on p.cluster).getD false) || ((cs.pairPend.map on).getD false)

/-- Claims stall the instruction (DEDUCED, log entry 11). -/
def hazard (s : State) (cs : CoreSt) (e : Engine) (cl : List Claim) (lat : Nat) : Bool :=
  cs.flights.any (flightBlocks e (coreCycle s + lat - 1) cl) || pendBlocks cs e cl

/-! ### Semaphores (R285 to R288) -/

def getSem (cs : CoreSt) (n : Nat) : Sem := mgetD {} cs.sems n
def setSem (cs : CoreSt) (n : Nat) (v : Sem) : CoreSt := { cs with sems := mputD {} cs.sems n v }

/-- One increment, unless the count is 65,535 (R288); true when it overflows. -/
def incSem (cs : CoreSt) (n : Nat) : CoreSt × Bool :=
  let m := getSem cs n
  if m.count ≥ 65535 then (cs, true) else (setSem cs n { m with count := m.count + 1 }, false)

/-- One granted wait (R286, R287). -/
def decSem (cs : CoreSt) (n : Nat) : CoreSt :=
  let m := getSem cs n
  setSem cs n { count := m.count - 1, cqrel := m.cqrel && m.count != 1 }

/-- The semaphores in this core cycle. -/
def semLogAt (now : Nat) (cs : CoreSt) : SemLog := if cs.semLog.cycle = now then cs.semLog else { cycle := now }

/-- A wait granted in this cycle, with a note of it (R286, R287). -/
def grantWait (now : Nat) (cs : CoreSt) (n : Nat) : CoreSt :=
  let r := decSem cs n
  let l := semLogAt now cs
  { r with semLog := { l with waits := (n, (getSem cs n).cqrel && !(getSem r n).cqrel) :: l.waits } }

/-- A wait on the semaphore has been granted in this cycle. -/
def waitedNow (now : Nat) (cs : CoreSt) (n : Nat) : Bool := (semLogAt now cs).waits.any fun w => w.1 == n

/-- The count that a post of this cycle finds: the posts of a cycle come before its waits (R286). -/
def countBefore (now : Nat) (cs : CoreSt) (n : Nat) : Nat :=
  (getSem cs n).count + ((semLogAt now cs).waits.filter fun w => w.1 == n).length

/-- The increment, as though it had come before the waits of the cycle: a wait that cleared CQREL would have left the count above 0. -/
def applyPost (now : Nat) (cs : CoreSt) (rank n : Nat) : CoreSt :=
  let l := semLogAt now cs
  let m := getSem cs n
  { setSem cs n { count := m.count + 1, cqrel := m.cqrel || l.waits.any fun w => w.1 == n && w.2 } with
    semLog := { l with waits := l.waits.map (fun w => if w.1 = n then (n, false) else w), posts := (n, rank) :: l.posts } }

/-- One post of this cycle by the source of this rank. Where the count is full it stays, and the answer names the source whose post overflows: of
those that post to the semaphore in this cycle the last in the order of R286 (R288). -/
def postAt (now : Nat) (cs : CoreSt) (rank n : Nat) : CoreSt × Option Nat :=
  if 65535 ≤ countBefore now cs n then
    let l := semLogAt now cs
    let v := ((l.posts.filter fun p => p.1 == n).map (·.2)).foldl max rank
    ({ cs with semLog := { l with posts := if v = rank then l.posts else (n, rank) :: l.posts.erase (n, v) } }, some v)
  else (applyPost now cs rank n, none)

def engRank (e : Engine) : Nat := 2 + engCode e
def rankEng (r : Nat) : Engine := match r with | 2 => .seq | 3 => .mem | 4 => .vec | _ => .mtx

/-! ### Acquire (R342) -/

/-- Every valid word that the core does not own is invalidated; a fill requested earlier installs nothing. -/
def acquire (cs : CoreSt) : CoreSt :=
  { cs with
    l1 := (cs.l1.map fun l => { l with valid := l.valid &&& l.owned }).filter fun l => l.valid != 0
    accesses := cs.accesses.map fun a => if a.store then a else { a with noInstall := true } }

/-! ### Traps (R366 to R374) -/

/-- Trap codes (R371). -/
def trapCode : Trap → Nat
  | .illegalLength => 0x0101 | .illegalOpcode => 0x0102 | .illegalField => 0x0103
  | .lineEngine => 0x0104 | .lineKind => 0x0105 | .lineSlot => 0x0106
  | .branchTarget => 0x0107 | .rstackOverflow => 0x0108 | .rstackEmpty => 0x0109
  | .loopCount => 0x010A | .loopState => 0x010B | .trap => 0x010C | .poisonUse => 0x010D
  | .misaligned => 0x0201 | .busError => 0x0202 | .spmRange => 0x0203
  | .pagePerm => 0x0204 | .pageBad => 0x0205 | .pageMissing => 0x0206 | .pageMoving => 0x0207 | .rspTarget => 0x0208
  | .vecType => 0x0301 | .tileShape => 0x0302 | .mmaType => 0x0303 | .pairRole => 0x0304
  | .sparseMeta => 0x0305 | .tilePoison => 0x0306
  | .rowRange => 0x0401 | .rowMode => 0x0402 | .rowBusy => 0x0403 | .rowClosed => 0x0404
  | .rowLapsed => 0x0405 | .rowEarly => 0x0406
  | .forkActive => 0x0501 | .launchDepth => 0x0502 | .launchAlign => 0x0503 | .childLimit => 0x0504
  | .semOverflow => 0x0505 | .barCount => 0x0506 | .barGang => 0x0507
  | .remoteOwnerLost => 0x0601 | .remoteLost => 0x0602 | .remoteFault => 0x0603
  | .cqDesc => 0x0604 | .cqOverlap => 0x0605 | .cqFault => 0x0606
  | .preempt => 0x0701 | .kill => 0x0702 | .watchdog => 0x0703 | .bkpt => 0x0704
  | .stackLost => 0x0705 | .stateEcc => 0x0706 | .ctxBad => 0x0707

/-- Priorities of a code raised by an engine, 0 first (R371). -/
def trapPrio : Nat → Nat
  | 0x0702 => 0 | 0x0705 => 1 | 0x0706 => 2 | 0x0703 => 3 | 0x0606 => 4 | 0x0704 => 5 | 0x0701 => 6
  | 0x0206 => 8 | 0x0207 => 8 | _ => 7

/-- The fault that a poison cause gives (R372, R373). -/
def causeTrap : Cause → Trap
  | .speculative => .poisonUse | .memory => .poisonUse
  | .faultAtOwner => .remoteFault | .streamLost => .remoteLost | .ownerLost => .remoteOwnerLost

/-- Priority of a team-level event: SEM_OVERFLOW of a copy queue counts as its CQ_FAULT does (R302, R371). -/
def eventPrio (code : Nat) : Nat := if code = 0x0505 then 4 else trapPrio code

/-- The first trap of the half in the header's TCODE, by priority and engine within one core cycle (R371, R378, R382). -/
def noteTrap (s : State) (cs : CoreSt) (e : Engine) (code prio : Nat) : CoreSt :=
  match cs.run with
  | .running => { cs with run := .draining (coreCycle s), tcode := code, tcodePrio := prio, tcodeEng := e }
  | .draining t =>
    if cs.tcode = 0 ∨ (t = coreCycle s ∧ (prio < cs.tcodePrio ∨ (prio = cs.tcodePrio ∧ engCode e < engCode cs.tcodeEng))) then
      { cs with tcode := code, tcodePrio := prio, tcodeEng := e }
    else cs
  | .stopped => cs

/-- In a paired team both halves stop (R367). -/
def drainPair (s : State) (c : Nat) : State :=
  if isPaired s (getCore s c) then
    let p := getCore s (pairOf c)
    match p.run with
    | .running => setCore s (pairOf c) { p with run := .draining (coreCycle s) }
    | _ => s
  else s

/-- The Onyx event of a trap raised in a team (R431) (DEDUCED, log entry 10). -/
def logTrap (s : State) (c eng code pc : Nat) (addr : Word) : State :=
  let o := (getCore s c).occ.getD ⟨0, 0, 0, 0⟩
  logStack s (c / 48) code [(4, o.launch), (4, o.gang), (2, o.team), (1, o.half), (1, eng), (2, c), (4, pc), (8, addr.toNat)]

/-- TAKING AN EXCEPTION (R366, R367, R371, R379): the engine stops with its fault recorded in its block, at the saved
PC; the other engines run on until the team stops. No vector is entered: firmware answers the report. -/
def raiseTrap (s : State) (c : Nat) (e : Engine) (r : FaultRec) (waited : Bool) (pc : Pc) : State :=
  let cs := getCore s c
  let st := cs.stream e
  let st := { st with fault := some r, waitDone := waited, pc := pc, pending := none }
  let s := drainPair (setCore s c (noteTrap s (cs.setStream e st) e (trapCode r.trap) (trapPrio (trapCode r.trap)))) c
  logTrap s c (engCode e) (trapCode r.trap) (r.instrPc.getD (packPc pc)) r.addr

/-- AUX of a HALT report (R430). -/
def accAux : AccKind → Nat
  | .load => 0 | .store => 1 | .fetch => 2 | .readWrite => 1

/-- Physical address of a team's context record. -/
def recordAddr (s : State) (o : Occ) : Nat := ((s.fw.areas.find? fun a => a.1 == o).map (·.2)).getD 0

/-- A resumable halt (R275): the engine stops at the instruction, with its wait marked done when it was taken, and firmware
reports the halt. -/
def haltStream (s : State) (c : Nat) (e : Engine) (h : HaltRec) (waited : Bool) (pc : Pc) : State :=
  let cs := getCore s c
  let st := cs.stream e
  let o := cs.occ.getD ⟨0, 0, 0, 0⟩
  let s := setCore s c (cs.setStream e { st with halted := some h, waitDone := waited, pc := pc, pending := none })
  let s := logTrap s c (engCode e) (trapCode h.trap) (packPc pc) (BitVec.ofNat 64 h.va)
  postReport s
    { kind := 2, engine := engCode e, code := trapCode h.trap, launch := o.launch, gang := o.gang, team := o.team,
      half := o.half, aux := accAux h.kind, core := c, asid := h.asid, pc := packPc pc, addr := BitVec.ofNat 64 h.va,
      ctx := recordAddr s o }

/-- RETURN FROM AN EXCEPTION (R368, R381): the engine's fault is cleared and its saved instruction issues again,
with its entry checked afresh (R61). -/
def resumeStream (st : Stream) : Stream :=
  { st with fault := none, entry := if st.active then some false else none }

/-! ### Retirement (R69, R72, R101, R159, R288) -/

/-- SEM_OVERFLOW in an engine, unless it has it already (R288). -/
def semOverflow (s : State) (c : Nat) (e : Engine) : State :=
  let st := getStream s c e
  if (st.fault.map (·.trap)) == some .semOverflow then s else raiseTrap s c e { trap := .semOverflow } st.waitDone st.pc

/-- An end-of-stream or instruction post in an engine, in core cycle `t`; an overflow is a precise fault, there or in the engine whose post of the
cycle comes last (R286, R288). -/
def postSemAt (t : Nat) (s : State) (c : Nat) (e : Engine) (n : Nat) : State :=
  let r := postAt t (getCore s c) (engRank e) n
  let s' := setCore s c r.1
  match r.2 with
  | none => s'
  | some v => semOverflow s' c (rankEng v)

/-- The flight retires at the end of this cycle or has to. -/
def dueBy (now : Nat) (f : Flight) : Bool :=
  match f.retireAt with
  | some t => t ≤ now
  | none => false

/-- The post of a flight whose last cycle `t` has come is applied, in that cycle (R286). -/
def postFlight (t c : Nat) (s : State) (f : Flight) : State :=
  match f.post with
  | none => s
  | some n =>
    postSemAt t (setCore s c { getCore s c with flights := (getCore s c).flights.map fun g =>
      if g.id = f.id then { g with post := none, posted := true } else g }) c f.eng n

/-- Nothing of the engine is under way after cycle `t`: its stream ends there when it has reached its end (R101). -/
def endsBy (t : Nat) (cs : CoreSt) (e : Engine) : Bool :=
  let st := cs.stream e
  st.ending && !st.endPosted && st.fault.isNone && (cs.flights.all fun f => f.eng != e || dueBy t f) &&
    cs.accesses.all fun a => a.eng != e || a.cleared || a.pref

/-- Posts of an engine's retirements up to cycle `t`, and then of its stream's end (R101, R286). -/
def postEngine (t c : Nat) (s : State) (e : Engine) : State :=
  let s := ((getCore s c).flights.filter fun f => f.eng == e && dueBy t f).foldl (postFlight t c) s
  if endsBy t (getCore s c) e then postSemAt t (setStream s c e { getStream s c e with endPosted := true }) c e (getStream s c e).endSem else s

/-- The posts that cycle `t` brings, in the order seq, mem, vec, mtx (R286). -/
def postsOf (c : Nat) (s : State) (t : Nat) : State := [Engine.seq, .mem, .vec, .mtx].foldl (postEngine t c) s

/-- Numbers in ascending order, each once. -/
def ascend (l : List Nat) : List Nat :=
  l.foldl (fun a x => if a.contains x then a else a.takeWhile (· < x) ++ x :: a.dropWhile (· < x)) []

/-- Core cycles before `t` in which flights have retired whose posts have not been applied. -/
def pastCycles (t : Nat) (cs : CoreSt) : List Nat :=
  ascend (cs.flights.filterMap fun f => f.retireAt.filter fun u => u < t && !f.posted)

/-- The posts of retirements up to cycle `t`, cycle by cycle (R286). -/
def postsTo (t : Nat) (s : State) (c : Nat) : State := (pastCycles t (getCore s c) ++ [t]).foldl (postsOf c) s

/-- A post of this core cycle, after those that earlier cycles have left (R286). -/
def postSem (s : State) (c : Nat) (e : Engine) (n : Nat) : State := postSemAt (coreCycle s) (postsTo (coreCycle s - 1) s c) c e n

def postOpt (s : State) (c : Nat) (e : Engine) : Option Nat → State
  | none => s
  | some n => postSem s c e n

/-- A stream that has reached its end and has no instruction in flight ends: it posts its end semaphore and the engine
becomes idle with empty return stack and loop (R101, R137). -/
def endStream (s : State) (c : Nat) (e : Engine) : State :=
  let cs := getCore s c
  let st := cs.stream e
  if st.ending && (st.fault.isNone || st.endPosted) && (cs.flights.all fun f => f.eng != e) && (cs.accesses.all fun a => a.eng != e || a.cleared || a.pref) then
    let st' := { st with active := false, ending := false, endPosted := false, pc := .fin, entry := none, rstack := [],
                         loop := 0x8000000000000000, waitDone := false }
    let s := setCore s c (cs.setStream e st')
    if st.endPosted then s else postSem s c e st.endSem
  else s

/-- The follower's half of an MMA.P ends: its flags are set, its claims end, and it is held no longer (R208) (DEDUCED, log entry 63). -/
def releaseFollower (s : State) (p : Nat) : State :=
  let cs := getCore s p
  let fl := (cs.flights.find? fun g => g.mma.isSome).map (·.flags)
  let st := { cs.mtx with fpstat := stickyFlags cs.mtx.fpstat (fl.getD 0) }
  setCore s p { cs with mtx := st, flights := cs.flights.filter fun g => g.mma.isNone, shadow := none, held := false, heldTo := coreCycle s + 1 }

/-- Retirement of a flight: its pushes are filled, its flags set, its claims end and its post is made. -/
def retireFlight (s : State) (c : Nat) (f : Flight) : State :=
  let cs := getCore s c
  let cs := f.fills.foldl (fun cs x => applyFill cs f.id x) cs
  let st := cs.stream f.eng
  let cs := cs.setStream f.eng { st with fpstat := stickyFlags st.fpstat f.flags }
  let cs := { cs with flights := cs.flights.filter fun g => g.id != f.id }
  let cs := if f.mma.isSome then { cs with shadow := none } else cs
  let s := setCore s c cs
  let s := match f.partner with
    | none => s
    | some p => releaseFollower s p
  endStream (postOpt (postOpt s c f.eng f.semp) c f.eng f.post) c f.eng

/-! ### Issue -/

/-- Where the stream goes after the instruction (DESIGN CHOICE, log entry 24). -/
inductive Flow where
  | next
  | goto (pc : Pc)
  | fin
  | wait (k : WaitKind)
  deriving DecidableEq, Repr

/-- The effect of an instruction that issues. -/
structure Done where
  s : State
  lat : Nat := 1
  /-- It retires when memory or a reply comes, not after a fixed latency. -/
  openEnd : Bool := false
  fills : List Fill := []
  claims : List Claim := []
  flags : Flags := 0
  flow : Flow := .next
  mma : Option (Nat × Bool) := none
  mmaTiles : List (Nat × Nat) := []
  partner : Option Nat := none
  /-- A SEMP that has to wait for earlier instructions (R290). -/
  semp : Option Nat := none
  /-- First core cycle after which the engine may issue again, beyond the next one. -/
  busy : Nat := 1
  /-- A fault the instruction records with its successor as saved PC (R140, R288, R293). -/
  after : Option FaultRec := none
  deriving DecidableEq, Repr

/-- What an instruction does when it is ready to issue. -/
inductive Verdict where
  /-- An issue condition does not hold: the stream waits and nothing changes. -/
  | stall
  /-- As stall, but a matrix instruction is pending on its cluster, an MMA.P also in the follower's core (R158). -/
  | pend (p : Pending) (pair : Option Nat)
  | trap (r : FaultRec)
  /-- A fault that leaves a stated change of the machine (R293, R317). -/
  | trapIn (s : State) (r : FaultRec)
  | halt (h : HaltRec)
  | done (d : Done)
  deriving DecidableEq, Repr

/-- Poisoned use (R373). -/
def poisonTrap (c : Cause) : Verdict := .trap { trap := causeTrap c, cause := c.code }

/-- 4,096 core cycles after the first fault no engine of the team issues (R367). -/
def drained (s : State) (cs : CoreSt) : Bool := match cs.run with
  | .draining t => t + 4096 ≤ coreCycle s
  | _ => false

/-- The engine can issue: a team runs here with its whole gang, and its stream is neither stopped nor waiting (R99, R101, R367, R275). -/
def runnable (s : State) (c : Nat) (e : Engine) : Bool :=
  let cs := getCore s c
  let st := cs.stream e
  cs.occ.isSome && cs.inService && cs.run != .stopped && (!cs.event || cs.grace == some (coreCycle s)) && !drained s cs && cs.restartAt.isNone && st.active && st.fault.isNone && st.halted.isNone &&
    st.waiting.isNone && !st.ending && gangTogether s cs

/-- A load of a packet or descriptor: the instruction has more to do when it returns, and may still fault (R117, R359). -/
def goesOn : LoadDst → Bool
  | .launch _ | .cqDesc _ _ _ | .cqList _ _ _ => true
  | _ => false

/-- Some operation of an atomic or of a store to another package has not left: the engine's stream blocks (R304, R306). -/
def opsWait (a : Access) : Bool := !a.ops.isEmpty || ((a.store || a.dst == .none) && a.pieces.any fun p => match p.route with
  | .remote _ => p.st == .idle
  | _ => false)

/-- The instruction must wait before its issue conditions are looked at: one issue a cycle (R159, R201, R247), the follower
of an MMA.P is held (R208), an earlier access of the engine has not cleared (R247), a request of the engine waits for a miss-status entry (R249)
(DEDUCED, log entry 15). -/
def mustWait (s : State) (cs : CoreSt) (e : Engine) : Bool :=
  coreCycle s < (cs.stream e).nextIssue || (e == .mtx && cs.held) ||
    (e == .mtx && cs.flights.any fun f => f.eng == .mtx) ||
    cs.accesses.any fun a => a.eng == e && !a.pref && (!a.cleared || goesOn a.dst || opsWait a ||
      cs.mseWait.any fun w => a.id == w.1 && a.pieces.any fun p => p.st == .idle && !p.ent && p.va / 128 * 128 == w.2)

/-- A sequencer predicate (R68). -/
def predTrue (cs : CoreSt) (e : Engine) (p : Pred) : Bool :=
  e != .seq || p.idx == 0 || (cs.preds.getLsbD p.idx != p.neg)

/-- The stream after an instruction of w words has issued (DEDUCED, log entry 23). -/
def advance (s : State) (cs : CoreSt) (e : Engine) (st : Stream) (w : Nat) (d : Done) : Stream :=
  let (nx, line) := nextPc cs e st.pc w
  let st := { st with waitDone := false, pending := none, arrived := false, replayFtz := none, replayPair := none,
                      nextIssue := coreCycle s + max 1 d.busy, lastIssue := residence s cs }
  match d.flow with
  | .next => { st with pc := nx, entry := if line && nx != .fin then some true else none, ending := nx == .fin && e != .seq }
  | .goto .fin => { st with pc := .fin, entry := none, ending := e != .seq }
  | .goto pc => { st with pc := pc, entry := some false }
  | .fin => { st with pc := .fin, entry := none, ending := e != .seq }
  | .wait _ => st

/-- A GBAR that waits has made its arrival (R296). -/
def arrives : WaitKind → Bool
  | .gbar _ => true | _ => false

/-- A waiting instruction retires: its stream goes on at the successor, and its post is made. -/
def completeWait (s : State) (c : Nat) (e : Engine) : State :=
  let cs := getCore s c
  let st := cs.stream e
  match st.waiting with
  | none => s
  | some w =>
    let st := { st with waiting := none, waitDone := false, arrived := false, pc := w.next, nextIssue := coreCycle s + 1,
                        entry := if w.cross then some true else none, ending := w.next == .fin && e != .seq }
    endStream (postOpt (setCore s c (cs.setStream e st)) c e w.post) c e

/-- Completes the issue: the stream advances, and the instruction retires at once when its latency is one cycle and it
pushes and claims nothing, or else is in flight. A TRAP, SEMP or CBA that faults after its effect at the end of a stream's last line still
ends that stream, which posts (R101, R140) (DESIGN CHOICE, log entry 64). -/
def finish (c : Nat) (e : Engine) (w : Nat) (post : Option Nat) (waited : Bool) (d : Done) : State :=
  let s := d.s
  let cs := getCore s c
  let st := cs.stream e
  let pc := st.pc
  let st' := advance s cs e st w d
  let id := cs.nextId
  let f : Flight :=
    { id := id, eng := e, retireAt := if d.openEnd then none else some (coreCycle s + d.lat - 1),
      claims := d.claims, fills := d.fills, post := post, flags := d.flags, pc := pc, waited := waited,
      mma := d.mma, mmaTiles := d.mmaTiles, partner := d.partner, semp := d.semp }
  let cs := { cs.setStream e st' with nextId := id + 1, freed := cs.freed.map fun p => (p.1, some (p.2.getD (coreCycle s))) }
  match d.flow with
  | .wait k =>
    let n := nextPc cs e pc w
    setCore s c (cs.setStream e { st' with waiting := some { kind := k, post := post, next := n.1, cross := n.2 && n.1 != .fin }
                                           waitDone := waited, arrived := arrives k })
  | _ =>
    let s' :=
      if d.openEnd || d.lat > 1 || !d.fills.isEmpty || !d.claims.isEmpty then setCore s c { cs with flights := cs.flights ++ [f] }
      else retireFlight (setCore s c cs) c f
    match d.after with
    | none => endStream s' c e
    | some r => raiseTrap s' c e { r with instrPc := some (packPc pc) } false (getStream s' c e).pc

/-- Remote operations of a core's team that have left, or wait to leave, without an answer (R304, R320). -/
def teamOps (s : State) (cs : CoreSt) : List RemOp :=
  (s.rou.slots.flatMap fun p => if p.2.bound == cs.occ then p.2.out ++ p.2.waitq else []) ++
    (s.rou.parked.filter fun x => some x.1 == cs.occ).map (·.2)

/-- Such an operation of the engine (R320). -/
def slotBusy (s : State) (cs : CoreSt) (e : Engine) : Bool := (teamOps s cs).any fun o => o.eng == e && o.copy.isNone

/-- The remote operations of the engine that an instruction issued before `id` made are all answered; those of a restored team have no
access any more (R320). -/
def repliesBefore (s : State) (cs : CoreSt) (e : Engine) (id : Nat) : Bool :=
  (teamOps s cs).all fun o => o.eng != e || o.copy.isSome || (!o.saved && id ≤ o.flight)

/-- Every instruction of the engine issued before instruction `id` has retired, and every such memory access has been performed (R290). -/
def settledBefore (s : State) (cs : CoreSt) (e : Engine) (id : Nat) : Bool :=
  (cs.flights.all fun f => f.eng != e || id ≤ f.id) && (cs.accesses.all fun a => a.eng != e || a.pref || id ≤ a.flight) &&
    repliesBefore s cs e id

/-- The cycle in which the flight retires is over: its results are there for whoever issues now (R159). -/
def hasEnded (now : Nat) (f : Flight) : Bool :=
  match f.retireAt with
  | some t => t < now
  | none => false

/-- The flight may retire: its last cycle is over, or it is a SEMP that has nothing to wait for (R159, R290) (DEDUCED, log entry 13). -/
def mayRetire (s : State) (cs : CoreSt) (f : Flight) : Bool :=
  hasEnded (coreCycle s) f || (f.semp.isSome && settledBefore s cs f.eng f.id)

/-- Step 1 of the cycle for the semaphores of a core: what earlier cycles have left first (R286, R288) (DEDUCED, log entry 13). -/
def settlePosts (s : State) (c : Nat) : State := postsTo (coreCycle s) s c

/-- Every earlier load of the engine has its value (R345, R446). -/
def loadsDone (cs : CoreSt) (e : Engine) : Bool := cs.accesses.all fun a => a.eng != e || a.store || a.pref

/-- A wait on semaphore n can be granted: the count is not zero, and an acquire that a copy-queue post asks for has nothing to
wait for (R286, R287, R446). -/
def semReady (cs : CoreSt) (e : Engine) (n : Nat) : Bool :=
  (getSem cs n).count != 0 && (!(getSem cs n).cqrel || loadsDone cs e)

/-- The wait granted: the acquire that a copy-queue post asks for, and the count taken (R287). -/
def takeSem (now : Nat) (cs : CoreSt) (n : Nat) : CoreSt := grantWait now (if (getSem cs n).cqrel then acquire cs else cs) n

/-- A sync-field wait (R69, R286, R287), after the posts of the cycle: none when it is not granted; else the state with the count taken and the
acquire that a copy-queue post asks for. -/
def takeWait (s : State) (c : Nat) (e : Engine) (w : Option Nat) : Option (State × Bool) :=
  let s := settlePosts s c
  let cs := getCore s c
  if (cs.stream e).fault.isSome then none
  else match w with
    | none => some (s, false)
    | some n =>
      if (cs.stream e).waitDone then some (s, true)
      else if semReady cs e n then some (setCore s c (takeSem (coreCycle s) cs n), true)
      else none

/-- Notes a pending matrix instruction, or a ROW.ACT that has passed its checks. -/
def markPending (s : State) (c : Nat) (p : Pending) (pair : Option Nat) : State :=
  let cs := getCore s c
  let s := setCore s c (if p.act.isSome then { cs with mem := { cs.mem with pending := some p } } else { cs with mtx := { cs.mtx with pending := some p } })
  match pair with
  | none => s
  | some f => setCore s f { getCore s f with pairPend := some p.cluster }

/-- The issue of one instruction by the engine in focus (R69, R72, R73): decode check of its fields, predicate, wait,
then its own conditions, faults and effect. The body sees the state after the wait (DEDUCED, log entries 11, 12). -/
def issue (i : Instr) (s : State) (body : State → Verdict) : Out :=
  let c := s.focusCore
  let e := s.focusEng
  let cs := getCore s c
  let st := cs.stream e
  let k := instrCtl i
  if !runnable s c e then .fault .noStream
  else if mustWait s cs e then .next s
  else if !wellFormed e i then .next (raiseTrap s c e { trap := .illegalField } st.waitDone st.pc)
  else match takeWait s c e k.wait with
    | none => .next s
    | some (s1, waited) =>
      if !predTrue cs e k.pred then .next (finish c e (instrWords i) k.post waited { s := s1 })
      else match body s1 with
        | .stall => .next s
        | .pend p pair => .next (markPending s c p pair)
        | .trap r => .next (raiseTrap s1 c e r waited st.pc)
        | .trapIn s2 r => .next (raiseTrap s2 c e r waited st.pc)
        | .halt h => .next (haltStream s1 c e h waited st.pc)
        | .done d => .next (finish c e (instrWords i) k.post waited d)

/-- The focus core's state. -/
def focusCs (s : State) : CoreSt := getCore s s.focusCore
def withCs (s : State) (cs : CoreSt) : State := setCore s s.focusCore cs

/-! ### Scalar results -/

/-- The common shape of an instruction with scalar sources and one scalar destination: the sources are read in order,
the destination register is written or an entry of QR is reserved, and `f` gives the verdict from the values. -/
def scalarBody (srcs : List SSrc) (d : SDst) (lat : Nat) (f : List SVal → Except Verdict SVal) (s : State) : Verdict :=
  let e := s.focusEng
  let cs := focusCs s
  let cl := claimsOf (srcs.flatMap (srcRes e)) (dstRes e d)
  if hazard s cs e cl lat then .stall
  else match takeSrcs cs e srcs with
    | none => .stall
    | some (vs, cs1) =>
      if d = .qr && !roomSq cs .qr then .stall
      else match f vs with
        | .error v => v
        | .ok v =>
          match d with
          | .reg n => .done { s := withCs s (setReg cs1 e n v), lat := lat, claims := if lat > 1 then cl else [] }
          | .qr => .done { s := withCs s (reserveQr cs1 e (coreCycle s) cs.nextId), lat := lat, fills := [.scalar .qr v],
                           claims := if lat > 1 then cl else [] }

end Sys2Proof.Machine
end

