-- ==== Sys2Proof/Machine/Operands.lean ====
section
/-! DEFINITION. Vector operands: reading registers, queue heads and constants, masks, writing lanes with their tags, the
element-width check, and the common shape of a vector instruction. -/

namespace Sys2Proof.Machine

/-! ### Lanes and tags (R153, R161) -/

/-- n consecutive pieces of k elements. -/
def chunks {α : Type} (k : Nat) : Nat → List α → List (List α)
  | 0, _ => []
  | n + 1, l => l.take k :: chunks k n (l.drop k)

/-- Tag of a granule after a write: the tags of the lanes written, and the old tag when a lane of it is not written. -/
def granAfter (old : Option Cause) : List (Option LaneOut) → Option Cause
  | [] => none
  | none :: t => maxTag old (granAfter old t)
  | some x :: t => maxTag x.tag (granAfter old t)

/-- Bits of lane i after a write: those written, or the old ones. -/
def laneAfter (w old i : Nat) : Option LaneOut → Nat
  | none => laneOf w old i
  | some x => x.val

/-- A register after a write of lanes of width w (4, 8, 16, 32 or 64); a lane that is not written is none. -/
def writeLanes (w : Nat) (old : VVal) (ls : List (Option LaneOut)) : VVal :=
  let o := old.data.toNat
  let t := old.tags.toNat
  { data := BitVec.ofNat 4096 (packLanes w (ls.mapIdx fun i x => laneAfter w o i x))
    tags := BitVec.ofNat 256 (packLanes 4 ((chunks (64 / w) 64 ls).mapIdx fun g c => tagNib (granAfter (granTag t g) c))) }

/-- The lane-index vector at width w (R71). -/
def laneVec (w : Nat) : VVal := { data := BitVec.ofNat 4096 (packLanes w (List.range (4096 / w))) }

/-- Lane i of a vector at width w and its tag. -/
def vLane (w : Nat) (v : VVal) (i : Nat) : Nat := laneOf w v.data.toNat i
def vTag (w : Nat) (v : VVal) (i : Nat) : Option Cause := laneTag w v.tags.toNat i

/-- The greatest tag of granules g to g + n - 1. -/
def tagsFrom (v : VVal) (g : Nat) : Nat → Option Cause
  | 0 => none
  | n + 1 => maxTag (granTag v.tags.toNat g) (tagsFrom v (g + 1) n)

/-! ### Operands -/

def readV (cs : CoreSt) (n : Nat) : VVal := mgetD {} cs.vregs n
def writeV (cs : CoreSt) (n : Nat) (v : VVal) : CoreSt := { cs with vregs := mputD {} cs.vregs n v }

/-- A mask: K0 reads as 512 one bits (R175). -/
def readMask (cs : CoreSt) (n : Nat) : MaskVal := if n = 0 then { bits := BitVec.allOnes 512 } else mgetD {} cs.masks n
def writeMask (cs : CoreSt) (n : Nat) (m : MaskVal) : CoreSt := { cs with masks := mputD {} cs.masks n m }

/-- Bits 0 to L - 1 of a mask (R177). -/
def lowMask (l : Nat) (m : BitVec 512) : BitVec 512 := BitVec.ofNat 512 (m.toNat % 2 ^ l)

/-- Reads a vector source; a queue head is popped. None waits. -/
def takeVSrc (cs : CoreSt) (w : Nat) : VSrc → Option (VVal × CoreSt)
  | .reg n => some (readV cs n, cs)
  | .lq n => popDq cs (.lq n)
  | .zero => some ({}, cs)
  | .lane => some (laneVec w, cs)

def takeVSrcs (cs : CoreSt) (w : Nat) : List VSrc → Option (List VVal × CoreSt)
  | [] => some ([], cs)
  | v :: t =>
    match takeVSrc cs w v with
    | none => none
    | some (x, cs') => (takeVSrcs cs' w t).map fun r => (x :: r.1, r.2)

def vsrcRes : VSrc → List Res
  | .reg n => [.vreg n] | _ => []
def vdstRes : VDst → List Res
  | .reg n => [.vreg n] | _ => []

/-- EW of a cluster in bits (R154): TC.ACCn[1:0]. -/
def ewOf (cs : CoreSt) (n : Nat) : Nat := 8 <<< ((mgetD 0 cs.tcAcc n).toNat % 4)

/-- A cluster whose EW is not the width asked (R157). -/
def ewWrong (cs : CoreSt) (w : Nat) : Option Nat → Bool
  | none => false
  | some n => ewOf cs n != w

/-- The operands of a vector instruction. -/
structure VOps where
  /-- Destinations: vector, scalar, mask, pattern register. -/
  vd : Option VDst := none
  sd : Option SDst := none
  md : Option Nat := none
  bpd : Option Nat := none
  vs : List VSrc := []
  ss : List SSrc := []
  /-- Masks and the pattern register that it reads through fields. -/
  ms : List Nat := []
  bp : Option Nat := none
  /-- The old D is a source. -/
  readD : Bool := false
  /-- Clusters whose EW must equal w (R157). -/
  chk : List (Option Nat) := []
  w : Nat := 8
  pred : Pred := {}
  lat : Nat
  deriving DecidableEq, Repr

/-- What a vector instruction reads. -/
structure VIn where
  vs : List VVal
  ss : List SVal
  ms : List MaskVal
  old : VVal
  oldM : MaskVal
  bp : BitVec 1024
  mask : BitVec 512
  rm : RMode
  ftz : Bool
  deriving DecidableEq, Repr

/-- What it writes. -/
structure VOut where
  v : VVal := {}
  sc : SVal := {}
  m : MaskVal := {}
  b : BitVec 1024 := 0
  flags : Flags := 0
  deriving DecidableEq, Repr

/-- The active lanes: bit i of Kn XOR PN, or all (R68). -/
def activeMask (cs : CoreSt) (p : Pred) : BitVec 512 :=
  if p.idx = 0 then BitVec.allOnes 512 else if p.neg then ~~~(readMask cs p.idx).bits else (readMask cs p.idx).bits

def VOps.reads (o : VOps) : List Res :=
  o.vs.flatMap vsrcRes ++ o.ss.flatMap (srcRes .vec) ++ (o.pred.idx :: o.ms).map Res.mask ++
    (o.bp.map Res.bp).toList ++ (if o.readD then (o.vd.map vdstRes).getD [] else [])

def VOps.writes (o : VOps) : List Res :=
  (o.vd.map vdstRes).getD [] ++ (o.sd.map (dstRes .vec)).getD [] ++ (o.md.map Res.mask).toList ++ (o.bpd.map Res.bp).toList

/-- The old contents of a vector destination; an entry of SQ starts from zeros (R68, R167). -/
def oldD (cs : CoreSt) : Option VDst → VVal
  | some (.reg n) => readV cs n
  | _ => {}

/-- A queue that a destination pushes. -/
def roomV (cs : CoreSt) : Option VDst → Bool
  | some (.sq n) => roomDq cs (.sq n)
  | _ => true
def roomS (cs : CoreSt) : Option SDst → Bool
  | some .qr => roomSq cs .qr
  | _ => true

/-- Writes a vector destination: the register, or a reserved entry filled at retirement (R72, R160). -/
def putV (cs : CoreSt) (id : Nat) (v : VVal) : Option VDst → CoreSt × List Fill
  | some (.reg n) => (writeV cs n v, [])
  | some (.sq n) => (reserveDq cs (.sq n) id, [.vector (.sq n) v])
  | none => (cs, [])

def putS (cs : CoreSt) (e : Engine) (now id : Nat) (v : SVal) : Option SDst → CoreSt × List Fill
  | some (.reg n) => (setReg cs e n v, [])
  | some .qr => (reserveQr cs e now id, [.scalar .qr v])
  | none => (cs, [])

def putM (cs : CoreSt) (m : MaskVal) : Option Nat → CoreSt
  | some n => writeMask cs n m
  | none => cs
def putB (cs : CoreSt) (b : BitVec 1024) : Option Nat → CoreSt
  | some n => { cs with bps := mputD 0 cs.bps n b }
  | none => cs

/-- Writes all destinations of a vector instruction. -/
def putOut (now : Nat) (cs : CoreSt) (o : VOps) (x : VOut) : CoreSt × List Fill :=
  let r1 := putV cs cs.nextId x.v o.vd
  let r2 := putS r1.1 .vec now cs.nextId x.sc o.sd
  (putB (putM r2.1 x.m o.md) x.b o.bpd, r1.2 ++ r2.2)

/-- What the sources of a vector instruction give. -/
def vecIn (cs : CoreSt) (o : VOps) (vs : List VVal) (ss : List SVal) : VIn :=
  { vs := vs, ss := ss, ms := o.ms.map (readMask cs), old := oldD cs o.vd, oldM := mgetD {} cs.masks (o.md.getD 0),
    bp := mgetD 0 cs.bps (o.bp.getD 0), mask := activeMask cs o.pred, rm := rmOf cs.vec.fpmode, ftz := ftzOf cs.vec.fpmode }

/-- The common shape of a vector instruction (R156 to R162): hazards and queues first, then VEC_TYPE, then a poisoned
mask, then its own result. When the mask and another source both carry a tag that faults, the mask's cause names the fault (DESIGN CHOICE, log
entry 64). -/
def vecBody (o : VOps) (f : VIn → Except Verdict VOut) (s : State) : Verdict :=
  let cs := focusCs s
  let cl := claimsOf o.reads o.writes
  if hazard s cs .vec cl o.lat || !roomV cs o.vd || !roomS cs o.sd then .stall
  else match takeSrcs cs .vec o.ss with
    | none => .stall
    | some (ss, cs1) =>
      match takeVSrcs cs1 o.w o.vs with
      | none => .stall
      | some (vs, cs2) =>
        if o.chk.any (ewWrong cs o.w) then .trap { trap := .vecType }
        else match (readMask cs o.pred.idx).tag with
          | some c => poisonTrap c
          | none =>
            match f (vecIn cs o vs ss) with
            | .error v => v
            | .ok x =>
              let r := putOut (coreCycle s) cs2 o x
              .done { s := withCs s r.1, lat := o.lat, fills := r.2, flags := x.flags, claims := if o.lat > 1 then cl else [] }

/-! ### Lane-wise instructions (R162) -/

/-- One lane of a source with its tag. -/
structure LaneIn where
  val : Nat
  tag : Option Cause
  deriving DecidableEq, Repr

def laneIn (w : Nat) (v : VVal) (i : Nat) : LaneIn := ⟨vLane w v i, vTag w v i⟩

/-- A result lane: 0 with the tag when a source lane is poisoned, and no flag; else the operation's (R161). -/
def laneRes (f : List Nat → Nat × Flags) (xs : List LaneIn) : LaneOut :=
  match xs.foldl (fun t x => maxTag t x.tag) none with
  | some c => { val := 0, tag := some c }
  | none => let r := f (xs.map (·.val)); { val := r.1, flags := r.2 }

/-- The result of a lane-wise operation on the sources, and on the old D when it is read. -/
def laneMap (w : Nat) (x : VIn) (srcs : List VVal) (f : List Nat → Nat × Flags) : VOut :=
  let ls := (List.range (4096 / w)).map fun i =>
    if x.mask.getLsbD i then some (laneRes f (srcs.map fun v => laneIn w v i)) else none
  { v := writeLanes w x.old ls, flags := laneFlags ls }

/-- Lanes moved bit for bit (R172, R183, R187): lane i comes from `f i` (DEDUCED, log entry 25). -/
def laneMove (w : Nat) (x : VIn) (f : Nat → LaneIn) : VOut :=
  let ls := (List.range (4096 / w)).map fun i =>
    if x.mask.getLsbD i then some { val := (f i).val, tag := (f i).tag : LaneOut } else none
  { v := writeLanes w x.old ls }

/-- Source i of those read. -/
def VIn.src (x : VIn) (i : Nat) : VVal := x.vs.getD i {}
def VIn.sc (x : VIn) (i : Nat) : SVal := x.ss.getD i {}
def VIn.km (x : VIn) (i : Nat) : MaskVal := x.ms.getD i {}

end Sys2Proof.Machine
end

