-- ==== Sys2Proof/Machine/Flow.lean ====
section
/-! DEFINITION. The common group: control registers, branches, loops, ends of streams, traps, CHK, NOP (R128 to R140, R375), and SEMW and SEMP (R289, R290). -/

namespace Sys2Proof.Machine

/-! ### Control registers (R128 to R132) -/

/-- Filled entries of a scalar queue (R131): the pushes of one stream count as filled in program order (R72); `open` lists the engines
with an earlier entry that is not filled. -/
def filledAfter (held : List Engine) : List SSlot → Nat
  | [] => 0
  | x :: t => if x.val.isNone then filledAfter (x.eng :: held) t else (if held.contains x.eng then 0 else 1) + filledAfter held t
def filledCount (l : List SSlot) : Nat := filledAfter [] l

/-- CR.QSTAT (R131). -/
def queueStat (cs : CoreSt) : Word :=
  BitVec.ofNat 64 (filledCount cs.qr + filledCount cs.qsMem * 2 ^ 8 + filledCount cs.qsVec * 2 ^ 16 + filledCount cs.qsMtx * 2 ^ 24)

/-- CR.LINK: the top of the return stack, or 0 (R128). -/
def linkOf (st : Stream) : Word :=
  match st.rstack with
  | [] => 0
  | p :: _ => BitVec.ofNat 64 (packPc p)

/-- The value of a control register (R128). -/
def readCr (s : State) (cs : CoreSt) (e : Engine) (cr : Nat) : Word :=
  let st := cs.stream e
  match cr with
  | 0 => st.fpmode
  | 1 => st.fpstat
  | 2 => BitVec.ofNat 64 ((launchOf s cs).map (·.codeBase) |>.getD 0)
  | 3 => BitVec.ofNat 64 (packPc st.pc)
  | 4 => linkOf st
  | 5 => BitVec.ofNat 64 st.rstack.length
  | 6 => st.loop
  | 7 => BitVec.ofNat 64 (residence s cs)
  | 8 => (cs.preds ||| 1).setWidth 64
  | 16 => queueStat cs
  | n => if n ≤ 15 && cs.preds.getLsbD (n - 8) then 1 else 0

/-- A write of a control register; reserved bits are ignored and P0 stays 1 (R3, R129, R130). -/
def writeCr (cs : CoreSt) (e : Engine) (cr : Nat) (v : Word) : CoreSt :=
  let st := cs.stream e
  match cr with
  | 0 => cs.setStream e { st with fpmode := v &&& fpmodeBits }
  | 1 => cs.setStream e { st with fpstat := v &&& fpstatBits }
  | 6 => cs.setStream e { st with loop := v }
  | 8 => { cs with preds := v.setWidth 8 ||| 1 }
  | n =>
    let b : BitVec 8 := 1 <<< (n - 8)
    { cs with preds := if v = 0 then cs.preds &&& ~~~b else cs.preds ||| b }

/-- An engine's flags are settled only when its earlier instructions have retired (R39), and so are the entries that the sequencer's QPUSH and FORK have
filled (R124, R131, R437). -/
def crBusy (cs : CoreSt) (e : Engine) (cr : Nat) : Bool := (cr == 1 || cr == 16) && cs.flights.any fun f => f.eng == e

def rdcrBody (d : SDst) (cr : Nat) (s : State) : Verdict :=
  if crBusy (focusCs s) s.focusEng cr then .stall
  else scalarBody [] d 1 (fun _ => .ok { val := readCr s (focusCs s) s.focusEng cr }) s

/-- The common shape of an instruction that uses one scalar source and writes no register: a poisoned source faults. -/
def useBody (a : SSrc) (f : CoreSt → Word → Verdict) (s : State) : Verdict :=
  let e := s.focusEng
  let cs := focusCs s
  if hazard s cs e (claimsOf (srcRes e a) []) 1 then .stall
  else match takeSrcs cs e [a] with
    | some ([v], cs1) =>
      match v.tag with
      | some c => poisonTrap c
      | none => f cs1 v.val
    | _ => .stall

def wrcrBody (cr : Nat) (a : SSrc) (s : State) : Verdict :=
  if crBusy (focusCs s) s.focusEng cr then .stall
  else useBody a (fun cs v => .done { s := withCs s (writeCr cs s.focusEng cr v) }) s

/-- RDCR: Reads a control register into a scalar destination with a clear tag (R132). -/
def execRdcr (d : SDst) (cr : Nat) (s : State) : Out := issue (.rdcr d cr) s (rdcrBody d cr)
/-- WRCR: Writes a scalar value into a control register under the reserved-field and timing rules (R132). -/
def execWrcr (cr : Nat) (a : SSrc) (s : State) : Out := issue (.wrcr cr a) s (wrcrBody cr a)

/-! ### NOP, branches (R133 to R137) -/

/-- An instruction with no effect but its wait and post. -/
def plainDone (s : State) : Verdict := .done { s := s }

/-- NOP: S32 no-operation; the all-zero word has no effect (R133). -/
def execNop (s : State) : Out := issue .nop s plainDone
/-- NOP_L64: L64 no-operation whose only effects are its sync-field wait and post (R133). -/
def execNopL64 (k : Ctl) (s : State) : Out := issue (.nopL64 k) s plainDone

/-- The return address: the successor of the instruction at the PC (R57). -/
def afterPc (s : State) (w : Nat) : Pc :=
  (nextPc (focusCs s) s.focusEng ((focusCs s).stream s.focusEng).pc w).1

/-- Pushes a return address; sixteen entries at most (R137). -/
def pushReturn (cs : CoreSt) (e : Engine) (p : Pc) : Option CoreSt :=
  let st := cs.stream e
  if st.rstack.length ≥ 16 then none else some (cs.setStream e { st with rstack := p :: st.rstack })

/-- CALL (R135): the successor is pushed and the target entered; a target that ends the stream discards it (R76). -/
def callTo (cs : CoreSt) (w : Nat) (tgt : Pc) (s : State) : Verdict :=
  match pushReturn cs s.focusEng (afterPc s w) with
  | none => .trap { trap := .rstackOverflow }
  | some cs' => .done { s := withCs s (if tgt = .fin then cs else cs'), flow := .goto tgt }

/-- A register target (R76). -/
def regTarget (v : Word) (f : Pc → Verdict) : Verdict :=
  match readTarget v with
  | none => .trap { trap := .branchTarget }
  | some p => f p

/-- Conditions of BRC on a signed value (R134). -/
def condHolds (cc : Cond) (v : Word) : Bool :=
  match cc with
  | .eq => v == 0
  | .ne => v != 0
  | .lt => v.toInt < 0
  | .ge => v.toInt ≥ 0
  | .le => v.toInt ≤ 0
  | .gt => v.toInt > 0

/-- BR: Unconditional L64-B branch to a target line and slot (R135). -/
def execBr (p : Pred) (slot line : Nat) (s : State) : Out :=
  issue (.br p slot line) s fun s => .done { s := s, flow := .goto (.pos line slot) }
/-- BRC: Branches when a scalar, read as signed, meets the COND condition; pops a queue operand whether taken or not (R135). -/
def execBrc (p : Pred) (cc : Cond) (a : SSrc) (slot line : Nat) (s : State) : Out :=
  issue (.brc p cc a slot line) s fun s =>
    useBody a (fun cs v => .done { s := withCs s cs, flow := if condHolds cc v then .goto (.pos line slot) else .next }) s
/-- CALL: Pushes the successor PC on the return stack and branches to a label (R135). -/
def execCall (p : Pred) (slot line : Nat) (s : State) : Out :=
  issue (.call p slot line) s fun s => callTo (focusCs s) 2 (.pos line slot) s
/-- BR_REG: Branches to the PC held in a scalar register, after checking the target (R76). -/
def execBrReg (a : SSrc) (s : State) : Out :=
  issue (.brReg a) s fun s => useBody a (fun cs v => regTarget v fun p => .done { s := withCs s cs, flow := .goto p }) s
/-- CALL_REG: Pushes the successor and branches to the PC held in a scalar register (R76). -/
def execCallReg (a : SSrc) (s : State) : Out :=
  issue (.callReg a) s fun s => useBody a (fun cs v => regTarget v fun p => callTo cs 1 p s) s

/-- RET (R136). -/
def retBody (s : State) : Verdict :=
  let cs := focusCs s
  let st := cs.stream s.focusEng
  match st.rstack with
  | [] => .trap { trap := .rstackEmpty }
  | p :: t => .done { s := withCs s (cs.setStream s.focusEng { st with rstack := t }), flow := .goto p }

/-- RET: Pops the return stack and enters the popped PC, or raises RSTACK_EMPTY when the stack is empty (R136). -/
def execRet (s : State) : Out := issue .ret s retBody

/-! ### LOOP and ENDL (R130, R138) -/

/-- COUNT and START of CR.LOOP. -/
def loopCount (v : Word) : Nat := v.toNat % 2 ^ 32
def loopStart (v : Word) : Word := v >>> 32

/-- LOOP: the count must be 1 to 2^32 - 1 and no loop active; START is the successor. -/
def loopBody (w : Nat) (cs : CoreSt) (n : Word) (s : State) : Verdict :=
  let e := s.focusEng
  let st := cs.stream e
  if n = 0 ∨ n.toNat > 0xFFFFFFFF then .trap { trap := .loopCount }
  else if loopCount st.loop ≠ 0 then .trap { trap := .loopState }
  else
    let v : Word := BitVec.ofNat 64 (packPc (afterPc s w) * 2 ^ 32 + n.toNat)
    .done { s := withCs s (cs.setStream e { st with loop := v }) }

/-- LOOP_REG: Starts the hardware loop with a count read from a register (R138). -/
def execLoopReg (k : Ctl) (a : SSrc) (s : State) : Out :=
  issue (.loopReg k a) s fun s => useBody a (fun cs v => loopBody 2 cs v s) s
/-- LOOP_IMM: Starts the hardware loop with a count taken from the X96 literal (R138). -/
def execLoopImm (k : Ctl) (n : BitVec 32) (s : State) : Out :=
  issue (.loopImm k n) s fun s => loopBody 3 (focusCs s) (n.setWidth 64) s

/-- ENDL: one pass fewer; while passes remain START is entered. -/
def endlBody (s : State) : Verdict :=
  let e := s.focusEng
  let cs := focusCs s
  let st := cs.stream e
  let n := loopCount st.loop
  if n = 0 then .trap { trap := .loopState }
  else
    let s' := withCs s (cs.setStream e { st with loop := st.loop - 1 })
    if n = 1 then .done { s := s' }
    else regTarget (loopStart st.loop) fun p => .done { s := s', flow := .goto p }

/-- ENDL: Decrements CR.LOOP.COUNT and re-enters START while the count stays non-zero; raises LOOP_STATE when no loop is active (R138). -/
def execEndl (s : State) : Out := issue .endl s endlBody

/-! ### HALT and the end of the sequencer's stream (R139, R102, R103 step 1) -/

/-- EXIT issues only when the other three engines are idle; its further steps are taken while it waits (DEDUCED, log entry 20). -/
def exitBody (status : Word) (s : State) : Verdict :=
  let cs := focusCs s
  if cs.mem.active || cs.vec.active || cs.mtx.active then .stall
  else .done { s := s, flow := .wait (.exit status) }

def haltBody (s : State) : Verdict :=
  if s.focusEng = .seq then exitBody 0 s else .done { s := s, flow := .fin }

/-- HALT: Ends a mem, vec or mtx stream; in the sequencer acts as exit s0 (R139). -/
def execHalt (s : State) : Out := issue .halt s haltBody

/-- The sequencer's stream at END acts as EXIT with status 0 (R102). -/
def sequencerEnd (s : State) : State :=
  let cs := focusCs s
  if cs.mem.active || cs.vec.active || cs.mtx.active then s
  else withCs s { cs with seq := { cs.seq with waiting := some { kind := .exit 0, next := .fin } } }

/-! ### TRAP, BKPT, CHK (R140, R375) -/

/-- TRAP: the saved PC is the successor. -/
def execTrap (n : Nat) (s : State) : Out :=
  issue (.trap n) s fun s => .done { s := s, after := some { trap := .trap, arg := n } }

/-! ### Abandonment of a matrix operation (R210) -/

/-- Drops the rows of an accumulator: all zero, tags clear. -/
def dropAcc (cs : CoreSt) (n : Nat) : NMap VVal := cs.vregs.filter fun p => p.1 / 128 != n

/-- A core's shadow goes back into its accumulator, and the operation's claims end. -/
def restoreShadow (cs : CoreSt) : CoreSt :=
  let cs := { cs with flights := cs.flights.filter fun f => f.mma.isNone, held := false }
  match cs.shadow with
  | none => cs
  | some sh => { sh.rows.foldl (fun cs p => writeV cs p.1 p.2) { cs with vregs := dropAcc cs sh.acc } with shadow := none }

/-- The MMA-family operation in flight on a core: on the leader, its flight. -/
def mmaFlight (cs : CoreSt) : Option Flight := cs.flights.find? fun f => f.mma.isSome

/-- The core that leads the operation in flight on core c. -/
def mmaLeader (s : State) (c : Nat) : Option Nat :=
  match mmaFlight (getCore s c) with
  | none => none
  | some f => some (if f.retireAt.isNone then pairOf c else c)

/-- The operation in flight on core c is in its last cycle and its post has been applied in that cycle, for a wait or any other issue of the core: it
retires, whatever event or tile error comes later in that cycle (R210, R286, R382) (DEDUCED, log entry 14). -/
def mmaEnds (s : State) (c : Nat) : Bool := match mmaLeader s c with
  | none => false
  | some l => match mmaFlight (getCore s l) with
    | none => false
    | some f => dueBy (coreCycle s) f && (f.posted || (getCore s l).mtx.endPosted)

/-- Abandons the operation that core `c` leads: the accumulators are restored, and the stream stands at the instruction with
its wait marked done and its FTZ saved. -/
def abandonMma (s : State) (c : Nat) : State :=
  let cs := getCore s c
  match mmaFlight cs with
  | none => s
  | some f =>
    let half := (f.partner.bind fun p => mmaFlight (getCore s p)).bind (·.mma)
    let s := match f.partner with
      | none => s
      | some p => setCore s p (restoreShadow (getCore s p))
    let st := { cs.mtx with pc := f.pc, entry := some false, waitDone := f.waited, ending := false, replayFtz := f.mma.map (·.2),
                            replayPair := half.map (·.2), nextIssue := max cs.mtx.nextIssue (coreCycle s + 1) }
    setCore s c (restoreShadow { cs with mtx := st })

/-- A team-level event abandons the operation in flight on a core (R210). -/
def dropMma (s : State) (c : Nat) : State :=
  match mmaLeader s c with
  | some l => if mmaEnds s c then s else abandonMma s l
  | none => s

/-- A tile error's TILE_POISON is withdrawn by a team-level event of the same core cycle: what is left is the abandonment, and the replay meets the
poisoned row (R382). -/
def withdrawTile (s : State) (c : Nat) : State :=
  let cs := getCore s c
  match cs.tileTrap with
  | none => s
  | some (t, code, prio, e) =>
    if t = coreCycle s && (cs.mtx.fault.map (·.trap)) == some .tilePoison then
      let cs := { cs with mtx := { cs.mtx with fault := none }, tileTrap := none }
      let mine := cs.tcode == trapCode .tilePoison && cs.tcodeEng == .mtx
      unlogTrap (setCore s c (if mine then { cs with tcode := code, tcodePrio := prio, tcodeEng := e } else cs)) (c / 48) c (trapCode .tilePoison)
    else s

/-- A team-level event reaches every core of the team: no engine issues from this cycle on, and an MMA in flight is abandoned
(R210, R370, R371). -/
def teamEvent (s : State) (c : Nat) (e : Engine) (t : Trap) : State :=
  let mark (s : State) (c : Nat) : State :=
    let s := dropMma (withdrawTile s c) c
    let cs := noteTrap s (getCore s c) e (trapCode t) (eventPrio (trapCode t))
    setCore s c { stopEngines s cs with grace := none }
  let s := mark s c
  if isPaired s (getCore s c) then mark s (pairOf c) else s

/-- BKPT: a team-level event with the successor as saved PC in its engine. -/
def bkptBody (n : Nat) (s : State) : Verdict :=
  let pc := packPc ((focusCs s).stream s.focusEng).pc
  let s := teamEvent s s.focusCore s.focusEng .bkpt
  .done { s := withCs s { focusCs s with bkptArg := some (n, pc) } }

/-- BKPT: Raises the team-level event BKPT with a code, stopping all four engines (R140). -/
def execBkpt (n : Nat) (s : State) : Out := issue (.bkpt n) s (bkptBody n)

/-- CHK: Reads a scalar and raises the fault named by its poison cause when it is poisoned (R375). -/
def execChk (a : SSrc) (s : State) : Out :=
  issue (.chk a) s fun s => useBody a (fun cs _ => .done { s := withCs s cs }) s

/-! ### SEMW and SEMP (R289, R290) -/

/-- SEMW: waits until the count can be decremented; a copy-queue post asks for an acquire first (R287, R290). -/
def semwBody (n : Nat) (s : State) : Verdict :=
  let cs := focusCs s
  if semReady cs s.focusEng n then .done { s := withCs s (takeSem (coreCycle s) cs n) } else .stall

/-- SEMP increments its semaphore when it retires: at once when no earlier instruction or access of the engine is under way,
else by RETIRE (R290). An overflow is a fault with the successor as saved PC (R288). -/
def sempBody (n : Nat) (s : State) : Verdict :=
  let cs := focusCs s
  if settledBefore s cs s.focusEng cs.nextId then
    let r := postAt (coreCycle s) cs (engRank s.focusEng) n
    let s1 := withCs s r.1
    match r.2 with
    | none => .done { s := s1 }
    | some v =>
      if rankEng v = s.focusEng then .done { s := s1, after := some { trap := .semOverflow } }
      else .done { s := semOverflow s1 s1.focusCore (rankEng v) }
  else .done { s := s, openEnd := true, semp := some n }

/-- SEMW: Waits until a semaphore can be decremented, decrements it and acquires when CQREL is set (R290). -/
def execSemw (n : Nat) (s : State) : Out := issue (.semw n) s (semwBody n)
/-- SEMP: Increments a semaphore when every earlier instruction of the engine has retired (R290). -/
def execSemp (n : Nat) (s : State) : Out := issue (.semp n) s (sempBody n)
/-- SEMW_L64: L64 form of SEMW, carrying a predicate or a sync field (R290). -/
def execSemwL64 (k : Ctl) (n : Nat) (s : State) : Out := issue (.semwL64 k n) s (semwBody n)
/-- SEMP_L64: L64 form of SEMP, carrying a predicate or a sync field (R290). -/
def execSempL64 (k : Ctl) (n : Nat) (s : State) : Out := issue (.sempL64 k n) s (sempBody n)

end Sys2Proof.Machine
end

