-- ==== Sys2Proof/Machine/Mem.lean ====
section
/-! DEFINITION. Physical memory, address ranges, translation, LLC lines, watches: what every agent's access rests on (R17, R264 to R273, R299, R425). -/

namespace Sys2Proof.Machine

/-! ### Physical addresses (R17, R425) -/

/-- Where a physical address leads. -/
inductive PaKind where
  | dram (core bgrp : Nat)
  | host
  | nothing
  deriving DecidableEq, Repr

/-- The column of a stacked-DRAM address: package core number, or none for CORE of 48 and more. -/
def paCore (pa : Nat) : Option Nat :=
  let c := pa >>> 31 % 64
  if c < 48 then some (pa >>> 37 % 8 * 48 + c) else none

def paBgrp (pa : Nat) : Nat := pa >>> 27 % 16
def paRow (pa : Nat) : Nat := pa >>> 14 % 8192
def paBank (pa : Nat) : Nat := paBgrp pa * 8 + pa >>> 7 % 8

/-- Physical address of line `line` of a row of a bank of a core's column (R17). -/
def rowLinePa (core bank row line : Nat) : Nat :=
  (core / 48) <<< 37 + (core % 48) <<< 31 + (bank / 8) <<< 27 + row <<< 14 + line <<< 10 + (bank % 8) <<< 7

/-- Ranges that firmware keeps: the journal and the context areas (R314, R376) (DESIGN CHOICE, log entry 70). -/
def isKept (s : State) (pa : Nat) : Bool :=
  (s.fw.kept.any fun r => r.1 ≤ pa && pa ≤ r.2) || s.fw.areas.any fun a => a.2 ≤ pa && pa < a.2 + 0x364000

def stackUnit (s : State) (k : Nat) : StackUnit := mgetD {} s.fw.micas k
def stackLive (s : State) (k : Nat) : Bool :=
  (stackUnit s k).st == .inService || (stackUnit s k).st == .degraded
def coreInService (s : State) (c : Nat) : Bool := (getCore s c).inService && stackLive s (c / 48)

/-- A bank group in row mode (R219): the launch it is allotted to. -/
def rowMode (s : State) (core bgrp : Nat) : Option Nat := mget s.hub.rows (core * 16 + bgrp)

/-- Where an access of a core, copy queue, DMA agent or host to a physical address ends (R17, R219, R425). -/
def paKind (s : State) (pa : Nat) : PaKind :=
  if pa < 2 ^ 40 then
    match paCore pa with
    | none => .nothing
    | some c =>
      if !coreInService s c || (rowMode s c (paBgrp pa)).isSome || isKept s pa then .nothing else .dram c (paBgrp pa)
  else if 0x400000000000 ≤ pa ∧ pa < 0x800000000000 then .host
  else .nothing

def isDram : PaKind → Bool
  | .dram _ _ => true
  | _ => false

/-- An access by physical address to what maps nothing, to a bank group in row mode or to a core out of service: it completes with a bus error (R17, R219). -/
def ioBad (s : State) (ag : IoAgent) (pa : Nat) : State := { s with fw := { s.fw with ioErrors := (ag, pa) :: s.fw.ioErrors } }

/-! ### DRAM (R238) -/

/-- 64-byte poison marks: granules of [pa, pa + 64 n). -/
def dramMarked (s : State) (pa : Nat) : Bool := (mget s.hub.dramPoison (pa / 64)).isSome
def setMark (s : State) (pa : Nat) (on : Bool) : State :=
  { s with hub := { s.hub with dramPoison := if on then mset s.hub.dramPoison (pa / 64) () else mdel s.hub.dramPoison (pa / 64) } }
def writeDram (s : State) (pa : Nat) (bs : List Byte) : State :=
  { s with hub := { s.hub with dram := writeBytes s.hub.dram pa bs } }

/-- All ones over 64 bytes. -/
def half64 : Nat := 2 ^ 64 - 1

/-- A granule of a line's poison bits is poisoned when any of its bytes is (R238). -/
def granBad (p : BitVec 128) (g : Nat) : Bool := (p.toNat >>> (64 * g)) % 2 ^ 64 != 0
def byteBad (p : BitVec 128) (i : Nat) : Bool := granBad p (i / 64)

/-- A line as DRAM holds it. -/
def dramLine (s : State) (pa : Nat) : LineData × BitVec 128 :=
  (BitVec.ofNat 1024 (leNat (readBytes s.hub.dram pa 128)),
   BitVec.ofNat 128 ((if dramMarked s pa then half64 else 0) + (if dramMarked s (pa + 64) then half64 <<< 64 else 0)))

/-- Writes a whole line back to DRAM with its marks. -/
def storeLine (s : State) (pa : Nat) (d : LineData) (p : BitVec 128) : State :=
  setMark (setMark (writeDram s pa (leBytes 128 d.toNat)) pa (granBad p 0)) (pa + 64) (granBad p 1)

/-! ### Virtual addresses (R266) -/

inductive VaClass where
  | priv
  | window
  | remote (pkg : Nat)
  | hole
  deriving DecidableEq, Repr

def winBase (pkg : Nat) : Nat := 2 ^ 63 + pkg <<< 44

/-- Treatment of a virtual address (R22, R266). -/
def vaClass (s : State) (va : Nat) : VaClass :=
  if va < 2 ^ 56 then .priv
  else if va < 2 ^ 63 ∨ va ≥ winBase 4096 then .hole
  else
    let p := (va - 2 ^ 63) >>> 44
    if p = s.pkg then .window
    else if s.fw.inDomain && s.fw.domain.contains p then .remote p
    else .hole

def lineBase (va : Nat) : Nat := va / 128 * 128

/-- The name of the line of an address (R264): windows use ASID 0. -/
def keyOf (s : State) (asid va : Nat) : LineKey :=
  { asid := if vaClass s va = .priv then asid else 0, va := lineBase va }

/-- LLC slice of an address (R264). -/
def sliceOf (va : Nat) : Nat := (va >>> 7 % 64) ^^^ (va >>> 13 % 64) ^^^ (va >>> 19 % 64)
/-- The translation agent of an address: the slice's number div 4 (R264) (DEDUCED, log entry 37). -/
def agentOf (va : Nat) : Nat := sliceOf va / 4

/-! ### Translation (R268 to R274) -/

/-- A translation: physical address, the descriptor's permissions, and the addresses of the page for which it is the translation. -/
structure Xlate where
  pa : Nat
  r : Bool
  w : Bool
  x : Bool
  moving : Bool
  mig : Bool
  base : Nat
  size : Nat
  desc : Nat := 0
  page : Nat := 0
  deriving DecidableEq, Repr

/-- The line of the LLC that holds a physical address. -/
def lineAtPa (s : State) (pa : Nat) : Option LlcLine := s.hub.llc.find? fun l => l.pa == pa / 128 * 128

/-- A byte of memory itself: DRAM, or host memory (R273, R411); a read of an address that maps nothing leaves an open value (R17). -/
def rawByte (s : State) (pa : Nat) : Byte :=
  if pa < 2 ^ 40 then readByte s.hub.dram pa
  else if 0x400000000000 ≤ pa ∧ pa < 0x800000000000 then Config.hostByte pa s.fresh
  else Config.busByte pa s.fresh

/-- Bytes of another package's memory, and which of them are poisoned there (R253, R363): free values (DESIGN CHOICE, log entry 5). -/
def remoteData (s : State) (va n : Nat) : List Byte := (List.range n).map fun i => Config.remoteByte (va + i) s.fresh
def remotePoison (s : State) (va n : Nat) : List Bool := (List.range n).map fun i => Config.remoteBad (va + i) s.fresh

/-- A byte at its physical address as firmware reads it: the LLC's copy, or memory (DEDUCED, log entry 46). -/
def physByte (s : State) (pa : Nat) : Byte :=
  match (if pa < 2 ^ 40 then lineAtPa s pa else none) with
  | some l => BitVec.ofNat 8 (laneOf 8 l.data.toNat (pa % 128))
  | none => rawByte s pa

def physBytes (s : State) (pa : Nat) : Nat → List Byte
  | 0 => []
  | n + 1 => physByte s pa :: physBytes s (pa + 1) n

/-- A little-endian number of n bytes that the walker reads, uncached (R273). -/
def rawNat (s : State) (pa n : Nat) : Nat := leNat ((List.range n).map fun i => rawByte s (pa + i))

/-- An access to the address completes without a bus error (R17, R219, R425). -/
def paMapped (s : State) (pa : Nat) : Bool := paKind s pa != .nothing

/-- Page size by code (R271). -/
def pageLog : Nat → Option Nat
  | 0 => some 16 | 1 => some 18 | 2 => some 21 | 3 => some 24 | 4 => some 26 | 5 => some 30 | _ => none

/-- A descriptor of an ASID's table (R269). -/
structure Desc where
  base : Nat
  len : Nat
  arr : Nat
  flags : Nat
  resv : Nat
  deriving DecidableEq, Repr

def readDesc (s : State) (pa : Nat) : Desc :=
  { base := rawNat s pa 8, len := rawNat s (pa + 8) 8, arr := rawNat s (pa + 16) 8,
    flags := rawNat s (pa + 24) 4, resv := rawNat s (pa + 28) 4 }

/-- The lowest valid descriptor of n from index i that covers va (R272); a read of the walker may end in a bus error (R17). -/
def findDesc (s : State) (tab va : Nat) : Nat → Nat → Except Trap (Option (Nat × Desc))
  | 0, _ => .ok none
  | n + 1, i =>
    let d := readDesc s (tab + 32 * i)
    if !paMapped s (tab + 32 * i) then .error .busError
    else if d.flags.testBit 0 && d.base ≤ va && va < d.base + d.len then .ok (some (i, d))
    else findDesc s tab va n (i + 1)

/-- The addresses around va, between lo and hi, that none of the first n descriptors covers: a translation found behind them
holds there (R272, R273) (DEDUCED, log entry 37). -/
def clipDesc (s : State) (tab va : Nat) : Nat → Nat → Nat → Nat × Nat
  | 0, lo, hi => (lo, hi)
  | n + 1, lo, hi =>
    let d := readDesc s (tab + 32 * n)
    if !d.flags.testBit 0 then clipDesc s tab va n lo hi
    else if va < d.base then clipDesc s tab va n lo (min hi d.base)
    else clipDesc s tab va n (max lo (d.base + d.len)) hi

/-- A malformed descriptor (R269, R272). -/
def descBad (asid : Nat) (d : Desc) : Bool :=
  let home := d.flags >>> 12 % 16
  d.resv != 0 || d.flags >>> 16 != 0 || d.flags >>> 6 % 4 != 0 || (8 ≤ home && home ≤ 14) ||
    (match pageLog (d.flags >>> 8 % 16) with | none => true | some k => d.base % 2 ^ k != 0) ||
    (d.flags.testBit 5 && asid != 0)

/-- Permission bits of a descriptor for an access kind (R272, R322). -/
def permitted (r w x : Bool) : AccKind → Bool
  | .load => r | .store => w | .fetch => x | .readWrite => r && w

def isWrite : AccKind → Bool
  | .store | .readWrite => true | _ => false

/-- The walk of R272 up to the MOVING check; `ok` looks at the permissions R, W and X of the descriptor (DEDUCED, log entry 37). -/
def walkWith (s : State) (asid va : Nat) (ok : Bool → Bool → Bool → Bool) : Except Trap Xlate :=
  let ent := s.hub.transRoot.toNat + 16 * asid
  let fl := rawNat s (ent + 10) 1
  if !paMapped s ent then .error .busError
  else if !fl.testBit 0 then .error .pageMissing
  else if fl / 2 != 0 || rawNat s (ent + 11) 5 != 0 || rawNat s (ent + 8) 2 > 4096 || rawNat s ent 8 % 32 != 0 then .error .pageBad
  else match findDesc s (rawNat s ent 8) va (rawNat s (ent + 8) 2) 0 with
    | .error t => .error t
    | .ok none => .error .pageMissing
    | .ok (some (i, d)) =>
      if descBad asid d then .error .pageBad
      else if !ok (d.flags.testBit 1) (d.flags.testBit 2) (d.flags.testBit 3) then .error .pagePerm
      else
        let k := (pageLog (d.flags >>> 8 % 16)).getD 16
        let page := (va - d.base) >>> k
        let first := d.base + page <<< k
        let b := clipDesc s (rawNat s ent 8) va i first (min (first + 2 ^ k) (d.base + d.len))
        let x : Xlate := { pa := 0, r := d.flags.testBit 1, w := d.flags.testBit 2, x := d.flags.testBit 3, moving := false,
                           mig := d.flags.testBit 4 && k ≤ 21, base := b.1, size := b.2 - b.1, desc := i, page := page }
        if d.flags.testBit 5 then .ok { x with pa := va - winBase s.pkg }
        else
          let p := rawNat s (d.arr + 8 * page) 8
          if !paMapped s (d.arr + 8 * page) then .error .busError
          else if !p.testBit 0 then .error .pageMissing
          else if p >>> 48 != 0 || p % 65536 / 4 != 0 || (p >>> 16 <<< 16) % 2 ^ k != 0 then .error .pageBad
          else .ok { x with pa := p >>> 16 <<< 16 + (va - d.base) % 2 ^ k, moving := p.testBit 1 }

/-- The walk for an access of a kind (DEDUCED, log entry 37). -/
def walk (s : State) (asid va : Nat) (kind : AccKind) : Except Trap Xlate := walkWith s asid va fun r w x => permitted r w x kind

/-- The permission to write that a line keeps of a translation: a page that moves grants none (R281). -/
def Xlate.grantsW (x : Xlate) : Bool := x.w && !x.moving

/-- A TLB entry that covers the address (R273). -/
def tlbHit (s : State) (asid va : Nat) : Option Xlate :=
  (s.hub.tlb.find? fun t => t.agent == agentOf va && t.asid == asid && t.base ≤ va && va < t.base + t.size).map fun t =>
    { pa := t.pa + (va - t.base), r := t.r, w := t.w, x := t.x, moving := t.moving, mig := t.mig, base := t.base, size := t.size,
      desc := t.desc, page := t.page }

/-- Translation of (asid, va, kind): a TLB hit skips the walk (R272, R273). -/
def translate (s : State) (asid va : Nat) (kind : AccKind) : Except Trap Xlate :=
  let r : Except Trap Xlate := match tlbHit s asid va with
    | some x => if permitted x.r x.w x.x kind then .ok x else .error Trap.pagePerm
    | none => walk s asid va kind
  match r with
  | .error t => .error t
  | .ok x => if x.moving && isWrite kind then .error .pageMoving else .ok x

/-- A translation that did not end in a fault is cached; each agent holds 8,192 entries (R273) (DEDUCED, log entry 37). -/
def tlbAdd (s : State) (asid va : Nat) (x : Xlate) : State :=
  if (tlbHit s asid va).isSome then s
  else
    let a := agentOf va
    let t : TlbEnt := { agent := a, asid := asid, desc := x.desc, page := x.page, pa := x.pa - (va - x.base), r := x.r, w := x.w,
                        x := x.x, moving := x.moving, base := x.base, size := x.size, mig := x.mig }
    let own := s.hub.tlb.filter fun u => u.agent == a
    let rest := s.hub.tlb.filter fun u => u.agent != a
    { s with hub := { s.hub with tlb := rest ++ own.drop (own.length - 8191) ++ [t] } }

/-- The whole check of a global address by an agent of this package (R252 checks 6 and 7, R266): the ASID whose table is
used, translation, and where the physical address leads. -/
def resolve (s : State) (asid va : Nat) (kind : AccKind) : Except Trap (Nat × Xlate × PaKind) :=
  match vaClass s va with
  | .hole | .remote _ => .error .busError
  | cls =>
    let a := if cls = .priv then asid else 0
    match translate s a va kind with
    | .error t => .error t
    | .ok x =>
      match paKind s x.pa with
      | .nothing => .error .busError
      | k => .ok (a, x, k)

/-! ### LLC lines -/

def getLine (s : State) (k : LineKey) : Option LlcLine := s.hub.llc.find? fun l => l.key == k

/-- Replaces a line, or adds it. -/
def putLine (s : State) (l : LlcLine) : State :=
  if s.hub.llc.any fun m => m.key == l.key then
    { s with hub := { s.hub with llc := s.hub.llc.map fun m => if m.key == l.key then l else m } }
  else { s with hub := { s.hub with llc := s.hub.llc ++ [l] } }

def dropLine (s : State) (k : LineKey) : State :=
  { s with hub := { s.hub with llc := s.hub.llc.filter fun m => m.key != k } }

/-- A line that is in the LLC with the permission an access needs: the access is not translated again (R19, R264). -/
def llcHit (s : State) (key : LineKey) (kind : AccKind) : Option LlcLine := (getLine s key).filter fun l => permitted l.r l.w l.x kind

/-- The translation that a line keeps (R264). -/
def lineXlate (l : LlcLine) (va : Nat) : Xlate :=
  { pa := l.pa + va % 128, r := l.r, w := l.w, x := l.x, moving := false, mig := l.mig, base := l.key.va, size := 128 }

/-- Where an access that has missed in the L1, or comes from another agent, finds its line: the LLC's own translation on a hit, else that of
the translation agent, which the agent keeps (R19, R264, R273). -/
def reach (s : State) (asid va : Nat) (kind : AccKind) : Except Trap (State × Xlate × PaKind) :=
  match vaClass s va with
  | .hole | .remote _ => .error .busError
  | _ =>
    match llcHit s (keyOf s asid va) kind with
    | some l => .ok (s, lineXlate l va, .dram ((paCore l.pa).getD 0) (paBgrp l.pa))
    | none =>
      match resolve s asid va kind with
      | .error t => .error t
      | .ok (a, x, k) => .ok (tlbAdd s a va x, x, k)

/-- Mask of the bytes [i, i + n) of a line, and of its words. -/
def byteMask (i n : Nat) : BitVec 128 := BitVec.ofNat 128 ((2 ^ n - 1) <<< i)
def wordMask (i n : Nat) : BitVec 32 := BitVec.ofNat 32 ((2 ^ ((i + n + 3) / 4 - i / 4) - 1) <<< (i / 4))

/-- The words of a line that overlap [x, x + n). -/
def rangeWords (line x n : Nat) : BitVec 32 :=
  BitVec.ofNat 32 (packLanes 1 ((List.range 32).map fun w => if overlaps (line + 4 * w) 4 x n then 1 else 0))

/-- Words of a byte mask, and bytes of a word mask. -/
def wordsOf (m : BitVec 128) : BitVec 32 :=
  BitVec.ofNat 32 (packLanes 1 ((List.range 32).map fun w => if (m.toNat >>> (4 * w)) % 16 = 0 then 0 else 1))
def bytesOf (m : BitVec 32) : BitVec 128 :=
  BitVec.ofNat 128 (packLanes 4 ((List.range 32).map fun w => if m.getLsbD w then 15 else 0))

/-- Bits of a byte mask spread over the bytes of a line. -/
def dataMask (m : BitVec 128) : LineData :=
  BitVec.ofNat 1024 (packLanes 8 ((List.range 128).map fun i => if m.getLsbD i then 255 else 0))

/-- Line data in which the bytes of the mask come from `new`. -/
def mergeData (old new : LineData) (m : BitVec 128) : LineData := (old &&& ~~~(dataMask m)) ||| (new &&& dataMask m)

/-- Poison bits after a write of the mask's bytes with the bits `new`; a granule rewritten whole without poison is clean. -/
def mergeBad (old new m : BitVec 128) : BitVec 128 := (old &&& ~~~m) ||| (new &&& m)

/-- Bytes [i, i + n) of a line and whether each is delivered as poison (R253). -/
def lineBytes (d : LineData) (i n : Nat) : List Byte := leBytes n (d.toNat >>> (8 * i))
def lineBad (p : BitVec 128) (i n : Nat) : List Bool := (List.range n).map fun j => byteBad p (i + j)

/-- Line data that holds these bytes from byte i up. -/
def bytesAt (i : Nat) (bs : List Byte) : LineData := BitVec.ofNat 1024 (leNat bs <<< (8 * i))

/-! ### Watches (R297 to R299) -/

/-- The field of a number's bytes at an offset of a context record. -/
def recNat (r : Record) (off n : Nat) : Nat := leNat (readBytes r.bytes off n)
def recPut (r : Record) (off n v : Nat) : Record := { r with bytes := writeBytes r.bytes off (leBytes n v) }

/-- ASID of a launch by number. -/
def launchAsid (s : State) (n : Nat) : Nat := ((mget s.disp.launches n).map (·.asid)).getD 0

/-- A record of a saved team after its halves' watches have been looked at: its own wake bit, and the bit that the record of half 0 shows for both
(R301, R376). -/
def wakeRecord (own shown : Bool) (r : Record) : Record :=
  let r := if own then { r with woke := true } else r
  if shown then recPut r 7 1 (recNat r 7 1 ||| 8) else r

/-- A write performed at the hub to these bytes of a line wakes every watch armed on a word it touches, of resident
teams and of saved ones (R299, R301). -/
def wakeWatches (s : State) (k : LineKey) (m : BitVec 128) : State :=
  let hit (va : Nat) : Bool := lineBase va == k.va && (m.toNat >>> (va % 128)) % 256 != 0
  let cores := s.cores.map fun p =>
    (p.1, { p.2 with watch := p.2.watch.map fun w => if w.key == k && hit w.va then { w with wake := true } else w })
  let armed (r : Record) : Bool := (recNat r 7 1).testBit 2 && keyOf s (launchAsid s r.occ.launch) (recNat r 0x20 8) == k && hit (recNat r 0x20 8)
  let recs := s.fw.records.map fun r => wakeRecord (armed r) (r.occ.half == 0 && s.fw.records.any fun q => { q.occ with half := 0 } == r.occ && armed q) r
  { s with cores := cores, fw := { s.fw with records := recs } }

/-- Writes bytes of the mask into an LLC line and wakes the watches (R299, R335). -/
def writeLine (s : State) (l : LlcLine) (d : LineData) (bad m : BitVec 128) : State :=
  wakeWatches (putLine s { l with data := mergeData l.data d m, poison := mergeBad l.poison bad m, dirty := true }) l.key m

end Sys2Proof.Machine
end

