-- ==== Sys2Proof/Machine/Access.lean ====
section
/-! DEFINITION. The sequencer's and the access engine's loads and stores at issue: operands, checks, scratchpad, and the global accesses they start (R148 to R150, R242 to R263). -/

namespace Sys2Proof.Machine

/-! ### Elements and pieces -/

/-- An element of an access: address, bytes, and its place in the instruction's data. -/
structure Elem where
  va : Nat
  n : Nat
  off : Nat
  deriving DecidableEq, Repr

def wrap64 (x : Int) : Nat := (x % (2 ^ 64 : Nat)).toNat

/-- The parts of n bytes at va in each 128-byte line. -/
def splitLines : Nat → Nat → Nat → Nat → List Piece
  | 0, _, _, _ => []
  | k + 1, va, n, off =>
    if n = 0 then []
    else
      let m := min n (128 - va % 128)
      { va := va, n := m, off := off } :: splitLines k ((va + m) % 2 ^ 64) (n - m) (off + m)

def piecesOf (es : List Elem) : List Piece := es.flatMap fun x => splitLines (x.n / 128 + 2) x.va x.n x.off

/-- Bytes of the instruction's data from `off` up. -/
def sliceBytes (data : Nat) (off n : Nat) : List Byte := leBytes n (data >>> (8 * off))

/-- Fills the pieces of a store with their bytes. -/
def withData (data : Nat) (ps : List Piece) : List Piece := ps.map fun p => { p with data := sliceBytes data p.off p.n }

def isRemoteRoute : Route → Bool
  | .remote _ => true
  | _ => false

/-- A speculative load (R258). -/
def isSpec : LoadDst → Bool
  | .scalar _ _ _ _ b => b
  | _ => false

/-- The line of a part that a cache holds: private space, or the package's own window (R264). -/
def pieceKey (a : Access) (p : Piece) : LineKey := { asid := if p.va < 2 ^ 56 then a.asid else 0, va := lineBase p.va }

/-- A request of the core for the line has been sent and not answered: the line stays where it is (DESIGN CHOICE, log entry 38). -/
def lineAsked (cs : CoreSt) (k : LineKey) : Bool :=
  cs.accesses.any fun a => a.pieces.any fun p => p.st == .sent && p.route == .cached && pieceKey a p == k

/-! ### Scratchpad (R242, R243) -/

def spmSize : Nat := 0x200000

def spmBad (cs : CoreSt) (a : Nat) : Bool := (mget cs.spmPoison (a / 8)).isSome

/-- The bytes and poison bits that loads of these elements deliver, each at its place in the data. -/
def spmLoad (cs : CoreSt) : List Elem → Nat × Nat
  | [] => (0, 0)
  | x :: t =>
    let r := spmLoad cs t
    let d := leNat (readBytes cs.spm x.va x.n)
    let b := packLanes 1 ((List.range x.n).map fun i => if spmBad cs (x.va + i) then 1 else 0)
    (r.1 ||| d <<< (8 * x.off), r.2 ||| b <<< x.off)

/-- Granules wholly inside [a, a + n) lose their marks. -/
def clearMarks (m : NMap Unit) (a n : Nat) : NMap Unit := m.filter fun p => !(a ≤ 8 * p.1 && 8 * p.1 + 8 ≤ a + n)

def spmWrite (cs : CoreSt) (a : Nat) (bs : List Byte) : CoreSt :=
  { cs with spm := writeBytes cs.spm a bs, spmPoison := clearMarks cs.spmPoison a bs.length }

/-- Stores of the elements in order. -/
def spmStore (cs : CoreSt) (data : Nat) : List Elem → CoreSt
  | [] => cs
  | x :: t => spmStore (spmWrite cs x.va (sliceBytes data x.off x.n)) data t

/-! ### Where loaded data goes (R149, R253 to R258) -/

def sdFill (cs : CoreSt) (e : Engine) (v : SVal) : SDst → CoreSt × List Fill
  | .reg n => (setReg cs e n v, [])
  | .qr => (cs, [.scalar .qr v])

/-- The tag that loaded bytes carry: `bad` marks poisoned bytes, `lost` those of an owner declared unreachable (R253, R363, R372). -/
def loadTag (bad lost : Nat) : Option Cause := if lost ≠ 0 then some .ownerLost else if bad ≠ 0 then some .memory else none

/-- A loaded scalar: extended, or 0 with a tag (R253); of an LDS, too, the value beside a tag is 0 (R149) (DEDUCED, log entry 25). -/
def loadedScalar (size : Nat) (sx : Bool) (data bad lost : Nat) : SVal :=
  let w := 8 * 2 ^ size
  let t := loadTag (bad % 2 ^ (2 ^ size)) (lost % 2 ^ (2 ^ size))
  if t.isSome then { val := 0, tag := t }
  else if sx then { val := BitVec.ofInt 64 (asInt w (data % 2 ^ w)) } else { val := BitVec.ofNat 64 (data % 2 ^ w) }

/-- A loaded vector: granules that hold a poisoned byte are 0 and tagged. -/
def loadedVec (data bad lost : Nat) : VVal :=
  let gs := (List.range 64).map fun g => loadTag (laneOf 8 bad g) (laneOf 8 lost g)
  { data := BitVec.ofNat 4096 (packLanes 64 (gs.mapIdx fun g t => if t.isSome then 0 else laneOf 64 data g))
    tags := BitVec.ofNat 256 (packLanes 4 (gs.map tagNib)) }

def readTile (cs : CoreSt) (t r : Nat) : TileRow := mgetD {} cs.tiles (128 * t + r)
def writeTile (cs : CoreSt) (t r : Nat) (v : TileRow) : CoreSt := { cs with tiles := mputD {} cs.tiles (128 * t + r) v }

/-- A tile row whose first n bytes are replaced. -/
def rowLow (old : VData) (n x : Nat) : VData :=
  BitVec.ofNat 4096 (old.toNat - old.toNat % 2 ^ (8 * n) + x % 2 ^ (8 * n))

/-- Rows r and up of a tile from the data of a TLD. -/
def loadRows (cs : CoreSt) (t rbytes data bad lost : Nat) : Nat → Nat → CoreSt
  | 0, _ => cs
  | k + 1, r =>
    let old := readTile cs t r
    let b := bad >>> (rbytes * r) % 2 ^ rbytes
    let l := lost >>> (rbytes * r) % 2 ^ rbytes
    let row : TileRow := { data := rowLow old.data rbytes (data >>> (8 * rbytes * r)), tag := loadTag b l }
    loadRows (writeTile cs t r row) t rbytes data bad lost k (r + 1)

/-- Delivers the data of a load; the pushes it gives are filled at retirement. -/
def deliver (cs : CoreSt) (dst : LoadDst) (data bad lost : Nat) : CoreSt × List Fill :=
  match dst with
  | .scalar e d size sx _ => sdFill cs e (loadedScalar size sx data bad lost) d
  | .vec (.reg n) => (writeV cs n (loadedVec data bad lost), [])
  | .vec (.lq n) => (cs, [.vector (.lq n) (loadedVec data bad lost)])
  | .tile t rows rbytes => (loadRows cs t rbytes data bad lost rows 0, [])
  | _ => (cs, [])

/-! ### Operands of the access engine (R245) -/

def takeMV (cs : CoreSt) (w : Nat) : MVSrc → Option (VVal × CoreSt)
  | .reg n => some (readV cs n, cs)
  | .sq n => popDq cs (.sq n)
  | .zero => some ({}, cs)
  | .lane => some (laneVec w, cs)

def readIdx (cs : CoreSt) : VIdx → VVal
  | .reg n => readV cs n
  | .zero => {}
  | .lane => laneVec 32

def mvsRes : MVSrc → List Res
  | .reg n => [.vreg n] | _ => []
def mvdRes : MVDst → List Res
  | .reg n => [.vreg n] | _ => []
def idxRes : VIdx → List Res
  | .reg n => [.vreg n] | _ => []

/-- The operands of a memory instruction. -/
structure MemOp where
  srcs : List SSrc
  vsrc : Option MVSrc := none
  vidx : Option VIdx := none
  /-- Granules of the index vector that are read. -/
  ixn : Nat := 64
  /-- Width of the lane-index vector as data. -/
  w : Nat := 32
  sd : Option SDst := none
  vd : Option MVDst := none
  /-- A tile and whether it is written. -/
  tile : Option (Nat × Bool) := none
  space : Space := .global
  hint : Nat := 0
  acq : Bool := false
  rel : Bool := false
  /-- SIZE and SUBF of a store (R308). -/
  type : Nat := 0
  /-- Latency in scratchpad space (R250). -/
  lat : Nat := 1
  deriving DecidableEq, Repr

/-- What it reads. -/
structure MemIn where
  cs : CoreSt
  ss : List SVal
  v : VVal
  ix : VVal
  ixn : Nat := 64
  deriving DecidableEq, Repr

/-- What it asks of memory. -/
structure MemReq where
  store : Bool
  es : List Elem
  data : Nat := 0
  dst : LoadDst := .none
  /-- Added to the latency (R250). -/
  extra : Nat := 0
  align : Nat := 1
  deriving DecidableEq, Repr

def MemOp.reads (e : Engine) (o : MemOp) : List Res :=
  o.srcs.flatMap (srcRes e) ++ (o.vsrc.map mvsRes).getD [] ++ (o.vidx.map idxRes).getD [] ++
    (match o.tile with | some (t, false) => [.tile t] | _ => [])
def MemOp.writes (e : Engine) (o : MemOp) : List Res :=
  (o.sd.map (dstRes e)).getD [] ++ (o.vd.map mvdRes).getD [] ++ (match o.tile with | some (t, true) => [.tile t] | _ => [])

/-- Check 1 of R252: the greatest cause of any scalar, data granule or index granule read (DEDUCED, log entry 27). -/
def readTag (x : MemIn) : Option Cause :=
  maxTag (x.ss.foldl (fun t v => maxTag t v.tag) none) (maxTag (tagsFrom x.v 0 64) (tagsFrom x.ix 0 x.ixn))

/-- The poison check of an instruction: the sequencer tests its operands in order (R149), the access engine all at once (R252) (DESIGN CHOICE, log entry 64). -/
def useTag (e : Engine) (x : MemIn) : Option Cause := if e = .seq then x.ss.findSome? (·.tag) else readTag x

/-- The first misaligned element (check 4). -/
def misaligned (r : MemReq) : Option Nat := (r.es.find? fun x => x.va % r.align != 0).map (·.va)

/-- The first element outside the scratchpad (check 5). -/
def outOfSpm (r : MemReq) : Option Nat := (r.es.find? fun x => x.va + x.n > spmSize).map (·.va)

def addrTrap (t : Trap) (va : Nat) : Verdict := .trap { trap := t, addr := BitVec.ofNat 64 va }

/-! ### Global accesses -/

/-- Registrations and write-throughs that the core has sent are acknowledged (R343). -/
def released (cs : CoreSt) : Bool :=
  cs.accesses.all fun a => !(a.store && a.cleared && a.pieces.any fun p => p.route == .cached && p.st != .done)

/-- Every earlier RSP.ST of core c has been performed (R261). -/
def rspDone (s : State) (c : Nat) : Bool := s.cores.all fun p => p.2.rspIn.all fun x => x.1 != c

/-- Every earlier access of the engine has been performed, a remote one acknowledged (R345, R446). -/
def performed (s : State) (cs : CoreSt) (e : Engine) : Bool :=
  (cs.accesses.all fun a => a.eng != e || a.pref) && !slotBusy s cs e

/-- What a sequencer release waits for (R446). -/
def seqReleased (s : State) (c : Nat) : Bool :=
  performed s (getCore s c) .seq && rspDone s c && released (getCore s c)

/-- The bytes of a remote operation, of a store piece those of its mask, share one with a part (R308, R325). -/
def opOverlaps (o : RemOp) (p : Piece) : Bool :=
  overlaps o.va o.n p.va p.n && (o.code != 0xF0 || (List.range 128).any fun i => o.mask.getLsbD i && overlaps (o.va + i) 1 p.va p.n)

/-- A part of an access overlaps another; for the parts of a checked store in another package its operations stand (R303, R325). -/
def partOverlaps (a : Access) (q p : Piece) : Bool := !(a.store && a.checked && isRemoteRoute q.route) && overlaps q.va q.n p.va p.n

/-- An outstanding access of the engine that overlaps the pieces, or a remote operation without its reply (R248, R325). -/
def overlapping (s : State) (cs : CoreSt) (e : Engine) (ps : List Piece) : Bool :=
  (cs.accesses.any fun a => a.eng == e && !a.pref && ((a.pieces.any fun q => ps.any (partOverlaps a q)) || a.ops.any fun o => ps.any (opOverlaps o))) ||
    ((teamOps s cs).any fun o => o.eng == e && o.copy.isNone && ps.any (opOverlaps o))

def acquires : Ord → Bool
  | .acq | .ar | .sc => true
  | _ => false

/-- An earlier acquiring access, or an atomic of a restored team, has not performed its acquire (R248, R320). -/
def acqPending (cs : CoreSt) (e : Engine) : Bool :=
  (cs.accesses.any fun a => a.eng == e && a.acq) || cs.pend.any fun p => p.eng == e && acquires p.ord

/-- The issue conditions of a global access (DEDUCED, log entry 15). -/
def accessStalls (s : State) (cs : CoreSt) (e : Engine) (rel : Bool) (ps : List Piece) : Bool :=
  acqPending cs e || overlapping s cs e ps || (rel && (!performed s cs e || !released cs)) ||
    (e == .seq && (cs.accesses.filter fun a => a.eng == .seq).length ≥ 8)

/-- A release that goes to another package raises a recorded remote failure (R317) (DEDUCED, log entry 41). -/
def rfailTrap (s : State) (cs : CoreSt) (rel : Bool) (ps : List Piece) : Option RFail :=
  if rel && ps.any (fun p => match vaClass s p.va with | .remote _ => true | _ => false) then cs.rfail else none

/-- The fault of a remote-failure record (R317); its report names the handle, the serial and the count, and the record is cleared. -/
def rfailVerdict (s : State) (r : RFail) : Verdict :=
  .trapIn (withCs s { focusCs s with rfail := none }) { count := r.count, trap := causeTrap r.cause, cause := r.cause.code, addr := BitVec.ofNat 64 (r.handle + r.owner * 2 ^ 48), arg := r.serial, fcode := r.fcode }

/-- The queue entries that the operands popped. -/
def poppedS : List SSrc → List SVal → List SVal
  | .qs :: t, v :: u => v :: poppedS t u
  | .reg _ :: t, _ :: u => poppedS t u
  | _, _ => []
def poppedD : Option MVSrc → VVal → List (QName × VVal)
  | some (.sq n), v => [(.sq n, v)]
  | _, _ => []

/-- Starts a global access; the instruction stays in flight until memory answers. -/
def startAccess (s : State) (cs : CoreSt) (e : Engine) (o : MemOp) (x : MemIn) (r : MemReq) (cl : List Claim) : Verdict :=
  let ps := piecesOf r.es
  let ps := if r.store then withData r.data ps else ps
  let a : Access := { id := cs.nextId, eng := e, store := r.store, flight := cs.nextId, asid := asidOf s cs, hint := o.hint, type := o.type, acq := o.acq, rel := o.rel,
                      issuedAt := coreCycle s, dst := r.dst, pieces := ps, scatter := r.store && o.vidx.isSome,
                      undoS := poppedS o.srcs x.ss, undoD := poppedD o.vsrc x.v }
  .done { s := withCs s { cs with accesses := cs.accesses ++ [a] }, openEnd := true, claims := cl }

/-- Reserves the queue entries of a load's destination (R72). -/
def reserveDst (cs : CoreSt) (now id : Nat) (sd : Option SDst) (vd : Option MVDst) : CoreSt :=
  let cs := match sd with | some .qr => reserveQr cs .mem now id | _ => cs
  match vd with | some (.lq n) => reserveDq cs (.lq n) id | _ => cs

def roomDst (cs : CoreSt) (sd : Option SDst) (vd : Option MVDst) : Bool :=
  (match sd with | some .qr => roomSq cs .qr | _ => true) && (match vd with | some (.lq n) => roomDq cs (.lq n) | _ => true)

/-- An access in scratchpad space: performed at issue, in program order (R248, R250). -/
def spmAccess (s : State) (cs : CoreSt) (o : MemOp) (r : MemReq) (cl : List Claim) : Verdict :=
  let lat := o.lat + r.extra
  if r.store then .done { s := withCs s (spmStore cs r.data r.es), lat := lat, claims := cl }
  else
    let d := spmLoad cs r.es
    let x := deliver cs r.dst d.1 d.2 0
    .done { s := withCs s x.1, lat := lat, fills := x.2, claims := cl }

/-- Checks 4 and 5, then the access itself. -/
def memAccess (s : State) (cs : CoreSt) (e : Engine) (o : MemOp) (x : MemIn) (cl : List Claim) (r : MemReq) : Verdict :=
  match misaligned r with
  | some va => addrTrap .misaligned va
  | none =>
    match o.space with
    | .spm =>
      match outOfSpm r with
      | some va => addrTrap .spmRange va
      | none => spmAccess s cs o r cl
    | .global =>
      match rfailTrap s cs o.rel (piecesOf r.es) with
      | some f => rfailVerdict s f
      | none => startAccess s cs e o x r cl

/-- The data of a store is read, or nothing; a queue head is popped. -/
def takeData (cs : CoreSt) (o : MemOp) : Option (VVal × CoreSt) :=
  match o.vsrc with
  | none => some ({}, cs)
  | some v => takeMV cs o.w v

/-- What a memory instruction reads, from its scalars and its data. -/
def memIn (cs : CoreSt) (o : MemOp) (ss : List SVal) (v : VVal) : MemIn :=
  { cs := cs, ss := ss, v := v, ix := (o.vidx.map (readIdx cs)).getD {}, ixn := o.ixn }

/-- The common shape of a memory instruction: hazards, queues and ordering first; then the checks of R252 in their order;
then `f` forms the request. -/
def memBody (o : MemOp) (f : MemIn → Except Verdict MemReq) (s : State) : Verdict :=
  let e := s.focusEng
  let cs := focusCs s
  let cl := claimsOf (o.reads e) (o.writes e)
  match takeSrcs cs e o.srcs with
  | none => .stall
  | some (ss, cs1) =>
    match takeData cs1 o with
    | none => .stall
    | some (v, cs2) =>
      let x := memIn cs o ss v
      let r := f x
      let es := match r with | .ok q => q.es | _ => []
      let extra := match r with | .ok q => q.extra | _ => 0
      if hazard s cs e cl (o.lat + extra) || !roomDst cs o.sd o.vd || acqPending cs e then .stall
      else match useTag e x with
        | some c => poisonTrap c
        | none =>
          if o.space = .global && accessStalls s cs e o.rel (piecesOf es) then .stall
          else match r with
            | .error v => v
            | .ok q => memAccess s (reserveDst cs2 (coreCycle s) cs.nextId o.sd o.vd) e o x cl q

/-- Address of a base register and a signed offset (R149, R254). -/
def baseAddr (x : MemIn) (off : Int) : Nat := wrap64 ((x.ss.getD 0 {}).val.toNat + off)
def litOff (lit : BitVec 32) : Int := lit.toInt

/-! ### Scalar accesses (R148, R149, R254, R258) -/

/-- One element of 2^size bytes. -/
def oneElem (va size : Nat) : List Elem := [⟨va, 2 ^ size, 0⟩]

def loadScalar (e : Engine) (d : SDst) (size : Nat) (sx : Bool) (lit : BitVec 32) (x : MemIn) : Except Verdict MemReq :=
  .ok { store := false, es := oneElem (baseAddr x (litOff lit)) size, dst := .scalar e d size sx false, align := 2 ^ size }

def storeScalar (size : Nat) (lit : BitVec 32) (x : MemIn) : Except Verdict MemReq :=
  .ok { store := true, es := oneElem (baseAddr x (litOff lit)) size, data := (x.ss.getD 1 {}).val.toNat, align := 2 ^ size }

/-- LDS: Sequencer scalar load from global space (R149). -/
def execLds (k : Ctl) (size : Nat) (sx acq : Bool) (hint : Nat) (d a : Nat) (lit : BitVec 32) (s : State) : Out :=
  issue (.lds k size sx acq hint d a lit) s
    (memBody { srcs := [.reg a], sd := some (.reg d), hint := hint, acq := acq } (loadScalar .seq (.reg d) size sx lit))

/-- STS: Sequencer scalar store to global space (R149). -/
def execSts (k : Ctl) (size : Nat) (rel : Bool) (hint : Nat) (a b : Nat) (lit : BitVec 32) (s : State) : Out :=
  issue (.sts k size rel hint a b lit) s
    (memBody { srcs := [.reg a, .reg b], hint := hint, rel := rel, type := size } (storeScalar size lit))

/-- LDA: Access-engine scalar load from global or scratchpad space (R254). -/
def execLda (k : Ctl) (size : Nat) (sx acq : Bool) (sp : Space) (hint : Nat) (d : SDst) (a : SSrc) (lit : BitVec 32) (s : State) : Out :=
  issue (.lda k size sx acq sp hint d a lit) s
    (memBody { srcs := [a], sd := some d, space := sp, hint := hint, acq := acq, lat := 4 } (loadScalar .mem d size sx lit))

/-- STA: Access-engine scalar store (R254). -/
def execSta (k : Ctl) (size : Nat) (rel : Bool) (sp : Space) (hint : Nat) (a b : SSrc) (lit : BitVec 32) (s : State) : Out :=
  issue (.sta k size rel sp hint a b lit) s
    (memBody { srcs := [a, b], space := sp, hint := hint, rel := rel, type := size, lat := 2 } (storeScalar size lit))

/-- A speculative load that fails a check writes 0 with a tag of cause 0 (R258, R372). -/
def speculativeZero (s : State) (cs : CoreSt) (d : SDst) (lat : Nat) (cl : List Claim) : Verdict :=
  let x := putS cs .mem (coreCycle s) cs.nextId { val := 0, tag := some .speculative } (some d)
  .done { s := withCs s x.1, lat := lat, fills := x.2, claims := cl }

/-- LD.S: as LDA, but a failed check 1, 4 or 5 gives the poisoned zero; checks 6 and 7 do when the access clears. -/
def ldsBody (size : Nat) (sx : Bool) (sp : Space) (hint : Nat) (d : SDst) (a : SSrc) (lit : BitVec 32) (s : State) : Verdict :=
  let cs := focusCs s
  let o : MemOp := { srcs := [a], sd := some d, space := sp, hint := hint, lat := 4 }
  let cl := claimsOf (o.reads .mem) (o.writes .mem)
  match takeSrcs cs .mem [a] with
  | none => .stall
  | some (ss, cs1) =>
    let x : MemIn := { cs := cs, ss := ss, v := {}, ix := {} }
    let r : MemReq := { store := false, es := oneElem (baseAddr x (litOff lit)) size, dst := .scalar .mem d size sx true, align := 2 ^ size }
    if hazard s cs .mem cl 4 || !roomDst cs (some d) none || acqPending cs .mem then .stall
    else if (readTag x).isSome || (misaligned r).isSome || (sp = .spm && (outOfSpm r).isSome) then speculativeZero s cs1 d 4 cl
    else if sp = .global && accessStalls s cs .mem false (piecesOf r.es) then .stall
    else memAccess s (reserveDst cs1 (coreCycle s) cs.nextId (some d) none) .mem o x cl r

/-- LD_S: Speculative load that writes a poisoned zero instead of faulting (R258). -/
def execLdS (k : Ctl) (size : Nat) (sx : Bool) (sp : Space) (hint : Nat) (d : SDst) (a : SSrc) (lit : BitVec 32) (s : State) : Out :=
  issue (.ldS k size sx sp hint d a lit) s (ldsBody size sx sp hint d a lit)

/-! ### Vectors (R254, R255, R256) -/

def vecLoad (d : MVDst) (es : List Elem) (align : Nat) : MemReq := { store := false, es := es, dst := .vec d, align := align }
def vecStore (x : MemIn) (es : List Elem) (align : Nat) : MemReq := { store := true, es := es, data := x.v.data.toNat, align := align }

/-- One element of 512 bytes. -/
def wholeElem (x : MemIn) (lit : BitVec 32) : List Elem := [⟨baseAddr x (litOff lit), 512, 0⟩]

/-- 512 / n elements of n bytes at a stride. -/
def strideElems (x : MemIn) (n : Nat) (lit : BitVec 32) : List Elem :=
  (List.range (512 / n)).map fun (i : Nat) => ⟨wrap64 ((baseAddr x 0 : Int) + (i : Int) * litOff lit), n, n * i⟩

/-- 512 / n elements at the signed 32-bit offsets of the index vector. -/
def gatherElems (x : MemIn) (n : Nat) : List Elem :=
  (List.range (512 / n)).map fun (i : Nat) => ⟨wrap64 ((baseAddr x 0 : Int) + asInt 32 (vLane 32 x.ix i)), n, n * i⟩

/-- g of R250: one less than the largest number of distinct 64-byte blocks within one bank. -/
def bankExtra (es : List Elem) : Nat :=
  let blocks := (es.map fun x => x.va / 64).eraseDups
  ((List.range 32).map fun b => (blocks.filter fun x => x % 32 == b).length).foldl max 1 - 1

/-- VLD: Loads 512 bytes into a V register or an LQ entry (R254). -/
def execVld (k : Ctl) (acq : Bool) (sp : Space) (hint : Nat) (d : MVDst) (a : SSrc) (lit : BitVec 32) (s : State) : Out :=
  issue (.vld k acq sp hint d a lit) s
    (memBody { srcs := [a], vd := some d, space := sp, hint := hint, acq := acq, lat := 6 } fun x => .ok (vecLoad d (wholeElem x lit) 64))
/-- SIZE and SUBF of a vector store: SUBF is 0b01 where the data come from a queue (R308). -/
def storeType (size : Nat) : MVSrc → Nat
  | .sq _ => size + 8
  | _ => size

/-- VST: Stores 512 bytes from a V register, constant or SQ entry (R254). -/
def execVst (k : Ctl) (rel : Bool) (sp : Space) (hint : Nat) (d : MVSrc) (a : SSrc) (lit : BitVec 32) (s : State) : Out :=
  issue (.vst k rel sp hint d a lit) s
    (memBody { srcs := [a], vsrc := some d, space := sp, hint := hint, rel := rel, type := storeType 5 d, lat := 2 } fun x => .ok (vecStore x (wholeElem x lit) 64))
/-- VLDS: Strided vector load (R255). -/
def execVlds (k : Ctl) (size : Nat) (acq : Bool) (sp : Space) (hint : Nat) (d : MVDst) (a : SSrc) (lit : BitVec 32) (s : State) : Out :=
  issue (.vlds k size acq sp hint d a lit) s
    (memBody { srcs := [a], vd := some d, space := sp, hint := hint, acq := acq, lat := 6 } fun x =>
      .ok (vecLoad d (strideElems x (2 ^ size) lit) (2 ^ size)))
/-- VSTS: Strided vector store (R255). -/
def execVsts (k : Ctl) (size : Nat) (rel : Bool) (sp : Space) (hint : Nat) (d : MVSrc) (a : SSrc) (lit : BitVec 32) (s : State) : Out :=
  issue (.vsts k size rel sp hint d a lit) s
    (memBody { srcs := [a], vsrc := some d, w := 8 * 2 ^ size, space := sp, hint := hint, rel := rel, type := storeType size d, lat := 2 } fun x =>
      .ok (vecStore x (strideElems x (2 ^ size) lit) (2 ^ size)))
/-- VGATH: Gathers 4- or 8-byte lanes through a vector of signed offsets (R256). -/
def execVgath (k : Ctl) (size : Nat) (acq : Bool) (sp : Space) (hint : Nat) (d : MVDst) (a : SSrc) (b : VIdx) (s : State) : Out :=
  issue (.vgath k size acq sp hint d a b) s
    (memBody { srcs := [a], vidx := some b, ixn := if size = 3 then 32 else 64, vd := some d, space := sp, hint := hint, acq := acq, lat := 6 } fun x =>
      let es := gatherElems x (2 ^ size)
      .ok { vecLoad d es (2 ^ size) with extra := bankExtra es })
/-- VSCAT: Scatters lanes through a vector of signed offsets (R256). -/
def execVscat (k : Ctl) (size : Nat) (rel : Bool) (sp : Space) (hint : Nat) (d : MVSrc) (a : SSrc) (b : VIdx) (s : State) : Out :=
  issue (.vscat k size rel sp hint d a b) s
    (memBody { srcs := [a], vsrc := some d, vidx := some b, ixn := if size = 3 then 32 else 64, w := 8 * 2 ^ size, space := sp, hint := hint, rel := rel, type := storeType size d, lat := 2 } fun x =>
      let es := gatherElems x (2 ^ size)
      .ok { vecStore x es (2 ^ size) with extra := bankExtra es })

/-! ### Tiles (R197, R257) -/

def tcT (cs : CoreSt) (t : Nat) : Nat := (mgetD 0 cs.tcT t).toNat
def tcCfg (v : Nat) : Bool := v.testBit 15
def tcRows (v : Nat) : Nat := v % 256
def tcBytes (v : Nat) : Nat := (v >>> 8 % 64) * 16

/-- The rows of a TLD or TST. -/
def tileElems (x : MemIn) (rows rbytes : Nat) : List Elem :=
  (List.range rows).map fun (r : Nat) => ⟨wrap64 ((baseAddr x 0 : Int) + (r : Int) * (x.ss.getD 1 {}).val.toInt), rbytes, rbytes * r⟩

/-- The bytes that a TST stores, row after row. -/
def tileData (cs : CoreSt) (t rbytes rows : Nat) : Nat :=
  packLanes (8 * rbytes) ((List.range rows).map fun r => (readTile cs t r).data.toNat)

/-- The greatest cause of the tags of n rows (check 1 for TST). -/
def tileTags (cs : CoreSt) (t : Nat) (n : Nat) : Option Cause :=
  (List.range n).foldl (fun g r => maxTag g (readTile cs t r).tag) none

def tldReq (t : Nat) (x : MemIn) : Except Verdict MemReq :=
  let v := tcT x.cs t
  if !tcCfg v then .error (.trap { trap := .tileShape })
  else .ok { store := false, es := tileElems x (tcRows v) (tcBytes v), dst := .tile t (tcRows v) (tcBytes v), extra := tcRows v, align := 16 }

/-- What a TST asks for, once none of the tile's rows is tagged (R252, R257) (DESIGN CHOICE, log entry 64). -/
def tstReq (t : Nat) (x : MemIn) : Except Verdict MemReq :=
  let v := tcT x.cs t
  match (if tcCfg v then tileTags x.cs t (tcRows v) else none) with
  | some c => .error (poisonTrap c)
  | none =>
    if !tcCfg v then .error (.trap { trap := .tileShape })
    else .ok { store := true, es := tileElems x (tcRows v) (tcBytes v), data := tileData x.cs t (tcBytes v) (tcRows v), extra := tcRows v, align := 16 }

/-- TLD: Loads the configured rows of a tile from memory with a stride (R257). -/
def execTld (k : Ctl) (acq : Bool) (sp : Space) (hint : Nat) (d : Nat) (a b : SSrc) (s : State) : Out :=
  issue (.tld k acq sp hint d a b) s
    (memBody { srcs := [a, b], tile := some (d, true), space := sp, hint := hint, acq := acq, lat := 5 } (tldReq d))
/-- TST: Stores the configured rows of a tile to memory with a stride (R257). -/
def execTst (k : Ctl) (rel : Bool) (sp : Space) (hint : Nat) (d : Nat) (a b : SSrc) (s : State) : Out :=
  issue (.tst k rel sp hint d a b) s
    (memBody { srcs := [a, b], tile := some (d, false), space := sp, hint := hint, rel := rel, type := 5, lat := 1 } (tstReq d))

/-! ### RSP.ST (R259, R260) -/

/-- The target core of index k: occupied by a team of the issuer's gang that has not exited; a paired team has exited when both halves
have, and then it occupies no core (R103). -/
def rspTarget (s : State) (k : Nat) : Option Nat :=
  let c := s.focusCore / 8 * 8 + k
  let t := getCore s c
  match (focusCs s).occ, t.occ with
  | some o, some p => if k < 8 ∧ o.launch = p.launch ∧ o.gang = p.gang then some c else none
  | _, _ => none

def rspBody (d : MVSrc) (a b : SSrc) (lit : BitVec 32) (s : State) : Verdict :=
  let cs := focusCs s
  let o : MemOp := { srcs := [a, b], vsrc := some d, space := .spm, lat := 2 }
  let cl := claimsOf (o.reads .mem) []
  match takeSrcs cs .mem [a, b] with
  | none => .stall
  | some (ss, cs1) =>
    match takeMV cs1 32 d with
    | none => .stall
    | some (v, cs2) =>
      let x : MemIn := { cs := cs, ss := ss, v := v, ix := {} }
      let r := vecStore x (wholeElem x lit) 64
      let va := baseAddr x (litOff lit)
      if hazard s cs .mem cl 2 || acqPending cs .mem then .stall
      else match readTag x with
        | some c => poisonTrap c
        | none =>
          match rspTarget s (ss.getD 1 {}).val.toNat with
          | none => .trap { trap := .rspTarget }
          | some t =>
            match misaligned r, outOfSpm r with
            | some va, _ => addrTrap .misaligned va
            | none, some va => addrTrap .spmRange va
            | none, none =>
              let s1 := withCs s cs2
              let tc := getCore s1 t
              .done { s := setCore s1 t { tc with rspIn := tc.rspIn ++ [(s.focusCore, va, v.data)] }, lat := 2, claims := cl }

/-- RSP_ST: Writes 512 bytes into the scratchpad of a gang peer in the same cluster (R259). -/
def execRspSt (k : Ctl) (hint : Nat) (d : MVSrc) (a b : SSrc) (lit : BitVec 32) (s : State) : Out :=
  issue (.rspSt k hint d a b lit) s (rspBody d a b lit)

/-! ### PREF (R262) -/

/-- A prefetch asks for a line and retires at once; a poisoned base drops it (DESIGN CHOICE, log entry 70). -/
def prefBody (hint : Nat) (a : SSrc) (lit : BitVec 32) (s : State) : Verdict :=
  let cs := focusCs s
  if hazard s cs .mem (claimsOf (srcRes .mem a) []) 1 then .stall
  else match takeSrcs cs .mem [a] with
    | none => .stall
    | some (ss, cs1) =>
      let x : MemIn := { cs := cs, ss := ss, v := {}, ix := {} }
      if (readTag x).isSome then .done { s := withCs s cs1 }
      else
        let p : Piece := { va := lineBase (baseAddr x (litOff lit)), n := 128, off := 0 }
        let q : Access := { id := cs1.nextId, eng := .mem, store := false, flight := cs1.nextId, asid := asidOf s cs, hint := hint,
                            issuedAt := coreCycle s, pieces := [p], pref := true }
        .done { s := withCs s { cs1 with accesses := cs1.accesses ++ [q] } }

/-- PREF: Requests a line into L1 and LLC with no architectural effect (R262). -/
def execPref (k : Ctl) (hint : Nat) (a : SSrc) (lit : BitVec 32) (s : State) : Out :=
  issue (.pref k hint a lit) s (prefBody hint a lit)

end Sys2Proof.Machine
end

