-- ==== Sys2Proof/Machine/Team.lean ====
section
/-! DEFINITION. The sequencer's queue and team instructions: QPUSH, QPOP, FORK, LAUNCH, WAITCH, EXIT, RDID, HINT.REM (R115 to R122, R152). -/

namespace Sys2Proof.Machine

/-! ### QPUSH and QPOP (R152) -/

def qsOfCode : Nat → QName
  | 0 => .qsMem | 1 => .qsVec | _ => .qsMtx

/-- QPUSH: an entry is reserved and filled with the value and its tag. -/
def qpushBody (q a : Nat) (s : State) : Verdict :=
  let cs := focusCs s
  if hazard s cs .seq (claimsOf [.sreg .seq a] []) 1 || !roomSq cs (qsOfCode q) || freedNow s cs (qsOfCode q) then .stall
  else .done { s := withCs s (reserveSq cs (qsOfCode q) cs.nextId), fills := [.scalar (qsOfCode q) (readReg cs.seq .seq a)] }

/-- QPUSH: Pushes a sequencer register into QS.MEM, QS.VEC or QS.MTX (R152). -/
def execQpush (k : Ctl) (q : Nat) (a : Nat) (s : State) : Out := issue (.qpush k q a) s (qpushBody q a)

/-- QPOP: the head of QR with its tag. -/
def qpopBody (d : Nat) (s : State) : Verdict :=
  let cs := focusCs s
  if hazard s cs .seq (claimsOf [] [.sreg .seq d]) 1 then .stall
  else match popSq cs .qr with
    | none => .stall
    | some (v, cs1) => .done { s := withCs s (setReg cs1 .seq d v) }

/-- QPOP: Pops the head of QR into a sequencer register (R152). -/
def execQpop (k : Ctl) (d : Nat) (s : State) : Out := issue (.qpop k d) s (qpopBody d)

/-! ### FORK (R115, R116) -/

def engOfCode : Nat → Engine
  | 0 => .seq | 1 => .mem | 2 => .vec | _ => .mtx

/-- A stream that starts at (line, slot): the engine keeps its registers and control registers (R101). -/
def startStream (st : Stream) (sem line slot now : Nat) : Stream :=
  { st with active := true, pc := .pos line slot, entry := some false, endSem := sem, ending := false, waitDone := false,
            halted := none, waiting := none, pending := none, lastIssue := now }

def forkBody (eng sem a slot line : Nat) (s : State) : Verdict :=
  let cs := focusCs s
  let e := engOfCode eng
  let q := qsName e
  if hazard s cs .seq (claimsOf [.sreg .seq a] []) 1 then .stall
  else if (cs.stream e).active then .trap { trap := .forkActive }
  else if !roomSq cs q then .stall
  else
    let cs1 := reserveSq cs q cs.nextId
    let cs2 := cs1.setStream e (startStream (cs.stream e) sem line slot (residence s cs))
    .done { s := withCs s cs2, fills := [.scalar q (readReg cs.seq .seq a)] }

/-- FORK: Pushes an argument and starts a mem, vec or mtx stream at a target, naming its end semaphore (R116). -/
def execFork (k : Ctl) (eng : Nat) (sem : Nat) (a : Nat) (slot line : Nat) (s : State) : Out :=
  issue (.fork k eng sem a slot line) s (forkBody eng sem a slot line)

/-! ### LAUNCH and WAITCH (R117, R118) -/

/-- Nesting depth of the core's launch (R108). -/
def depthOf (s : State) (cs : CoreSt) : Nat := ((launchOf s cs).map (·.depth)).getD 0

/-- LAUNCH: the checks in their order, the release, then the packet's load; the child is submitted when it returns (DEDUCED, log entry 16). -/
def launchBody (d a : Nat) (s : State) : Verdict :=
  let cs := focusCs s
  let cl := claimsOf [.sreg .seq a] [.sreg .seq d]
  let v := readReg cs.seq .seq a
  if hazard s cs .seq cl 1 then .stall
  else if depthOf s cs = 9 then .trap { trap := .launchDepth }
  else match v.tag with
    | some c => poisonTrap c
    | none =>
      if v.val.toNat % 64 ≠ 0 then .trap { trap := .launchAlign, addr := v.val }
      else if cs.children.length ≥ 256 then .trap { trap := .childLimit }
      else if !seqReleased s s.focusCore then .stall
      else
        let p : Access := { id := cs.nextId, eng := .seq, store := false, flight := cs.nextId, asid := asidOf s cs,
                            issuedAt := coreCycle s, dst := .launch d, pieces := piecesOf [⟨v.val.toNat, 64, 0⟩] }
        .done { s := withCs s { cs with accesses := cs.accesses ++ [p] }, openEnd := true, claims := cl }

/-- LAUNCH: Releases and submits a child launch from a dispatch packet, returning its id (R117). -/
def execLaunch (k : Ctl) (d a : Nat) (s : State) : Out := issue (.launch k d a) s (launchBody d a)

/-- WAITCH: 0 names every child; a child that is not recorded gives all ones at once (DEDUCED, log entries 19, 20). -/
def waitchBody (d a : Nat) (s : State) : Verdict :=
  let cs := focusCs s
  let v := (readReg cs.seq .seq a).val.toNat
  if hazard s cs .seq (claimsOf [.sreg .seq a] [.sreg .seq d]) 1 then .stall
  else if v = 0 ∨ cs.children.any (fun x => x.id == v) then .done { s := s, flow := .wait (.waitch d v) }
  else if !loadsDone cs .seq then .stall
  else .done { s := withCs s (acquire (setReg cs .seq d { val := BitVec.allOnes 64 })) }

/-- WAITCH: Waits for one or all recorded children to retire and returns their status (R118). -/
def execWaitch (k : Ctl) (d a : Nat) (s : State) : Out := issue (.waitch k d a) s (waitchBody d a)

/-- Children whose retirement a WAITCH of this operand awaits (DEDUCED, log entry 19). -/
def awaited (cs : CoreSt) (child : Nat) : List Child := cs.children.filter fun x => child == 0 || x.id == child

/-- The value of WAITCH when they have all retired. -/
def waitchValue (cs : CoreSt) (child : Nat) : Nat :=
  if child = 0 then (cs.children.filter fun x => x.status != 0).length
  else ((cs.children.find? fun x => x.id == child).map (·.status)).getD 0

/-! ### EXIT, RDID, HINT.REM (R119, R121, R122) -/

/-- EXIT: Ends the team's part on its core once its engines are idle and its work has drained (R103). -/
def execExit (k : Ctl) (a : Nat) (s : State) : Out :=
  issue (.exit k a) s fun s =>
    if hazard s (focusCs s) .seq (claimsOf [.sreg .seq a] []) 1 then .stall
    else exitBody (readReg (focusCs s).seq .seq a).val s

/-- RDID's values (R121). -/
def rdidValue (s : State) (sel : Nat) : Nat :=
  let cs := focusCs s
  let o := cs.occ.getD ⟨0, 0, 0, 0⟩
  match sel with
  | 0 => o.team
  | 1 => o.gang
  | 2 => o.half
  | 3 => s.focusCore
  | 4 => s.pkg
  | 5 => ((launchOf s cs).map (·.pkt.teams)).getD 0
  | 6 => ((launchOf s cs).map (·.pkt.gangs)).getD 0
  | 7 => depthOf s cs
  | 8 => s.focusCore % 8
  | _ => o.launch

/-- RDID: Returns a team, gang, core, package or launch identifier chosen by the selector (R121). -/
def execRdid (k : Ctl) (d sel : Nat) (s : State) : Out :=
  issue (.rdid k d sel) s (scalarBody [] (.reg d) 1 fun _ => .ok { val := BitVec.ofNat 64 (rdidValue s sel) })

/-- Sets the estimate in a core's own copy. -/
def setEst (s : State) (c v : Nat) : State :=
  let cs := getCore s c
  setCore s c { cs with estVal := v, estAt := residence s cs }

/-- HINT.REM: the halves of a paired team share one estimate. -/
def hintRemBody (a : Nat) (s : State) : Verdict :=
  useBody (.reg a) (fun cs v =>
    let s1 := setEst (withCs s cs) s.focusCore v.toNat
    .done { s := if isPaired s cs then setEst s1 (pairOf s.focusCore) v.toNat else s1 }) s

/-- HINT_REM: Sets the team's remaining-time estimate (R122). -/
def execHintRem (k : Ctl) (a : Nat) (s : State) : Out := issue (.hintRem k a) s (hintRemBody a)

end Sys2Proof.Machine
end

