-- ==== Sys2Proof/Machine/Sync.lean ====
section
/-! DEFINITION. Cluster barriers, the gang barrier and watches: CBA, CBW, GBAR, WATCH, MWAIT (R291 to R301), and the events that complete waits. -/

namespace Sys2Proof.Machine

/-! ### Gangs -/

/-- Replaces a gang of a launch. -/
def setGang (s : State) (l g : Nat) (v : Gang) : State :=
  match mget s.disp.launches l with
  | none => s
  | some x => { s with disp := { s.disp with launches := mset s.disp.launches l { x with gangs := x.gangs.set g v } } }

def updGang (s : State) (l g : Nat) (f : Gang → Gang) : State :=
  match getGang s l g with
  | none => s
  | some x => setGang s l g (f x)
def updTeam (s : State) (l g t : Nat) (f : Team → Team) : State :=
  updGang s l g fun x => { x with teams := x.teams.mapIdx fun i y => if i = t then f y else y }
def getTeam (s : State) (l g t : Nat) : Option Team := (getGang s l g).bind fun x => x.teams[t]?

def gangOf (s : State) (cs : CoreSt) : Option Gang := cs.occ.bind fun o => getGang s o.launch o.gang

/-- The team of a core is one of a cluster-resident gang (R291). -/
def inBarrierGang (s : State) (cs : CoreSt) : Bool := ((launchOf s cs).map (·.pkt.cluster)).getD false

def getCb (s : State) (cs : CoreSt) (b : Nat) : CBar := mgetD {} ((gangOf s cs).map (·.cbs) |>.getD []) b

def setCb (s : State) (cs : CoreSt) (b : Nat) (v : CBar) : State :=
  match cs.occ with
  | none => s
  | some o =>
    match getGang s o.launch o.gang with
    | none => s
    | some g => setGang s o.launch o.gang { g with cbs := mputD {} g.cbs b v }

/-! ### CBA and CBW (R293, R294) -/

/-- The barrier before its first change in cycle `now` keeps PHASE and ERR for the waiters of that cycle (R294). -/
def CBar.changes (b : CBar) (now : Nat) : CBar := if b.doneAt = now then b else { b with doneAt := now, phase0 := b.phase, err0 := b.err }

/-- PHASE and ERR as the CBWs of cycle `now` see them: changes of the cycle itself are not seen in it (R294). -/
def CBar.seen (b : CBar) (now : Nat) : Bool × Bool := if b.doneAt < now then (b.phase, b.err) else (b.phase0, b.err0)

/-- An arrival with count n at a barrier in cycle `now`: the barrier after it, and the token, or none when the counts
disagree. -/
def arriveCb (b : CBar) (n now : Nat) : CBar × Option Word :=
  if b.err then (b, some 2)
  else
    let b := if b.n = 0 then { b with n := n } else b
    if n ≠ b.n then ({ b.changes now with err := true }, none)
    else
      let tok : Word := if b.phase then 1 else 0
      let b := { b with arr := b.arr + 1 }
      if b.arr = b.n then ({ b.changes now with phase := !b.phase, arr := 0, n := 0 }, some tok) else (b, some tok)

/-- CBA: BAR_GANG, then the release, then the arrival; BAR_COUNT leaves the barrier in error (DEDUCED, log entry 16). -/
def cbaBody (d bar count : Nat) (s : State) : Verdict :=
  let cs := focusCs s
  if hazard s cs .seq (claimsOf [] [.sreg .seq d]) 1 then .stall
  else if !inBarrierGang s cs then .trap { trap := .barGang }
  else if !seqReleased s s.focusCore then .stall
  else
    let r := arriveCb (getCb s cs bar) count (coreCycle s)
    let s1 := setCb s cs bar r.1
    match r.2 with
    | some tok => .done { s := withCs s1 (setReg cs .seq d { val := tok }) }
    | none => .trapIn s1 { trap := .barCount }

/-- CBA: Releases and arrives at a cluster barrier, returning a phase token (R293). -/
def execCba (k : Ctl) (d bar count : Nat) (s : State) : Out := issue (.cba k d bar count) s (cbaBody d bar count)

/-- A CBW may complete: the token or the barrier is in error, or the phase has changed in an earlier core cycle, and its acquire can be made. -/
def cbwReady (s : State) (cs : CoreSt) (bar : Nat) (phase err : Bool) : Bool :=
  let b := (getCb s cs bar).seen (coreCycle s)
  (err || b.2 || b.1 != phase) && loadsDone cs .seq

/-- The acquire of a CBW, and its status. -/
def cbwEnd (s : State) (cs : CoreSt) (d bar : Nat) (err : Bool) : CoreSt :=
  acquire (setReg cs .seq d { val := if err || ((getCb s cs bar).seen (coreCycle s)).2 then 1 else 0 })

/-- CBW: it retires in the cycle in which it may complete, which can be that of its issue; else it waits for the phase that its token names (R437). -/
def cbwBody (d a bar : Nat) (s : State) : Verdict :=
  let cs := focusCs s
  let v := readReg cs.seq .seq a
  if hazard s cs .seq (claimsOf [.sreg .seq a] [.sreg .seq d]) 1 then .stall
  else if !inBarrierGang s cs then .trap { trap := .barGang }
  else match v.tag with
    | some c => poisonTrap c
    | none =>
      if cbwReady s cs bar (v.val.getLsbD 0) (v.val.getLsbD 1) then .done { s := withCs s (cbwEnd s cs d bar (v.val.getLsbD 1)) }
      else .done { s := s, flow := .wait (.cbw d bar (v.val.getLsbD 0) (v.val.getLsbD 1)) }

/-- CBW: Waits until the barrier phase named by a token completes, then acquires (R294). -/
def execCbw (k : Ctl) (d a bar : Nat) (s : State) : Out := issue (.cbw k d a bar) s (cbwBody d a bar)

/-! ### GBAR (R296) -/

/-- GBAR: the release, then the arrival, once; then it waits for the phase. -/
def gbarBody (d : Nat) (s : State) : Verdict :=
  let cs := focusCs s
  if hazard s cs .seq (claimsOf [] [.sreg .seq d]) 1 then .stall
  else if cs.seq.arrived then .done { s := s, flow := .wait (.gbar d) }
  else if !seqReleased s s.focusCore then .stall
  else match cs.occ with
    | none => .stall
    | some o =>
      match getGang s o.launch o.gang with
      | none => .stall
      | some g => .done { s := setGang s o.launch o.gang { g with gbar := g.gbar ++ [(o.team, o.half)] }, flow := .wait (.gbar d) }

/-- GBAR: Releases, arrives at the gang barrier and waits for the phase to complete (R296). -/
def execGbar (k : Ctl) (d : Nat) (s : State) : Out := issue (.gbar k d) s (gbarBody d)

/-! ### WATCH and MWAIT (R297 to R300) -/

/-- Entries of the hub's watch table: of cores, and of records whose team stands on no core with its entry (R297, R301). -/
def watchCount (s : State) : Nat :=
  (s.cores.filter fun p => p.2.watch.isSome).length +
    (s.fw.records.filter fun r => (recNat r 7 1).testBit 2 && !(s.cores.any fun p => p.2.watch.isSome && p.2.occ == some r.occ)).length

/-- Invalidates words of a line that the core does not own. -/
def dropWords (cs : CoreSt) (key : LineKey) (ws : BitVec 32) : CoreSt :=
  { cs with l1 := (cs.l1.map fun l => if l.key == key then { l with valid := l.valid &&& ~~~(ws &&& ~~~l.owned) } else l).filter
                    fun l => l.valid != 0 }

/-- Arms the watch of the core on a word, or notes the overflow of the table (DEDUCED, log entry 17). -/
def armWatch (s : State) (c : Nat) (asid va : Nat) : State :=
  let key := keyOf s asid va
  let s := setCore s c { getCore s c with watch := none }
  let full := watchCount s ≥ 4096
  let cs := getCore s c
  setCore s c (dropWords { cs with watch := if full then none else some { key := key, va := va }, overflow := full } key
    (wordMask (va % 128) 8))

def watchBody (a : Nat) (s : State) : Verdict :=
  let cs := focusCs s
  let v := readReg cs.seq .seq a
  let va := v.val.toNat
  if hazard s cs .seq (claimsOf [.sreg .seq a] []) 1 then .stall
  else match v.tag with
    | some c => poisonTrap c
    | none =>
      if va % 8 ≠ 0 then addrTrap .misaligned va
      else match resolve s (asidOf s cs) va .load with
        | .error .pageMissing => .halt { trap := .pageMissing, asid := (keyOf s (asidOf s cs) va).asid, va := va, kind := .load }
        | .error .pageMoving => .halt { trap := .pageMoving, asid := (keyOf s (asidOf s cs) va).asid, va := va, kind := .load }
        | .error t => addrTrap t va
        | .ok (asid, x, _) => .done { s := armWatch (tlbAdd s asid va x) s.focusCore (asidOf s cs) va }

/-- WATCH: Arms the core's watch-table entry on an aligned 8-byte word (R298). -/
def execWatch (k : Ctl) (a : Nat) (s : State) : Out := issue (.watch k a) s (watchBody a)

/-- The entry is freed, the core acquires, and D receives the status. -/
def mwaitEnd (cs : CoreSt) (d : Nat) (st : Word) : CoreSt :=
  acquire (setReg { cs with watch := none, overflow := false, deadline := none } .seq d { val := st })

/-- End of the timeout in hub cycles, two to a unit of 1.25 ns; one that runs already goes on (R300). -/
def mwaitDeadline (s : State) (cs : CoreSt) (tmo : Nat) : Option Nat :=
  match cs.deadline with
  | some t => some t
  | none => if tmo = 0 then none else some (s.time + 2 * tmo)

def mwaitBody (d a : Nat) (s : State) : Verdict :=
  let cs := focusCs s
  let v := readReg cs.seq .seq a
  if hazard s cs .seq (claimsOf [.sreg .seq a] [.sreg .seq d]) 1 then .stall
  else match v.tag with
    | some c => poisonTrap c
    | none =>
      if cs.overflow || cs.watch.isNone then
        if loadsDone cs .seq then .done { s := withCs s (mwaitEnd cs d (if cs.overflow then 2 else 0)) } else .stall
      else .done { s := withCs s { cs with deadline := mwaitDeadline s cs v.val.toNat }, flow := .wait (.mwait d) }

/-- MWAIT: Waits for the watch's wake bit or a timeout, frees the entry and acquires (R300). -/
def execMwait (k : Ctl) (d a : Nat) (s : State) : Out := issue (.mwait k d a) s (mwaitBody d a)

/-! ### Completion of waits (R118, R294, R296, R300, R345) -/

/-- An event of the opcode table: when its rule's conditions do not hold in this state it does not happen, and the machine goes on as it is
(DESIGN CHOICE, log entry 1). -/
def evOut (s : State) (o : Option State) : Out := .next (o.getD s)

/-- What the engine of a core waits for, while its team is neither stopped nor being saved. -/
def waitOf (s : State) (c : Nat) (e : Engine) : Option WaitKind :=
  let cs := getCore s c
  if cs.occ.isSome && cs.run != .stopped && !cs.event && cs.restartAt.isNone then ((cs.stream e).waiting).map (·.kind) else none

def mwaitWake (core : Nat) (s : State) : Option State :=
  match waitOf s core .seq with
  | some (.mwait d) =>
    let cs := getCore s core
    if (cs.watch.map (·.wake)) = some true && loadsDone cs .seq then
      some (completeWait (setCore s core (mwaitEnd cs d 0)) core .seq)
    else none
  | _ => none

def mwaitTimeout (core : Nat) (s : State) : Option State :=
  match waitOf s core .seq with
  | some (.mwait d) =>
    let cs := getCore s core
    match cs.deadline with
    | some t =>
      if t ≤ s.time && (cs.watch.map (·.wake)) != some true && loadsDone cs .seq then
        some (completeWait (setCore s core (mwaitEnd cs d 1)) core .seq)
      else none
    | none => none
  | _ => none

/-- MWAIT_WAKE: An MWAIT finds its wake bit set, frees the entry, acquires and returns 0 (R300). -/
def execMwaitWake (core : Nat) (s : State) : Out := evOut s (mwaitWake core s)
/-- MWAIT_TIMEOUT: The MWAIT timeout elapses and MWAIT returns 1 (R300). -/
def execMwaitTimeout (core : Nat) (s : State) : Out := evOut s (mwaitTimeout core s)

/-- A CBW that waits completes. -/
def cbwComplete (core : Nat) (s : State) : Option State :=
  match waitOf s core .seq with
  | some (.cbw d bar phase err) =>
    let cs := getCore s core
    if cbwReady s cs bar phase err then some (completeWait (setCore s core (cbwEnd s cs d bar err)) core .seq) else none
  | _ => none

/-- Every waiting CBW that may complete in this cycle does. -/
def cbwsComplete (s : State) : State := s.cores.foldl (fun t p => (cbwComplete p.1 t).getD t) s

/-- CBW_COMPLETE: A waiting CBW sees the phase complete or the error, acquires and retires (R294). -/
def execCbwComplete (core : Nat) (s : State) : Out := evOut s (cbwComplete core s)

/-- Cores that a gang occupies, of teams that have not exited there. -/
def gangCores (s : State) (l g : Nat) : List Nat :=
  (s.cores.filter fun p => match p.2.occ with
    | some o => o.launch == l && o.gang == g && p.2.exitStatus.isNone
    | none => false).map (·.1)

/-- The core of a team's half, when the team stands on one or has been placed there. -/
def halfCore (t : Team) (h : Nat) : Option Nat := match t.st with
  | .placed c | .resident c => some (if h = 0 then c else pairOf c)
  | _ => none

/-- The half has ended: EXIT has completed on its core (R103, R296). -/
def halfOver (s : State) (l g i : Nat) (t : Team) (h : Nat) : Bool :=
  (t.halfExit.any fun x => x.1 == h) ||
    (halfCore t h).any fun c => (getCore s c).exitStatus.isSome && (getCore s c).occ == some ⟨l, g, i, h⟩

/-- Participants of a gang's barrier (R296): the cores of its teams that have not exited, started or not, as team and half. -/
def barParts (s : State) (l g : Nat) (x : Gang) : List (Nat × Nat) :=
  let halves : List Nat := if ((mget s.disp.launches l).map (·.pkt.paired)).getD false then [0, 1] else [0]
  (x.teams.mapIdx fun i t => (i, t)).flatMap fun p => match p.2.st with
    | .exited _ | .dead => []
    | _ => (halves.filter fun h => !halfOver s l g p.1 p.2 h).map fun h => (p.1, h)

/-- GBAR can retire on the core of a released participant. -/
def gbarCore (s : State) (x : Gang) (p : Nat × Nat) : Option Nat :=
  ((x.teams[p.1]?).bind fun t => halfCore t p.2).filter fun c => match waitOf s c .seq with
    | some (.gbar _) => loadsDone (getCore s c) .seq
    | _ => false

/-- GBAR completes on one core. -/
def gbarDone (s : State) (c : Nat) : State :=
  match (getCore s c).seq.waiting with
  | some ⟨.gbar d, _, _, _⟩ => completeWait (setCore s c (acquire (setReg (getCore s c) .seq d {}))) c .seq
  | _ => s

/-- The phase of a gang barrier completes when every participant has arrived; GBAR retires on each of their cores as soon as its acquire
can be made there, after a swap or a trap stop too. -/
def gbarPhase (launch gang : Nat) (s : State) : Option State :=
  match getGang s launch gang with
  | none => none
  | some g =>
    let full := !g.gbar.isEmpty && (barParts s launch gang g).all g.gbar.contains
    let rel := if full then g.gbarRel ++ g.gbar else g.gbarRel
    let ready := rel.filter fun p => (gbarCore s g p).isSome
    if !full && ready.isEmpty then none
    else
      some ((ready.filterMap (gbarCore s g)).foldl gbarDone
        (setGang s launch gang { g with gbar := if full then [] else g.gbar, gbarRel := rel.filter fun p => !ready.contains p }))

/-- GBAR_PHASE_COMPLETE: The last participant arrives or exits and every waiting GBAR acquires and retires (R296). -/
def execGbarPhaseComplete (launch gang : Nat) (s : State) : Out := evOut s (gbarPhase launch gang s)

def waitchDone (core : Nat) (s : State) : Option State :=
  match waitOf s core .seq with
  | some (.waitch d child) =>
    let cs := getCore s core
    if (awaited cs child).all (·.retired) && loadsDone cs .seq then
      let cs1 := setReg cs .seq d { val := BitVec.ofNat 64 (waitchValue cs child) }
      let cs2 := { cs1 with children := cs.children.filter fun x => !(child == 0 || x.id == child) }
      some (completeWait (setCore s core (acquire cs2)) core .seq)
    else none
  | _ => none

/-- WAITCH_COMPLETE: The awaited children have retired and WAITCH returns and acquires (R118). -/
def execWaitchComplete (core : Nat) (s : State) : Out := evOut s (waitchDone core s)

/-- What each fence still waits for (R345). -/
def fenceReady (s : State) (c : Nat) : WaitKind → Bool
  | .fenceAcq => loadsDone (getCore s c) .mem
  | .fenceRel => performed s (getCore s c) .mem && rspDone s c && released (getCore s c)
  | .fenceSc =>
    performed s (getCore s c) .mem && rspDone s c && released (getCore s c) && !slotBusy s (getCore s c) .seq &&
      (getCore s c).accesses.all fun a => a.ops.isEmpty && a.pieces.all fun p => p.route == .cached || p.st == .done
  | _ => false

/-- A fence retires; FENCE.ACQ and FENCE.SC acquire. -/
def fenceDone (core : Nat) (s : State) : Option State :=
  match waitOf s core .mem with
  | some k =>
    if fenceReady s core k then
      let cs := getCore s core
      some (completeWait (setCore s core (if k = .fenceRel then cs else acquire cs)) core .mem)
    else none
  | none => none

/-- FENCE_COMPLETE: A fence's awaited accesses and acknowledgements end and it retires (R345). -/
def execFenceComplete (core : Nat) (s : State) : Out := evOut s (fenceDone core s)

end Sys2Proof.Machine
end

