-- ==== Sys2Proof/Machine/CqState.lean ====
section
/-! DEFINITION. Copy-queue entries: addresses, pieces, the resume cursor, completion and faults (R354 to R362). -/

namespace Sys2Proof.Machine

/-! ### Queues -/

def getCq (cs : CoreSt) (q : Nat) : List CqEntry := if q = 0 then cs.cq0 else cs.cq1
def setCq (cs : CoreSt) (q : Nat) (l : List CqEntry) : CoreSt := if q = 0 then { cs with cq0 := l } else { cs with cq1 := l }

/-- Changes the entry with this sequence number. -/
def updEntry (cs : CoreSt) (q seqNo : Nat) (f : CqEntry → CqEntry) : CoreSt :=
  setCq cs q ((getCq cs q).map fun x => if x.seqNo = seqNo then f x else x)

/-- The user of the ROU that a copy queue is (R304). -/
def userOfQueue (q : Nat) : StreamUser := if q = 0 then .cq0 else .cq1

/-! ### Geometry (R355, R357, R360) -/

def noDesc : CopyDesc :=
  { src := 0, dst := 0, width := 1, height := 0, sstride := 0, dstride := 0, ssp := false, dsp := false, n := 0, dhint := 0 }

def CqEntry.dsc (x : CqEntry) : CopyDesc := x.desc.getD noDesc

/-- Bytes of a command. -/
def CopyDesc.total (d : CopyDesc) : Nat := d.width * d.height

/-- Source address of the byte of index i. -/
def srcAt (d : CopyDesc) (i : Nat) : Nat := wrap64 ((d.src : Int) + ((i / d.width : Nat) : Int) * d.sstride + ((i % d.width : Nat) : Int))

/-- Destination bases of an entry. -/
def CqEntry.bases (x : CqEntry) : List Nat := if x.kind = .mcast then x.list else [x.dsc.dst]

/-- Address of the byte of index i at a destination base. -/
def dstAt (d : CopyDesc) (base i : Nat) : Nat :=
  wrap64 ((base : Int) + ((i / d.width : Nat) : Int) * d.dstride + ((i % d.width : Nat) : Int))

/-- A piece starts at a row's start or at a line's start of a destination. -/
def isStart (x : CqEntry) (i : Nat) : Bool :=
  i % x.dsc.width == 0 || x.bases.any fun b => dstAt x.dsc b i % 128 == 0

/-- Bytes of the piece that starts at i: to the end of the row, and of the line at every destination (DEDUCED, log entry 32). -/
def pieceLen (x : CqEntry) (i : Nat) : Nat :=
  x.bases.foldl (fun n b => min n (128 - dstAt x.dsc b i % 128)) (x.dsc.width - i % x.dsc.width)

/-- The cursor moved over pieces that are performed. -/
def advanceCursor (x : CqEntry) : Nat → CqEntry
  | 0 => x
  | k + 1 =>
    if x.done.contains x.cursor then
      advanceCursor { x with cursor := x.cursor + pieceLen x x.cursor, done := x.done.filter (· != x.cursor) } k
    else x

/-- The first piece at or after `i` that has neither left nor been performed. -/
def nextPiece (x : CqEntry) (i : Nat) : Nat → Nat
  | 0 => i
  | k + 1 => if x.sent.contains i || x.done.contains i then nextPiece x (i + pieceLen x i) k else i

/-! ### Completion (R286, R288, R355, R359) -/

/-- The copy command that a team-level event is about: the first one stays (R288, R361). -/
def noteCq (cs : CoreSt) (q seqNo : Nat) (idx : Option Nat) : CoreSt := { cs with cqArg := some (cs.cqArg.getD (q, seqNo, idx)) }

/-- SEM_OVERFLOW of a copy queue: a team-level event; the other waits of its cycle are granted all the same (R288). -/
def cqOverflow (s : State) (c q seqNo : Nat) : State :=
  let go (s : State) (d : Nat) : State := setCore s d { getCore s d with grace := some (coreCycle s) }
  if (getCore s c).event then teamEvent (setCore s c (noteCq (getCore s c) q seqNo (some 0))) c .seq .semOverflow
  else
    let s := teamEvent (setCore s c (noteCq (getCore s c) q seqNo (some 0))) c .seq .semOverflow
    if isPaired s (getCore s c) then go (go s c) (pairOf c) else go s c

/-- A completion post of the command seqNo of queue q, after the posts that earlier cycles have left: the increment sets CQREL; an overflow is a
team-level event that names the queue and the command, which was its head, or a fault of the engine whose post of the cycle comes last (R286, R288).
A post of the queue that overflows itself leaves CQREL as it is (DESIGN CHOICE, log entry 72). -/
def postCq (s : State) (c q seqNo n : Nat) : State :=
  let s := postsTo (coreCycle s - 1) s c
  let r := postAt (coreCycle s) (getCore s c) q n
  let s := setCore s c r.1
  match r.2 with
  | none => setCore s c (setSem r.1 n { getSem r.1 n with cqrel := true })
  | some v =>
    if v = q then cqOverflow s c q seqNo
    else
      let s := setCore s c (setSem r.1 n { getSem r.1 n with cqrel := true })
      if v ≤ 1 then cqOverflow s c v seqNo else semOverflow s c (rankEng v)

/-- Pieces of a queue that left before a cut and have no answer; the command does not complete before them (R346, R347, R360). -/
def cutPieces (s : State) (c q : Nat) : Bool :=
  (teamOps s (getCore s c)).any fun o => o.saved && o.copy.any fun x => x.1 == q

/-- The entry at the head may leave in this cycle: a command at its end has every write performed, and a post comes before the waits of its
cycle (R286, R346). -/
def headMay (s : State) (c q : Nat) (x : CqEntry) : Bool :=
  (x.kind == .fence || (x.cursor == x.dsc.total && !cutPieces s c q)) && x.post.all fun n => !waitedNow (coreCycle s) (getCore s c) n

/-- The head of a queue that has completed leaves and makes its post. -/
def completeHead (s : State) (c q : Nat) : State :=
  match getCq (getCore s c) q with
  | [] => s
  | x :: t =>
    if !headMay s c q x then s
    else
      let s := setCore s c (setCq (getCore s c) q t)
      match x.post with
      | none => s
      | some n => postCq s c q x.seqNo n

/-- A piece has been performed at every destination: the cursor advances, and a command that has reached its end completes. -/
def pieceDone (s : State) (c q seqNo i : Nat) : State :=
  let cs := updEntry (getCore s c) q seqNo fun x =>
    if i < x.cursor ∨ x.done.contains i then x
    else
      let x := { x with done := i :: x.done, sent := x.sent.filter (· != i), acks := x.acks.filter fun a => a.1 != i }
      advanceCursor x x.done.length
  let s := setCore s c cs
  match getCq cs q with
  | x :: _ => if x.seqNo = seqNo && x.kind != .fence then completeHead s c q else s
  | [] => s

/-- A destination has performed a piece of a command (R360, R362). -/
def copyAck (s : State) (c q seqNo i k : Nat) : State :=
  match (getCq (getCore s c) q).find? fun x => x.seqNo == seqNo with
  | none => s
  | some x =>
    let acks := if x.acks.contains (i, k) then x.acks else (i, k) :: x.acks
    let s := setCore s c (updEntry (getCore s c) q seqNo fun x => { x with acks := acks })
    if (acks.filter fun a => a.1 == i).length = x.bases.length then pieceDone s c q seqNo i else s

/-- CQ_FAULT: the command stays at its cursor and the team stops (R361). Where several pieces of one command fail before the save, the report names the
last failure (DESIGN CHOICE, log entry 72). -/
def cqFault (s : State) (c q seqNo cause k : Nat) : State :=
  let cs := updEntry (getCore s c) q seqNo fun x => { x with fail := some (cause, k) }
  teamEvent (setCore s c (noteCq cs q seqNo none)) c .seq .cqFault

/-- A command is cut at its cursor (R361): pieces above it are read and sent again. -/
def cutEntry (x : CqEntry) : CqEntry := { x with done := [], sent := [], acks := [], got := [], held := none, asks := [] }

/-- Whether every entry that a fence awaits has left its queue (R359). -/
def fenceMet (cs : CoreSt) (x : CqEntry) : Bool :=
  x.waits.all fun w => (getCq cs w.1).all fun y => y.seqNo > w.2

end Sys2Proof.Machine
end

