-- ==== Sys2Proof/Machine/HomeOps.lean ====
section
/-! DEFINITION. The operations that a home applies to an element of memory, by opcode and TYPE (R308, R321, R323, R324, R326). -/

namespace Sys2Proof.Machine

/-- What an opcode of the access engine asks of the home. -/
inductive HomeOp where
  | store
  /-- add, sub, min, max, minu, maxu, and, or, xor, swp: 0 to 9. -/
  | int (op : Nat)
  | cas
  | cas128
  /-- fadd, fmin, fmax: 0 to 2. -/
  | flt (op : Nat)
  deriving DecidableEq, Repr

/-- The operation of an opcode: AMO from 0x60, RED from 0x70, VAMO from 0x80, store pieces 0xF0 (R308, R321) (DEDUCED, log entry 27). -/
def homeOp (code : Nat) : Option HomeOp :=
  if code = 0xF0 then some .store
  else if code = 0x6A then some .cas
  else if code = 0x6E then some .cas128
  else if code % 16 ≤ 9 ∧ (code / 16 = 6 ∨ code / 16 = 8) then some (.int (code % 16))
  else if code / 16 = 7 ∧ code % 16 ≤ 8 then some (.int (code % 16))
  else if code = 0x6B ∨ code = 0x8A ∨ code = 0x79 then some (.flt 0)
  else if code = 0x6C ∨ code = 0x8B ∨ code = 0x7A then some (.flt 1)
  else if code = 0x6D ∨ code = 0x8C ∨ code = 0x7B then some (.flt 2)
  else none

/-- Bytes of an element by TYPE. -/
def typeBytes (type : Nat) : Nat := 2 ^ (type % 8)

/-- The new element of an integer operation on n bits (R323). -/
def atomInt (op n o v : Nat) : Nat :=
  match op with
  | 0 => (o + v) % 2 ^ n
  | 1 => wrapTo n ((o : Int) - v)
  | 2 => if asInt n o ≤ asInt n v then o else v
  | 3 => if asInt n o ≤ asInt n v then v else o
  | 4 => min o v
  | 5 => max o v
  | 6 => o &&& v
  | 7 => o ||| v
  | 8 => o ^^^ v
  | _ => v

/-- One floating-point element: fadd rounds to nearest even, keeps subnormals, and raises no flag (R324). -/
def atomElem (op : Nat) (t : ElemType) (o v : Nat) : Nat :=
  let f := fmtOf t
  let a := decodeF f o
  let b := decodeF f v
  (roundF f .rne false (match op with
    | 0 => addV .rne a b
    | 1 => minMaxV false a b
    | _ => minMaxV true a b)).1

/-- The new element of a floating-point operation by TYPE: SUBF 1 and 2 are pairs of halves. -/
def atomFlt (op type o v : Nat) : Nat :=
  let half (t : ElemType) : Nat := atomElem op t (o % 65536) (v % 65536) + 65536 * atomElem op t (o / 65536 % 65536) (v / 65536 % 65536)
  match type / 8 with
  | 1 => half .f16
  | 2 => half .bf16
  | _ => if type % 8 = 2 then atomElem op .f32 o v else atomElem op .f64 o v

/-- One step of an operation on an element: f of R326 (DEDUCED, log entry 42). -/
def elemNew (h : HomeOp) (type o v : Nat) : Nat :=
  match h with
  | .int k => atomInt k (8 * typeBytes type) o v
  | .flt k => atomFlt k type o v
  | _ => v

/-- The new element from the old one and the operands of the request: a floating-point VAMO carries several. -/
def homeNew (code type o : Nat) (opnd : List Nat) : Nat :=
  match homeOp code with
  | some .cas | some .cas128 => if o = opnd.getD 0 0 then opnd.getD 1 0 else o
  | some (.int k) => elemNew (.int k) type o (opnd.getD 0 0)
  | some (.flt k) => opnd.foldl (fun x v => elemNew (.flt k) type x v) o
  | _ => o

/-- The operand that one AMO of a VAMO group carries (R326): add and sub send the wrapped sum, swp the last, others their fold. -/
def combine (k n : Nat) : List Nat → Nat
  | [] => 0
  | v :: t =>
    match k with
    | 0 | 1 => t.foldl (fun x y => atomInt 0 n x y) v
    | 9 => t.getLast?.getD v
    | _ => t.foldl (fun x y => atomInt k n x y) v

/-- The lane values of a group from the old value (R326). -/
def laneVals (h : HomeOp) (type : Nat) : Nat → List Nat → List Nat
  | _, [] => []
  | o, v :: t => o :: laneVals h type (elemNew h type o v) t

end Sys2Proof.Machine
end

