-- ==== Sys2Proof/Machine/Registry.lean ====
section
/-! DEFINITION. The ownership registry of the LLC lines, the L1 side of its messages, and the host directory (R337 to R342, R349 to R351, R442). -/

namespace Sys2Proof.Machine

/-! ### Lines of an L1 (R264, R267) -/

def findL1 (cs : CoreSt) (k : LineKey) : Option L1Line := cs.l1.find? fun l => l.key == k

/-- Value on fill of a reuse class (R267) (DESIGN CHOICE, log entry 38). -/
def fillRrpv (hint : Nat) : Nat := match hint with
  | 0 => 0 | 1 => 2 | _ => 3

/-- A line leaves the L1; the words it owns are written back (R338). -/
def evictLine (cs : CoreSt) (l : L1Line) : CoreSt :=
  let cs := { cs with l1 := cs.l1.filter fun m => m.key != l.key }
  if l.owned = 0 then cs
  else { cs with wbOut := cs.wbOut ++ [{ key := l.key, words := l.owned, data := l.data, poison := l.poison &&& bytesOf l.owned }] }

/-- Makes room in a full L1: values are raised until one is 3, and the first such line is the victim (DESIGN CHOICE, log entry 38). -/
def makeRoom (cs : CoreSt) : CoreSt :=
  if cs.l1.length < 2048 then cs
  else
    let up := 3 - (cs.l1.filter fun l => !lineAsked cs l.key).foldl (fun m l => max m l.rrpv) 0
    let cs := { cs with l1 := cs.l1.map fun l => { l with rrpv := min 3 (l.rrpv + up) } }
    match cs.l1.find? fun l => l.rrpv == 3 && !lineAsked cs l.key with
    | some v => evictLine cs v
    | none => cs

/-- Replaces a line of the L1 or brings it in. -/
def putL1 (cs : CoreSt) (l : L1Line) : CoreSt :=
  if cs.l1.any fun m => m.key == l.key then { cs with l1 := cs.l1.map fun m => if m.key == l.key then l else m }
  else
    let cs := makeRoom cs
    { cs with l1 := cs.l1 ++ [l] }

/-! ### Messages (R340, R442) -/

def CoreMsg.key : CoreMsg → LineKey
  | .revoke k _ | .forward k _ | .registered k _ _ _ _ _ _ | .wbAck k _ => k

/-- Registration answers, revocations and forward requests of one slice arrive in the order they were sent. -/
def CoreMsg.ordered : CoreMsg → Bool
  | .wbAck _ _ => false
  | _ => true

def sendMsg (s : State) (c : Nat) (m : CoreMsg) : State :=
  setCore s c { getCore s c with inbox := (getCore s c).inbox ++ [m] }

/-- The message that the slice of a line sent first, when it is about this line. -/
def nextMsg (cs : CoreSt) (k : LineKey) : Option CoreMsg :=
  match cs.inbox.find? fun m => m.ordered && sliceOf m.key.va == sliceOf k.va with
  | some m => if m.key = k then some m else none
  | none => none

def dropMsg (cs : CoreSt) (m : CoreMsg) : CoreSt := { cs with inbox := cs.inbox.erase m }

/-- A write-back of the line has left the core and not reached the slice; later messages of the core follow it. -/
def wbPending (cs : CoreSt) (k : LineKey) : Bool := cs.wbOut.any fun w => w.key == k && !w.taken

/-! ### Owner slots (R337) -/

/-- Words of a line that a core owns. -/
def ownWords (l : LlcLine) (c : Nat) : BitVec 32 := ((l.slots.find? fun o => o.core == c).map (·.words)).getD 0

/-- Words freed in a core's slot; an empty slot is freed. -/
def freeWords (slots : List OwnSlot) (c : Nat) (ws : BitVec 32) : List OwnSlot :=
  (slots.map fun o => if o.core = c then { o with words := o.words &&& ~~~ws } else o).filter fun o => o.words != 0

/-- Words registered to a core in cycle t. -/
def addWords (slots : List OwnSlot) (c : Nat) (ws : BitVec 32) (t : Nat) : List OwnSlot :=
  if slots.any fun o => o.core == c then slots.map fun o => if o.core = c then { o with words := o.words ||| ws, time := t } else o
  else slots ++ [{ core := c, words := ws, time := t }]

/-- The slot with the oldest registration time. -/
def oldestSlot : List OwnSlot → Option OwnSlot
  | [] => none
  | o :: t => match oldestSlot t with
    | some p => if p.time < o.time then some p else some o
    | none => some o

/-! ### Requests (R338, R339) -/

def pieceAt (s : State) (c acc part : Nat) : Option (Access × Piece) :=
  match (getCore s c).accesses.find? fun a => a.id == acc with
  | none => none
  | some a => (a.pieces[part]?).map fun p => (a, p)

def setPiece (cs : CoreSt) (acc part : Nat) (f : Piece → Piece) : CoreSt :=
  { cs with accesses := cs.accesses.map fun a => if a.id = acc then { a with pieces := a.pieces.mapIdx fun i p => if i = part then f p else p } else a }

/-- A store or prefetch whose every piece is done is no longer outstanding. -/
def dropDone (cs : CoreSt) : CoreSt :=
  { cs with accesses := cs.accesses.filter fun a => !((a.store || a.pref) && a.cleared && a.ops.isEmpty && a.pieces.all fun p => p.st == .done) }

def pieceWords (p : Piece) : BitVec 32 := wordMask (p.va % 128) p.n

/-- Words that a request touches. -/
def reqWords (s : State) : LineReq → BitVec 32
  | .store c acc part _ | .read c acc part _ => ((pieceAt s c acc part).map fun x => pieceWords x.2).getD 0
  | .ioWrite _ _ _ m _ _ | .ioRead _ m => wordsOf m
  | .hostShared | .hostExclusive => BitVec.allOnes 32
  | .home _ _ ws => ws

/-- Order of requests that arrive in one hub cycle: cores, copy queues, DMA, host, home atomic unit; of one core the sequencer's first, and
else as they leave. The rule ranks one DMA agent and no writes of firmware, the hub or packet cores: two DMA agents stand by Galena number, and
those writes stand last (DESIGN CHOICE, log entry 71). -/
def agentRank : IoAgent → Nat
  | .copy c q => 2 ^ 60 + 2 * c + q
  | .dma g => 2 ^ 61 + g
  | .host => 2 ^ 61 + 2 ^ 60
  | .packet g => 2 ^ 62 + 1 + g
  | .hub => 2 ^ 62 + 3
def reqRank (s : State) : LineReq → Nat
  | .store c acc _ _ | .read c acc _ _ =>
    2 * c + (if ((getCore s c).accesses.find? fun a => a.id == acc).any fun a => a.eng == .seq then 0 else 1)
  | .ioWrite ag _ _ _ _ _ | .ioRead ag _ => agentRank ag
  | .hostShared | .hostExclusive => 2 ^ 61 + 2 ^ 60
  | .home _ _ _ => 2 ^ 62

def isWriteReq : LineReq → Bool
  | .store _ _ _ _ | .ioWrite _ _ _ _ _ _ | .home _ _ _ => true
  | _ => false
def isReadReq : LineReq → Bool
  | .read _ _ _ _ | .ioRead _ _ => true
  | _ => false

/-! ### Performing a request (R311, R335, R338) -/

/-- The line as a reader sees it: words that owners or the host have supplied stand over the LLC's. -/
def seenData (l : LlcLine) : LineData := mergeData l.data l.fwdData (bytesOf l.fwdWords)
def seenBad (l : LlcLine) : BitVec 128 := mergeBad l.poison l.fwdBad (bytesOf l.fwdWords)

/-- A core's words of a line: its own latest stores stand over what the home gives. -/
def overOwn (cs : CoreSt) (k : LineKey) (d : LineData) (p : BitVec 128) : LineData × BitVec 128 :=
  match findL1 cs k with
  | none => (d, p)
  | some x => (mergeData d x.data (bytesOf x.owned), mergeBad p x.poison (bytesOf x.owned))

/-- The words that share an aligned 8-byte element with a word of the mask (R248). -/
def mates (w : BitVec 32) : BitVec 32 := (w >>> 1 &&& 0x55555555) ||| (w <<< 1 &&& 0xAAAAAAAA)

/-- The valid words of a line that has just got the words ws from its home: of the others, one that shares an 8-byte element with a new word
leaves unless the core owns it, so that a load of the element does not join an older value with a newer one (R248, R333) (DEDUCED, log entry 26). -/
def validWith (x : L1Line) (ws : BitVec 32) : BitVec 32 := (x.valid &&& ~~~(mates ws)) ||| x.owned ||| ws

/-- An earlier part of the access has asked the same line: they are one miss of it (R249, R267). -/
def sameMiss (a : Access) (part : Nat) (p : Piece) : Bool := (a.pieces.take part).any fun q => q.ent && lineBase q.va == lineBase p.va
def sameReq (s : State) : LineReq → Bool
  | .store c acc part _ | .read c acc part _ => (pieceAt s c acc part).any fun x => sameMiss x.1 part x.2
  | _ => false

/-- A fill of the L1 from the home; `again` where an earlier part of the same access has filled the line: every word that no other core owns becomes valid, but for those to skip (R338, R342). A valid word that the
read does not ask for stays as it is beside a copy that the fill cannot renew (R248, R333) (DEDUCED, log entry 26). -/
def fillL1 (cs : CoreSt) (l : LlcLine) (c hint : Nat) (asked skip : BitVec 32) (again : Bool) : CoreSt :=
  let others := (l.slots.filter fun o => o.core != c).foldl (fun w o => w ||| o.words) 0 &&& ~~~l.fwdWords
  match findL1 cs l.key with
  | some x =>
    let stay := x.valid &&& mates (x.valid &&& others &&& ~~~x.owned) &&& ~~~asked
    let ws := ~~~(others ||| x.owned ||| stay ||| skip)
    putL1 cs { x with valid := validWith x ws, data := mergeData x.data (seenData l) (bytesOf ws),
                      poison := mergeBad x.poison (seenBad l) (bytesOf ws), rrpv := if again then x.rrpv else 0 }
  | none =>
    if ~~~(others ||| skip) = 0 then cs
    else putL1 cs { key := l.key, pa := l.pa, r := l.r, w := l.w, x := l.x, mig := l.mig, valid := ~~~(others ||| skip), owned := 0, data := seenData l,
                    poison := seenBad l, rrpv := fillRrpv hint }

/-- A read is answered: its piece has its bytes, and the L1 is filled; where the access must not install, the words that the core does not own
leave the L1, so that no later read goes back to an older value (R333, R342). A later ACQR keeps out the words of its range only (R284). -/
def answerRead (s : State) (l : LlcLine) (c acc part hint : Nat) : State :=
  match pieceAt s c acc part with
  | none => s
  | some (a, p) =>
    let cs := getCore s c
    let d := overOwn cs l.key (seenData l) (seenBad l)
    let cs := setPiece cs acc part fun p => { p with st := .done, data := lineBytes d.1 (p.va % 128) p.n, bad := lineBad d.2 (p.va % 128) p.n }
    let skip := a.acqrs.foldl (fun w r => w ||| rangeWords l.key.va r.1 r.2) 0
    let cs := if hint = 3 || a.noInstall then dropWords cs l.key (BitVec.allOnes 32) else fillL1 (dropWords cs l.key skip) l c hint (pieceWords p) skip (sameMiss a part p)
    setCore s c (dropDone cs)

/-! #### The home atomic unit (R311 steps 3 and 4) -/

def findEnt (s : State) (h sr : Nat) : Option OwnEnt := s.rou.entries.find? fun e => e.handle == h && e.serial == sr
def putEnt (s : State) (e : OwnEnt) : State :=
  { s with rou := { s.rou with entries := s.rou.entries.map fun f => if f.handle == e.handle && f.serial == e.serial then e else f } }

/-- The line data of a store piece's operands: eight 16-byte parts, and the poisoned bytes of a copied piece after them. -/
def opndLine (o : List (BitVec 128)) : LineData := BitVec.ofNat 1024 (packLanes 128 ((o.take 8).map (·.toNat)))
def opndBad (o : List (BitVec 128)) : BitVec 128 := o.getD 8 0

/-- The commit of an operation on a line, and its old value. -/
def commitOf (l : LlcLine) (p : ReqPacket) : Commit × Nat :=
  match homeOp p.op with
  | some .store => ({ key := some l.key, pa := l.pa, mask := p.mask, data := opndLine p.opnd, poison := opndBad p.opnd }, 0)
  | _ =>
    let n := typeBytes p.type
    let i := p.va % 128
    let o := (l.data.toNat >>> (8 * i)) % 2 ^ (8 * n)
    let v := homeNew p.op p.type o (p.opnd.map (·.toNat))
    ({ key := some l.key, pa := l.pa, mask := byteMask i n, data := bytesAt i (leBytes n v) }, if p.op / 16 = 7 then 0 else o)

/-! #### The journal (R314); the places inside a record and in the header are the model's (DESIGN CHOICE, log entry 69) -/

/-- Firmware has reserved the journal's 256 MiB (R314, R419). -/
def journalOn (s : State) : Bool := s.fw.kept.contains (s.rou.journalBase, s.rou.journalBase + 2 ^ 28 - 1)

/-- Bytes written to the journal in whole granules of 64; a column that has left service takes none (R13, R17) (DESIGN CHOICE, log entry 69). -/
def journalPut (s : State) (off : Nat) (bs : List Byte) : State :=
  if !journalOn s then s
  else
    let pa := s.rou.journalBase + off
    if !((paCore pa).any (coreInService s)) then ioBad s .hub pa
    else (List.range (bs.length / 64)).foldl (fun s i => setMark s (pa + 64 * i) false) (writeDram s pa bs)

/-- The header: magic, the handle allocator and the current block. -/
def journalHeader (s : State) : State :=
  journalPut s 0 (leBytes 8 0x4A524F ++ leBytes 8 s.rou.nextHandle ++ leBytes 48 (match s.rou.block with | none => 0 | some b => b + 2 ^ 63))

def entryOff (i : Nat) : Nat := 0x10000 + 64 * i
def dataOff (i : Nat) : Nat := 0x1010000 + 128 * i
def streamOff (i : Nat) : Nat := 0x3010000 + 64 * i

def statusCode : RStatus → Nat
  | .done => 0 | .busy => 1 | .fault => 2 | .streamLost => 3

/-- The record of an entry and its new bytes (R311 step 4); APPLIED is written again at step 5 (DESIGN CHOICE, log entry 69). -/
def journalEntry (s : State) (e : OwnEnt) : State :=
  let rec' := leBytes 6 e.handle ++ leBytes 1 1 ++ leBytes 1 (statusCode e.status) ++ leBytes 4 e.serial ++ leBytes 2 e.fcode ++
    leBytes 2 (if e.applied then 1 else 0) ++ leBytes 8 e.commit.pa ++ leBytes 16 e.commit.mask.toNat ++ leBytes 24 (e.value.getD 0 0).toNat
  journalPut (journalPut s (entryOff e.idx) rec') (dataOff e.idx) (leBytes 128 e.commit.data.toNat)

/-- The record of a stream; 0 in its state byte marks a free one (DESIGN CHOICE, log entry 69). -/
def journalStream (s : State) (x : OwnStream) (live : Bool) : State :=
  journalPut s (streamOff x.idx) (leBytes 6 x.handle ++ leBytes 2 (if !live then 0 else if x.lost then 2 else 1) ++ leBytes 2 x.pkg ++ leBytes 2 x.slot ++
    leBytes 4 x.floor ++ leBytes 48 x.nonce)

/-- An entry whose operation is staged: its record is durable. -/
def putStaged (s : State) (e : OwnEnt) : State := journalEntry (putEnt s { e with journaled := true }) e

/-- What an opcode needs of the page (R322). -/
def homeKind (code : Nat) : AccKind := if code = 0xF0 ∨ code / 16 = 7 then .store else .readWrite

/-- An operation whose bytes lie in host memory: its old value is what the host holds. -/
def hostCommit (s : State) (pa : Nat) (p : ReqPacket) : Commit × Nat :=
  match homeOp p.op with
  | some .store => ({ pa := pa / 128 * 128, mask := p.mask, data := opndLine p.opnd }, 0)
  | _ =>
    let n := typeBytes p.type
    let o := leNat ((List.range n).map fun i => Config.hostByte (pa + i) s.fresh)
    let v := homeNew p.op p.type o (p.opnd.map (·.toNat))
    ({ pa := pa / 128 * 128, mask := byteMask (pa % 128) n, data := bytesAt (pa % 128) (leBytes n v) }, if p.op / 16 = 7 then 0 else o)

/-- A translation that failed gives status FAULT, and one that leads to host memory is staged there. -/
def stageFault (s : State) (e : OwnEnt) (t : Trap) : State := putStaged s { e with status := .fault, fcode := trapCode t }
def stageHost (s : State) (e : OwnEnt) (pa : Nat) : State :=
  let r := hostCommit s pa e.packet
  putStaged { s with fresh := s.fresh + 1 } { e with commit := r.1, value := [BitVec.ofNat 128 r.2], status := .done }

/-- An operation whose bytes lie in host memory goes there (R411). -/
def atHost (s : State) (e : OwnEnt) (pa : Nat) : State := putEnt s { e with hostPa := some pa }

/-- The line with the translation of an access that has gone to its agent (R264). -/
def refresh (l : LlcLine) (x : Xlate) : LlcLine := { l with pa := x.pa / 128 * 128, r := x.r, w := x.grantsW, x := x.x, mig := x.mig }

/-- Steps 2 to 4 at a line whose owners have been revoked: the address is translated, the operation is staged, and its journal record is
written; the line is held until the commit. A moving page holds the operation and not the line (R281). -/
def stageHome (s : State) (l : LlcLine) (h sr : Nat) : State :=
  match findEnt s h sr with
  | none => putLine s l
  | some e =>
    match resolve s e.packet.asid e.packet.va (homeKind e.packet.op) with
    | .error .pageMoving => putLine s l
    | .error t => stageFault (putLine s l) e t
    | .ok (a, x, .dram _ _) =>
      let l := refresh l x
      let r := commitOf l e.packet
      putLine (putStaged (tlbAdd s a e.packet.va x) { e with commit := r.1, value := [BitVec.ofNat 128 r.2], status := .done })
        { l with held := some (h, sr), since := s.time }
    | .ok (a, x, _) => atHost (tlbAdd (putLine s l) a e.packet.va x) e x.pa

/-- A copy queue's read of a line that the host supplied is kept for its pieces (R360) (DEDUCED, log entry 26). -/
def keepRead (s : State) (l : LlcLine) (m : BitVec 128) : IoAgent → State
  | .copy c q =>
    let cs := getCore s c
    match getCq cs q with
    | x :: t => setCore s c (setCq cs q ({ x with got := (l.pa, m, seenData l, seenBad l) :: x.got } :: t))
    | [] => s
  | _ => s

/-- The value of a line after a request: a hit sets it to 0, and the request that the line was filled for is none (R267). -/
def firstRrpv (l : LlcLine) : Nat := if l.servedAt.isNone then l.rrpv else 0

/-- A request is performed at its stable line. A store has then been performed for a watch of its bytes (R299) (DESIGN CHOICE, log entry 72). -/
def performReq (s : State) (l0 : LlcLine) (req : LineReq) : State :=
  let t := max s.time ((l0.servedAt.map (· + 1)).getD 0)
  let seen := l0
  let l := { l0 with st := .stable, servedAt := some t, fwdData := 0, fwdBad := 0, fwdWords := 0, snoop := none, rrpv := if sameReq s req then l0.rrpv else firstRrpv l0 }
  match req with
  | .store c acc part own =>
    match pieceAt s c acc part with
    | none => putLine s l
    | some (_, p) =>
      let m := byteMask (p.va % 128) p.n
      if own then
        sendMsg (wakeWatches (putLine s { l with slots := addWords l.slots c (pieceWords p) t }) l.key m) c
          (.registered l.key (pieceWords p) acc part l.data l.poison true)
      else sendMsg (writeLine s l (bytesAt (p.va % 128) p.data) 0 m) c (.registered l.key (pieceWords p) acc part 0 0 false)
  | .read c acc part hint => answerRead (putLine s l) seen c acc part hint
  | .ioWrite ag sq i m d bad =>
    let s := writeLine s l d bad m
    match ag with
    | .copy c q => copyAck s c q sq i 0
    | _ => s
  | .ioRead ag m =>
    keepRead (putLine s { l with snoop := if ag = .host ∧ seen.host = .ho then some (seenData seen) else none }) seen m ag
  | .hostShared => putLine s { l with host := .hs }
  | .hostExclusive => putLine s { l with host := .he }
  | .home h sr _ => stageHome s l h sr

/-! ### The states of an entry (R340, R350, R351) -/

def enter (s : State) (l : LlcLine) (st : LineSt) : State := putLine s { l with st := st, since := s.time }

/-- Asks these owners for the words of `ws` that they own. -/
def askOwners (s : State) (l : LlcLine) (os : List OwnSlot) (ws : BitVec 32) (f : LineKey → BitVec 32 → CoreMsg) : State :=
  os.foldl (fun s o => sendMsg s o.core (f l.key (o.words &&& ws))) s

/-- Owners of words of `ws`, but for one core. -/
def ownersOf (l : LlcLine) (ws : BitVec 32) (but : Option Nat) : List OwnSlot :=
  l.slots.filter fun o => o.words &&& ws != 0 && but != some o.core

/-- Owners that a request must revoke, and the words. -/
def mustRevoke (l : LlcLine) (ws : BitVec 32) : LineReq → List OwnSlot × BitVec 32
  | .store c _ _ true =>
    let os := ownersOf l ws (some c)
    if !os.isEmpty then (os, ws)
    else if l.slots.length < 4 || l.slots.any (fun o => o.core == c) then ([], 0)
    else match oldestSlot l.slots with
      | some o => ([o], o.words)
      | none => ([], 0)
  | .store _ _ _ false | .ioWrite _ _ _ _ _ _ | .home _ _ _ | .hostShared | .hostExclusive => (ownersOf l ws none, ws)
  | .read _ _ _ _ | .ioRead _ _ => ([], 0)

/-- Owners that must forward words to a read. -/
def mustForward (l : LlcLine) (ws : BitVec 32) : LineReq → List OwnSlot
  | .read c _ _ _ => ownersOf l (ws &&& ~~~l.fwdWords) (some c)
  | .ioRead _ _ => ownersOf l (ws &&& ~~~l.fwdWords) none
  | _ => []

def isHostReq : LineReq → Bool
  | .hostShared | .hostExclusive => true
  | _ => false

/-- A request at a stable line: it is performed, or the line enters a transient state. -/
def startReq (s : State) (l : LlcLine) (req : LineReq) : State :=
  let ws := reqWords s req
  if isWriteReq req && l.host == .hs then enter s l (.hsi req)
  else if isWriteReq req && l.host != .hi then enter s l (.hrc req)
  else if isReadReq req && l.host != .hi && l.host != .hs then enter s l (.hsn req)
  else
    let rv := mustRevoke l ws req
    let fw := mustForward l ws req
    if !rv.1.isEmpty then
      let st := if isHostReq req then LineSt.hrev (rv.1.map (·.core)) rv.2 req else LineSt.rvk (rv.1.map (·.core)) rv.2 req
      askOwners (enter s l st) l rv.1 rv.2 .revoke
    else if !fw.isEmpty then askOwners (enter s l (.fwd (fw.map (·.core)) req)) l fw (ws &&& ~~~l.fwdWords) .forward
    else performReq s l req

/-- Requests that wait in the line's queue are performed in order while the line is stable (R339). -/
def drainLine : Nat → State → LineKey → State
  | 0, s, _ => s
  | k + 1, s, key =>
    match getLine s key with
    | none => s
    | some l =>
      if l.st != .stable || l.held.isSome then s
      else match l.queue with
        | [] => s
        | r :: t => drainLine k (startReq (putLine s { l with queue := t }) { l with queue := t } r) key

/-- A part of some core's access is at a line or waits for it. -/
def pieceAtLine (s : State) (key : LineKey) : Bool :=
  s.cores.any fun c => c.2.accesses.any fun a => a.pieces.any fun p =>
    p.st != .done && p.route == .cached && (p.st == .sent || ((a.cleared || a.checked) && p.xpa.isSome)) && pieceKey a p == key

/-- A line that is not allocated leaves when the accesses with HINT 3 at it have been performed; bytes that they wrote go to its stack (R267). -/
def settleTemp (s : State) (key : LineKey) : State :=
  match getLine s key with
  | none => s
  | some l =>
    if l.temp && l.st == .stable && l.held.isNone && l.queue.isEmpty && l.slots.isEmpty && l.host == .hi && !pieceAtLine s key then
      dropLine (if l.dirty then storeLine s l.pa l.data l.poison else s) key
    else s

/-- A request that leaves a line without allocation as it is: HINT 3, or an agent that chooses its own class (R267). -/
def keepsTemp : LineReq → Bool
  | .read _ _ _ h => h == 3
  | .store _ _ _ own => !own
  | .ioWrite _ _ _ _ _ _ | .ioRead _ _ | .home _ _ _ => true
  | .hostShared | .hostExclusive => false

def drainAll (s : State) (key : LineKey) : State :=
  settleTemp (drainLine (((getLine s key).map (·.queue.length)).getD 0) s key) key

/-- The request that a transient state waited for goes on, and then those of the queue. -/
def resumeReq (s : State) (key : LineKey) (req : LineReq) : State :=
  match getLine s key with
  | none => s
  | some l => drainAll (startReq s { l with st := .stable } req) key

/-- The line after a request has arrived: requests of one hub cycle arrive in the order of R339. -/
def arriveAt (s : State) (l : LlcLine) (req : LineReq) : Option LlcLine :=
  let r := reqRank s req
  if (match l.arrivedAt with | some (t, q) => t == s.time && r < q | none => false) then none
  else some { l with arrivedAt := some (s.time, r), temp := l.temp && keepsTemp req }

/-- A request that has arrived waits in the line's queue, or begins. -/
def beginReq (s : State) (l : LlcLine) (req : LineReq) : State :=
  if l.st != .stable || l.held.isSome || !l.queue.isEmpty then putLine s { l with queue := l.queue ++ [req] }
  else settleTemp (startReq (putLine s l) l req) l.key

/-- A request reaches its line. -/
def submitReq (s : State) (key : LineKey) (req : LineReq) : Option State :=
  ((getLine s key).bind fun l => arriveAt s l req).map fun l => beginReq s l req

/-- Answers and write-backs are taken ahead of every request of their cycle. -/
def answersFirst (s : State) (l : LlcLine) : Bool := (l.arrivedAt.map (·.1)) != some s.time

/-! ### Requests of cores -/

/-- The words of a store are its core's own, in a line that may be written (R338). -/
def ownsPiece (cs : CoreSt) (key : LineKey) (p : Piece) : Bool :=
  (findL1 cs key).any fun l => l.w && l.owned &&& pieceWords p == pieceWords p

/-- A hit is performed in the L1 (DEDUCED, log entry 18). -/
def hitPiece (cs : CoreSt) (key : LineKey) (store : Bool) (p : Piece) : CoreSt × Piece :=
  match findL1 cs key with
  | none => (cs, p)
  | some l =>
    let i := p.va % 128
    if store then
      (putL1 cs { l with data := mergeData l.data (bytesAt i p.data) (byteMask i p.n), poison := mergeBad l.poison 0 (byteMask i p.n), rrpv := 0 },
       { p with st := .done })
    else (putL1 cs { l with rrpv := 0 }, { p with st := .done, data := lineBytes l.data i p.n, bad := lineBad l.poison i p.n })

/-- The home atomic unit holds a line between its steps 3 and 5: no access to it is performed (R311). -/
def lineHeld (s : State) (key : LineKey) : Bool := (getLine s key).any (·.held.isSome)

/-- Miss-status entries in use: one for each line that an access has requested, until the LLC has answered (R249). -/
def mseUsed (cs : CoreSt) : List (Nat × Nat) :=
  (cs.accesses.flatMap fun a => (a.pieces.filter fun p => p.ent && p.st != .done && p.route == .cached).map fun p => (a.id, lineBase p.va)).eraseDups

/-- Rejected requests that still wait, by their first rejection. -/
def mseQueue (cs : CoreSt) : List (Nat × Nat) :=
  cs.mseWait.filter fun w => cs.accesses.any fun a => a.id == w.1 && a.pieces.any fun p => p.st == .idle && !p.ent && lineBase p.va == w.2

/-- A request has an entry: that of its line and access, or a free one when no older rejected request is to have it (R249). -/
def mseGrant (cs : CoreSt) (w : Nat × Nat) : Bool :=
  let u := mseUsed cs
  u.contains w || u.length + ((mseQueue cs).takeWhile (· != w)).length < 64

/-- A request without an entry keeps its place; a prefetch is dropped (R249, R262). -/
def mseReject (cs : CoreSt) (a : Access) (w : Nat × Nat) : Option CoreSt :=
  if a.pref then some { cs with accesses := cs.accesses.filter fun b => b.id != a.id }
  else if (mseQueue cs).contains w then none
  else some { cs with mseWait := mseQueue cs ++ [w] }

/-- A part misses in the L1 and has no entry yet (R249). -/
def wantsEntry (cs : CoreSt) (a : Access) (p : Piece) : Bool :=
  p.route == .cached && p.st == .idle && !p.ent && !(a.store && ownsPiece cs (pieceKey a p) p)

/-- The request of an access for a line gets an entry, or its place among those that wait (R249). -/
def askEntry (cs : CoreSt) (w : Nat × Nat) : CoreSt :=
  if mseGrant cs w then
    let give (a : Access) (p : Piece) : Piece := if wantsEntry cs a p && lineBase p.va == w.2 then { p with ent := true } else p
    { cs with mseWait := (mseQueue cs).filter (· != w)
              accesses := cs.accesses.map fun a => if a.id = w.1 then { a with pieces := a.pieces.map (give a) } else a }
  else if (mseQueue cs).contains w then cs
  else { cs with mseWait := mseQueue cs ++ [w] }

/-- The requests of an access ask for their entries in lane order, or in row order (R249). -/
def askEntries (cs : CoreSt) (a : Access) : CoreSt :=
  ((a.pieces.filter (wantsEntry cs a)).map fun p => (a.id, lineBase p.va)).eraseDups.foldl askEntry cs

/-- Some operation of the access has left the core (R320). -/
def hasLeft (a : Access) : Bool := a.pieces.any fun p => isRemoteRoute p.route && p.st != .idle

/-- Nothing can take the access back any more: it has cleared, or an operation of it has left (R247, R320). -/
def isSure (a : Access) : Bool := a.cleared || (a.checked && hasLeft a)

/-- A part that waits at words which its core owns is performed in the L1, once the line is not held (R311, R338). -/
def lateHit (c id part : Nat) (key : LineKey) (p : Piece) (s : State) : Option State :=
  if lineHeld s key then none
  else
    let h := hitPiece (getCore s c) key true p
    some (setCore s c (dropDone (setPiece h.1 id part fun _ => h.2)))

/-- A piece of an access asks its line: cleared, not yet sent, with a miss-status entry and no write-back of the line on its way. -/
def pieceRequest (c id part : Nat) (st : Bool) (s : State) : Option State :=
  match pieceAt s c id part with
  | none => none
  | some (a, p) =>
    let cs := getCore s c
    let key := keyOf s a.asid p.va
    let w := (id, lineBase p.va)
    if a.store != st || !isSure a || p.st != .idle || p.route != .cached || wbPending cs key ||
        (a.pieces.take part).any (fun x => x.route == .cached && x.st == .idle) then none
    else if st && ownsPiece cs key p then lateHit c id part key p s
    else if !p.ent && !mseGrant cs w then (mseReject cs a w).map (setCore s c)
    else
      let s1 := setCore s c (setPiece (askEntry cs w) id part fun p => { p with st := .sent, ent := true })
      submitReq s1 key (if st then .store c id part (a.hint != 3) else .read c id part a.hint)

/-- CORE_STORE_REQUEST: A core's registration request reaches the line's registry entry and is served or queued (R338). -/
def execCoreStoreRequest (core id part : Nat) (s : State) : Out := evOut s (pieceRequest core id part true s)
/-- CORE_READ_REQUEST: A core's read miss reaches the registry and is answered or forwarded to the owner (R338). -/
def execCoreReadRequest (core id part : Nat) (s : State) : Out := evOut s (pieceRequest core id part false s)

/-! ### Revocations, forwards and write-backs (R340 to R342, R442) -/

/-- A revocation arrives: the words that the core owns are sent and freed (DEDUCED, log entry 26). -/
def revocation (core : Nat) (key : LineKey) (s : State) : Option State :=
  let cs := getCore s core
  match nextMsg cs key with
  | some (.revoke k ws) =>
    let cs1 := dropMsg cs (.revoke k ws)
    match findL1 cs1 key with
    | none => some (setCore s core { cs1 with rvkOut := cs1.rvkOut ++ [{ key := key, words := 0, data := 0 }] })
    | some x =>
      let own := x.owned &&& ws
      let cs2 := putL1 cs1 { x with owned := x.owned &&& ~~~own }
      some (setCore s core { cs2 with rvkOut := cs2.rvkOut ++ [{ key := key, words := own, data := x.data, poison := x.poison &&& bytesOf own }] })
  | _ => none

/-- REVOCATION: A revocation arrives at an owner core, which answers from its L1 state (R442). -/
def execRevocation (core : Nat) (key : LineKey) (s : State) : Out := evOut s (revocation core key s)

/-- Words of an owner's copy written into the LLC, as far as the registry records them as its own; they are freed. -/
def acceptWords (l : LlcLine) (c : Nat) (w : WbOut) : LlcLine :=
  let ws := w.words &&& ownWords l c
  if ws = 0 then l
  else { l with data := mergeData l.data w.data (bytesOf ws), poison := mergeBad l.poison w.poison (bytesOf ws), dirty := true,
                slots := freeWords l.slots c ws }

/-- One core fewer is awaited; the request goes on when none is. -/
def answered (s : State) (l : LlcLine) (c : Nat) : State :=
  match l.st with
  | .rvk wait ws req =>
    let w := wait.filter (· != c)
    let s := putLine s { l with st := .rvk w ws req }
    if w.isEmpty then resumeReq s l.key req else s
  | .hrev wait ws req =>
    let w := wait.filter (· != c)
    let s := putLine s { l with st := .hrev w ws req }
    if w.isEmpty then resumeReq s l.key req else s
  | .fwd wait req =>
    let w := wait.filter (· != c)
    let s := putLine s { l with st := .fwd w req }
    if w.isEmpty then resumeReq s l.key req else s
  | _ => putLine s l

/-- The words under revocation, and whether a core's answer is awaited. -/
def revoking (l : LlcLine) (c : Nat) : Option (BitVec 32) :=
  match l.st with
  | .rvk wait ws _ | .hrev wait ws _ => if wait.contains c then some ws else none
  | _ => none

/-- The first entry of a list of messages about a line. -/
def firstOut (l : List WbOut) (key : LineKey) : Option WbOut := l.find? fun w => w.key == key && !w.taken

/-- An answer of a stack ends the wake of its link, if one was logged as slow (R383). -/
def linkWoke (s : State) (c : Nat) : State :=
  let u := stackUnit s (c / 48)
  if u.slowLogged.isEmpty then s else { s with fw := { s.fw with micas := mset s.fw.micas (c / 48) { u with slowLogged := [] } } }

/-- An owner's answer reaches the slice; an answer after a write-back that was taken as the answer completes nothing (R341). -/
def revocationAnswer (core : Nat) (key : LineKey) (s : State) : Option State :=
  let cs := getCore s core
  match firstOut cs.rvkOut key, getLine s key with
  | some w, some l =>
    if wbPending cs key || !answersFirst s l then none
    else
      let s1 := setCore s core { cs with rvkOut := cs.rvkOut.erase w }
      let l1 := acceptWords l core w
      if l.stale.contains core then some (putLine s1 { l1 with stale := l.stale.erase core })
      else some (answered s1 l1 core)
  | some w, none => some (setCore s core { cs with rvkOut := cs.rvkOut.erase w })
  | _, _ => none

/-- A forward arrives: the owner supplies its words and keeps them. -/
def forwardRequest (core : Nat) (key : LineKey) (s : State) : Option State :=
  let cs := getCore s core
  match nextMsg cs key with
  | some (.forward k ws) =>
    let cs1 := dropMsg cs (.forward k ws)
    let w : WbOut := match findL1 cs1 key with
      | none => { key := key, words := 0, data := 0 }
      | some x => { key := key, words := x.owned &&& ws, data := x.data, poison := x.poison &&& bytesOf (x.owned &&& ws) }
    some (setCore s core { cs1 with fwdOut := cs1.fwdOut ++ [w] })
  | _ => none

/-- FORWARD_REQUEST: A forward reaches an owner core, which supplies the word and keeps ownership (R338). -/
def execForwardRequest (core : Nat) (key : LineKey) (s : State) : Out := evOut s (forwardRequest core key s)

/-- The owner's words reach the slice, and the read goes on when every owner has answered. -/
def forwardAnswer (core : Nat) (key : LineKey) (s : State) : Option State :=
  let cs := getCore s core
  match firstOut cs.fwdOut key, getLine s key with
  | some w, some l =>
    if wbPending cs key || !answersFirst s l then none
    else
      let s1 := setCore s core { cs with fwdOut := cs.fwdOut.erase w }
      let m := bytesOf w.words
      some (answered s1 { l with fwdData := mergeData l.fwdData w.data m, fwdBad := mergeBad l.fwdBad w.poison m, fwdWords := l.fwdWords ||| w.words } core)
  | _, _ => none

/-- A write-back reaches the slice: accepted in every state for words still recorded as the sender's, taken as its answer when it
leaves none of the revoked words, and always acknowledged (R341, R442). -/
def writeBack (core : Nat) (key : LineKey) (s : State) : Option State :=
  let cs := getCore s core
  match firstOut cs.wbOut key with
  | none => none
  | some w =>
    let cs1 := { cs with wbOut := cs.wbOut.map fun v => if v = w then { v with taken := true } else v }
    let ack (s : State) : State := sendMsg s core (.wbAck key w.words)
    match getLine s key with
    | none => some (ack (setCore s core cs1))
    | some l =>
      if !answersFirst s l then none
      else
        let l1 := acceptWords l core w
        let s1 := setCore s core cs1
        match revoking l core with
        | some ws =>
          if ownWords l1 core &&& ws = 0 ∧ ownWords l core &&& ws ≠ 0 then some (ack (answered s1 { l1 with stale := core :: l1.stale } core))
          else some (ack (putLine s1 l1))
        | none => some (ack (putLine s1 l1))

/-- The acknowledgement of a write-back arrives; a CWB retires with its last one (R283). -/
def writeBackAck (core : Nat) (key : LineKey) (s : State) : Option State :=
  let cs := getCore s core
  match cs.inbox.find? fun m => !m.ordered && m.key == key, cs.wbOut.find? fun w => w.key == key && w.taken with
  | some m, some w =>
    let cs1 := { dropMsg cs m with wbOut := cs.wbOut.erase w }
    let s1 := setCore s core cs1
    match w.cwb with
    | none => some s1
    | some id =>
      if cs1.wbOut.any fun v => v.cwb == some id then some s1
      else match cs1.flights.find? fun f => f.id == id with
        | some f => some (retireFlight s1 core f)
        | none => some s1
  | some m, none => some (setCore s core (dropMsg cs m))
  | none, _ => none

/-- WRITE_BACK_ACK: The slice's acknowledgement of a write-back reaches the core (R442). -/
def execWriteBackAck (core : Nat) (key : LineKey) (s : State) : Out := evOut s (writeBackAck core key s)

/-! ### The answer to a store (R338) -/

/-- A store's bytes in a line of the L1; words not owned before take the home's value first (R338). -/
def mergeStore (x : L1Line) (ws : BitVec 32) (d : LineData) (bad : BitVec 128) (p : Piece) : L1Line :=
  let new := bytesOf (ws &&& ~~~x.owned)
  let valid := validWith x (ws &&& ~~~x.owned)
  let m := byteMask (p.va % 128) p.n
  { x with data := mergeData (mergeData x.data d new) (bytesAt (p.va % 128) p.data) m,
           poison := mergeBad (mergeBad x.poison bad new) 0 m, owned := x.owned ||| ws, valid := valid }

/-- A line that an answered store brings into the L1, with the line's translation, or that of the store. -/
def blankL1 (s : State) (key : LineKey) (a : Access) (p : Piece) : L1Line :=
  let x := match getLine s key with
    | some l => (l.pa, l.r, l.w, l.x, l.mig)
    | none => let y := p.xpa.getD (0, 0); (y.1 / 128 * 128, y.2.testBit 0, y.2.testBit 1, y.2.testBit 2, y.2.testBit 3)
  { key := key, pa := x.1, r := x.2.1, w := x.2.2.1, x := x.2.2.2.1, mig := x.2.2.2.2, valid := 0, owned := 0, data := 0, rrpv := fillRrpv a.hint }

/-- The L1's line that an answered store merges into: a hit sets its value to 0, and one that the store brings in has its fill's value (R267). -/
def mergeLine (s : State) (cs : CoreSt) (key : LineKey) (a : Access) (part : Nat) (p : Piece) : L1Line :=
  ((findL1 cs key).map fun l => { l with rrpv := if sameMiss a part p then l.rrpv else 0 }).getD (blankL1 s key a p)

/-- The registry's answer reaches the core: the store is performed, once the line is not held. After a write-through the core's own copies of the
words are dropped. -/
def registrationAnswer (core : Nat) (key : LineKey) (s : State) : Option State :=
  let cs := getCore s core
  if lineHeld s key then none
  else match nextMsg cs key with
  | some (.registered k ws acc part d bad own) =>
    let cs1 := dropMsg cs (.registered k ws acc part d bad own)
    match pieceAt s core acc part with
    | some (a, p) =>
      let cs2 := if own then putL1 cs1 (mergeStore (mergeLine s cs1 key a part p) ws d bad p) else dropWords cs1 key (pieceWords p)
      some (settleTemp (setCore s core (dropDone (setPiece cs2 acc part fun p => { p with st := .done }))) key)
    | none => some (setCore s core cs1)
  | _ => none

/-- REGISTRATION_ANSWER: The registry's answer reaches the core and the store is performed (R338). -/
def execRegistrationAnswer (core : Nat) (key : LineKey) (s : State) : Out := evOut s (registrationAnswer core key s)

/-! ### The host directory (R350, R351) -/

/-- The line after the host's bytes have been written back to it. -/
def hostData (l : LlcLine) (d : LineData) : LlcLine := { l with data := d, poison := 0, dirty := true, host := .hi, snoop := none }

/-- A host write-back; during a snoop or a recall it is the answer. -/
def hostWriteBack (key : LineKey) (data : LineData) (s : State) : Option State :=
  match getLine s key with
  | none => none
  | some l =>
    if l.host = .hi ∨ l.host = .hs ∨ !answersFirst s l then none
    else
      let l1 := hostData l data
      let s1 := wakeWatches (putLine s l1) key (BitVec.allOnes 128)
      match l.st with
      | .hsn req | .hrc req => some (resumeReq s1 key req)
      | _ => some s1

/-- HOST_WRITE_BACK: A host write-back of a dirty line arrives, possibly as a snoop or recall answer (R351). -/
def execHostWriteBack (key : LineKey) (data : LineData) (s : State) : Out := evOut s (hostWriteBack key data s)

/-- The host's answer: an invalidation or recall ends its copy; a snoop leaves it with a clean copy, or with the dirty copy that it
has supplied, which is not written into the LLC. -/
def hostSnoopAnswer (key : LineKey) (dirty : Option LineData) (s : State) : Option State :=
  match getLine s key with
  | none => none
  | some l =>
    match l.st, dirty with
    | .hsi req, none => some (resumeReq (putLine s { l with host := .hi }) key req)
    | .hrc req, none => if l.host = .he then some (resumeReq (putLine s { l with host := .hi }) key req) else none
    | .hrc req, some d => some (resumeReq (wakeWatches (putLine s (hostData l d)) key (BitVec.allOnes 128)) key req)
    | .hsn req, none => if l.host = .he then some (resumeReq (putLine s { l with host := .hs }) key req) else none
    | .hsn req, some d =>
      let l1 := { l with host := .ho, fwdData := d, fwdBad := 0, fwdWords := BitVec.allOnes 32 }
      some (drainAll (performReq (putLine s l1) l1 req) key)
    | _, _ => none

/-- HOST_SNOOP_ANSWER: The host answers a snoop, invalidation or recall and the directory state moves on (R350). -/
def execHostSnoopAnswer (key : LineKey) (dirty : Option LineData) (s : State) : Out := evOut s (hostSnoopAnswer key dirty s)

/-- Hub cycles in a microsecond and a millisecond of SI time (R5). -/
def usec : Nat := 1600
def msec : Nat := 1600000

/-- An unanswered snoop or recall ends the host's copy after 2 ms (DEDUCED, log entry 28). -/
def slateRecallLost (key : LineKey) (s : State) : Option State :=
  match getLine s key with
  | none => none
  | some l =>
    let lost := l.host != .hs
    let l1 := { l with host := .hi, poison := if lost then BitVec.allOnes 128 else l.poison }
    match l.st with
    | .hsi req | .hsn req | .hrc req =>
      if s.time ≥ l.since + 2 * msec then some (logHub (resumeReq (putLine s l1) key req) 0x0802 [(8, l.pa), (4, if lost then 2 ^ 32 - 1 else 0)]) else none
    | _ => none

/-- SLATE_RECALL_LOST: A snoop or recall unanswered for 2 ms ends the host copy and poisons dirty words (R351). -/
def execSlateRecallLost (key : LineKey) (s : State) : Out := evOut s (slateRecallLost key s)

end Sys2Proof.Machine
end

