-- ==== Sys2Proof/Machine/Fill.lean ====
section
/-! DEFINITION. Lines brought into the LLC and taken out of it, writes of hub agents to physical memory, and the migration counters and ring (R267, R272, R278, R279). -/

namespace Sys2Proof.Machine

/-! ### Words taken from their owners at once -/

/-- Nothing about a line is on its way between a core and its slice, and no message of the slice that a request for the line would overtake (R442). -/
def coreQuiet (cs : CoreSt) (k : LineKey) : Bool :=
  !(cs.inbox.any fun m => m.ordered && sliceOf m.key.va == sliceOf k.va) && !wbPending cs k && (firstOut cs.rvkOut k).isNone && (firstOut cs.fwdOut k).isNone

/-- A line is stable with no request waiting, and its owners' messages have all arrived. -/
def lineQuiet (s : State) (l : LlcLine) : Bool :=
  l.st == .stable && l.held.isNone && l.queue.isEmpty && l.slots.all fun o => coreQuiet (getCore s o.core) l.key

/-- An owner's words of a line, written back to the LLC and freed on both sides. -/
def pullOwner (ws : BitVec 32) (s : State) (l : LlcLine) (o : OwnSlot) : State × LlcLine :=
  let cs := getCore s o.core
  match findL1 cs l.key with
  | none => (s, { l with slots := freeWords l.slots o.core ws })
  | some x =>
    let own := x.owned &&& ws
    (setCore s o.core (putL1 cs { x with owned := x.owned &&& ~~~own }),
     { acceptWords l o.core { key := l.key, words := own, data := x.data, poison := x.poison } with slots := freeWords l.slots o.core ws })

/-- Every word of a line taken from its owners. -/
def pullOwners (s : State) (l : LlcLine) : State × LlcLine :=
  l.slots.foldl (fun (r : State × LlcLine) o => pullOwner (BitVec.allOnes 32) r.1 r.2 o) (s, l)

/-- A line leaves the LLC: its owners' words are taken first, and bytes that were written go to its stack. -/
def dropOut (s : State) (l : LlcLine) : State :=
  let r := pullOwners s l
  dropLine (if r.2.dirty then storeLine r.1 r.2.pa r.2.data r.2.poison else r.1) l.key

/-- Revokes every owner of words of a quiet line, with write-back, in one step; the host holds no copy. -/
def pullLine (s : State) (l : LlcLine) (ws : BitVec 32) : Option (State × LlcLine) :=
  if !lineQuiet s l || l.host != .hi then none
  else
    let r := (ownersOf l ws none).foldl (fun (r : State × LlcLine) o => pullOwner ws r.1 r.2 o) (s, l)
    some (putLine r.1 r.2, r.2)

/-- A quiet line as a reader at the home sees it: owners' words stand over the LLC's, and the owners keep them; what the host has supplied of a
line that it keeps dirty stands for the line (R350). -/
def peekLine (s : State) (l : LlcLine) : Option (LineData × BitVec 128) :=
  if !lineQuiet s l then none
  else if l.host != .hi && l.host != .hs then (if l.host = .ho then l.snoop.map fun d => (d, 0) else none)
  else some (l.slots.foldl (fun d o => match findL1 (getCore s o.core) l.key with
    | none => d
    | some x => (mergeData d.1 x.data (bytesOf (x.owned &&& o.words)), mergeBad d.2 x.poison (bytesOf (x.owned &&& o.words)))) (l.data, l.poison))

/-- What keeps a hub agent's work on memory from being done. -/
inductive Blocked where
  /-- Nothing can be done yet. -/
  | wait
  /-- A line must be asked of the host first. -/
  | line (k : LineKey) (r : LineReq)
  /-- Host memory must be asked first: the agent, its request, and the address (R411). -/
  | host (who idx pa : Nat)
  deriving DecidableEq, Repr

/-- What a hub agent's work on memory comes to: it is done, or something keeps it. -/
abbrev Try (α : Type) : Type := Except Blocked α

/-- An event whose work has been tried in state s: it happens; or only the request to the host is made; or it is not enabled. -/
def tried (s : State) : Try State → Option State
  | .ok t => some t
  | .error (.line k r) => submitReq s k r
  | .error (.host who idx pa) =>
    some { s with hub := { s.hub with hostAsks := s.hub.hostAsks ++ [{ va := pa, n := 0, firstAt := s.time, sentAt := s.time, who := who, idx := idx }] } }
  | .error .wait => none

/-- What a request to host memory comes to: it is made, waits, is answered, or has timed out (R411). -/
inductive HostAsk where
  | made | waits | here | late
  deriving DecidableEq, Repr

def hostAsk (s : State) (a : Option LoadAsk) : HostAsk :=
  match a with
  | none => .made
  | some a => if a.firstAt + 50 * msec ≤ s.time then .late else if s.fw.linkUp then .here else .waits

/-- SLATE_TIMEOUT in the hub's ring: the address, and whether the request wrote (R411, R431). -/
def logTimeout (s : State) (pa : Nat) (store : Bool) : State := logHub s 0x0811 [(8, pa), (1, if store then 1 else 0)]

/-- A request of an agent of the hub to host memory: it is there, or has ended with BUS_ERROR after 50 ms (R411) (DEDUCED, log entry 34). -/
def hostTry (s : State) (who idx pa : Nat) (store : Bool) : Try (State × Bool) :=
  let mine (a : LoadAsk) : Bool := a.who == who && a.idx == idx && a.va == pa
  let t := { s with hub := { s.hub with hostAsks := s.hub.hostAsks.filter fun a => !mine a } }
  match hostAsk s (s.hub.hostAsks.find? mine) with
  | .made => .error (.host who idx pa)
  | .waits => .error .wait
  | .late => .ok (logTimeout t pa store, false)
  | .here => .ok (t, true)

/-- A request that makes the host give a line back and changes nothing. -/
def recallReq : LineReq := .ioWrite .host 0 0 0 0 0

/-- A line whose owners' words have been taken; a quiet line that the host holds is asked for. -/
def homePull (s : State) (key : LineKey) (ws : BitVec 32) : Try (State × LlcLine) :=
  match getLine s key with
  | none => .error .wait
  | some l =>
    match pullLine s l ws with
    | some r => .ok r
    | none => .error (if lineQuiet s l && l.host != .hi then .line key recallReq else .wait)

/-- The bytes of a line as its home sees them; a quiet line that the host may have changed is asked for. -/
def homePeek (s : State) (l : LlcLine) : Try (LineData × BitVec 128) :=
  match peekLine s l with
  | some d => .ok d
  | none => .error (if lineQuiet s l then .line l.key (.ioRead .host (BitVec.allOnes 128)) else .wait)

/-! ### Physical memory -/

/-- Bytes written to DRAM that no LLC line holds; a granule that they cover wholly loses its mark (R238). -/
def dramPut (s : State) (pa : Nat) (bs : List Byte) : State :=
  let n := bs.length
  let s := writeDram s pa bs
  { s with hub := { s.hub with dramPoison := s.hub.dramPoison.filter fun p => !(pa ≤ 64 * p.1 && 64 * p.1 + 64 ≤ pa + n) } }

/-- The name under which an agent that carries a physical address finds a line (DEDUCED, log entry 36). -/
def windowKey (s : State) (pa : Nat) : LineKey := { asid := 0, va := winBase s.pkg + pa / 128 * 128 }

/-- Bytes of one line written by an agent of the hub: to the host, into the LLC line after its owners' words, or to DRAM; at a line that is
not quiet the write waits as a request does (R337), and where nothing is mapped it ends in a bus error (R17) (DESIGN CHOICE, log entry 71). -/
def putPart (ag : IoAgent) (s : State) (pa : Nat) (bs : List Byte) : State :=
  match paKind s pa with
  | .nothing => ioBad s ag pa
  | .host => { s with fw := { s.fw with hostOut := (pa, bs) :: s.fw.hostOut } }
  | .dram _ _ =>
    match lineAtPa s pa with
    | none => wakeWatches (dramPut s pa bs) (windowKey s pa) (byteMask (pa % 128) bs.length)
    | some l =>
      let m := byteMask (pa % 128) bs.length
      match pullLine s l (wordsOf m) with
      | some r => writeLine r.1 r.2 (bytesAt (pa % 128) bs) 0 m
      | none => beginReq s l (.ioWrite ag 0 0 m (bytesAt (pa % 128) bs) 0)

/-- Bytes written to physical memory, line by line. -/
def physPut (ag : IoAgent) : Nat → State → Nat → List Byte → State
  | 0, s, _, _ => s
  | k + 1, s, pa, bs =>
    if bs.isEmpty then s
    else
      let n := 128 - pa % 128
      physPut ag k (putPart ag s pa (bs.take n)) (pa + n) (bs.drop n)

def physWrite (ag : IoAgent) (s : State) (pa : Nat) (bs : List Byte) : State := physPut ag (bs.length / 128 + 2) s pa bs

/-! ### The migration ring (R278, R279) -/

def ringLog (v : Word) : Nat := v.toNat % 32
def ringIrq (v : Word) : Bool := v.getLsbD 9
def ringOn (v : Word) : Bool := v.getLsbD 8 && 6 ≤ ringLog v && ringLog v ≤ 16

/-- Entries written and not consumed. -/
def migFill (h : Hub) : Nat := (h.migWptr - h.migRptr).toNat

/-- An entry of the ring is written, once its line is quiet and the host does not hold it (R279). -/
def migPut (s : State) (pa : Nat) (bs : List Byte) : Try State :=
  match lineAtPa s pa with
  | some l => if isDram (paKind s pa) then (homePull s l.key (wordsOf (byteMask (pa % 128) bs.length))).map fun r =>
      writeLine r.1 r.2 (bytesAt (pa % 128) bs) 0 (byteMask (pa % 128) bs.length) else .ok (putPart .hub s pa bs)
  | none => .ok (putPart .hub s pa bs)

/-- The write pointer moves past an entry that has been written, and a ring that was empty sends its vector (R279). -/
def migAdvance (s : State) : State :=
  let h := s.hub
  let s := { s with hub := { h with migWptr := h.migWptr + 1, migWait := h.migWait.drop 1 } }
  if migFill h = 0 && ringIrq h.migRingCtl then sendMsix s (h.migRingCtl.toNat >>> 16 % 256) else s

/-- The oldest entry that waits is written. -/
def migWrite (s : State) : Option State :=
  match s.hub.migWait with
  | [] => none
  | (pa, bs) :: _ => tried s ((migPut s pa bs).map migAdvance)

/-- A migration request takes the ring's next entry, or is dropped, counted and logged (DEDUCED, log entry 29). -/
def migRequest (s : State) (asid va home st ch cst : Nat) : State :=
  let h := s.hub
  if !ringOn h.migRingCtl || migFill h + h.migWait.length ≥ 2 ^ ringLog h.migRingCtl then
    logHub { s with hub := { h with migDropped := h.migDropped + 1 } } 0x0815
      [(2, asid), (8, va)]
  else
    let pa := h.migRingBase.toNat + 32 * ((h.migWptr.toNat + h.migWait.length) % 2 ^ ringLog h.migRingCtl)
    let bs := leBytes 8 asid ++ leBytes 8 va ++ leBytes 1 home ++ leBytes 1 st ++ leBytes 2 ch ++ leBytes 2 cst ++ leBytes 10 0
    let s := { s with hub := { h with migWait := h.migWait ++ [(pa, bs)] } }
    (migWrite s).getD s

/-! ### Migration counters (R278) -/

def regionOf (va : Nat) : Nat := va / 2 ^ 21 * 2 ^ 21
def paStack (pa : Nat) : Nat := pa >>> 37 % 8

/-- Home of a region: the stack of its first page, whatever its permissions (DEDUCED, log entry 29). -/
def homeStack (s : State) (asid va pa : Nat) : Nat :=
  match walkWith s asid (regionOf va) fun _ _ _ => true with
  | .ok x => paStack x.pa
  | .error _ => paStack pa

/-- The table without its region of the lowest total count, when it is full; of several the first that was entered (DESIGN CHOICE, log entry 72). -/
def displace (rs : List MigRegion) : List MigRegion :=
  if rs.length < 65536 then rs
  else
    let low := rs.foldl (fun m r => min m (r.counts.foldl (· + ·) 0)) (8 * 65535)
    match rs.find? fun r => r.counts.foldl (· + ·) 0 == low with
    | some r => rs.erase r
    | none => rs

/-- The stack for which a region qualifies, the lowest-numbered one: no request has been raised for it in the last interval (DEDUCED, log entry 29). -/
def migWants (s : State) (r : MigRegion) : Option Nat :=
  let home := homeStack s r.asid r.va r.pa
  let c (k : Nat) : Nat := r.counts.getD k 0
  if r.raised.all fun t => t + s.hub.migInterval.toNat * usec ≤ s.time then
    (List.range 8).find? fun k => k != home && c k ≥ s.hub.migThresh.toNat && c k ≥ c home + s.hub.migMargin.toNat
  else none

def putRegion (s : State) (r : MigRegion) : State :=
  { s with hub := { s.hub with migRegions := s.hub.migRegions.map fun q => if q.asid == r.asid && q.va == r.va then r else q } }

/-- A region that qualifies raises its request, and its counters are cleared. -/
def migRaise (s : State) (r : MigRegion) : State :=
  match migWants s r with
  | none => s
  | some k =>
    let home := homeStack s r.asid r.va r.pa
    migRequest (putRegion s { r with counts := List.replicate 8 0, raised := some s.time }) r.asid r.va home k (r.counts.getD home 0) (r.counts.getD k 0)

/-- Every region is looked at: after the counters or the thresholds have changed. -/
def migSweep (s : State) : State := s.hub.migRegions.foldl migRaise s

/-- A region that qualifies because its last request lies an interval back. -/
def migDue (s : State) : Option State := (s.hub.migRegions.find? fun r => (migWants s r).isSome).map (migRaise s)

/-- A miss of a stack on a page that counts: the counter of its region rises, and a request is raised where the region qualifies. -/
def countMiss (s : State) (asid va pa st : Nat) : State :=
  let v := regionOf va
  let rs := s.hub.migRegions
  let old := (rs.find? fun r => r.asid == asid && r.va == v).getD { asid := asid, va := v, counts := List.replicate 8 0, pa := pa }
  let rs := if rs.any fun r => r.asid == asid && r.va == v then rs else displace rs ++ [old]
  let r := { old with counts := old.counts.set st (min 65535 (old.counts.getD st 0 + 1)) }
  migRaise (putRegion { s with hub := { s.hub with migRegions := rs } } r) r

/-- At the end of every interval every counter is halved. -/
def migInterval (s : State) : Option State :=
  let t := s.hub.migEnd + s.hub.migInterval.toNat * usec
  if s.time < t then none
  else some (migSweep
    { s with hub := { s.hub with migEnd := t, migRegions := s.hub.migRegions.map fun r => { r with counts := r.counts.map (· / 2) } } })

/-- MIG_INTERVAL_EXPIRY: At the end of each interval every migration counter is halved (R278). -/
def execMigIntervalExpiry (s : State) : Out := evOut s (migInterval s)

/-! ### Lines of the LLC (R264, R267, R272) -/

def permBits (x : Xlate) : Nat := (if x.r then 1 else 0) + (if x.grantsW then 2 else 0) + (if x.x then 4 else 0) + (if x.mig then 8 else 0)

/-- A line that may leave: stable, with no request waiting and no message under way, and not held by the host. -/
def evictable (s : State) (l : LlcLine) : Bool := lineQuiet s l && l.host == .hi

/-- Lines of a slice of 24 MiB (R264). -/
def sliceLines : Nat := 196608
def inSlice (k : LineKey) (l : LlcLine) : Bool := sliceOf l.key.va == sliceOf k.va

/-- Room in a full slice: values are raised until one is 3, and the first such line leaves (R267) (DESIGN CHOICE, log entry 38). -/
def llcRoom (s : State) (key : LineKey) : State :=
  if (s.hub.llc.filter fun l => inSlice key l && !l.temp).length < sliceLines then s
  else
    let up := 3 - (s.hub.llc.filter fun l => inSlice key l && evictable s l).foldl (fun m l => max m l.rrpv) 0
    let llc := s.hub.llc.map fun l => if inSlice key l then { l with rrpv := min 3 (l.rrpv + up) } else l
    let s := { s with hub := { s.hub with llc := llc } }
    match llc.find? fun l => inSlice key l && l.rrpv == 3 && evictable s l with
    | some v => dropOut s v
    | none => s

/-- A line brought in from its stack; one that is not allocated takes no place of another (R267). -/
def addLine (s : State) (key : LineKey) (pa perm hint : Nat) : State :=
  let s := if hint = 3 then s else llcRoom s key
  let b := pa / 128 * 128
  let d := dramLine s b
  putLine s { key := key, pa := b, r := perm.testBit 0, w := perm.testBit 1, x := perm.testBit 2, mig := perm.testBit 3, temp := hint == 3,
              data := d.1, poison := d.2, rrpv := fillRrpv hint }

/-- A line that was not allocated is, for an access of another class (R267). -/
def allotLine (s : State) (key : LineKey) (hint : Nat) : State :=
  if hint = 3 || !(getLine s key).any (·.temp) then s
  else
    let s := llcRoom s key
    match getLine s key with
    | some l => putLine s { l with temp := false, rrpv := fillRrpv hint }
    | none => s

/-- A line is brought in, or has its translation anew when it is there; a miss on a page with MIG is counted for the requesting stack. -/
def fillLine (s : State) (key : LineKey) (pa perm hint : Nat) (st : Option Nat) : State :=
  match getLine s key with
  | some l =>
    let s := putLine s { l with pa := pa / 128 * 128, r := perm.testBit 0, w := perm.testBit 1, x := perm.testBit 2, mig := perm.testBit 3, rrpv := 0 }
    allotLine s key hint
  | none =>
    let s := addLine s key pa perm hint
    match st with
    | some k => if perm.testBit 3 then countMiss s key.asid key.va pa k else s
    | none => s

/-- A piece of a cleared access that waits for this line and has a miss-status entry. -/
def waitsLine (s : State) (key : LineKey) (a : Access) (p : Piece) : Bool :=
  isSure a && p.st == .idle && p.route == .cached && p.xpa.isSome && keyOf s a.asid p.va == key && p.ent

/-- The first request that waits for a line: the stack for which its miss counts, its class, and what translation gave. A speculative load never
triggers migration (R258). -/
def lineWaiter (s : State) (key : LineKey) : Option (Option Nat × Nat × Nat × Nat) :=
  (s.cores.flatMap fun c => c.2.accesses.flatMap fun a => (a.pieces.filter (waitsLine s key a)).map fun p =>
    (if isSpec a.dst then none else some (c.1 / 48), a.hint, (p.xpa.getD (0, 0)).1, (p.xpa.getD (0, 0)).2)).head?

/-- An LLC miss is filled from its stack. -/
def llcFill (key : LineKey) (s : State) : Option State :=
  match lineWaiter s key, getLine s key with
  | some (st, hint, pa, perm), none => some (fillLine s key pa perm hint st)
  | _, _ => none

/-- LLC_FILL: An LLC miss is translated and the line fetched from its stack (R272). -/
def execLlcFill (key : LineKey) (s : State) : Out := evOut s (llcFill key s)

/-- A line leaves the LLC (DESIGN CHOICE, log entry 38). -/
def evictLlc (key : LineKey) (s : State) : Option State :=
  match getLine s key with
  | none => none
  | some l => if evictable s l then some (dropOut s l) else none

/-- A line leaves an L1 (DESIGN CHOICE, log entry 38). -/
def evictL1 (core : Nat) (key : LineKey) (s : State) : Option State :=
  let cs := getCore s core
  match findL1 cs key with
  | some x => if wbPending cs key || lineAsked cs key then none else some (setCore s core (evictLine cs x))
  | none => none

/-! ### Registers of the ring (R279) -/

/-- A write of the read pointer that would pass the write pointer is ignored. -/
def migRptr (v : Nat) (s : State) : State :=
  let h := s.hub
  let p : BitVec 32 := BitVec.ofNat 32 v
  if (h.migWptr - p).toNat > 2 ^ ringLog h.migRingCtl then s else { s with hub := { h with migRptr := p } }

/-- Ring control: LOG2SZ is ignored while EN is 1; reserved bits are ignored (R3). -/
def migCtl (v : Word) (s : State) : State :=
  let h := s.hub
  let w := v &&& 0xFF031F
  let w := if h.migRingCtl.getLsbD 8 then (w &&& ~~~(0x1F : Word)) ||| (h.migRingCtl &&& 0x1F) else w
  { s with hub := { h with migRingCtl := w } }

def migBase (v : Word) (s : State) : State :=
  let h := s.hub
  if h.migRingCtl.getLsbD 8 then s else { s with hub := { h with migRingBase := v &&& 0xFFFFFFFFF000 } }

end Sys2Proof.Machine
end

