-- ==== Sys2Proof/Machine/Record.lean ====
section
/-! DEFINITION. The context record: its layout, and a core's state written into it and read back from it (R376 to R379). -/

namespace Sys2Proof.Machine

/-! ### Fields -/

/-- Field of n bytes at an offset. -/
def fld (off n v : Nat) : Nat × List Byte := (off, leBytes n v)

/-- Cells of a field; zero bytes are not listed. -/
def fieldCells (f : Nat × List Byte) : List Host.Cell := (f.2.mapIdx fun i b => (f.1 + i, b)).filter fun x => x.2 != 0

def putFields (m : List Host.Cell) (fs : List (Nat × List Byte)) : List Host.Cell := fs.foldl (fun m f => writeBytes m f.1 f.2) m

/-- A number at an offset. -/
def rd (m : List Host.Cell) (off n : Nat) : Nat := leNat (readBytes m off n)

def bitN (b : Bool) (k : Nat) : Nat := if b then 2 ^ k else 0

/-! ### The header (R378) -/

def recMagic : Nat := 0x4352424F

/-- remaining(t) (R112). -/
def remaining (s : State) (c : Nat) : Nat :=
  let cs := getCore s c
  cs.estVal - (residence s cs - cs.estAt)

def cbWord (b : CBar) : Nat := bitN b.phase 0 + b.n * 2 + b.arr * 32 + bitN b.err 8
def wordCb (n : Nat) : CBar := { phase := n.testBit 0, n := n / 2 % 16, arr := n / 32 % 8, err := n.testBit 8 }

def causeOf (c : Option Cause) : Nat := tagNib c

def rfailFields (r : Option RFail) : List (Nat × List Byte) :=
  match r with
  | none => []
  | some f => [fld 0x80 1 (1 + 2 * f.cause.code), fld 0x82 2 f.count, fld 0x84 4 f.serial, fld 0x88 6 f.handle, fld 0x8E 2 f.owner]

/-- Pinned: the team's core holds row regions of its launch (R106). -/
def pinnedHere (s : State) (o : Occ) (c : Nat) : Bool := (List.range 16).any fun g => rowMode s c g == some o.launch

/-- The header fields of a core's record, by offset (R378). The estimate stands in the record of half 0, and so does the wake bit, which `shareWake`
sets (R376) (DESIGN CHOICE, log entry 70). -/
def headerFields (s : State) (c : Nat) (o : Occ) (st : Nat) : List (Nat × List Byte) :=
  let cs := getCore s c
  let flags := bitN (pinnedHere s o c) 0 + bitN (inBarrierGang s cs) 1 + bitN cs.watch.isSome 2 + bitN cs.overflow 4 + bitN cs.acqPending 5 + bitN (st == 2) 6
  [fld 0 4 recMagic, fld 4 2 1, fld 6 1 st, fld 7 1 flags, fld 8 4 o.launch, fld 0xC 4 o.gang, fld 0x10 2 o.team, fld 0x12 1 o.half,
   fld 0x14 2 c, fld 0x16 2 cs.tcode, fld 0x18 8 (if o.half = 0 then remaining s c else 0), fld 0x20 8 ((cs.watch.map (·.va)).getD 0),
   fld 0x28 8 (min (cs.deadline.getD 0) (2 ^ 64 - 1)), fld 0x30 8 cs.actCount, fld 0x38 4 cs.childId] ++
  rfailFields cs.rfail

/-- The cluster barriers of a gang, in the record of its lowest-numbered team (R291). -/
def cbFields (cbs : NMap CBar) : List (Nat × List Byte) := cbs.map fun p => fld (0x40 + 4 * p.1) 4 (cbWord p.2)

/-! ### Engine blocks (R379) -/

def blockBase (e : Engine) : Nat := 0x1000 + 0x400 * engCode e

def faultCode (st : Stream) : Nat :=
  match st.fault, st.halted with
  | some r, _ => trapCode r.trap
  | none, some h => trapCode h.trap
  | none, none => 0
def faultAddr (st : Stream) : Nat :=
  match st.fault, st.halted with
  | some r, _ => r.addr.toNat
  | none, some h => h.va
  | none, none => 0

def estat (st : Stream) (ftz : Bool) : Nat :=
  bitN st.active 0 + bitN st.waitDone 1 + bitN st.halted.isSome 2 + bitN st.fault.isSome 3 + st.endSem % 32 * 16 +
    bitN ftz 9 + bitN st.arrived 10

def fileSize (e : Engine) : Nat := lastScalar e + 1

/-- FTZ of an engine's block (R40, R210): of its own abandoned operation, or of its half of the leader's; 0 where there is neither (DEDUCED, log
entry 23). -/
def savedFtz (st : Stream) (pair : Option Bool) : Bool := st.replayFtz.getD (pair.getD false)

def engineFields (cs : CoreSt) (cycle : Nat) (pair : Option Bool) (e : Engine) : List (Nat × List Byte) :=
  let st := cs.stream e
  let b := blockBase e
  [fld b 4 (packPc st.pc), fld (b + 4) 4 (estat st (savedFtz st (if e = .mtx then pair else none))), fld (b + 8) 2 (faultCode st), fld (b + 10) 1 ((st.fault.map (·.cause)).getD 0),
   fld (b + 0x10) 8 (faultAddr st), fld (b + 0x18) 8 st.fpmode.toNat, fld (b + 0x20) 8 st.fpstat.toNat, fld (b + 0x28) 8 st.loop.toNat,
   fld (b + 0x30) 8 cycle, fld (b + 0x38) 8 (if e = .seq then cs.preds.toNat else 0),
   (b + 0x40, (st.rstack.reverse).flatMap fun p => leBytes 4 (packPc p)), fld (b + 0x80) 1 st.rstack.length] ++
  (st.regs.map fun r => fld (b + 0xC0 + r.1) 1 (tagNib r.2.tag)) ++ (st.regs.map fun r => fld (b + 0x100 + 8 * r.1) 8 r.2.val.toNat)

/-- The fault of a code, as a runtime may have left it in a record. -/
def allTraps : List Trap :=
  [.illegalLength, .illegalOpcode, .illegalField, .lineEngine, .lineKind, .lineSlot, .branchTarget, .rstackOverflow, .rstackEmpty,
   .loopCount, .loopState, .trap, .poisonUse, .misaligned, .busError, .spmRange, .pagePerm, .pageBad, .pageMissing, .pageMoving,
   .rspTarget, .vecType, .tileShape, .mmaType, .pairRole, .sparseMeta, .tilePoison, .rowRange, .rowMode, .rowBusy, .rowClosed,
   .rowLapsed, .rowEarly, .forkActive, .launchDepth, .launchAlign, .childLimit, .semOverflow, .barCount, .barGang,
   .remoteOwnerLost, .remoteLost, .remoteFault, .cqDesc, .cqOverlap, .cqFault, .preempt, .kill, .watchdog, .bkpt, .stackLost,
   .stateEcc, .ctxBad]
def trapOfCode (n : Nat) : Option Trap := allTraps.find? fun t => trapCode t == n

/-- A PC of a record: END, or a slot of a line. -/
def pcOfWord (n : Nat) : Pc := if n.testBit 31 then .fin else .pos (n % 2 ^ 24) (n >>> 24 % 16)

/-- A scalar of a record. -/
def svalAt (m : List Host.Cell) (v t : Nat) : SVal := { val := BitVec.ofNat 64 (rd m v 8), tag := nibTag (rd m t 1) }

/-- A map from n keys of a record, in which default values are not listed. -/
def mapFrom {α : Type} [DecidableEq α] (d : α) (n : Nat) (f : Nat → α) : NMap α :=
  ((List.range n).map fun i => (i, f i)).filter fun p => p.2 != d

/-- The engine that a block describes; the entry of an active engine is checked afresh (R58, R381). An engine that stands at an abandoned operation
takes its FTZ from bit 9 (R40). -/
def engineFrom (m : List Host.Cell) (asid : Nat) (replay : Bool) (e : Engine) : Stream :=
  let b := blockBase e
  let st := rd m (b + 4) 4
  let code := rd m (b + 8) 2
  let pc := pcOfWord (rd m b 4)
  let halt : Option HaltRec := if st.testBit 2 then
      (trapOfCode code).map fun t => { trap := t, asid := asid, va := rd m (b + 0x10) 8, kind := .load } else none
  { active := st.testBit 0, pc := pc, entry := if st.testBit 0 && pc != .fin then some false else none, halted := halt,
    waitDone := st.testBit 1, arrived := st.testBit 10, endSem := st / 16 % 32, replayFtz := if replay then some (st.testBit 9) else none,
    rstack := ((List.range (rd m (b + 0x80) 1)).map fun i => pcOfWord (rd m (b + 0x40 + 4 * i) 4)).reverse,
    loop := BitVec.ofNat 64 (rd m (b + 0x28) 8), fpmode := BitVec.ofNat 64 (rd m (b + 0x18) 8),
    fpstat := BitVec.ofNat 64 (rd m (b + 0x20) 8),
    regs := mapFrom {} (fileSize e) fun n => if isZeroReg e n then {} else svalAt m (b + 0x100 + 8 * n) (b + 0xC0 + n),
    lastIssue := rd m (b + 0x30) 8 }

/-! ### Masks, queues, semaphores, configuration (R377) -/

def maskFields (cs : CoreSt) : List (Nat × List Byte) :=
  (cs.masks.map fun p => fld (0x2000 + 64 * (p.1 - 1)) 64 p.2.bits.toNat) ++ (cs.masks.map fun p => fld (0x23C0 + p.1 - 1) 1 (tagNib p.2.tag)) ++
    (cs.bps.map fun p => fld (0x2400 + 128 * p.1) 128 p.2.toNat)

def masksFrom (m : List Host.Cell) : NMap MaskVal :=
  (mapFrom {} 16 fun n => if n = 0 then {} else
    { bits := BitVec.ofNat 512 (rd m (0x2000 + 64 * (n - 1)) 64), tag := nibTag (rd m (0x23C0 + n - 1) 1) : MaskVal })

/-- A scalar queue, its head in entry 0: filled, or reserved for a pending reply. -/
def squeueFields (k : Nat) (l : List SSlot) : List (Nat × List Byte) :=
  (l.mapIdx fun i x =>
    let v := x.val.getD {}
    (0x2800 + 0x200 * k + 16 * i, leBytes 8 v.val.toNat ++ leBytes 1 (tagNib v.tag) ++ leBytes 1 (if x.val.isSome then 1 else 2)))

/-- The number that stands for the instruction of an entry which came from a record, by its place from the head. -/
def slotName (i : Nat) : Nat := 2 ^ 40 + i

/-- The entries from the head on; a reserved entry belongs to the pending operation of that flight. -/
def squeueFrom (m : List Host.Cell) (k : Nat) : List SSlot :=
  let b := 0x2800 + 0x200 * k
  let h := rd m (b + 0x100) 1
  (((List.range 16).map fun i =>
    let a := b + 16 * ((h + i) % 16)
    (rd m (a + 9) 1, svalAt m a (a + 8))).filter (·.1 != 0)).mapIdx fun i x => { val := if x.1 = 1 then some x.2 else none, flight := slotName i }

def semFields (cs : CoreSt) : List (Nat × List Byte) := cs.sems.map fun p => fld (0x3000 + 4 * p.1) 4 (p.2.count + bitN p.2.cqrel 16)
def semsFrom (m : List Host.Cell) : NMap Sem :=
  mapFrom {} 32 fun n => let w := rd m (0x3000 + 4 * n) 4; { count := w % 65536, cqrel := w.testBit 16 }

def tcFields (cs : CoreSt) : List (Nat × List Byte) :=
  (cs.tcT.map fun p => fld (0x3080 + 8 * p.1) 8 p.2.toNat) ++ (cs.tcAcc.map fun p => fld (0x3100 + 8 * p.1) 8 p.2.toNat)

/-- A bank that was open, its lease run out or not, is saved as open (R240). -/
def bankWord (b : Bank) : Nat :=
  match b.mode with
  | .openNotReady | .openReady => 1 + b.row * 2 ^ 16
  | .lapsedClosed => 2
  | .closed => 0

/-! ### Children, data queues, copy queues, bindings -/

def childFields (cs : CoreSt) : List (Nat × List Byte) :=
  cs.children.mapIdx fun i x => (0x5000 + 16 * i, leBytes 4 x.id ++ leBytes 4 x.status ++ leBytes 1 (if x.retired then 2 else 1))
def childrenFrom (m : List Host.Cell) : List Child :=
  (List.range 256).filterMap fun i =>
    let a := 0x5000 + 16 * i
    let st := rd m (a + 8) 1
    if st = 0 then none else some { id := rd m a 4, status := rd m (a + 4) 4, retired := st == 2 }

/-- A data queue k (LQ0 to LQ3, SQ0, SQ1), its head in slot 0. -/
def dqueueFields (k : Nat) (l : List DSlot) : List (Nat × List Byte) :=
  (l.mapIdx fun i x => fld (0x6000 + 0x1000 * k + 512 * i) 512 (x.val.getD {}).data.toNat) ++
  (l.mapIdx fun i x => fld (0xC000 + 0x100 * k + 32 * i) 32 (x.val.getD {}).tags.toNat) ++
  [(0xC600 + 16 * k, leBytes 1 0 ++ leBytes 1 l.length ++ l.flatMap fun x => leBytes 1 (if x.val.isSome then 1 else 2))]
def dqueueFrom (m : List Host.Cell) (k : Nat) : List DSlot :=
  let b := 0xC600 + 16 * k
  let h := rd m b 1
  (List.range (min 8 (rd m (b + 1) 1))).map fun j =>
    let i := (h + j) % 8
    let v : VVal := { data := BitVec.ofNat 4096 (rd m (0x6000 + 0x1000 * k + 512 * i) 512), tags := BitVec.ofNat 256 (rd m (0xC000 + 0x100 * k + 32 * i) 32) }
    { val := if rd m (b + 2 + i) 1 = 1 then some v else none, flight := slotName j }

def twos64 (x : Int) : Nat := wrap64 x
def signed64 (n : Nat) : Int := asInt 64 n

/-- A descriptor's bytes (R356). -/
def descBytes (d : CopyDesc) : List Byte :=
  leBytes 8 d.src ++ leBytes 8 d.dst ++ leBytes 4 d.width ++ leBytes 4 d.height ++ leBytes 8 (twos64 d.sstride) ++ leBytes 8 (twos64 d.dstride) ++
    leBytes 1 (bitN d.ssp 0) ++ leBytes 1 (bitN d.dsp 0) ++ leBytes 1 d.n ++ leBytes 1 d.dhint

def descOf (l : List Byte) : CopyDesc :=
  let at' (o n : Nat) : Nat := leNat ((l.drop o).take n)
  { src := at' 0 8, dst := at' 8 8, width := at' 0x10 4, height := at' 0x14 4, sstride := signed64 (at' 0x18 8), dstride := signed64 (at' 0x20 8),
    ssp := (at' 0x28 1).testBit 0, dsp := (at' 0x29 1).testBit 0, n := at' 0x2A 1, dhint := at' 0x2B 1 % 4 }

def kindCode : CqKind → Nat
  | .put => 1 | .mcast => 2 | .fence => 3

def postByte : Option Nat → Nat
  | none => 0 | some n => 32 + n % 32

/-- An awaited sequence of each queue, zero for none. -/
def waitWord (x : CqEntry) (q : Nat) : Nat := ((x.waits.find? fun w => w.1 == q).map fun w => w.2 + 1).getD 0

def cqFields (q : Nat) (l : List CqEntry) : List (Nat × List Byte) :=
  (l.mapIdx fun i x =>
    let b := 0x10000 + 0x8000 * q + 1024 * i
    [(b, ((x.desc.map descBytes).getD [])), fld (b + 0x40) 8 x.cursor, fld (b + 0x48) 1 (kindCode x.kind), fld (b + 0x49) 1 (postByte x.post),
     fld (b + 0x4A) 4 x.seqNo, fld (b + 0x4E) 4 (waitWord x 0), fld (b + 0x52) 4 (waitWord x 1), fld (b + 0x56) 2 ((x.fail.map (·.1)).getD 0),
     fld (b + 0x58) 2 ((x.fail.map (·.2)).getD 0),
     (b + 0x200, x.list.flatMap (leBytes 8))]).flatten

def cqFrom (m : List Host.Cell) (q : Nat) : List CqEntry :=
  (List.range 32).filterMap fun i =>
    let b := 0x10000 + 0x8000 * q + 1024 * i
    let k := rd m (b + 0x48) 1
    if k = 0 ∨ k > 3 then none
    else
      let d := descOf (readBytes m b 64)
      let p := rd m (b + 0x49) 1
      let w (j : Nat) : List (Nat × Nat) := let n := rd m (b + 0x4E + 4 * j) 4; if n = 0 then [] else [(j, n - 1)]
      some { kind := if k = 1 then .put else if k = 2 then .mcast else .fence, seqNo := rd m (b + 0x4A) 4,
             desc := if k = 3 then none else some d, list := if k = 2 then (List.range d.n).map fun j => rd m (b + 0x200 + 8 * j) 8 else [],
             post := if p ≥ 32 then some (p % 32) else none, cursor := rd m (b + 0x40) 8, waits := if k = 3 then w 0 ++ w 1 else [] }

def bindFields (s : State) (k : Nat) (b : NMap Nat) : List (Nat × List Byte) :=
  b.map fun p => (0x20000 + 0x4000 * k + 16 * p.1,
    leBytes 4 1 ++ leBytes 4 p.2 ++ leBytes 6 ((mget s.rou.slots p.2).map (·.handle) |>.getD 0))
def bindFrom (m : List Host.Cell) (k : Nat) : NMap Nat :=
  (List.range 1024).filterMap fun o =>
    let a := 0x20000 + 0x4000 * k + 16 * o
    if rd m a 1 = 0 then none else some (o, rd m (a + 4) 4)

/-! ### The pending-remote table (R377) -/

/-- Kind, size and number of a destination; an entry of QR is named by its place in the queue. -/
def dstFields (qr : List SSlot) (p : PendRemote) : Nat × Nat × Nat := match p.dst with
  | .none => (0, 0, 0)
  | .scalar (.reg n) z => (1, z, n)
  | .scalar .qr z => (2, z, qr.findIdx fun x => x.val.isNone && x.flight == p.flight)
  | .pair d => (3, 0, d)
  | .lanes d z => (4, z, d)

def dstFrom (k z n : Nat) : RemoteDst := match k with
  | 1 => .scalar (.reg n) z
  | 2 => .scalar .qr z
  | 3 => .pair n
  | 4 => .lanes n z
  | _ => .none

def pendBase (i : Nat) : Nat := 0x4000 + 64 * i

/-- An entry (DESIGN CHOICE, log entry 8): VALID, OP, ORD, engine, TYPE (2), kind and size of the destination, destination field (2), groups
outstanding (2), stream slot (4) and serial (4) of the lowest outstanding operation, post byte, and the instruction's number (8). -/
def pendBytes (qr : List SSlot) (p : PendRemote) : List Byte :=
  let d := dstFields qr p
  leBytes 1 1 ++ leBytes 1 p.code ++ leBytes 1 (ordCode p.ord) ++ leBytes 1 (engCode p.eng) ++ leBytes 2 p.type ++ leBytes 1 d.1 ++ leBytes 1 d.2.1 ++
    leBytes 2 d.2.2 ++ leBytes 2 p.left ++ leBytes 4 p.slot ++ leBytes 4 p.serial ++ leBytes 1 (postByte p.post) ++ leBytes 7 0 ++ leBytes 8 p.flight

def engOfNat : Nat → Engine
  | 0 => .seq | 1 => .mem | 2 => .vec | _ => .mtx

def pendAt (m : List Host.Cell) (i : Nat) : Option PendRemote :=
  let b := pendBase i
  if rd m b 1 = 0 then none
  else
    let p := rd m (b + 0x14) 1
    some { flight := rd m (b + 0x1C) 8, eng := engOfNat (rd m (b + 3) 1), code := rd m (b + 1) 1, type := rd m (b + 4) 2, ord := ordOf (rd m (b + 2) 1),
           dst := dstFrom (rd m (b + 6) 1) (rd m (b + 7) 1) (rd m (b + 8) 2), left := rd m (b + 0xA) 2, slot := rd m (b + 0xC) 4,
           serial := rd m (b + 0x10) 4, post := if p ≥ 32 then some (p % 32) else none }

/-- The valid entries with their indexes. -/
def pendList (m : List Host.Cell) : List (Nat × PendRemote) := (List.range 64).filterMap fun i => (pendAt m i).map fun p => (i, p)

def pendFields (cs : CoreSt) : List (Nat × List Byte) := cs.pend.mapIdx fun i p => (pendBase i, pendBytes cs.qr p)

/-- Reserved entries of QR belong again to the pending instructions that push them. -/
def claimQr (m : List Host.Cell) (l : List SSlot) : List SSlot :=
  let push (i : Nat) (x : Nat × PendRemote) : Bool := x.2.dst matches .scalar .qr _ && rd m (pendBase x.1 + 8) 2 == i
  l.mapIdx fun i x => match x.val, (pendList m).find? (push i) with
    | none, some p => { x with flight := p.2.flight, eng := p.2.eng }
    | _, _ => x

/-! ### The whole record -/

/-- Vector registers as accumulator rows, tiles and the scratchpad. -/
def dataFields (cs : CoreSt) : List (Nat × List Byte) :=
  (cs.vregs.map fun p => fld (0xD000 + 32 * p.1) 32 p.2.tags.toNat) ++ (cs.vregs.map fun p => fld (0x34000 + 512 * p.1) 512 p.2.data.toNat) ++
    (cs.tiles.map fun p => fld (0x3200 + p.1) 1 (tagNib p.2.tag)) ++ (cs.tiles.map fun p => fld (0x64000 + 512 * p.1) 512 p.2.data.toNat)

def poisonFields (cs : CoreSt) : List (Nat × List Byte) :=
  let bytes := (cs.spmPoison.map fun p => p.1 / 8).eraseDups
  bytes.map fun b => fld (0x2C000 + b) 1 (packLanes 1 ((List.range 8).map fun i => if (mget cs.spmPoison (8 * b + i)).isSome then 1 else 0))

/-- Copy entries numbered from the lowest that either queue holds; a fence no longer names what has left (R359, R377). -/
def relCq (l other : List CqEntry) : List CqEntry :=
  let lo := (l ++ other).foldl (fun m x => min m x.seqNo) (((l ++ other).head?.map (·.seqNo)).getD 0)
  l.map fun x => { x with seqNo := x.seqNo - lo, waits := (x.waits.filter fun w => lo ≤ w.2).map fun w => (w.1, w.2 - lo) }

/-- The paused commands of a queue, with their places from the head (R361). -/
def pausesOf (q : Nat) (xs : List CqEntry) : List (Nat × Nat × HaltRec) :=
  (xs.mapIdx fun i x => (i, x)).filterMap fun p => p.2.paused.map fun h => (q, p.1, h)

/-- The commands that a record shows, paused where it notes so. -/
def pausedIn (r : Record) (q : Nat) (xs : List CqEntry) : List CqEntry :=
  xs.mapIdx fun i x => { x with paused := (r.pauses.find? fun p => p.1 == q && p.2.1 == i).map (·.2.2) }

/-- What a report names, with entries of queues by their place from the head. -/
def saveTag (cs : CoreSt) (t : TagOp) : TagOp := match t.dst with
  | some (.entry q f) =>
    let i := (getSq cs q).findIdx fun x => x.flight == f
    let j := (getDq cs q).findIdx fun x => x.flight == f
    { t with dst := some (.entry q (slotName (if i < (getSq cs q).length then i else j))) }
  | _ => t

/-- The record of a core's half of a team, with STATE st (DESIGN CHOICE, log entry 8). -/
def makeRecord (s : State) (c : Nat) (o : Occ) (st : Nat) (pair : Option Bool) : Record :=
  let cs := getCore s c
  let cyc := residence s cs
  let fs := headerFields s c o st ++ ([.seq, .mem, .vec, .mtx].flatMap (engineFields cs cyc pair)) ++ maskFields cs ++ pendFields cs ++
    squeueFields 0 cs.qsMem ++ squeueFields 1 cs.qsVec ++ squeueFields 2 cs.qsMtx ++ squeueFields 3 cs.qr ++ semFields cs ++ tcFields cs ++
    (cs.banks.map fun p => fld (0x3A00 + 4 * p.1) 4 (bankWord p.2)) ++ childFields cs ++
    ((List.range 6).flatMap fun k => dqueueFields k (mgetD [] cs.dqs k)) ++ cqFields 0 (relCq cs.cq0 cs.cq1) ++ cqFields 1 (relCq cs.cq1 cs.cq0) ++
    bindFields s 0 cs.bindCore ++ bindFields s 1 cs.bindCq0 ++ bindFields s 2 cs.bindCq1 ++ poisonFields cs ++ dataFields cs
  let spm := cs.spm.map fun x => (0x164000 + x.1, x.2)
  { occ := o, core := c, bytes := putFields spm fs, tagOps := cs.tagOps.map (saveTag cs), replay := cs.mtx.replayFtz.isSome, pairFtz := pair,
    lastIssue := [cs.seq.lastIssue, cs.mem.lastIssue, cs.vec.lastIssue, cs.mtx.lastIssue], woke := (cs.watch.map (·.wake)).getD false, pauses := pausesOf 0 cs.cq0 ++ pausesOf 1 cs.cq1 }

/-- An engine of a record: what it has gone without an issue counts on (R128, R369). -/
def engineOf (r : Record) (asid : Nat) (replay : Bool) (e : Engine) : Stream :=
  let st := engineFrom r.bytes asid replay e
  { st with lastIssue := r.lastIssue.getD (engCode e) st.lastIssue }

/-- The core that a record describes; its instruction memories are empty, and `lead` is the record of half 0 (R376, R381); a wake
bit that the runtime has set wakes either half, `own` telling whether a half noted its own (R368) (DESIGN CHOICE, log entry 8). -/
def coreFrom (s : State) (r : Record) (asid : Nat) (lead : List Host.Cell) (own : Bool) : CoreSt :=
  let m := r.bytes
  let fl := rd m 7 1
  let va := rd m 0x20 8
  { seq := engineOf r asid false .seq, mem := engineOf r asid false .mem, vec := engineOf r asid false .vec, mtx := engineOf r asid r.replay .mtx,
    occ := some r.occ, preds := BitVec.ofNat 8 (rd m 0x1038 1) ||| 1, resBase := rd m 0x1030 8, resStart := coreCycle s,
    estVal := rd lead 0x18 8, estAt := rd m 0x1030 8, masks := masksFrom m,
    bps := mapFrom 0 8 fun n => BitVec.ofNat 1024 (rd m (0x2400 + 128 * n) 128),
    vregs := mapFrom {} 384 fun n => { data := BitVec.ofNat 4096 (rd m (0x34000 + 512 * n) 512), tags := BitVec.ofNat 256 (rd m (0xD000 + 32 * n) 32) },
    tiles := mapFrom {} 2048 fun n => { data := BitVec.ofNat 4096 (rd m (0x64000 + 512 * n) 512), tag := nibTag (rd m (0x3200 + n) 1) },
    tcT := mapFrom 0 16 fun n => BitVec.ofNat 64 (rd m (0x3080 + 8 * n) 8),
    tcAcc := mapFrom 0 3 fun n => BitVec.ofNat 64 (rd m (0x3100 + 8 * n) 8),
    spm := (m.filter fun x => 0x164000 ≤ x.1 && x.1 < 0x364000).map fun x => (x.1 - 0x164000, x.2),
    spmPoison := ((m.filter fun x => 0x2C000 ≤ x.1 && x.1 < 0x34000).flatMap fun x =>
      ((List.range 8).filter fun i => x.2.getLsbD i).map fun i => (8 * (x.1 - 0x2C000) + i, ())),
    sems := semsFrom m, qsMem := squeueFrom m 0, qsVec := squeueFrom m 1, qsMtx := squeueFrom m 2, qr := claimQr m (squeueFrom m 3),
    dqs := mapFrom [] 6 (dqueueFrom m), actCount := rd m 0x30 8, cq0 := pausedIn r 0 (cqFrom m 0), cq1 := pausedIn r 1 (cqFrom m 1),
    cqSeq := (cqFrom m 0 ++ cqFrom m 1).foldl (fun n x => max n (x.seqNo + 1)) 0,
    bindCore := bindFrom m 0, bindCq0 := bindFrom m 1, bindCq1 := bindFrom m 2,
    pend := (pendList m).map (·.2), tagOps := r.tagOps,
    rfail := if (rd m 0x80 1).testBit 0 then
        some { cause := Cause.ofCode (rd m 0x80 1 / 2 % 8), count := rd m 0x82 2, serial := rd m 0x84 4, handle := rd m 0x88 6, owner := rd m 0x8E 2 }
      else none,
    children := childrenFrom m, childId := rd m 0x38 4,
    watch := if fl.testBit 2 then some { key := keyOf s asid va, va := va, wake := (r.woke || !own) && (rd lead 7 1).testBit 3 } else none,
    overflow := fl.testBit 4, deadline := if rd m 0x28 8 = 0 then none else some (rd m 0x28 8) }

/-- Banks saved as open, with their rows, and those saved as lapsed-closed. -/
def savedBanks (m : List Host.Cell) : List (Nat × Nat × Nat) :=
  (List.range 128).filterMap fun b => let w := rd m (0x3A00 + 4 * b) 4; if w % 4 = 0 then none else some (b, w % 4, w / 2 ^ 16 % 8192)

/-! ### Where tags stand (R317) -/

/-- The place holds a tag of this cause. -/
def placeHolds (cs : CoreSt) (c : Cause) : TagPlace → Bool
  | .sreg e n => (readReg (cs.stream e) e n).tag == some c
  | .vreg n => (List.range 64).any fun g => granTag (readV cs n).tags.toNat g == some c
  | .mask n => (readMask cs n).tag == some c
  | .entry q f => ((getSq cs q).any fun x => x.flight == f && x.val.any fun v => v.tag == some c) ||
      (getDq cs q).any fun x => x.flight == f && x.val.any fun v => (List.range 64).any fun g => granTag v.tags.toNat g == some c

/-- The register numbers that the instruction at which an engine stands may read, by its fields A, B and D. -/
def standRegs (cs : CoreSt) (e : Engine) : List Nat :=
  match (cs.stream e).pc with
  | .fin => []
  | .pos line slot => match mget (cs.imem e) line with
    | none => []
    | some l =>
      let ws := (List.range (16 - slot)).map fun j => lineWord l (slot + j)
      let r := rawOf (ws.getD 0 0) (ws.getD 1 0) 0
      match decode e ws with
      | .ok (_, 1) => [r.a, r.d]
      | _ => [r.a, r.b, r.d, r.b + 1, r.d + 1]

/-- The queues from which instructions pop. -/
def scalarQueues : List QName := [.qsMem, .qsVec, .qsMtx, .qr]
def dataQueues : List QName := [.lq 0, .lq 1, .lq 2, .lq 3, .sq 0, .sq 1]

/-- The heads of the queues. -/
def headPlaces (cs : CoreSt) (e : Engine) : List TagPlace :=
  let own (q : QName) : Bool := if e = .seq then q == .qr else q == qsName e
  ((scalarQueues.filter own).filterMap fun q => (getSq cs q).head?.map fun x => .entry q x.flight) ++
    if e = .mem || e = .vec then dataQueues.filterMap fun q => (getDq cs q).head?.map fun x => .entry q x.flight else []

/-- Where the instruction at which an engine stands may find a tag. -/
def standPlaces (cs : CoreSt) (e : Engine) : List TagPlace :=
  let rs := standRegs cs e
  rs.map (.sreg e) ++ headPlaces cs e ++ (if e = .seq then [] else rs.map .vreg ++ (List.range 16).map .mask)

/-- Places that the issue of one instruction of engine e has written: registers, masks, and entries that it will fill. -/
def writtenPlaces (a b : CoreSt) (e : Engine) : List TagPlace :=
  (((b.stream e).regs.filter fun p => mget (a.stream e).regs p.1 != some p.2).map fun p => .sreg e p.1) ++
  ((b.vregs.filter fun p => mget a.vregs p.1 != some p.2).map fun p => .vreg p.1) ++
  ((b.masks.filter fun p => mget a.masks p.1 != some p.2).map fun p => .mask p.1) ++
  ((b.flights.filter fun f => a.nextId ≤ f.id).flatMap fun f => f.fills.map fun x => match x with
    | .scalar q _ => .entry q f.id
    | .vector q _ => .entry q f.id)

/-- Causes of the tags that a place of this list will hold. -/
def writesCause (b : CoreSt) (c : Cause) (p : TagPlace) : Bool :=
  placeHolds b c p || match p with
    | .entry q f => b.flights.any fun g => g.id == f && g.fills.any fun x => match x with
      | .scalar r v => r == q && v.tag == some c
      | .vector r v => r == q && (List.range 64).any fun k => granTag v.tags.toNat k == some c
    | _ => false

/-- What reports name moves with a tag: an instruction that takes a tag from a failed operation's destination passes it on to its own (R317, R372) (DESIGN CHOICE, log entry 70). -/
def carryTags (a b : CoreSt) (e : Engine) : CoreSt :=
  if a.tagOps.isEmpty then b
  else
    let reads := standPlaces a e
    let ws := writtenPlaces a b e
    let src (c : Cause) : Option TagOp := reads.findSome? fun p => a.tagOps.find? fun t => t.dst == some p && t.cause == c && placeHolds a c p
    let new := ws.flatMap fun p => [Cause.faultAtOwner, .streamLost, .ownerLost].filterMap fun c =>
      if writesCause b c p then (src c).map fun t => { t with dst := some p } else none
    { b with tagOps := new ++ b.tagOps.filter fun t => !(t.dst.any fun p => ws.contains p && !placeHolds b t.cause p) && !new.any fun x => x.dst == t.dst && x.cause == t.cause }

/-! ### Records of the package -/

def findRecord (s : State) (o : Occ) : Option Record := s.fw.records.find? fun r => r.occ == o
def putRecord (s : State) (r : Record) : State :=
  { s with fw := { s.fw with records := if s.fw.records.any fun q => q.occ == r.occ then s.fw.records.map fun q => if q.occ == r.occ then r else q
                                        else s.fw.records ++ [r] } }
/-- The record of half 0 shows a wake bit of either half (R301, R376). -/
def shareWake (s : State) (o : Occ) : State :=
  let team (q : Occ) : Bool := q == { o with half := 0 } || q == { o with half := 1 }
  match findRecord s { o with half := 0 } with
  | some r => if s.fw.records.any fun q => team q.occ && q.woke then putRecord s { r with bytes := writeBytes r.bytes 7 (leBytes 1 (rd r.bytes 7 1 ||| 8)) } else s
  | none => s

/-- The cluster barriers that a record holds. -/
def cbsFrom (m : List Host.Cell) : NMap CBar := mapFrom {} 16 fun n => wordCb (rd m (0x40 + 4 * n) 4)

/-! ### Faults of a team that is saved (R288, R367, R429, R430) -/

/-- An engine of a record is FAULTED, and no longer HALTED. -/
def recordFault (r : Record) (e : Engine) (code addr : Nat) : Record :=
  let b := blockBase e
  let st := recNat r (b + 4) 4
  let st := st - (if st.testBit 2 then 4 else 0) + (if st.testBit 3 then 0 else 8)
  recPut (recPut (recPut (recPut r (b + 4) 4 st) (b + 8) 2 code) (b + 0xA) 1 0) (b + 0x10) 8 addr

/-- Cause and destination index of a failed command, in its entry of a record's queue (R361, R377). -/
def failAt (q i : Nat) : Nat := 0x10056 + 0x8000 * q + 1024 * i
def recordFail (r : Record) (q i cause : Nat) : Record := recPut (recPut r (failAt q i) 2 cause) (failAt q i + 2) 2 0

/-- The failed command of a record: its queue and its index from the head. -/
def failedEntry (r : Record) : Option (Nat × Nat) :=
  [0, 1].findSome? fun q => ((List.range 32).find? fun i => recNat r (failAt q i) 2 != 0).map fun i => (q, i)

def recordFaulted (r : Record) (e : Engine) : Bool := (recNat r (blockBase e + 4) 4).testBit 3

/-- The TRAP report of a half whose team stops while it is saved: what `trapReport` takes from a core, from the record (R430). -/
def recordReport (s : State) (r : Record) : Report :=
  let t := recNat r 0x16 2
  let hit := [Engine.seq, .mem, .vec, .mtx].find? fun e => recordFaulted r e && recNat r (blockBase e + 8) 2 == t
  let e := hit.getD .seq
  let cq := if t = trapCode .cqFault then failedEntry r else none
  { kind := 1, engine := match cq with | some p => 4 + p.1 | none => engCode e
    code := t, launch := r.occ.launch, gang := r.occ.gang, team := r.occ.team, half := r.occ.half, core := recNat r 0x14 2
    asid := launchAsid s r.occ.launch, pc := recNat r (blockBase e) 4, ctx := recordAddr s r.occ
    addr := if hit.isSome then BitVec.ofNat 64 (recNat r (blockBase e + 0x10) 8) else 0
    aux := if hit.isSome then recNat r (blockBase e + 0xA) 1 else 0
    count := match cq with | some p => p.2 | none => ([Engine.seq, .mem, .vec, .mtx].filter (recordFaulted r)).length }

/-- The Onyx event of a trap that a saved half takes (R431). -/
def logRecord (s : State) (r : Record) (eng code : Nat) (e : Engine) : State :=
  let c := recNat r 0x14 2
  let a := if eng < 4 then recNat r (blockBase e + 0x10) 8 else 0
  logStack s (c / 48) code [(4, r.occ.launch), (4, r.occ.gang), (2, r.occ.team), (1, r.occ.half), (1, eng), (2, c), (4, recNat r (blockBase e) 4), (8, a)]

/-- One half of a saved team that stops: STATE 2 and TCODE, 0 in the half that no trap reached, and its report. -/
def stopRecord (code : Occ → Nat) (s : State) (r : Record) : State :=
  let x := recPut (recPut (recPut r 6 1 2) 7 1 (recNat r 7 1 ||| 0x40)) 0x16 2 (code r.occ)
  postReport (putRecord s x) (recordReport s x)

/-- A saved team becomes a stopped one, both halves of it (DEDUCED, log entry 50). -/
def stopSaved (s : State) (o : Occ) (code : Occ → Nat) : State :=
  let mine (r : Record) : Bool := r.occ.launch == o.launch && r.occ.gang == o.gang && r.occ.team == o.team && recNat r 6 1 == 1
  updTeam ((s.fw.records.filter mine).foldl (stopRecord code) s) o.launch o.gang o.team fun t => { t with stopped := true }

/-- An engine of a saved half takes a precise fault: its team stops, unless it has stopped already. -/
def faultSaved (s : State) (r : Record) (e : Engine) (code addr : Nat) : State :=
  let x := recordFault r e code addr
  let s := logRecord (putRecord s x) x (engCode e) code e
  if recNat r 6 1 = 1 then stopSaved s r.occ fun o => if o = r.occ then code else 0 else s

def dropRecord (s : State) (o : Occ) : State := { s with fw := { s.fw with records := s.fw.records.filter fun q => q.occ != o } }

end Sys2Proof.Machine
end

