-- ==== Sys2Proof/Machine/Rou.lean ====
section
/-! DEFINITION. The requester side of the Remote Operation Unit: stream slots, serials, departures, replies and failures (R303 to R308, R316, R317, R319, R320). -/

namespace Sys2Proof.Machine

/-! ### Slots (R304, R305) -/

def getSlot (s : State) (k : Nat) : ReqSlot := mgetD {} s.rou.slots k
def setSlot (s : State) (k : Nat) (x : ReqSlot) : State := { s with rou := { s.rou with slots := mset s.rou.slots k x } }
def sendPacket (s : State) (p : Packet) : State := { s with rou := { s.rou with outbox := s.rou.outbox ++ [p] } }

/-- The package that owns an address (R303). -/
def ownerOf (s : State) (va : Nat) : Nat := match vaClass s va with
  | .remote p => p
  | _ => s.pkg

/-- Bindings of a core's engines or of a copy queue. -/
def bindings (cs : CoreSt) : StreamUser → NMap Nat
  | .core => cs.bindCore | .cq0 => cs.bindCq0 | .cq1 => cs.bindCq1
def setBindings (cs : CoreSt) (b : NMap Nat) : StreamUser → CoreSt
  | .core => { cs with bindCore := b } | .cq0 => { cs with bindCq0 := b } | .cq1 => { cs with bindCq1 := b }

def userOf (o : RemOp) : StreamUser := match o.copy with
  | some (q, _) => userOfQueue q
  | none => .core

/-- The slot that a user of a requester holds towards an owner, unless it is closing. -/
def boundSlot (s : State) (b : Option Occ) (u : StreamUser) (owner : Nat) : Option Nat :=
  (s.rou.slots.find? fun p => p.2.bound == b && b.isSome && p.2.user == u && p.2.owner == owner && (p.2.st == .opening || p.2.st == .isOpen)).map (·.1)

/-- Where the binding of a user to an owner stands in a record. -/
def bindOff (u : StreamUser) (owner : Nat) : Nat :=
  0x20000 + 0x4000 * (match u with | .core => 0 | .cq0 => 1 | .cq1 => 2) + 16 * owner

/-- A binding is recorded with its requester: on its core, or in the record of a saved team (R304, R377). -/
def bindAt (s : State) (b : Option Occ) (u : StreamUser) (owner k : Nat) : State :=
  match s.cores.find? fun p => p.2.occ == b && b.isSome with
  | some p => setCore s p.1 (setBindings p.2 (mset (bindings p.2 u) owner k) u)
  | none => match b.bind (findRecord s) with
    | some r => putRecord s { r with bytes := writeBytes r.bytes (bindOff u owner) (leBytes 4 1 ++ leBytes 4 k ++ leBytes 8 (getSlot s k).handle) }
    | none => s

def serialDiff (a b : Nat) : Nat := (a + 2 ^ 32 - b % 2 ^ 32) % 2 ^ 32
/-- serial_before (R306). -/
def serialBefore (x y : Nat) : Bool := let d := serialDiff y x; 1 ≤ d && d < 2 ^ 31

/-- Slots with nothing outstanding or waiting whose FLOOR the owner has confirmed, by last use. -/
def closable (x : ReqSlot) : Bool := x.st == .isOpen && x.out.isEmpty && x.waitq.isEmpty && x.acked == x.floor
def lruSlot : NMap ReqSlot → Option (Nat × ReqSlot)
  | [] => none
  | (k, x) :: t => match lruSlot t with
    | some y => if closable x && x.lastUse ≤ y.2.lastUse then some (k, x) else some y
    | none => if closable x then some (k, x) else none

/-- A stream closes: a CLOSE packet leaves, with the FLOOR. -/
def closeSlot (s : State) (k : Nat) : State :=
  let x := getSlot s k
  sendPacket (setSlot s k { x with st := .closing, lastSent := s.time, ctlSince := s.time, ctlTries := 0 }) (.close x.owner x.handle x.floor)

/-- Opens a stream on a free slot; with none free and none on its way to be, the least recently used idle stream is closed and the caller waits. -/
def openSlot (s : State) (b : Option Occ) (c : Nat) (u : StreamUser) (owner : Nat) : State × Option Nat :=
  match (List.range 16384).find? fun k => (getSlot s k).st == .free with
  | some k =>
    let x : ReqSlot := { st := .opening, owner := owner, nonce := s.rou.nonce, bound := b, core := c, user := u,
                         lastSent := s.time, ctlSince := s.time, lastUse := s.time }
    let s := bindAt (setSlot { s with rou := { s.rou with nonce := s.rou.nonce + 1 } } k x) b u owner k
    (sendPacket s (.openPkt owner k x.nonce), some k)
  | none =>
    if s.rou.slots.any fun p => p.2.st == .closing then (s, none)
    else match lruSlot s.rou.slots with
      | some (k, _) => (closeSlot s k, none)
      | none => (s, none)

/-! ### Departures (R306, R308, R320) -/

/-- The request packet of an operation. -/
def packetOf (s : State) (x : ReqSlot) (o : RemOp) : ReqPacket :=
  { src := s.pkg, handle := x.handle, serial := o.serial, ack := x.floor, op := o.code, ord := o.ord, type := o.type, asid := o.asid,
    va := o.va, mask := o.mask, opnd := o.opnd }

/-- Every operation of an access has left: it has cleared, and a store or reduction retires. -/
def accessLeft (s : State) (c id : Nat) : State :=
  let cs := getCore s c
  match cs.accesses.find? fun a => a.id == id with
  | none => s
  | some a =>
    if !a.ops.isEmpty || a.pieces.any (fun p => p.route != .cached && p.st == .idle) then s
    else
      let s := setCore s c { cs with accesses := cs.accesses.map fun b => if b.id = id then { b with cleared := true } else b }
      if a.store then
        match (getCore s c).flights.find? fun f => f.id == a.flight with
        | some f => retireFlight s c f
        | none => s
      else s

/-- The pending table names the slot and serial of an instruction's first operation. -/
def notePend (s : State) (k : Nat) (o : RemOp) : State :=
  if o.piece ≠ 0 ∨ o.copy.isSome ∨ o.saved then s
  else
    let cs := getCore s o.core
    setCore s o.core { cs with pend := cs.pend.map fun p => if p.flight = o.flight then { p with slot := k, serial := o.serial } else p }

/-- What an operation's departure means in its core. -/
def opLeft (s : State) (o : RemOp) : State :=
  match o.copy, o.acc with
  | some (q, sq, i, _), _ => setCore s o.core (updEntry (getCore s o.core) q sq fun x => { x with sent := if x.sent.contains i then x.sent else i :: x.sent })
  | none, some a => if o.saved then s else accessLeft (setCore s o.core (setPiece (getCore s o.core) a o.piece fun p => { p with st := .sent })) o.core a
  | none, none => s

/-- The oldest waiting operation takes NEXT and leaves, while the window has room. -/
def leaveOne (s : State) (k : Nat) : Option State :=
  let x := getSlot s k
  match x.st, x.waitq with
  | .isOpen, o :: t =>
    if serialDiff x.next x.floor ≥ 4096 then none
    else
      let o := { o with serial := x.next, sentAt := s.time, leftAt := s.time, tries := 0 }
      let y := { x with next := (x.next + 1) % 2 ^ 32, out := x.out ++ [o], waitq := t, lastUse := s.time, floorAt := none }
      some (opLeft (notePend (sendPacket (setSlot s k y) (.req x.owner (packetOf s y o))) k o) o)
  | _, _ => none

def pumpSlot : Nat → State → Nat → State
  | 0, s, _ => s
  | n + 1, s, k => match leaveOne s k with
    | some s' => pumpSlot n s' k
    | none => s

def pump (s : State) (k : Nat) : State := pumpSlot (getSlot s k).waitq.length s k

/-- An operation of a requester is handed to its stream, which is opened first when there is none; none while no slot can be had. -/
def handOverAs (b : Option Occ) (s : State) (o : RemOp) : State × Bool :=
  let owner := ownerOf s o.va
  let give (s : State) (k : Nat) : State × Bool :=
    let x := getSlot s k
    (pump (setSlot s k { x with waitq := x.waitq ++ [o] }) k, true)
  match boundSlot s b (userOf o) owner with
  | some k => give s k
  | none =>
    let r := openSlot s b o.core (userOf o) owner
    match r.2 with
    | some k => give r.1 k
    | none => (r.1, false)

/-- The same for the team on the operation's core. -/
def handOver (s : State) (o : RemOp) : State × Bool := handOverAs (getCore s o.core).occ s o

/-- The first operation of an access leaves its list. -/
def dropOp (cs : CoreSt) (id : Nat) : CoreSt :=
  { cs with accesses := cs.accesses.map fun a => if a.id = id then { a with ops := a.ops.drop 1 } else a }

/-- The next operation of an access may be handed over: every earlier one has left, or waits in the same stream (R303). -/
def nextMay (s : State) (a : Access) : Bool := match a.ops with
  | [] => false
  | o :: _ => (a.pieces.take o.piece).all fun p => !isRemoteRoute p.route || p.st != .idle || p.route == .remote (ownerOf s o.va)

/-- The operations of an access are handed over in order. -/
def sendOps : List RemOp → State → Nat → Nat → State
  | [], s, _, _ => s
  | o :: t, s, c, id =>
    if !((getCore s c).accesses.find? fun a => a.id == id).any (nextMay s) then s
    else
      let r := handOver (setCore s c (dropOp (getCore s c) id)) o
      if r.2 then sendOps t r.1 c id
      else
        let cs := getCore r.1 c
        setCore r.1 c { cs with accesses := cs.accesses.map fun a => if a.id = id then { a with ops := o :: a.ops } else a }

/-! ### Outcomes (R317, R320, R325, R326) -/

/-- What an operation ends with: its old value, or a failure and its fault code. -/
inductive Outcome where
  | done (v : BitVec 128)
  | failed (c : Cause) (fcode : Nat)
  deriving DecidableEq, Repr

def isRelease : Ord → Bool
  | .rel | .ar | .sc => true
  | _ => false

/-- A failure without a destination enters the remote-failure record. -/
def noteFailure (r : Option RFail) (c : Cause) (f : Nat) (x : ReqSlot) (serial : Nat) : Option RFail :=
  match r with
  | some f => some { f with count := min 65535 (f.count + 1) }
  | none => some { cause := c, count := 0, serial := serial, handle := x.handle, owner := x.owner, fcode := f }

/-- A returned scalar. -/
def outScalar (n : Nat) : Outcome → SVal
  | .done v => { val := BitVec.ofNat 64 (v.toNat % 2 ^ (8 * n)) }
  | .failed c _ => { val := 0, tag := some c }

def outHalf (hi : Bool) : Outcome → SVal
  | .done v => { val := BitVec.ofNat 64 (if hi then v.toNat >>> 64 else v.toNat % 2 ^ 64) }
  | .failed c _ => { val := 0, tag := some c }

/-- Lanes of a VAMO group written into its register. -/
def outLanes (old : VVal) (size : Nat) (o : RemOp) (r : Outcome) : VVal :=
  let w := 8 * 2 ^ size
  let vs := match r with
    | .done v => (laneVals ((homeOp o.code).getD .store) o.type (v.toNat % 2 ^ w) o.vals).map fun x => ({ val := x } : LaneOut)
    | .failed c _ => o.lanes.map fun _ => ({ val := 0, tag := some c } : LaneOut)
  writeLanes w old ((List.range (4096 / w)).map fun i => (o.lanes.zip vs).lookup i)

/-- What the report of a tagged destination names (R317). -/
def tagOp (x : ReqSlot) (o : RemOp) (dst : TagPlace) : Outcome → List TagOp
  | .done _ => []
  | .failed c f => [{ dst := some dst, cause := c, owner := x.owner, handle := x.handle, serial := o.serial, fcode := f }]

/-- Places of a destination; `q` names its entry of QR. -/
def dstRegs (p : PendRemote) (q : Nat) : List TagPlace := match p.dst with
  | .none => []
  | .scalar (.reg n) _ => [.sreg p.eng n]
  | .scalar .qr _ => [.entry .qr q]
  | .pair d => [.sreg p.eng d, .sreg p.eng (d + 1)]
  | .lanes d _ => [.vreg d]

/-- The destination of a resident requester is written; a push is filled at retirement. -/
def writeOut (cs : CoreSt) (p : PendRemote) (o : RemOp) (r : Outcome) : CoreSt :=
  match p.dst with
  | .scalar (.reg n) size => setReg cs p.eng n (outScalar (2 ^ size) r)
  | .scalar .qr size => { cs with flights := cs.flights.map fun f => if f.id = p.flight then { f with fills := f.fills ++ [.scalar .qr (outScalar (2 ^ size) r)] } else f }
  | .pair d => setReg (setReg cs p.eng d (outHalf false r)) p.eng (d + 1) (outHalf true r)
  | .lanes d size => writeV cs d (outLanes (readV cs d) size o r)
  | .none => cs

/-- The access to which an operation belongs has one piece fewer outstanding. -/
def pieceOver (cs : CoreSt) (o : RemOp) : CoreSt :=
  match o.acc with
  | none => cs
  | some a =>
    let cs := setPiece cs a o.piece fun p => { p with st := .done }
    { cs with accesses := cs.accesses.filter fun b => !(b.id == a && b.ops.isEmpty && b.pieces.all fun p => p.st == .done) }

/-- An operation of the pending table has its outcome; with the last, the instruction acquires and retires. -/
def pendOver (s : State) (x : ReqSlot) (p : PendRemote) (o : RemOp) (r : Outcome) : State :=
  let c := o.core
  let cs := pieceOver (writeOut (getCore s c) p o r) o
  let cs := { cs with tagOps := ((dstRegs p p.flight).flatMap fun d => tagOp x o d r) ++ cs.tagOps }
  if p.left > 1 then setCore s c { cs with pend := cs.pend.map fun q => if q.flight = p.flight then { q with left := q.left - 1 } else q }
  else
    let cs := { cs with pend := cs.pend.filter fun q => q.flight != p.flight }
    let cs := if acquires p.ord then acquire cs else cs
    let s := setCore s c cs
    match cs.flights.find? fun f => f.id == p.flight with
    | some f => retireFlight s c f
    | none => s

/-- The same in the context record of a saved team: the register image is written and the entry's pending bit cleared. -/
def recordScalar (m : List Host.Cell) (e : Engine) (n : Nat) (v : SVal) : List Host.Cell :=
  if isZeroReg e n then m
  else writeBytes (writeBytes m (blockBase e + 0x100 + 8 * n) (leBytes 8 v.val.toNat)) (blockBase e + 0xC0 + n) (leBytes 1 (tagNib v.tag))

/-- The entry of QR that the instruction reserved, at its place in the record's queue. -/
def recordPush (m : List Host.Cell) (i : Nat) (v : SVal) : List Host.Cell :=
  writeBytes m (0x2E00 + 16 * ((rd m 0x2F00 1 + i) % 16)) (leBytes 8 v.val.toNat ++ leBytes 1 (tagNib v.tag) ++ leBytes 1 1)

def recordOut (m : List Host.Cell) (j : Nat) (p : PendRemote) (o : RemOp) (r : Outcome) : List Host.Cell :=
  match p.dst with
  | .scalar (.reg n) size => recordScalar m p.eng n (outScalar (2 ^ size) r)
  | .scalar .qr size => recordPush m (rd m (pendBase j + 8) 2) (outScalar (2 ^ size) r)
  | .pair d => recordScalar (recordScalar m p.eng d (outHalf false r)) p.eng (d + 1) (outHalf true r)
  | .lanes d size =>
    let old : VVal := { data := BitVec.ofNat 4096 (rd m (0x34000 + 512 * d) 512), tags := BitVec.ofNat 256 (rd m (0xD000 + 32 * d) 32) }
    let v := outLanes old size o r
    writeBytes (writeBytes m (0x34000 + 512 * d) (leBytes 512 v.data.toNat)) (0xD000 + 32 * d) (leBytes 32 v.tags.toNat)
  | .none => m

def recordOver (r : Record) (x : ReqSlot) (o : RemOp) (v : Outcome) : Record :=
  match (pendList r.bytes).find? fun p => p.2.flight == o.flight && o.copy.isNone with
  | some (j, p) =>
    let m := recordOut r.bytes j p o v
    let m := if acquires p.ord then writeBytes m 7 (leBytes 1 (rd m 7 1 ||| 32)) else m
    let m := match p.left, p.post with
      | 1, some n => writeBytes m (0x3000 + 4 * n) (leBytes 2 (min 65535 (rd m (0x3000 + 4 * n) 2 + 1)))
      | _, _ => m
    let m := if p.left > 1 then writeBytes m (pendBase j + 0xA) (leBytes 2 (p.left - 1)) else writeBytes m (pendBase j) (leBytes 64 0)
    { r with bytes := m, tagOps := ((dstRegs p (slotName (rd r.bytes (pendBase j + 8) 2))).flatMap fun d => tagOp x o d v) ++ r.tagOps }
  | none =>
    let r := if acquires o.ord then { r with bytes := writeBytes r.bytes 7 (leBytes 1 (rd r.bytes 7 1 ||| 32)) } else r
    match v with
    | .done _ => r
    | .failed c f =>
      let old : Option RFail := if (rd r.bytes 0x80 1).testBit 0 then
          some { cause := Cause.ofCode (rd r.bytes 0x80 1 / 2 % 8), count := rd r.bytes 0x82 2, serial := rd r.bytes 0x84 4,
                 handle := rd r.bytes 0x88 6, owner := rd r.bytes 0x8E 2 } else none
      { r with bytes := putFields r.bytes (rfailFields (noteFailure old c f x o.serial)) }

/-- The engine whose post, made in a record with the last reply of its instruction, overflows (R288). -/
def recordOverflow (r : Record) (o : RemOp) : Option Engine :=
  match (pendList r.bytes).find? fun p => p.2.flight == o.flight && o.copy.isNone with
  | some (_, p) => if p.left = 1 ∧ p.post.any (fun n => rd r.bytes (0x3000 + 4 * n) 2 == 65535) then some p.eng else none
  | none => none

/-- An operation of a saved team has its outcome; a post that overflows stops the team (R288, R320). -/
def savedOver (s : State) (r : Record) (x : ReqSlot) (o : RemOp) (v : Outcome) : State :=
  let y := recordOver r x o v
  match recordOverflow r o with
  | some e => faultSaved s y e (trapCode .semOverflow) 0
  | none => putRecord s y

/-- Killed requesters: the reply is discarded and listed for the kill report. -/
def listDiscard (s : State) (x : ReqSlot) (o : RemOp) : State :=
  match x.bound with
  | none => s
  | some b => match mget s.disp.launches b.launch with
    | none => s
    | some l => { s with disp := { s.disp with launches := mset s.disp.launches b.launch { l with discards := l.discards ++ [(x.handle, x.owner, o.serial)] } } }

/-- An atomic's own copies of the words it changes are invalidated, but for those that the core owns: when it leaves, and again with its reply, when
the words it owned have been revoked (R332, R333). -/
def dropAtoms (s : State) (c : Nat) (ops : List RemOp) : State :=
  (ops.filter fun o => o.code != 0xF0).foldl (fun s o => setCore s c (dropWords (getCore s c) (keyOf s o.asid o.va) (wordMask (o.va % 128) o.n))) s

/-- An operation of slot k has its outcome. -/
def opOver (s : State) (x : ReqSlot) (o : RemOp) (r : Outcome) : State :=
  if o.discard then listDiscard s x o
  else match o.copy with
    | some (q, sq, i, d) =>
      if o.saved then s
      else match r with
        | .done _ => copyAck s o.core q sq i d
        | .failed c _ => cqFault s o.core q sq (trapCode (causeTrap c)) d
    | none =>
      if o.saved then
        match x.bound.bind (findRecord s) with
        | some rec' => savedOver s rec' x o r
        | none => s
      else
        let s := dropAtoms s o.core [o]
        let cs := getCore s o.core
        match cs.pend.find? fun p => p.flight == o.flight with
        | some p => pendOver s x p o r
        | none =>
          let cs := pieceOver (if acquires o.ord then acquire cs else cs) o
          match r with
          | .done _ => setCore s o.core cs
          | .failed c f => setCore s o.core { cs with rfail := noteFailure cs.rfail c f x o.serial }

/-! ### Replies (R307, R309, R316, R317) -/

/-- FLOOR: the lowest serial whose reply has not arrived, or NEXT. -/
def floorOf (x : ReqSlot) : Nat := match x.out with
  | [] => x.next
  | o :: _ => o.serial

/-- A serial of a slot is answered: FLOOR may advance, and the first advance that no packet has carried starts the timer of R307. -/
def retireSerial (s : State) (k serial : Nat) : State :=
  let x := getSlot s k
  let y := { x with out := x.out.filter fun o => o.serial != serial }
  let f := floorOf y
  setSlot s k { y with floor := f, floorAt := if f = x.floor then x.floorAt else some (x.floorAt.getD s.time) }

/-- A binding ends. -/
def unbindSlot (s : State) (k : Nat) : State :=
  let x := getSlot s k
  let cs := getCore s x.core
  if cs.occ = x.bound then setCore s x.core (setBindings cs ((bindings cs x.user).filter fun p => p.2 != k) x.user) else s

/-- The bindings of a saved record lose a slot that they name. -/
def unbindRecord (s : State) (k : Nat) : State :=
  let x := getSlot s k
  let b := bindOff x.user x.owner
  match x.bound.bind (findRecord s) with
  | some r => if rd r.bytes b 1 ≠ 0 ∧ rd r.bytes (b + 4) 4 = k then putRecord s { r with bytes := writeBytes r.bytes b (leBytes 16 0) } else s
  | none => s

/-- A slot becomes free. -/
def freeSlot (s : State) (k : Nat) : State := setSlot (unbindRecord (unbindSlot s k) k) k {}

/-- An operation waits for a slot without its core. -/
def parkOp (b : Option Occ) (s : State) (o : RemOp) : State := match b with
  | some x => { s with rou := { s.rou with parked := s.rou.parked ++ [(x, o)] } }
  | none => s

/-- Operations of a requester that had not left wait on: they leave on a new stream, which the first of them opens (R317). -/
def rehand (b : Option Occ) : List RemOp → State → State
  | [], s => s
  | o :: t, s =>
    let r := handOverAs b s o
    rehand b t (if r.2 then r.1 else parkOp b r.1 o)

/-- An operation that waits for a slot may have it: no earlier one of its instruction waits for a slot, or in another stream (R303). -/
def parkedMay (s : State) (seen : List (Occ × RemOp)) (x : Occ × RemOp) : Bool :=
  let same (o : RemOp) : Bool := o.flight == x.2.flight && o.eng == x.2.eng && o.copy.isNone && x.2.copy.isNone
  !(seen.any fun y => y.1 == x.1 && same y.2) &&
    s.rou.slots.all fun p => p.2.bound != some x.1 || p.2.owner == ownerOf s x.2.va || !p.2.waitq.any fun o => same o && o.piece < x.2.piece

/-- The first operation that waits for a slot and can have one is handed over; or a stream is closed to make room (R304). -/
def handParked : List (Occ × RemOp) → List (Occ × RemOp) → State → Option State
  | _, [], _ => none
  | seen, x :: t, s =>
    if !parkedMay s seen x then handParked (seen ++ [x]) t s
    else
      let r := handOverAs (some x.1) s x.2
      if r.2 then some { r.1 with rou := { r.1.rou with parked := r.1.rou.parked.erase x } }
      else if (r.1.rou.slots.any fun p => p.2.st == .closing) && !(s.rou.slots.any fun p => p.2.st == .closing) then some r.1
      else handParked (seen ++ [x]) t s

/-- A stream ends with a failure: every outstanding operation has it, the slot is freed, and waiting operations go on. -/
def failStream (s : State) (k : Nat) (c : Cause) : State :=
  let x := getSlot s k
  let s1 := x.out.foldl (fun s o => opOver s x o (.failed c 0)) s
  rehand x.bound x.waitq (freeSlot s1 k)

/-- The slot of an outstanding serial of a handle and owner. -/
def outstanding (s : State) (owner handle serial : Nat) : Option (Nat × ReqSlot × RemOp) :=
  match s.rou.slots.find? fun p => (p.2.st == .isOpen || p.2.st == .closing) && p.2.owner == owner && p.2.handle == handle &&
      p.2.out.any fun o => o.serial == serial with
  | none => none
  | some (k, x) => (x.out.find? fun o => o.serial == serial).map fun o => (k, x, o)

/-- A packet between the package's own two sides is taken from its outbox; one from another package comes over the fabric. -/
def takePacket (s : State) (src : Nat) (p : Packet) : Option State :=
  if src ≠ s.pkg then some s
  else if s.rou.outbox.contains p then some { s with rou := { s.rou with outbox := s.rou.outbox.erase p } }
  else none

/-- A package has been heard of (R364). -/
def hear (s : State) (p : Nat) : State := { s with rou := { s.rou with heard := mset s.rou.heard p s.time } }

/-- A packet of the package itself, or of another one of its domain, arrives; it shows that its sender is reachable (R364). -/
def fromFabric (s : State) (src : Nat) (p : Packet) : Option State :=
  if src ≠ s.pkg ∧ !(s.fw.inDomain && s.fw.domain.contains src) then none
  else (takePacket s src p).map fun s =>
    { s with rou := { s.rou with lostPkgs := s.rou.lostPkgs.filter (· != src), heard := mset s.rou.heard src s.time } }

/-- The stream of a requester that has ended or was killed closes when it is open and its last reply has arrived (R304, R320). -/
def closeIfDead (s : State) (k : Nat) : State :=
  let x := getSlot s k
  if x.dead && x.out.isEmpty && x.waitq.isEmpty && x.st == .isOpen then closeSlot s k else s

/-- A REPLY: BUSY changes nothing; a reply that is not awaited is ignored. -/
def replyArrives (owner handle serial : Nat) (st : RStatus) (fcode : Nat) (value : List (BitVec 128)) (s : State) : Option State :=
  match fromFabric s owner (.reply s.pkg handle serial st fcode value) with
  | none => none
  | some s =>
    match outstanding s owner handle serial with
    | none => some s
    | some (k, x, o) =>
      match st with
      | .busy => some s
      | .streamLost => some (failStream s k .streamLost)
      | .done => some (closeIfDead (pump (opOver (retireSerial s k serial) x o (.done (value.getD 0 0))) k) k)
      | .fault => some (closeIfDead (pump (opOver (retireSerial s k serial) x o (.failed .faultAtOwner fcode)) k) k)

/-- REPLY: A reply at the requester writes the destination, advances FLOOR or delivers a failure (R317). -/
def execReply (owner handle serial : Nat) (st : RStatus) (fcode : Nat) (value : List (BitVec 128)) (s : State) : Out :=
  evOut s (replyArrives owner handle serial st fcode value s)

/-! ### OPENED, ACKED, CLOSED, timers (R305, R307, R312, R316) -/

/-- The handle of a binding that a saved record holds is entered when the stream opens (R304, R377). -/
def recordHandle (s : State) (k : Nat) : State :=
  let x := getSlot s k
  let b := bindOff x.user x.owner
  match x.bound.bind (findRecord s) with
  | some r => if rd r.bytes b 1 ≠ 0 ∧ rd r.bytes (b + 4) 4 = k then putRecord s { r with bytes := writeBytes r.bytes (b + 8) (leBytes 6 x.handle) } else s
  | none => s

/-- An OPENED answer to the nonce of an opening slot binds the handle and releases the waiting operations; BUSY changes nothing. -/
def openedArrives (owner slot nonce handle : Nat) (st : RStatus) (s : State) : Option State :=
  match fromFabric s owner (.opened s.pkg slot nonce handle st) with
  | none => none
  | some s =>
    let x := getSlot s slot
    if x.st = .opening ∧ x.owner = owner ∧ x.nonce = nonce ∧ st = .done then
      some (closeIfDead (pump (recordHandle (setSlot s slot { x with st := .isOpen, handle := handle, lastUse := s.time, ctlTries := 0 }) slot) slot) slot)
    else some s

/-- OPENED: The OPENED answer binds the requester slot and releases waiting operations (R305). -/
def execOpened (owner slot nonce : Nat) (handle : Nat) (st : RStatus) (s : State) : Out := evOut s (openedArrives owner slot nonce handle st s)

/-- An ACKED answer carries no FLOOR (R308): it confirms that of the oldest ACK without an answer, and ends its retransmission (DEDUCED, log entry 30). -/
def ackedArrives (owner handle : Nat) (s : State) : Option State :=
  match fromFabric s owner (.acked s.pkg handle) with
  | none => none
  | some s =>
    match s.rou.slots.find? fun p => p.2.st == .isOpen && p.2.owner == owner && p.2.handle == handle with
    | none => some s
    | some (k, x) => match x.ackSent with
      | [] => some s
      | y :: t => some (setSlot s k { x with acked := if serialBefore x.acked y.1 then y.1 else x.acked, ackSent := t })

/-- ACKED: The owner's ACKED answer ends retransmission of the ACK (R307); one for another package is not this package's. -/
def execAcked (owner handle dest : Nat) (s : State) : Out := evOut s (if dest = s.pkg then ackedArrives owner handle s else none)

def closedArrives (owner handle : Nat) (s : State) : Option State :=
  match fromFabric s owner (.closed s.pkg handle) with
  | none => none
  | some s =>
    match s.rou.slots.find? fun p => p.2.st == .closing && p.2.owner == owner && p.2.handle == handle with
    | none => some s
    | some (k, x) => some (rehand x.bound x.waitq (freeSlot s k))

/-- CLOSED: The CLOSED answer completes closing a requester stream (R312). -/
def execClosed (owner handle : Nat) (s : State) : Out := evOut s (closedArrives owner handle s)

/-- An ACK leaves when FLOOR has advanced and no request has left for 20 µs. -/
def ackTimer (slot : Nat) (s : State) : Option State :=
  let x := getSlot s slot
  if x.st = .isOpen ∧ x.floorAt.any (fun t => t + 20 * usec ≤ s.time) then
    some (sendPacket (setSlot s slot { x with floorAt := none, ackSent := x.ackSent ++ [(x.floor, s.time, 0, s.time)] }) (.ack x.owner x.handle x.floor))
  else none

/-- ACK_TIMER (R307). -/
def execAckTimer (slot : Nat) (s : State) : Out := evOut s (ackTimer slot s)

/-- Time from one copy of a packet to the next: 20, 40, … 1,280 µs, then 2 ms (R316). -/
def backoff (tries : Nat) : Nat := if tries < 7 then 20 * 2 ^ tries * usec else 2 * msec

/-- Of the ACK packets without an answer, the first whose next copy is due, or else the oldest. -/
def dueAck (s : State) (l : List (Nat × Nat × Nat × Nat)) : Option (Nat × Nat × Nat × Nat) :=
  match l.find? fun y => y.2.1 + backoff y.2.2.1 ≤ s.time with
  | some y => some y
  | none => l.head?

/-- The control packet that a slot repeats, its last copy's hub cycle and repetitions, and the slot after one more copy. -/
def controlPacket (s : State) (k : Nat) (x : ReqSlot) : Option (Packet × Nat × Nat × ReqSlot) :=
  let again : ReqSlot := { x with lastSent := s.time, ctlTries := x.ctlTries + 1 }
  match x.st with
  | .opening => some (.openPkt x.owner k x.nonce, x.lastSent, x.ctlTries, again)
  | .closing => some (.close x.owner x.handle x.floor, x.lastSent, x.ctlTries, again)
  | .isOpen => (dueAck s x.ackSent).map fun y => (.ack x.owner x.handle y.1, y.2.1, y.2.2.1,
      { x with ackSent := x.ackSent.map fun z => if z = y then (z.1, s.time, z.2.2.1 + 1, z.2.2.2) else z })
  | .free => none

/-- A retransmission: of an outstanding serial with its operands and the current ACK, or of OPEN, ACK or CLOSE. It does not stop the timer of the
ACK (R307) (DESIGN CHOICE, log entry 71). -/
def retransmit (slot serial : Nat) (s : State) : Option State :=
  let x := getSlot s slot
  match x.out.find? fun o => o.serial == serial with
  | some o =>
    if s.time ≥ o.sentAt + backoff o.tries then
      let o' := { o with sentAt := s.time, tries := o.tries + 1 }
      some (sendPacket (setSlot s slot { x with out := x.out.map fun p => if p.serial = serial then o' else p }) (.req x.owner (packetOf s x o)))
    else none
  | none =>
    match controlPacket s slot x with
    | some (p, t, n, y) => if s.time ≥ t + backoff n then some (sendPacket (setSlot s slot y) p) else none
    | none => none

/-- RETRANSMIT: An outstanding operation or control packet is resent on its backoff schedule (R316). -/
def execRetransmit (slot serial : Nat) (s : State) : Out := evOut s (retransmit slot serial s)

/-! ### Lost packages and resets (R319, R364) -/

/-- Slots of a map, in order, whose stream goes to a package. -/
def slotsTo (s : State) (owner : Nat) : List Nat :=
  (s.rou.slots.filter fun p => p.2.st != .free && p.2.owner == owner).map (·.1)

/-- A stream to an unreachable owner: outstanding operations, and those that wait for it to open, end Owner lost. -/
def ownerLost (s : State) (k : Nat) : State :=
  let x := getSlot s k
  if x.st = .opening then (x.waitq.foldl (fun s o => opOver (if o.copy.isNone then opLeft s o else s) x o (.failed .ownerLost 0)) (freeSlot s k))
  else failStream s k .ownerLost

/-- A reset ends the stream of a slot, also one that was opening: its outstanding operations are lost. -/
def resetSlot (s : State) (k : Nat) : State :=
  freeSlot ((getSlot s k).out.foldl (fun t o => opOver t (getSlot s k) o (.failed .streamLost 0)) s) k

/-- The hub of the package was reset and the package has come back to its domain: every stream has ended as Stream lost, CLOSEALL goes to every
package of the domain, the package itself among them, and then the operations that had not left open new streams (DESIGN CHOICE, log entry 69). -/
def requesterReset (s : State) : State :=
  let used := s.rou.slots.filter fun p => p.2.st != .free
  let s := used.foldl (fun s p => resetSlot s p.1) s
  let s := (s.pkg :: s.fw.domain.filter (· != s.pkg)).foldl (fun s d => sendPacket s (.closeAll d)) s
  used.foldl (fun s p => rehand p.2.bound p.2.waitq s) s

/-- REQUESTER_HUB_RESET: A requesting package's reset ends its streams as Stream lost (R319). -/
def execRequesterHubReset (s : State) : Out := evOut s (some (requesterReset s))

end Sys2Proof.Machine
end

