-- ==== Sys2Proof/Machine/Owner.lean ====
section
/-! DEFINITION. The owner side of the Remote Operation Unit: stream records, the result cache, the home atomic unit's commits, recovery, loads for other packages, and the fabric's events (R305, R309 to R315, R318, R363 to R365). -/

namespace Sys2Proof.Machine

/-- A packet for the owner's side arrives; while the ROU recovers it is dropped (R318). -/
def atOwner (s : State) (src : Nat) (p : Packet) (f : State → Option State) : Option State :=
  (fromFabric s src p).bind fun s => if s.rou.recovering.isSome then some s else f s

/-! ### Stream records (R305, R309, R312) -/

def findStream (s : State) (h : Nat) : Option OwnStream := s.rou.streams.find? fun x => x.handle == h
def putStream (s : State) (x : OwnStream) : State :=
  journalStream { s with rou := { s.rou with streams := s.rou.streams.map fun y => if y.handle == x.handle then x else y } } x true

/-- The lowest number that none of these uses. -/
def freeIdx (used : List Nat) : Nat := ((List.range (used.length + 1)).find? fun i => !used.contains i).getD 0

def maxHandle : Nat := 0xFFFFFFFFFFFF
def maxStreams : Nat := 2097152

/-- The next handle is allocated; a block's first handle advances the board's counter to that block. -/
def newStream (s : State) (src slot nonce : Nat) : State :=
  let h := s.rou.nextHandle
  let x : OwnStream := { handle := h, pkg := src, slot := slot, nonce := nonce, idx := freeIdx (s.rou.streams.map (·.idx)) }
  let s := { s with rou := { s.rou with streams := s.rou.streams ++ [x], nextHandle := h + 1, block := some (h / 2 ^ 24) } }
  sendPacket (journalHeader (journalStream s x true)) (.opened src slot nonce h .done)

/-- An OPEN: the handle of a known nonce again, also when the last block of handles is spent (DESIGN CHOICE, log entry 72); a new handle; or BUSY (R305). -/
def openArrives (src slot nonce : Nat) (s : State) : Option State :=
  atOwner s src (.openPkt s.pkg slot nonce) fun s =>
    match s.rou.streams.find? fun x => x.pkg == src && x.nonce == nonce with
    | some x => some (sendPacket s (.opened src slot nonce x.handle .done))
    | none =>
      if s.rou.nextHandle > maxHandle then
        let s1 := if s.rou.exhausted then s else logHub { s with rou := { s.rou with exhausted := true } } 0x0803 [(4, maxHandle / 2 ^ 24)]
        some (sendPacket s1 (.opened src slot nonce 0 .busy))
      else if s.rou.streams.length ≥ maxStreams then some (sendPacket s (.opened src slot nonce 0 .busy))
      else some (newStream s src slot nonce)

/-- OPEN: An OPEN packet at the owner allocates or returns a stream handle, or answers BUSY (R305). -/
def execOpenPkt (src slot nonce : Nat) (s : State) : Out := evOut s (openArrives src slot nonce s)

/-! ### The home atomic unit (R281, R311) -/

/-- The operation's line request is under way at its line. -/
def homeAsked (s : State) (h sr : Nat) : Bool :=
  let is (r : LineReq) : Bool := match r with | .home a b _ => a == h && b == sr | _ => false
  s.hub.llc.any fun l => l.queue.any is || (match l.st with
    | .rvk _ _ r | .hrev _ _ r | .fwd _ r | .hsi r | .hsn r | .hrc r => is r
    | .stable => false)

/-- The requester's operation behind a request of the package's own: its class for the LLC, and the stack for which a miss counts (R278, R321). -/
def ownOp (s : State) (p : ReqPacket) : Option RemOp :=
  if p.src ≠ s.pkg then none
  else s.rou.slots.findSome? fun x => if x.2.owner == s.pkg && x.2.handle == p.handle then x.2.out.find? fun o => o.serial == p.serial else none

/-- Steps 1 to 4 of R311 begin. A line of the LLC is asked for, where the owners of the words are revoked before the address is translated; a
line that is not there has no owner, and is brought in under the translation. A fault is the result, and a moving page holds the operation. -/
def startHome (s : State) (e : OwnEnt) : Option State :=
  let p := e.packet
  let key := keyOf s p.asid p.va
  let req : LineReq := .home e.handle e.serial (if homeOp p.op = some .store then wordsOf p.mask else wordMask (p.va % 128) (typeBytes p.type))
  if (getLine s key).isSome then submitReq s key req
  else match resolve s p.asid p.va (homeKind p.op) with
    | .error .pageMoving => none
    | .error t => some (stageFault s e t)
    | .ok (a, x, .dram _ _) =>
      let o := ownOp s p
      submitReq (fillLine (tlbAdd s a p.va x) key x.pa (permBits x) ((o.map (·.hint)).getD 0) (o.map (·.core / 48))) key req
    | .ok (a, x, _) => some (atHost (tlbAdd s a p.va x) e x.pa)

/-- A request is executed: its entry is EXECUTING. -/
def execute (s : State) (e : OwnEnt) : State :=
  let e := { e with st := .executing }
  let s := putEnt s e
  (startHome s e).getD s

/-! ### Entries (R309 to R315) -/

def entriesOf (s : State) (h : Nat) : List OwnEnt := s.rou.entries.filter fun e => e.handle == h

/-- Every serial from the FLOOR to `n` below this one is DONE. -/
def lowerDone (s : State) (h floor : Nat) : Nat → Bool
  | 0 => true
  | n + 1 => (match findEnt s h ((floor + n) % 2 ^ 32) with | some e => e.st == .done | none => false) && lowerDone s h floor n

def allLowerDone (s : State) (x : OwnStream) (serial : Nat) : Bool := lowerDone s x.handle x.floor (serialDiff serial x.floor)

/-- Held operations of a stream whose lower serials are all DONE or retired are executed. -/
def releaseHeld (s : State) (h : Nat) : State :=
  match findStream s h with
  | none => s
  | some x => ((entriesOf s h).filter fun e => e.st == .held).foldl (fun s e => if allLowerDone s x e.serial then execute s e else s) s

/-- retire_below (R312): FLOOR rises and the entries below it are freed. -/
def retireBelow (s : State) (h f : Nat) : State :=
  match findStream s h with
  | none => s
  | some x =>
    if serialBefore x.floor f then
      let s := putStream s { x with floor := f }
      { s with rou := { s.rou with entries := s.rou.entries.filter fun e => !(e.handle == h && serialBefore e.serial f) } }
    else s

def answer (s : State) (dest : Nat) (e : OwnEnt) : State := sendPacket s (.reply dest e.handle e.serial e.status e.fcode e.value)
def answerWith (s : State) (p : ReqPacket) (st : RStatus) : State := sendPacket s (.reply p.src p.handle p.serial st 0 [])

/-- The lowest serial of its stream that is not DONE. -/
def isLowest (s : State) (x : OwnStream) (serial : Nat) : Bool := allLowerDone s x serial

/-- Entries of the result cache, and those kept in reserve (R310, R313). -/
def cacheSize : Nat := 262144
def cacheReserve : Nat := 4096

/-- A request of a stream's new serial: it takes an entry, or is answered BUSY. -/
def newEntry (s : State) (x : OwnStream) (p : ReqPacket) : State :=
  let n := s.rou.entries.length
  if n < cacheSize - cacheReserve ∨ (n < cacheSize ∧ isLowest s x p.serial) then
    let e : OwnEnt := { handle := p.handle, serial := p.serial, idx := freeIdx (s.rou.entries.map (·.idx)), st := .held, packet := p }
    let s := { s with rou := { s.rou with entries := s.rou.entries ++ [e] } }
    if isRelease p.ord && !allLowerDone s x p.serial then s else execute s e
  else answerWith s p .busy

/-- A request at the owner (R309). -/
def reqArrives (p : ReqPacket) (s : State) : Option State :=
  atOwner s p.src (.req s.pkg p) fun s =>
    match findStream s p.handle with
    | none => some (answerWith s p .streamLost)
    | some x =>
      if x.pkg ≠ p.src ∨ x.lost then some (answerWith s p .streamLost)
      else
        let s1 := releaseHeld (retireBelow (retireBelow s p.handle p.ack) p.handle ((p.serial + 2 ^ 32 - 4095) % 2 ^ 32)) p.handle
        match findStream s1 p.handle with
        | none => some s1
        | some y =>
          if serialBefore p.serial y.floor then some s1
          else match findEnt s1 p.handle p.serial with
            | some e => some (if e.st = .done then answer s1 p.src e else s1)
            | none => some (newEntry s1 y p)

/-- REQ: A request at the owner is dropped, answered from the result cache, held, refused BUSY or executed (R309). -/
def execReq (p : ReqPacket) (s : State) : Out := evOut s (reqArrives p s)

/-- Step 5 of R311: the new bytes go into the line and through to the home stack, and the line is released. -/
def applyCommit (s : State) (e : OwnEnt) : State :=
  if e.status != .done then s
  else match e.commit.key with
    | none => { s with fw := { s.fw with hostOut := (e.commit.pa, lineBytes (e.commit.data &&& dataMask e.commit.mask) 0 128) :: s.fw.hostOut } }
    | some key =>
      match getLine s key with
      | none => s
      | some l =>
        let s := writeLine s l e.commit.data e.commit.poison e.commit.mask
        match getLine s key with
        | none => s
        | some l => drainAll (putLine (storeLine s l.pa l.data l.poison) { l with dirty := false, held := none }) key

/-- An operation at host memory reads its old value there and is staged; one that only writes reads nothing (R311, R411). -/
def stageAway (s : State) (e : OwnEnt) (pa : Nat) : Try State :=
  if homeOp e.packet.op = some .store then .ok (stageHost s { e with hostPa := none } pa)
  else (hostTry s 4 (e.handle * 2 ^ 32 + e.serial) pa false).map fun r =>
    if r.2 then stageHost r.1 { e with hostPa := none } pa else stageFault r.1 { e with hostPa := none } .busError

/-- The entry is DONE, and its reply leaves. -/
def commitDone (s : State) (pkg : Nat) (e : OwnEnt) : State :=
  let e1 := { e with st := .done, applied := true }
  releaseHeld (answer (journalEntry (putEnt s e1) e1) pkg e1) e.handle

/-- The commit of an operation at host memory: one that the host does not complete in 50 ms has the result BUS_ERROR (R311, R411). -/
def commitAway (s : State) (pkg : Nat) (e : OwnEnt) : Try State :=
  (hostTry s 5 (e.handle * 2 ^ 32 + e.serial) e.commit.pa true).map fun r =>
    if r.2 then commitDone (applyCommit r.1 e) pkg e else commitDone r.1 pkg { e with status := .fault, fcode := trapCode .busError }

/-- The commit of a durable journal record: the bytes are applied, the entry is DONE and the reply leaves. An operation that a moving
page holds starts when the move has ended. While the ROU recovers it commits nothing (R318). -/
def homeCommit (handle serial : Nat) (s : State) : Option State :=
  match findEnt s handle serial, findStream s handle with
  | some e, some x =>
    if e.st ≠ .executing ∨ s.rou.recovering.isSome then none
    else if e.journaled then
      if e.status = .done && e.commit.key.isNone then tried s (commitAway s x.pkg e) else some (commitDone (applyCommit s e) x.pkg e)
    else if let some pa := e.hostPa then tried s (stageAway s e pa)
    else if homeAsked s handle serial then none
    else startHome s e
  | _, _ => none

/-! ### ACK, CLOSE, CLOSEALL (R312) -/

/-- Nothing of a stream is at the home atomic unit. -/
def streamIdle (s : State) (h : Nat) : Bool := (entriesOf s h).all fun e => e.st != .executing

/-- A stream record and its entries are freed. -/
def dropStream (s : State) (h : Nat) : State :=
  let s := match findStream s h with
    | some x => journalStream s x false
    | none => s
  { s with rou := { s.rou with streams := s.rou.streams.filter fun x => x.handle != h, entries := s.rou.entries.filter fun e => e.handle != h } }

def ownedBy (s : State) (src h : Nat) : Bool := ((findStream s h).map (·.pkg)) == some src

def ackArrives (src handle f : Nat) (s : State) : Option State :=
  atOwner s src (.ack s.pkg handle f) fun s =>
    if ownedBy s src handle then some (sendPacket (releaseHeld (retireBelow s handle f) handle) (.acked src handle)) else some s

/-- ACK: An ACK packet retires the owner's entries below it and is answered ACKED (R312). -/
def execAck (src handle f : Nat) (s : State) : Out := evOut s (ackArrives src handle f s)

/-- A CLOSE is answered CLOSED, a repeated one too (DEDUCED, log entry 30). -/
def closeArrives (src handle f : Nat) (s : State) : Option State :=
  atOwner s src (.close s.pkg handle f) fun s =>
    if ownedBy s src handle && !streamIdle s handle then none
    else some (sendPacket (if ownedBy s src handle then dropStream s handle else s) (.closed src handle))

/-- CLOSE: A CLOSE packet frees the stream record and its entries (R312). -/
def execClose (src handle f : Nat) (s : State) : Out := evOut s (closeArrives src handle f s)

/-- Handles of a package's streams. -/
def handlesOf (s : State) (src : Nat) : List Nat := (s.rou.streams.filter fun x => x.pkg == src).map (·.handle)

/-- CLOSEALL of a package arrives: every stream of that package ends at the home (R319) (DEDUCED, log entry 30). -/
def closeAllArrives (src : Nat) (s : State) : Option State :=
  atOwner s src (.closeAll s.pkg) fun s => if (handlesOf s src).all (streamIdle s) then some ((handlesOf s src).foldl dropStream s) else none

/-- CLOSEALL: A CLOSEALL frees every stream record of the sending package (R312). -/
def execCloseAll (src : Nat) (s : State) : Out := evOut s (closeAllArrives src s)

/-! ### Recovery (R314, R318) -/

/-- A stack that holds the journal, or a record's target line, answers no more. -/
def paLost (s : State) (pa : Nat) : Bool := pa < 2 ^ 40 && !stackLive s (paStack pa)

/-- A record's target line is lost: with its stack, or by an uncorrectable error in its newest copy (R318). -/
def targetLost (s : State) (pa : Nat) : Bool := paLost s pa || (match lineAtPa s pa with
  | some l => l.poison != 0
  | none => dramMarked s (pa / 128 * 128) || dramMarked s (pa / 128 * 128 + 64))

/-- Journaled results are applied again (one at host memory when the ROU runs again), entries without a journal record are forgotten with their holds, and a stream whose journal
or target was lost is marked LOST (DESIGN CHOICE, log entry 69). -/
def recoverEnt (s : State) (e : OwnEnt) : State :=
  if e.st = .executing ∧ e.journaled ∧ !(e.status = .done && e.commit.key.isNone) then
    let e1 := { e with st := .done, applied := true }
    journalEntry (putEnt (applyCommit s e) e1) e1
  else s

/-- Bytes of the journal that an uncorrectable error has struck. -/
def journalMarked (s : State) (off : Nat) : Bool := journalOn s && dramMarked s (s.rou.journalBase + off)

/-- The journal has lost a stream's record, or the record or the new bytes of one of its results. -/
def recordLost (s : State) (x : OwnStream) : Bool :=
  journalMarked s (streamOff x.idx) || (entriesOf s x.handle).any fun e =>
    e.journaled && (journalMarked s (entryOff e.idx) || journalMarked s (dataOff e.idx) || journalMarked s (dataOff e.idx + 64))

def isHome : LineReq → Bool
  | .home _ _ _ => true
  | _ => false

/-- A line no longer waits for a forgotten operation. -/
def forgetHome (l : LlcLine) : LlcLine :=
  let l := { l with queue := l.queue.filter fun r => !isHome r }
  match l.st with
  | .rvk w ws r | .hrev w ws r => if isHome r then { l with st := .stable, stale := l.stale ++ w } else { l with st := .rvk w ws r }
  | .hsi r | .hrc r => if isHome r then { l with st := .stable } else l
  | _ => l

/-- What left no journal record is forgotten: held operations, and those that execute and are not staged (R318). -/
def forgetEntries (s : State) : State :=
  { s with rou := { s.rou with entries := s.rou.entries.filter fun e => e.st == .done || (e.st == .executing && e.journaled) },
           hub := { s.hub with llc := s.hub.llc.map forgetHome } }

/-- The ROU stops: it answers nothing and performs nothing until its recovery has ended (R318). -/
def rouStops (s : State) : State :=
  let t := forgetEntries { s with rou := { s.rou with recovering := some (s.rou.recovering.getD s.time) } }
  (t.hub.llc.map fun (l : LlcLine) => l.key).foldl drainAll t

def rouRecovery (s : State) : State :=
  let s : State := s.rou.entries.foldl recoverEnt s
  let lost (x : OwnStream) : Bool := paLost s s.rou.journalBase || recordLost s x ||
    (entriesOf s x.handle).any fun e => e.commit.key.isSome && targetLost s e.commit.pa
  let streams := s.rou.streams.map fun (x : OwnStream) => if lost x then { x with lost := true } else x
  let next := if journalMarked s 0 then max s.rou.nextHandle ((s.rou.block.getD 0 + 1) * 2 ^ 24) else s.rou.nextHandle
  let entries := s.rou.entries.filter fun (e : OwnEnt) => e.st == EntSt.done
  let llc := s.hub.llc.map fun l => { forgetHome l with held := none }
  let s : State := { s with rou := { s.rou with streams := streams, entries := entries, nextHandle := next, recovering := none }, hub := { s.hub with llc := llc } }
  (s.hub.llc.map fun (l : LlcLine) => l.key).foldl drainAll s

/-- A recovery takes 40 ms at most (R318). -/
def recoveryDue (s : State) : Option State := match s.rou.recovering with
  | some t => if t + 40 * msec ≤ s.time then some (rouRecovery s) else none
  | none => none

/-- ROU_RECOVERY: After a hub reset the ROU replays unapplied DONE records and reloads its tables (R318). -/
def execRouRecovery (s : State) : Out := evOut s (some (rouRecovery s))

/-! ### Loads for other packages (R363) -/

/-- A load of another package is translated with the ASID 0 table and performed at its home; a load that faults is answered
without data (DEDUCED, log entry 30). -/
def remoteLoad (src va n : Nat) (s : State) : Option State :=
  if src = s.pkg ∨ !(s.fw.inDomain && s.fw.domain.contains src) ∨ va % 128 + n > 128 ∨ vaClass s va ≠ .window then none
  else
    let s := { s with rou := { s.rou with heard := mset s.rou.heard src s.time } }
    let send (s : State) (bs : List Byte) (bad : List Bool) : State := sendPacket s (.loadReply src va bs bad)
    match reach s 0 va .load with
    | .error _ => some (send s [] [])
    | .ok (s, x, .dram _ _) =>
      let key := keyOf s 0 va
      let s := fillLine s key x.pa (permBits x) 0 none
      match getLine s key with
      | none => none
      | some l => tried s ((homePeek s l).map fun d => send s (lineBytes d.1 (va % 128) n) (lineBad d.2 (va % 128) n))
    | .ok (s, x, _) => tried s ((hostTry s 7 (src * 2 ^ 64 + va) x.pa false).map fun r =>
        if r.2 then send { r.1 with fresh := s.fresh + 1 } ((List.range n).map fun i => Config.hostByte (x.pa + i) s.fresh) (List.replicate n false)
        else send r.1 [] [])

/-- REMOTE_LOAD: A load from another package's window is performed at its home and answered (R363). -/
def execRemoteLoad (src va n : Nat) (s : State) : Out := evOut s (remoteLoad src va n s)

/-! ### The fabric (R364, R365) -/

/-- The requests of a core's copy queues and engines to host memory and to other packages. -/
def asksOf (cs : CoreSt) : List LoadAsk :=
  (cs.cq0 ++ cs.cq1).flatMap (·.asks) ++ [cs.seq, cs.mem, cs.vec, cs.mtx].filterMap (·.codeAsk)

/-- A packet to another package has been pending for 100 ms: a request, a control packet, or a load. -/
def longPending (s : State) (pkg : Nat) : Bool :=
  let old (t : Nat) : Bool := t + 100 * msec ≤ s.time
  (s.rou.slots.any fun p => p.2.owner == pkg && (p.2.out.any (fun o => old o.leftAt) || ((p.2.st == .opening || p.2.st == .closing) && old p.2.ctlSince) ||
    (p.2.st == .isOpen && p.2.ackSent.any fun y => old y.2.2.2))) ||
  s.cores.any fun c => (c.2.accesses.any fun a => a.pieces.any fun p => p.route == .remote pkg && !a.store && a.ops.isEmpty && p.st != .done && old p.firstAt) ||
    (asksOf c.2).any fun a => vaClass s a.va == .remote pkg && old a.firstAt

/-- No packet has arrived from the package for 100 ms. -/
def silent (s : State) (pkg : Nat) : Bool := (mget s.rou.heard pkg).all fun t => t + 100 * msec ≤ s.time

/-- A package is declared unreachable: operations to it end Owner lost, and its own streams here are freed (DEDUCED, log entry 30). -/
def pkgLost (pkg : Nat) (s : State) : Option State :=
  if pkg = s.pkg ∨ !longPending s pkg ∨ !silent s pkg ∨ !(handlesOf s pkg).all (streamIdle s) then none
  else
    let s := logHub { s with rou := { s.rou with lostPkgs := pkg :: s.rou.lostPkgs.filter (· != pkg) } } 0x0809 [(2, pkg)]
    let s := (handlesOf s pkg).foldl dropStream s
    some ((slotsTo s pkg).foldl ownerLost s)

/-- FAB_PKG_LOST: A package is declared unreachable after 100 ms without packets and its operations end Owner lost (R364). -/
def execFabPkgLost (pkg : Nat) (s : State) : Out := evOut s (pkgLost pkg s)

def galena (s : State) (g : Nat) : GalenaUnit := mgetD {} s.fw.galenas g

/-- n packets of a port exceeded their lifetime and were discarded. -/
def execFabAgeDrop (port n : Nat) (s : State) : Out :=
  evOut s (if port < 36 then some (logGalena s (port / 18) 0x0808 [(1, port % 18), (4, n)]) else none)

end Sys2Proof.Machine
end

