-- ==== Sys2Proof/Machine/Atomic.lean ====
section
/-! DEFINITION. The atomic instructions of the access engine: AMO, ACAS128, RED and VAMO at issue (R321 to R326). -/

namespace Sys2Proof.Machine

/-! ### Operations -/

/-- One remote operation of an atomic instruction: its address, its operands, and the lanes of a VAMO group with their values. -/
structure AtomGroup where
  va : Nat
  opnd : List Nat
  lanes : List Nat := []
  vals : List Nat := []
  deriving DecidableEq, Repr

/-- The fields of an atomic instruction: opcode, SIZE and SUBF, and where its operands and results are. -/
structure AtomOp where
  code : Nat
  size : Nat
  subf : Nat := 0
  ord : Ord
  hint : Nat
  srcs : List SSrc
  dst : RemoteDst := .none
  sd : Option SDst := none
  /-- Registers written: scalars, or a vector register that is also read. -/
  writes : List Res := []
  vd : Option Nat := none
  vidx : Option VIdx := none
  deriving DecidableEq, Repr

/-- The scalars, the vector register and the index vector that it reads. -/
structure AtomIn where
  ss : List SVal
  v : VVal
  ix : VVal
  deriving DecidableEq, Repr

def AtomIn.word (x : AtomIn) (i : Nat) : Nat := (x.ss.getD i {}).val.toNat

def AtomOp.reads (o : AtomOp) : List Res :=
  o.srcs.flatMap (srcRes .mem) ++ (o.vd.map Res.vreg).toList ++ (o.vidx.map idxRes).getD []

/-- Check 1 of R322. -/
def AtomOp.poison (o : AtomOp) (x : AtomIn) : Option Cause :=
  maxTag (x.ss.foldl (fun t v => maxTag t v.tag) none) (maxTag (tagsFrom x.v 0 64) (tagsFrom x.ix 0 (if o.size = 3 then 32 else 64)))

/-- A RED, which takes no entry of the pending table and has no destination. -/
def isRed (code : Nat) : Bool := code / 16 == 7

/-- What an ordering code waits for before its operation leaves (R325). -/
def ordReady (s : State) : Ord → Bool
  | .rel | .ar => fenceReady s s.focusCore .fenceRel
  | .sc => fenceReady s s.focusCore .fenceSc
  | _ => true

/-- Check 3 of R322: the first address outside private space and the windows of the domain. -/
def badAddress (s : State) (gs : List AtomGroup) : Option Nat := (gs.find? fun g => vaClass s g.va == .hole).map (·.va)

/-- The remote operation of a group. -/
def atomRem (s : State) (cs : CoreSt) (o : AtomOp) (i : Nat) (g : AtomGroup) : RemOp :=
  { code := o.code, type := o.size + 8 * o.subf, ord := o.ord, asid := asidOf s cs, va := g.va, n := 2 ^ o.size,
    opnd := g.opnd.map (BitVec.ofNat 128), lanes := g.lanes, vals := g.vals, hint := o.hint, core := s.focusCore, flight := cs.nextId,
    acc := some cs.nextId, piece := i }

def atomPiece (s : State) (o : AtomOp) (g : AtomGroup) : Piece :=
  { va := g.va, n := 2 ^ o.size, off := 0, route := .remote (ownerOf s g.va) }

/-- Issues the operations: they wait in an access until they clear and leave; all but RED hold an entry of the pending table. -/
def startAtom (s : State) (cs0 cs : CoreSt) (o : AtomOp) (x : AtomIn) (gs : List AtomGroup) (cl : List Claim) : Verdict :=
  let id := cs0.nextId
  let a : Access := { id := id, eng := .mem, store := isRed o.code, flight := id, asid := asidOf s cs0, hint := o.hint, acq := acquires o.ord,
                      issuedAt := coreCycle s, pieces := gs.map (atomPiece s o), ops := gs.mapIdx (atomRem s cs0 o),
                      undoS := poppedS o.srcs x.ss }
  let p : PendRemote := { flight := id, eng := .mem, code := o.code, type := o.size + 8 * o.subf, ord := o.ord, dst := o.dst, left := gs.length }
  let cs := reserveDst cs (coreCycle s) id o.sd none
  let cs := { cs with accesses := cs.accesses ++ [a], pend := if isRed o.code then cs.pend else cs.pend ++ [p] }
  .done { s := withCs s cs, openEnd := true, claims := cl }

/-- What an atomic instruction reads. -/
def atomIn (cs : CoreSt) (o : AtomOp) (ss : List SVal) : AtomIn :=
  { ss := ss, v := (o.vd.map (readV cs)).getD {}, ix := (o.vidx.map (readIdx cs)).getD {} }

/-- The common shape of an atomic instruction: hazards, queues, the pending table and ordering first; then checks 1 to 3 and a
recorded remote failure. -/
def atomBody (o : AtomOp) (f : AtomIn → List AtomGroup) (s : State) : Verdict :=
  let cs := focusCs s
  let cl := claimsOf o.reads o.writes
  match takeSrcs cs .mem o.srcs with
  | none => .stall
  | some (ss, cs1) =>
    let x := atomIn cs o ss
    let gs := f x
    if hazard s cs .mem cl 1 || !roomDst cs o.sd none || acqPending cs .mem || (!isRed o.code && cs.pend.length ≥ 64) then .stall
    else match o.poison x with
      | some c => poisonTrap c
      | none =>
        if overlapping s cs .mem (gs.map (atomPiece s o)) || !ordReady s o.ord then .stall
        else match gs.find? fun g => g.va % 2 ^ o.size != 0 with
          | some g => addrTrap .misaligned g.va
          | none =>
            match badAddress s gs with
            | some va => addrTrap .busError va
            | none =>
              match (if isRelease o.ord then cs.rfail else none) with
              | some r => rfailVerdict s r
              | none => startAtom s cs cs1 o x gs cl

/-! ### Operands (R321, R323, R326) -/

/-- The low 8 · 2^size bits. -/
def cutTo (size v : Nat) : Nat := v % 2 ^ (8 * 2 ^ size)

/-- One operation at A with operand B. -/
def scalarGroup (size : Nat) (x : AtomIn) : List AtomGroup := [{ va := x.word 0, opnd := [cutTo size (x.word 1)] }]

/-- CAS: the expected value from D and the new one from B. -/
def casGroup (size : Nat) (x : AtomIn) : List AtomGroup := [{ va := x.word 0, opnd := [cutTo size (x.word 2), cutTo size (x.word 1)] }]

/-- ACAS128: the pair of D and the pair of B, low half first. -/
def pairGroup (x : AtomIn) : List AtomGroup :=
  [{ va := x.word 0, opnd := [x.word 1 + 2 ^ 64 * x.word 2, x.word 3 + 2 ^ 64 * x.word 4] }]

/-- Addresses of the lanes of a VAMO. -/
def laneAddr (x : AtomIn) (i : Nat) : Nat := wrap64 ((x.word 0 : Int) + asInt 32 (vLane 32 x.ix i))

/-- The operand that a group carries: the combined value, or every lane value of a floating-point operation. -/
def groupOpnd (code size : Nat) (vals : List Nat) : List Nat :=
  match homeOp code with
  | some (.int k) => [combine k (8 * 2 ^ size) vals]
  | _ => vals

/-- The groups of a VAMO, by their lowest lane. -/
def laneGroups (code size : Nat) (x : AtomIn) : List AtomGroup :=
  let lanes := List.range (512 / 2 ^ size)
  let addrs := (lanes.map (laneAddr x)).eraseDups
  addrs.map fun va =>
    let ls := lanes.filter fun i => laneAddr x i == va
    let vs := ls.map (vLane (8 * 2 ^ size) x.v)
    { va := va, opnd := groupOpnd code size vs, lanes := ls, vals := vs }

def amoOp (code size subf : Nat) (o : Ord) (hint : Nat) (d : SDst) (a b : SSrc) : AtomOp :=
  { code := code, size := size, subf := subf, ord := o, hint := hint, srcs := [a, b], dst := .scalar d size, sd := some d, writes := dstRes .mem d }
def casOp (size : Nat) (o : Ord) (hint d : Nat) (a b : SSrc) : AtomOp :=
  { code := 0x6A, size := size, ord := o, hint := hint, srcs := [a, b, .reg d], dst := .scalar (.reg d) size, writes := [.sreg .mem d] }
def acasOp (o : Ord) (hint d : Nat) (a : SSrc) (b : Nat) : AtomOp :=
  { code := 0x6E, size := 4, ord := o, hint := hint, srcs := [a, .reg d, .reg (d + 1), .reg b, .reg (b + 1)], dst := .pair d,
    writes := [.sreg .mem d, .sreg .mem (d + 1)] }
def redOp (code size subf : Nat) (o : Ord) (hint : Nat) (a b : SSrc) : AtomOp :=
  { code := code, size := size, subf := subf, ord := o, hint := hint, srcs := [a, b] }
def vamoOp (code size subf : Nat) (o : Ord) (hint d : Nat) (a : SSrc) (b : VIdx) : AtomOp :=
  { code := code, size := size, subf := subf, ord := o, hint := hint, srcs := [a], dst := .lanes d size, vd := some d, vidx := some b,
    writes := [.vreg d] }

/-! ### AMO and ACAS128 -/

/-- AMO_ADD: Atomic add returning the old value (R323). -/
def execAmoAdd (k : Ctl) (size : Nat) (o : Ord) (hint : Nat) (d : SDst) (a b : SSrc) (s : State) : Out :=
  issue (.amoAdd k size o hint d a b) s (atomBody (amoOp 0x60 size 0 o hint d a b) (scalarGroup size))
/-- AMO_SUB: Atomic subtract returning the old value (R323). -/
def execAmoSub (k : Ctl) (size : Nat) (o : Ord) (hint : Nat) (d : SDst) (a b : SSrc) (s : State) : Out :=
  issue (.amoSub k size o hint d a b) s (atomBody (amoOp 0x61 size 0 o hint d a b) (scalarGroup size))
/-- AMO_MIN: Atomic signed minimum (R323). -/
def execAmoMin (k : Ctl) (size : Nat) (o : Ord) (hint : Nat) (d : SDst) (a b : SSrc) (s : State) : Out :=
  issue (.amoMin k size o hint d a b) s (atomBody (amoOp 0x62 size 0 o hint d a b) (scalarGroup size))
/-- AMO_MAX: Atomic signed maximum (R323). -/
def execAmoMax (k : Ctl) (size : Nat) (o : Ord) (hint : Nat) (d : SDst) (a b : SSrc) (s : State) : Out :=
  issue (.amoMax k size o hint d a b) s (atomBody (amoOp 0x63 size 0 o hint d a b) (scalarGroup size))
/-- AMO_MINU: Atomic unsigned minimum (R323). -/
def execAmoMinu (k : Ctl) (size : Nat) (o : Ord) (hint : Nat) (d : SDst) (a b : SSrc) (s : State) : Out :=
  issue (.amoMinu k size o hint d a b) s (atomBody (amoOp 0x64 size 0 o hint d a b) (scalarGroup size))
/-- AMO_MAXU: Atomic unsigned maximum (R323). -/
def execAmoMaxu (k : Ctl) (size : Nat) (o : Ord) (hint : Nat) (d : SDst) (a b : SSrc) (s : State) : Out :=
  issue (.amoMaxu k size o hint d a b) s (atomBody (amoOp 0x65 size 0 o hint d a b) (scalarGroup size))
/-- AMO_AND: Atomic AND (R323). -/
def execAmoAnd (k : Ctl) (size : Nat) (o : Ord) (hint : Nat) (d : SDst) (a b : SSrc) (s : State) : Out :=
  issue (.amoAnd k size o hint d a b) s (atomBody (amoOp 0x66 size 0 o hint d a b) (scalarGroup size))
/-- AMO_OR: Atomic OR (R323). -/
def execAmoOr (k : Ctl) (size : Nat) (o : Ord) (hint : Nat) (d : SDst) (a b : SSrc) (s : State) : Out :=
  issue (.amoOr k size o hint d a b) s (atomBody (amoOp 0x67 size 0 o hint d a b) (scalarGroup size))
/-- AMO_XOR: Atomic XOR (R323). -/
def execAmoXor (k : Ctl) (size : Nat) (o : Ord) (hint : Nat) (d : SDst) (a b : SSrc) (s : State) : Out :=
  issue (.amoXor k size o hint d a b) s (atomBody (amoOp 0x68 size 0 o hint d a b) (scalarGroup size))
/-- AMO_SWP: Atomic swap (R323). -/
def execAmoSwp (k : Ctl) (size : Nat) (o : Ord) (hint : Nat) (d : SDst) (a b : SSrc) (s : State) : Out :=
  issue (.amoSwp k size o hint d a b) s (atomBody (amoOp 0x69 size 0 o hint d a b) (scalarGroup size))

/-- AMO_CAS: Atomic compare-and-swap with the expected value in D (R323). -/
def execAmoCas (k : Ctl) (size : Nat) (o : Ord) (hint : Nat) (d : Nat) (a b : SSrc) (s : State) : Out :=
  issue (.amoCas k size o hint d a b) s (atomBody (casOp size o hint d a b) (casGroup size))
/-- AMO_FADD: Floating-point atomic add at the home with fixed rounding (R324). -/
def execAmoFadd (k : Ctl) (t : AmoF) (o : Ord) (hint : Nat) (d : SDst) (a b : SSrc) (s : State) : Out :=
  issue (.amoFadd k t o hint d a b) s (atomBody (amoOp 0x6B (amoSize t) (amoSub t) o hint d a b) (scalarGroup (amoSize t)))
/-- AMO_FMIN: Floating-point atomic minimumNumber (R324). -/
def execAmoFmin (k : Ctl) (t : AmoF) (o : Ord) (hint : Nat) (d : SDst) (a b : SSrc) (s : State) : Out :=
  issue (.amoFmin k t o hint d a b) s (atomBody (amoOp 0x6C (amoSize t) (amoSub t) o hint d a b) (scalarGroup (amoSize t)))
/-- AMO_FMAX: Floating-point atomic maximumNumber (R324). -/
def execAmoFmax (k : Ctl) (t : AmoF) (o : Ord) (hint : Nat) (d : SDst) (a b : SSrc) (s : State) : Out :=
  issue (.amoFmax k t o hint d a b) s (atomBody (amoOp 0x6D (amoSize t) (amoSub t) o hint d a b) (scalarGroup (amoSize t)))

/-- ACAS128: 128-bit compare-and-swap on register pairs (R323). -/
def execAcas128 (k : Ctl) (o : Ord) (hint : Nat) (d : Nat) (a : SSrc) (b : Nat) (s : State) : Out :=
  issue (.acas128 k o hint d a b) s (atomBody (acasOp o hint d a b) pairGroup)

/-! ### RED -/

/-- RED_ADD: Reduction add at memory with no return (R323). -/
def execRedAdd (k : Ctl) (size : Nat) (o : Ord) (hint : Nat) (a b : SSrc) (s : State) : Out :=
  issue (.redAdd k size o hint a b) s (atomBody (redOp 0x70 size 0 o hint a b) (scalarGroup size))
/-- RED_SUB: Reduction subtract (R323). -/
def execRedSub (k : Ctl) (size : Nat) (o : Ord) (hint : Nat) (a b : SSrc) (s : State) : Out :=
  issue (.redSub k size o hint a b) s (atomBody (redOp 0x71 size 0 o hint a b) (scalarGroup size))
/-- RED_MIN: Reduction signed minimum (R323). -/
def execRedMin (k : Ctl) (size : Nat) (o : Ord) (hint : Nat) (a b : SSrc) (s : State) : Out :=
  issue (.redMin k size o hint a b) s (atomBody (redOp 0x72 size 0 o hint a b) (scalarGroup size))
/-- RED_MAX: Reduction signed maximum (R323). -/
def execRedMax (k : Ctl) (size : Nat) (o : Ord) (hint : Nat) (a b : SSrc) (s : State) : Out :=
  issue (.redMax k size o hint a b) s (atomBody (redOp 0x73 size 0 o hint a b) (scalarGroup size))
/-- RED_MINU: Reduction unsigned minimum (R323). -/
def execRedMinu (k : Ctl) (size : Nat) (o : Ord) (hint : Nat) (a b : SSrc) (s : State) : Out :=
  issue (.redMinu k size o hint a b) s (atomBody (redOp 0x74 size 0 o hint a b) (scalarGroup size))
/-- RED_MAXU: Reduction unsigned maximum (R323). -/
def execRedMaxu (k : Ctl) (size : Nat) (o : Ord) (hint : Nat) (a b : SSrc) (s : State) : Out :=
  issue (.redMaxu k size o hint a b) s (atomBody (redOp 0x75 size 0 o hint a b) (scalarGroup size))
/-- RED_AND: Reduction AND (R323). -/
def execRedAnd (k : Ctl) (size : Nat) (o : Ord) (hint : Nat) (a b : SSrc) (s : State) : Out :=
  issue (.redAnd k size o hint a b) s (atomBody (redOp 0x76 size 0 o hint a b) (scalarGroup size))
/-- RED_OR: Reduction OR (R323). -/
def execRedOr (k : Ctl) (size : Nat) (o : Ord) (hint : Nat) (a b : SSrc) (s : State) : Out :=
  issue (.redOr k size o hint a b) s (atomBody (redOp 0x77 size 0 o hint a b) (scalarGroup size))
/-- RED_XOR: Reduction XOR (R323). -/
def execRedXor (k : Ctl) (size : Nat) (o : Ord) (hint : Nat) (a b : SSrc) (s : State) : Out :=
  issue (.redXor k size o hint a b) s (atomBody (redOp 0x78 size 0 o hint a b) (scalarGroup size))
/-- RED_FADD: Floating-point reduction add (R324). -/
def execRedFadd (k : Ctl) (t : AmoF) (o : Ord) (hint : Nat) (a b : SSrc) (s : State) : Out :=
  issue (.redFadd k t o hint a b) s (atomBody (redOp 0x79 (amoSize t) (amoSub t) o hint a b) (scalarGroup (amoSize t)))
/-- RED_FMIN: Floating-point reduction minimum (R324). -/
def execRedFmin (k : Ctl) (t : AmoF) (o : Ord) (hint : Nat) (a b : SSrc) (s : State) : Out :=
  issue (.redFmin k t o hint a b) s (atomBody (redOp 0x7A (amoSize t) (amoSub t) o hint a b) (scalarGroup (amoSize t)))
/-- RED_FMAX: Floating-point reduction maximum (R324). -/
def execRedFmax (k : Ctl) (t : AmoF) (o : Ord) (hint : Nat) (a b : SSrc) (s : State) : Out :=
  issue (.redFmax k t o hint a b) s (atomBody (redOp 0x7B (amoSize t) (amoSub t) o hint a b) (scalarGroup (amoSize t)))

/-! ### VAMO -/

/-- VAMO_ADD: Vector atomic add, grouping lanes with equal addresses into one operation (R326). -/
def execVamoAdd (k : Ctl) (size : Nat) (o : Ord) (hint : Nat) (d : Nat) (a : SSrc) (b : VIdx) (s : State) : Out :=
  issue (.vamoAdd k size o hint d a b) s (atomBody (vamoOp 0x80 size 0 o hint d a b) (laneGroups 0x80 size))
/-- VAMO_SUB: Vector atomic subtract (R326). -/
def execVamoSub (k : Ctl) (size : Nat) (o : Ord) (hint : Nat) (d : Nat) (a : SSrc) (b : VIdx) (s : State) : Out :=
  issue (.vamoSub k size o hint d a b) s (atomBody (vamoOp 0x81 size 0 o hint d a b) (laneGroups 0x81 size))
/-- VAMO_MIN: Vector atomic signed minimum (R326). -/
def execVamoMin (k : Ctl) (size : Nat) (o : Ord) (hint : Nat) (d : Nat) (a : SSrc) (b : VIdx) (s : State) : Out :=
  issue (.vamoMin k size o hint d a b) s (atomBody (vamoOp 0x82 size 0 o hint d a b) (laneGroups 0x82 size))
/-- VAMO_MAX: Vector atomic signed maximum (R326). -/
def execVamoMax (k : Ctl) (size : Nat) (o : Ord) (hint : Nat) (d : Nat) (a : SSrc) (b : VIdx) (s : State) : Out :=
  issue (.vamoMax k size o hint d a b) s (atomBody (vamoOp 0x83 size 0 o hint d a b) (laneGroups 0x83 size))
/-- VAMO_MINU: Vector atomic unsigned minimum (R326). -/
def execVamoMinu (k : Ctl) (size : Nat) (o : Ord) (hint : Nat) (d : Nat) (a : SSrc) (b : VIdx) (s : State) : Out :=
  issue (.vamoMinu k size o hint d a b) s (atomBody (vamoOp 0x84 size 0 o hint d a b) (laneGroups 0x84 size))
/-- VAMO_MAXU: Vector atomic unsigned maximum (R326). -/
def execVamoMaxu (k : Ctl) (size : Nat) (o : Ord) (hint : Nat) (d : Nat) (a : SSrc) (b : VIdx) (s : State) : Out :=
  issue (.vamoMaxu k size o hint d a b) s (atomBody (vamoOp 0x85 size 0 o hint d a b) (laneGroups 0x85 size))
/-- VAMO_AND: Vector atomic AND (R326). -/
def execVamoAnd (k : Ctl) (size : Nat) (o : Ord) (hint : Nat) (d : Nat) (a : SSrc) (b : VIdx) (s : State) : Out :=
  issue (.vamoAnd k size o hint d a b) s (atomBody (vamoOp 0x86 size 0 o hint d a b) (laneGroups 0x86 size))
/-- VAMO_OR: Vector atomic OR (R326). -/
def execVamoOr (k : Ctl) (size : Nat) (o : Ord) (hint : Nat) (d : Nat) (a : SSrc) (b : VIdx) (s : State) : Out :=
  issue (.vamoOr k size o hint d a b) s (atomBody (vamoOp 0x87 size 0 o hint d a b) (laneGroups 0x87 size))
/-- VAMO_XOR: Vector atomic XOR (R326). -/
def execVamoXor (k : Ctl) (size : Nat) (o : Ord) (hint : Nat) (d : Nat) (a : SSrc) (b : VIdx) (s : State) : Out :=
  issue (.vamoXor k size o hint d a b) s (atomBody (vamoOp 0x88 size 0 o hint d a b) (laneGroups 0x88 size))
/-- VAMO_SWP: Vector atomic swap (R326) (DEDUCED, log entry 42). -/
def execVamoSwp (k : Ctl) (size : Nat) (o : Ord) (hint : Nat) (d : Nat) (a : SSrc) (b : VIdx) (s : State) : Out :=
  issue (.vamoSwp k size o hint d a b) s (atomBody (vamoOp 0x89 size 0 o hint d a b) (laneGroups 0x89 size))
/-- VAMO_FADD: Vector floating-point atomic add, applied lane by lane in ascending order (R326). -/
def execVamoFadd (k : Ctl) (t : AmoF) (o : Ord) (hint : Nat) (d : Nat) (a : SSrc) (b : VIdx) (s : State) : Out :=
  issue (.vamoFadd k t o hint d a b) s
    (atomBody (vamoOp 0x8A (amoSize t) (amoSub t) o hint d a b) (laneGroups 0x8A (amoSize t)))
/-- VAMO_FMIN: Vector floating-point atomic minimum (R326). -/
def execVamoFmin (k : Ctl) (t : AmoF) (o : Ord) (hint : Nat) (d : Nat) (a : SSrc) (b : VIdx) (s : State) : Out :=
  issue (.vamoFmin k t o hint d a b) s
    (atomBody (vamoOp 0x8B (amoSize t) (amoSub t) o hint d a b) (laneGroups 0x8B (amoSize t)))
/-- VAMO_FMAX: Vector floating-point atomic maximum (R326). -/
def execVamoFmax (k : Ctl) (t : AmoF) (o : Ord) (hint : Nat) (d : Nat) (a : SSrc) (b : VIdx) (s : State) : Out :=
  issue (.vamoFmax k t o hint d a b) s
    (atomBody (vamoOp 0x8C (amoSize t) (amoSub t) o hint d a b) (laneGroups 0x8C (amoSize t)))

end Sys2Proof.Machine
end

