-- ==== Sys2Proof/Machine/Rows.lean ====
section
/-! DEFINITION. The row column: banks, the row instructions, refresh and temperature (R218 to R240). -/

namespace Sys2Proof.Machine

/-! ### Banks (R223 to R227) -/

def getBank (cs : CoreSt) (b : Nat) : Bank := mgetD {} cs.banks b
def setBank (cs : CoreSt) (b : Nat) (v : Bank) : CoreSt := { cs with banks := mputD {} cs.banks b v }

def isOpen (b : Bank) : Bool := b.mode == .openNotReady || b.mode == .openReady

/-- Lease that an ACT issued now receives (R225). -/
def leaseNow (s : State) (c : Nat) : Nat := if (stackUnit s (c / 48)).hot then 512 else 1024

/-- Row bytes [128 i, 128 i + 128) of a row as the cells hold them, with the marks of their granules. -/
def rowLine (s : State) (c bank row i : Nat) : LineData × BitVec 128 := dramLine s (rowLinePa c bank row i)

/-- The row buffer of an open bank: the row as ACT read it, or the last ROW.PUT (R232). -/
def rowBuffer (s : State) (c bank : Nat) (b : Bank) : RowData :=
  match b.put with
  | some d => d
  | none => BitVec.ofNat 16384 (packLanes 1024 ((List.range 16).map fun i => (rowLine s c bank b.row i).1.toNat))

/-- Whether bytes 512 i to 512 i + 511 of the row buffer carry an error. -/
def rowBadPart (s : State) (c bank : Nat) (b : Bank) (i : Nat) : Bool :=
  b.put.isNone && (List.range 4).any fun j =>
    let p := (rowLine s c bank b.row (4 * i + j)).2
    granBad p 0 || granBad p 1

/-- Writes lines n and up of a row to the cells; every granule is replaced. -/
def writeRow (s : State) (c bank row : Nat) (d : RowData) : Nat → State
  | 0 => s
  | n + 1 =>
    writeRow (storeLine s (rowLinePa c bank row n) (BitVec.ofNat 1024 (laneOf 1024 d.toNat n)) 0) c bank row d n

/-- A precharge in cycle t writes the row buffer to the cells and leaves the bank in state m (R233, R234). One that no ROW.PRE and no
refresh makes does not count for tRP (R224). -/
def precharge (s : State) (c bank : Nat) (m : BankMode) (t : Nat) (counts : Bool) : State :=
  let b := getBank (getCore s c) bank
  let s := match b.put with
    | some d => writeRow s c bank b.row d 16
    | none => s
  setCore s c (setBank (getCore s c) bank
    { b with mode := m, put := none, leaseRun := false, tPre := if counts then some t else b.tPre, tClose := some t })

/-- Precharges every open bank of a core at an exit, a kill or a save. -/
def closeRows (s : State) (c : Nat) : State :=
  ((getCore s c).banks.filter fun p => isOpen p.2).foldl (fun s p => precharge s c p.1 .closed (coreCycle s) false) s

/-- A bank group is handed over: its open rows are precharged, and every bank is closed (R220, R221, R223). -/
def closeGroup (s : State) (c g : Nat) : State :=
  let s := ((getCore s c).banks.filter fun p => isOpen p.2 && p.1 / 8 == g).foldl (fun s p => precharge s c p.1 .closed (coreCycle s) false) s
  let cs := getCore s c
  setCore s c { cs with banks := cs.banks.map fun p => (p.1, if p.1 / 8 = g then { p.2 with mode := .closed } else p.2) }

/-! ### Refresh (R227, R228) -/

/-- The temperature state of a stack in a core cycle. -/
def hotAt (u : StackUnit) (t : Nat) : Bool := ((u.hotLog.find? fun x => x.1 ≤ t).map (·.2)).getD false

/-- End of the refresh interval that begins in cycle t (R228): its length is that of the temperature state then. -/
def intervalEnd (s : State) (c t : Nat) : Nat := t + if hotAt (stackUnit s (c / 48)) t then 1560 else 3120

/-- The first value from x on that is not used. -/
def firstUnused (used : List Nat) (x : Nat) : Nat → Nat
  | 0 => x
  | n + 1 => if used.contains x then firstUnused used ((x + 1) % 3120) n else x

/-- Phases of banks n - 1 down to 0 of a column: they differ from one another and are not stated (DESIGN CHOICE, log entry 22). -/
def phases (c : Nat) : Nat → List Nat
  | 0 => []
  | n + 1 => firstUnused (phases c n) (Config.refreshDraw c n % 3120) 3120 :: phases c n

/-- The first end of an interval that is later than cycle `now`, from an end t. -/
def endAfter (s : State) (c now : Nat) : Nat → Nat → Nat
  | 0, t => t
  | n + 1, t => if now < t then t else endAfter s c now n (intervalEnd s c t)

/-- The end of the interval that is running for a bank: intervals follow one another from the phase fixed at reset. -/
def runningEnd (s : State) (c bank : Nat) : Nat :=
  let t := (getBank (getCore s c) bank).dueAt.getD ((phases c (bank + 1)).headD 0)
  endAfter s c (coreCycle s) ((coreCycle s - t) / 1560 + 2) t

/-- A closed bank whose refresh is due starts it at once, or once tRP has passed since its last precharge. -/
def refreshStart (core bank : Nat) (s : State) : Option State :=
  let cs := getCore s core
  let b := getBank cs bank
  match b.refreshDue with
  | none => none
  | some d =>
    let t := max d ((b.tClose.map (· + 12)).getD 0)
    if !isOpen b && b.refreshEnd.isNone && t ≤ coreCycle s then
      some (setCore s core (setBank cs bank { b with refreshDue := none, refreshEnd := some (t + 176) }))
    else none

/-- The refresh controller precharges an open row whose lease has run out, and starts the refresh of a closed bank. -/
def refreshGo (core bank : Nat) (s : State) : State :=
  let b := getBank (getCore s core) bank
  let s := match b.refreshDue with
    | some d => if isOpen b && b.leaseEnd ≤ coreCycle s then precharge s core bank .lapsedClosed (max d b.leaseEnd) true else s
    | none => s
  (refreshStart core bank s).getD s

/-- The lease of an open row has run out. -/
def leaseExpiry (core bank : Nat) (s : State) : Option State :=
  let cs := getCore s core
  let b := getBank cs bank
  if isOpen b && b.leaseRun && b.leaseEnd ≤ coreCycle s then
    some (refreshGo core bank (setCore s core (setBank cs bank { b with leaseRun := false })))
  else none

/-- A refresh interval of a bank has ended; in line mode the refresh is the stack's own affair. -/
def refreshDue (core bank : Nat) (s : State) : Option State :=
  let cs := getCore s core
  let b := getBank cs bank
  match b.dueAt with
  | none => none
  | some d =>
    if d ≤ coreCycle s then
      let b := { b with dueAt := some (intervalEnd s core d) }
      if (rowMode s core (bank / 8)).isNone then some (setCore s core (setBank cs bank b))
      else some (refreshGo core bank (setCore s core (setBank cs bank { b with refreshDue := some (b.refreshDue.getD d) })))
    else none

/-- A refresh has ended. A bank that was lapsed-closed stays so until ROW.ACT or ROW.PRE: R227 leaves it lapsed-closed before the refresh,
and R223 lists refresh among the entries to closed (DESIGN CHOICE, log entry 64). -/
def refreshEnds (core bank : Nat) (s : State) : Option State :=
  let cs := getCore s core
  let b := getBank cs bank
  match b.refreshEnd with
  | some t => if t ≤ coreCycle s then some (setCore s core (setBank cs bank { b with refreshEnd := none })) else none
  | none => none

/-- What is due on a bank by now has happened, in the order of its times: row instructions meet the bank so, whenever its events are
taken (R227). -/
def settleBank (core bank : Nat) : Nat → State → State
  | 0, s => s
  | n + 1, s =>
    match (refreshEnds core bank s).orElse fun _ => (refreshDue core bank s).orElse fun _ => (leaseExpiry core bank s).orElse fun _ =>
        refreshStart core bank s with
    | some s' => settleBank core bank n s'
    | none => s

/-- The same for several banks. -/
def settleBanks (core : Nat) (bks : List Nat) (s : State) : State :=
  bks.foldl (fun s b => settleBank core b (8 + 4 * ((coreCycle s - ((getBank (getCore s core) b).dueAt.getD (coreCycle s))) / 1560)) s) s

/-! ### Checks (R230) -/

inductive RowOp where
  | act | con | put | pre
  deriving DecidableEq, Repr

/-- Checks 7 to 10 on one bank in cycle `now`. -/
def bankCheck (now : Nat) (b : Bank) : RowOp → Option Trap
  | .act =>
    if isOpen b then some .rowBusy
    else match b.tPre with
      | some t => if now < t + 12 then some .rowEarly else none
      | none => none
  | .con | .put =>
    if b.mode = .lapsedClosed then some .rowLapsed
    else if !isOpen b then some .rowClosed
    else if now < b.tAct + 14 then some .rowEarly
    else if now ≥ b.leaseEnd then some .rowLapsed
    else none
  | .pre => if isOpen b && now < b.tAct + 28 then some .rowEarly else none

/-- The first bank whose check fails. -/
def banksCheck (s : State) (cs : CoreSt) (op : RowOp) : List Nat → Option Trap
  | [] => none
  | b :: t => match bankCheck (coreCycle s) (getBank cs b) op with
    | some x => some x
    | none => banksCheck s cs op t

/-- Checks 1 to 4: poison, ranges, row mode, allotted to the team's launch. -/
def rowRangeCheck (s : State) (cs : CoreSt) (vs : List SVal) (banks : List Nat) (row : Nat) : Option Verdict :=
  match vs.foldl (fun t v => maxTag t v.tag) none with
  | some c => some (poisonTrap c)
  | none =>
    let m := fun b => rowMode s s.focusCore (b / 8)
    if banks.any (fun b => b ≥ 128) || row ≥ 8192 then some (.trap { trap := .rowRange })
    else if banks.any (fun b => (m b).isNone) then some (.trap { trap := .rowMode })
    else if banks.any (fun b => m b != cs.occ.map (·.launch)) then some (.trap { trap := .rowRange })
    else none

/-- Check 5: the tile takes whole rows, and quads q to q + n - 1 lie in it. -/
def quadShape (cs : CoreSt) (t q n : Nat) : Bool :=
  let v := tcT cs t
  tcCfg v && tcBytes v == 512 && 4 * (q + n) ≤ tcRows v

/-! ### Effects (R231 to R235) -/

/-- ACTs issued in the 15 cycles before cycle `now`. -/
def recentActs (cs : CoreSt) (now : Nat) : Nat := (cs.actTimes.filter fun t => now < t + 16 && t < now).length

/-- A bank of row r, activated in cycle `now`. -/
def openBank (b : Bank) (row now lease : Nat) : Bank :=
  { b with mode := .openNotReady, row := row, tAct := now, lease := lease, leaseEnd := now + 14 + lease, leaseRun := true, put := none }

def actBank (s : State) (cs : CoreSt) (b row : Nat) : CoreSt :=
  let now := coreCycle s
  { setBank cs b (openBank (getBank cs b) row now (leaseNow s s.focusCore)) with
    actCount := cs.actCount + 1
    actTimes := now :: cs.actTimes.filter fun t => now < t + 16
    rowJobs := cs.rowJobs ++ [⟨true, b, now + 13⟩] }

/-- The operands of a row instruction name these banks: the state in which it meets them. -/
def meetBanks (s : State) (bks : List Nat) : State := settleBanks s.focusCore (bks.filter (· < 128)) s

/-- Rows 4 q + i of a tile from the row buffer of a bank. -/
def fillQuad (s : State) (cs : CoreSt) (t q bank : Nat) : CoreSt :=
  let b := getBank cs bank
  let d := (rowBuffer s s.focusCore bank b).toNat
  (List.range 4).foldl (fun cs i =>
    writeTile cs t (4 * q + i)
      { data := BitVec.ofNat 4096 (laneOf 4096 d i), tag := if rowBadPart s s.focusCore bank b i then some .memory else none }) cs

/-- The row buffer that a quad gives. -/
def quadData (cs : CoreSt) (t q : Nat) : RowData :=
  BitVec.ofNat 16384 (packLanes 4096 ((List.range 4).map fun i => (readTile cs t (4 * q + i)).data.toNat))

/-- The greatest cause of the tags of a quad. -/
def quadTag (cs : CoreSt) (t q : Nat) : Option Cause :=
  (List.range 4).foldl (fun g i => maxTag g (readTile cs t (4 * q + i)).tag) none

/-- A ROW.ACT that has passed its checks waits for the window and for refresh (R226, R227), and opens its row. -/
def actWhenFree (s : State) (bk row : Nat) : Verdict :=
  let cs := focusCs s
  if recentActs cs (coreCycle s) + 1 > s.hub.window || (getBank cs bk).refreshDue.isSome || (getBank cs bk).refreshEnd.isSome then
    .pend { act := some (bk, row) } none
  else .done { s := withCs s (actBank s cs bk row) }

/-- ROW.ACT: the checks, which are not repeated after the waits (R230), then the waits. -/
def rowActBody (a b : SSrc) (s : State) : Verdict :=
  let cs := focusCs s
  if hazard s cs .mem (claimsOf (srcRes .mem a ++ srcRes .mem b) []) 1 then .stall
  else match takeSrcs cs .mem [a, b] with
    | none => .stall
    | some (vs, cs1) =>
      match cs.mem.pending.bind (·.act) with
      | some (bk, row) => actWhenFree (meetBanks (withCs s cs1) [bk]) bk row
      | none =>
        let bk := (vs.getD 0 {}).val.toNat
        let row := (vs.getD 1 {}).val.toNat
        match rowRangeCheck s cs vs [bk] row with
        | some v => v
        | none =>
          let s := meetBanks (withCs s cs1) [bk]
          match banksCheck s (focusCs s) .act [bk] with
          | some t => .trap { trap := t }
          | none => actWhenFree s bk row

/-- ROW_ACT: Opens a row of a bank of the core's column, waiting for the activation window and refresh (R231). -/
def execRowAct (k : Ctl) (a b : SSrc) (s : State) : Out := issue (.rowAct k a b) s (rowActBody a b)

/-- The claims of an instruction that moves quads between a tile and banks. -/
def quadClaims (srcs : List SSrc) (t : Nat) (fill : Bool) : List Claim :=
  claimsOf (srcs.flatMap (srcRes .mem) ++ (if fill then [] else [.tile t])) (if fill then [.tile t] else [])

/-- ROW.CON and ROW.CON.2: quad q + j from the j-th bank. -/
def rowConBody (d : Nat) (srcs : List SSrc) (q : Nat) (s : State) : Verdict :=
  let cs := focusCs s
  let cl := quadClaims srcs d true
  if hazard s cs .mem cl 2 then .stall
  else match takeSrcs cs .mem srcs with
    | none => .stall
    | some (vs, cs1) =>
      let bks := vs.map (·.val.toNat)
      match rowRangeCheck s cs vs bks 0 with
      | some v => v
      | none =>
        if !quadShape cs d q bks.length then .trap { trap := .tileShape }
        else
          let s := meetBanks (withCs s cs1) bks
          match banksCheck s (focusCs s) .con bks with
          | some t => .trap { trap := t }
          | none =>
            let cs2 := ((List.range bks.length).zip bks).foldl (fun cs p => fillQuad s cs d (q + p.1) p.2) (focusCs s)
            .done { s := withCs s cs2, lat := 2, claims := cl ++ bks.map fun b => ⟨.bank b, false⟩ }

/-- ROW_CON: Copies the open row of a bank into a quad of a tile (R232). -/
def execRowCon (k : Ctl) (d : Nat) (a : SSrc) (quad : Nat) (s : State) : Out :=
  issue (.rowCon k d a quad) s (rowConBody d [a] quad)
/-- ROW_CON_2: Copies the open rows of two banks into two consecutive quads of a tile (R232). -/
def execRowCon2 (k : Ctl) (d : Nat) (a b : SSrc) (quad : Nat) (s : State) : Out :=
  issue (.rowCon2 k d a b quad) s (rowConBody d [a, b] quad)

/-- ROW.PUT: a quad replaces the row buffer. -/
def rowPutBody (d : Nat) (a : SSrc) (q : Nat) (s : State) : Verdict :=
  let cs := focusCs s
  let cl := quadClaims [a] d false
  if hazard s cs .mem cl 2 then .stall
  else match takeSrcs cs .mem [a] with
    | none => .stall
    | some (vs, cs1) =>
      let bk := (vs.getD 0 {}).val.toNat
      match rowRangeCheck s cs vs [bk] 0 with
      | some v => v
      | none =>
        if !quadShape cs d q 1 then .trap { trap := .tileShape }
        else match quadTag cs d q with
          | some c => poisonTrap c
          | none =>
            let s := meetBanks (withCs s cs1) [bk]
            match banksCheck s (focusCs s) .put [bk] with
            | some t => .trap { trap := t }
            | none =>
              let cs2 := setBank (focusCs s) bk { getBank (focusCs s) bk with put := some (quadData cs d q) }
              .done { s := withCs s cs2, lat := 2, claims := ⟨.bank bk, true⟩ :: cl }

/-- ROW_PUT: Replaces the open row buffer of a bank with a quad of a tile (R233). -/
def execRowPut (k : Ctl) (d : Nat) (a : SSrc) (quad : Nat) (s : State) : Out :=
  issue (.rowPut k d a quad) s (rowPutBody d a quad)

/-- ROW.PRE on a bank: an open row is precharged; on a bank that is not open it precharges nothing. It completes at the end of t + 11 in
every case (R237). -/
def preBank (s : State) (b : Nat) : State :=
  let cs := focusCs s
  let s := match (getBank cs b).mode with
    | .closed => s
    | .lapsedClosed => withCs s (setBank cs b { getBank cs b with mode := .closed })
    | _ => precharge s s.focusCore b .closed (coreCycle s) true
  withCs s { focusCs s with rowJobs := (focusCs s).rowJobs ++ [⟨false, b, coreCycle s + 11⟩] }

def rowPreBody (a : SSrc) (s : State) : Verdict :=
  let cs := focusCs s
  if hazard s cs .mem (claimsOf (srcRes .mem a) []) 1 then .stall
  else match takeSrcs cs .mem [a] with
    | none => .stall
    | some (vs, cs1) =>
      let bk := (vs.getD 0 {}).val.toNat
      match rowRangeCheck s cs vs [bk] 0 with
      | some v => v
      | none =>
        if hazard s cs .mem [⟨.bank bk, false⟩] 1 then .stall
        else
          let s := meetBanks (withCs s cs1) [bk]
          match banksCheck s (focusCs s) .pre [bk] with
          | some t => .trap { trap := t }
          | none => .done { s := preBank s bk }

/-- ROW_PRE: Precharges and closes a bank, writing its row buffer to the cells (R234). -/
def execRowPre (k : Ctl) (a : SSrc) (s : State) : Out := issue (.rowPre k a) s (rowPreBody a)

/-- Bits i of the banks from b0 up that are open. -/
def openMap (cs : CoreSt) (b0 : Nat) : Nat :=
  packLanes 1 ((List.range 64).map fun i => if isOpen (getBank cs (b0 + i)) then 1 else 0)

/-- Bank groups of a core allotted to a launch. -/
def regionMask (s : State) (c : Nat) (l : Option Nat) : Nat :=
  packLanes 1 ((List.range 16).map fun g => if (rowMode s c g).isSome && rowMode s c g == l then 1 else 0)

/-- ROW.STAT's values (R235). -/
def rowStatValue (s : State) (cs : CoreSt) (sel : Nat) : Nat :=
  match sel with
  | 0 =>
    regionMask s s.focusCore (cs.occ.map (·.launch)) * 2 ^ 48 + recentActs cs (coreCycle s) * 2 ^ 24 + s.hub.window * 2 ^ 16 +
      (if (stackUnit s (s.focusCore / 48)).hot then 2 ^ 12 else 0) + leaseNow s s.focusCore
  | 1 => openMap cs 0
  | 2 => openMap cs 64
  | _ => cs.actCount

/-- ROW_STAT: Returns the row status word, open bitmaps or ACT count chosen by the selector (R235). -/
def execRowStat (k : Ctl) (d : SDst) (sel : Nat) (s : State) : Out :=
  issue (.rowStat k d sel) s fun s =>
    let s := meetBanks s ((focusCs s).banks.map (·.1))
    scalarBody [] d 1 (fun _ => .ok { val := BitVec.ofNat 64 (rowStatValue s (focusCs s) sel) }) s

/-- Every earlier row instruction of the core has completed (R236, R237). -/
def rowsComplete (s : State) (cs : CoreSt) : Bool :=
  (cs.rowJobs.all fun j => j.ends < coreCycle s) &&
    cs.flights.all fun f => f.claims.all fun q => match q.res with | .bank _ => false | _ => true

/-- ROW_WAIT: Issues once every earlier row instruction of the core has completed (R236). -/
def execRowWait (k : Ctl) (s : State) : Out :=
  issue (.rowWait k) s fun s => if rowsComplete s (focusCs s) then .done { s := s } else .stall

/-! ### Completion, lease, refresh (R225, R227, R237) -/

/-- The first row instruction of a kind that is due on a bank. -/
def rowJobDone (act : Bool) (core bank : Nat) (s : State) : Option State :=
  let cs := getCore s core
  match cs.rowJobs.find? fun j => j.act == act && j.bank == bank && j.ends < coreCycle s with
  | none => none
  | some j =>
    let cs := { cs with rowJobs := cs.rowJobs.erase j }
    let b := getBank cs bank
    let cs := if act && b.mode == .openNotReady && b.tAct + 13 ≤ j.ends then setBank cs bank { b with mode := .openReady } else cs
    some (setCore s core cs)

/-- ROW_ACT_COMPLETE: A ROW.ACT completes and its row becomes ready (R237). -/
def execRowActComplete (core bank : Nat) (s : State) : Out := evOut s (rowJobDone true core bank s)
/-- ROW_PRE_COMPLETE: A precharge completes with its data in the cells (R237). -/
def execRowPreComplete (core bank : Nat) (s : State) : Out := evOut s (rowJobDone false core bank s)

/-- REFRESH_START: A due refresh of a bank starts once tRP has passed since the bank's last precharge (R227). -/
def execRefreshStart (core bank : Nat) (s : State) : Out := evOut s (refreshStart core bank s)

/-- LEASE_EXPIRY: The lease of an open row runs out (R225). -/
def execLeaseExpiry (core bank : Nat) (s : State) : Out := evOut s (leaseExpiry core bank s)

/-- REFRESH_DUE: At the end of a tREFI interval a bank's refresh falls due and starts, waits or precharges a lapsed row (R227). -/
def execRefreshDue (core bank : Nat) (s : State) : Out := evOut s (refreshDue core bank s)

/-- REFRESH_END: A refresh of tRFC cycles ends and waiting ACTs may issue (R227). -/
def execRefreshEnd (core bank : Nat) (s : State) : Out := evOut s (refreshEnds core bank s)

/-! ### Heat and power (R15, R226, R228) -/

def setStack (s : State) (k : Nat) (u : StackUnit) : State := { s with fw := { s.fw with micas := mset s.fw.micas k u } }

/-- A stack changes its temperature state. -/
def setTemp (s : State) (k : Nat) (h : Bool) : State :=
  setStack s k { stackUnit s k with hot := h, hotLog := (coreCycle s, h) :: (stackUnit s k).hotLog }

/-- TEMP_HOT (R228). -/
def execTempHot (stack : Nat) (s : State) : Out :=
  evOut s (if stack < 8 && !(stackUnit s stack).hot then some (setTemp s stack true) else none)
/-- TEMP_NORMAL (R228). -/
def execTempNormal (stack : Nat) (s : State) : Out :=
  evOut s (if stack < 8 && (stackUnit s stack).hot then some (setTemp s stack false) else none)

/-- The power manager sets W from 1 to 12. -/
def execActivationWindowSet (w : Nat) (s : State) : Out :=
  evOut s (if 1 ≤ w && w ≤ 12 then some { s with hub := { s.hub with window := w } } else none)

/-- The power manager sets the matrix issue gap, 0 to 255 core cycles. -/
def execMatrixIssueGapSet (n : Nat) (s : State) : Out :=
  evOut s (if n ≤ 255 then some { s with hub := { s.hub with gap := n } } else none)

end Sys2Proof.Machine
end

