-- ==== Sys2Proof/Machine/Order.lean ====
section
/-! DEFINITION. The access engine's fences, CWB and ACQR (R282 to R284, R344, R345). -/

namespace Sys2Proof.Machine

/-- A fence that releases raises a recorded remote failure first; then it waits inside itself. -/
def fenceBody (kind : WaitKind) (rel : Bool) (s : State) : Verdict :=
  match (if rel then (focusCs s).rfail else none) with
  | some r => rfailVerdict s r
  | none => .done { s := s, flow := .wait kind }

/-- FENCE_ACQ: Waits for earlier loads of the access engine and acquires (R345). -/
def execFenceAcq (k : Ctl) (s : State) : Out := issue (.fenceAcq k) s (fenceBody .fenceAcq false)
/-- FENCE_REL: Raises a recorded remote failure, waits for earlier accesses and RSP.ST writes, and releases (R345). -/
def execFenceRel (k : Ctl) (s : State) : Out := issue (.fenceRel k) s (fenceBody .fenceRel true)
/-- FENCE_SC: As FENCE.REL, then waits for every remote acknowledgement, takes its place in S and acquires (R345). -/
def execFenceSc (k : Ctl) (s : State) : Out := issue (.fenceSc k) s (fenceBody .fenceSc true)

/-- The base and length of a range, or the verdict when there is none (R283). -/
def rangeBody (a b : SSrc) (f : CoreSt → Nat → Nat → Verdict) (s : State) : Verdict :=
  let cs := focusCs s
  if hazard s cs .mem (claimsOf (srcRes .mem a ++ srcRes .mem b) []) 1 then .stall
  else match takeSrcs cs .mem [a, b] with
    | none => .stall
    | some (vs, cs1) =>
      match vs.foldl (fun t v => maxTag t v.tag) none with
      | some c => poisonTrap c
      | none =>
        let x := (vs.getD 0 {}).val.toNat
        let n := (vs.getD 1 {}).val.toNat
        if x + n > 2 ^ 64 then addrTrap .busError x
        else if n = 0 then .done { s := withCs s cs1 }
        else f cs1 x n

/-- Writes back the owned words of a line in the range and frees them; the line stays valid. -/
def cwbLine (id x n : Nat) (l : L1Line) : L1Line × List WbOut :=
  let ws := l.owned &&& rangeWords l.key.va x n
  if ws = 0 then (l, [])
  else ({ l with owned := l.owned &&& ~~~ws },
        [{ key := l.key, words := ws, data := l.data, poison := l.poison &&& bytesOf ws, cwb := some id }])

/-- CWB: every earlier access of the engine in the range has been performed, those of a restored team's remote operations too; it retires when
every write-back is acknowledged (R284). -/
def cwbRange (s : State) (cs : CoreSt) (x n : Nat) : Verdict :=
  if overlapping s cs .mem [{ va := x, n := n, off := 0 }] ||
      (cs.l1.any fun l => (l.owned &&& rangeWords l.key.va x n) != 0 && lineAsked cs l.key) then .stall
  else
    let r := cs.l1.map (cwbLine cs.nextId x n)
    let out := r.flatMap (·.2)
    .done { s := withCs s { cs with l1 := r.map (·.1), wbOut := cs.wbOut ++ out }, openEnd := !out.isEmpty }

/-- CWB: Writes back and releases the core's owned words of a range (R283). -/
def execCwb (k : Ctl) (a b : SSrc) (s : State) : Out :=
  issue (.cwb k a b) s fun s => rangeBody a b (cwbRange s) s

/-- Lines that a range covers, 2,048 at most. -/
def rangeLines (x n : Nat) : Nat := min 2048 ((x + n - 1) / 128 - x / 128 + 1)

/-- ACQR: words of the range that the core does not own are invalidated; a fill requested earlier installs none of them. -/
def acqrRange (s : State) (cs : CoreSt) (x n : Nat) : Verdict :=
  let l1 := (cs.l1.map fun l => { l with valid := l.valid &&& ~~~(rangeWords l.key.va x n &&& ~~~l.owned) }).filter fun l => l.valid != 0
  let as := cs.accesses.map fun q =>
    if !q.store && q.pieces.any (fun p => overlaps (lineBase p.va) 128 x n) then { q with acqrs := (x, n) :: q.acqrs } else q
  let t := (rangeLines x n + 15) / 16
  .done { s := withCs s { cs with l1 := l1, accesses := as }, lat := t, busy := t }

/-- ACQR: Invalidates unowned L1 words of a range and acquires for that range (R283). -/
def execAcqr (k : Ctl) (a b : SSrc) (s : State) : Out :=
  issue (.acqr k a b) s fun s => rangeBody a b (acqrRange s) s

end Sys2Proof.Machine
end

