-- ==== Sys2Proof/Machine/CopyQ.lean ====
section
/-! DEFINITION. The copy queues: CQ.PUT, CQ.MCAST and CQ.FENCE, their descriptors, the pieces of a command, and the I/O-coherent accesses of other agents (R354 to R363, R349, R265). -/

namespace Sys2Proof.Machine

/-! ### Issue (R347, R358, R359) -/

/-- CQ.PUT and CQ.MCAST: the release and a free entry, then the descriptor's load. -/
def cqBody (mcast : Bool) (a q : Nat) (post : Option Nat) (s : State) : Verdict :=
  let cs := focusCs s
  let cl := claimsOf [.sreg .seq a] []
  let v := readReg cs.seq .seq a
  if hazard s cs .seq cl 1 then .stall
  else match v.tag with
    | some c => poisonTrap c
    | none =>
      if v.val.toNat % 64 ≠ 0 then addrTrap .misaligned v.val.toNat
      else if !seqReleased s s.focusCore || (getCq cs q).length ≥ 32 then .stall
      else
        let p : Access := { id := cs.nextId, eng := .seq, store := false, flight := cs.nextId, asid := asidOf s cs, issuedAt := coreCycle s,
                            dst := .cqDesc q mcast post, pieces := piecesOf [⟨v.val.toNat, 64, 0⟩] }
        .done { s := withCs s { cs with accesses := cs.accesses ++ [p] }, openEnd := true, claims := cl }

/-- CQ_PUT: Releases, reads a command descriptor, checks it and enqueues it in a copy queue (R359). -/
def execCqPut (k : Ctl) (q a : Nat) (post : Option Nat) (s : State) : Out := issue (.cqPut k q a post) s (cqBody false a q post)
/-- CQ_MCAST: Enqueues a multicast copy command with its destination list (R359). -/
def execCqMcast (k : Ctl) (q a : Nat) (post : Option Nat) (s : State) : Out := issue (.cqMcast k q a post) s (cqBody true a q post)

/-- An entry placed at the end of a queue takes the next sequence number. -/
def appendCq (cs : CoreSt) (q : Nat) (x : CqEntry) : CoreSt :=
  let cs := setCq cs q (getCq cs q ++ [{ x with seqNo := cs.cqSeq }])
  { cs with cqSeq := cs.cqSeq + 1 }

/-- The entries that a fence awaits: the last one of each queue of the mask. -/
def fenceWaits (cs : CoreSt) (mask : Nat) : List (Nat × Nat) :=
  [0, 1].filterMap fun j => if mask.testBit j then (getCq cs j).getLast?.map fun x => (j, x.seqNo) else none

def cqFenceBody (q mask : Nat) (post : Option Nat) (s : State) : Verdict :=
  let cs := focusCs s
  if (getCq cs q).length ≥ 32 then .stall
  else .done { s := withCs s (appendCq cs q { kind := .fence, seqNo := 0, post := post, waits := fenceWaits cs mask }) }

/-- CQ_FENCE: Enqueues a fence entry that completes when earlier entries of the named queues have completed (R359). -/
def execCqFence (k : Ctl) (q mask : Nat) (post : Option Nat) (s : State) : Out := issue (.cqFence k q mask post) s (cqFenceBody q mask post)

/-! ### The descriptor's checks (R356, R357) -/

/-- Bytes [lo, hi] of a side. -/
def extent (base : Nat) (d : CopyDesc) (stride : Int) : Int × Int :=
  let k := ((d.height : Int) - 1) * stride
  ((base : Int) + min 0 k, (base : Int) + max 0 k + d.width - 1)

/-- Check 1. -/
def descFormed (mcast : Bool) (bs : List Byte) (d : CopyDesc) : Bool :=
  let b (i : Nat) : Nat := (bs.getD i 0).toNat
  b 0x28 / 2 == 0 && b 0x29 / 2 == 0 && b 0x2B / 4 == 0 && (bs.drop 0x2C).all (· == 0) &&
    (if mcast then 1 ≤ d.n && d.n ≤ 64 && !d.dsp else d.n == 0) && 1 ≤ d.width && 1 ≤ d.height && d.width * d.height ≤ 2 ^ 32

/-- An extent wholly in one region of R266. -/
def extentClass (s : State) (x : Int × Int) : VaClass :=
  if x.1 < 0 ∨ x.2 ≥ 2 ^ 64 then .hole
  else if vaClass s x.1.toNat = vaClass s x.2.toNat then vaClass s x.1.toNat else .hole

def isRemoteClass : VaClass → Bool
  | .remote _ => true
  | _ => false

def meets (x y : Int × Int) : Bool := x.1 ≤ y.2 && y.1 ≤ x.2

/-- Checks 1 to 4 in their order: the fault, or none. -/
def descTrap (s : State) (mcast : Bool) (bs : List Byte) (list : List Nat) : Option FaultRec :=
  let d := descOf bs
  let src := extent d.src d d.sstride
  let dsts := (if mcast then list else [d.dst]).map fun b => extent b d d.dstride
  let dspm := d.dsp && !mcast
  let inSpm (x : Int × Int) : Bool := 0 ≤ x.1 && x.2 < (spmSize : Int)
  let okDst (x : Int × Int) : Bool := if mcast then isRemoteClass (extentClass s x) else extentClass s x != .hole
  if !descFormed mcast bs d then some { trap := .cqDesc }
  else if d.ssp && !inSpm src then some { trap := .spmRange, addr := BitVec.ofNat 64 d.src }
  else if dspm && dsts.any (fun x => !inSpm x) then some { trap := .spmRange, addr := BitVec.ofNat 64 d.dst }
  else if !d.ssp && extentClass s src == .hole then some { trap := .busError, addr := BitVec.ofNat 64 d.src }
  else if !dspm then
    match dsts.find? fun x => !okDst x with
    | some x => some { trap := .busError, addr := BitVec.ofNat 64 (wrap64 x.1) }
    | none => if !d.ssp && dsts.any (meets src) then some { trap := .cqOverlap } else none
  else if d.ssp && dsts.any (meets src) then some { trap := .cqOverlap } else none

/-- Bytes of the destination list as addresses. -/
def listAddrs (n : Nat) (bs : List Byte) : List Nat := (List.range n).map fun i => leNat ((bs.drop (8 * i)).take 8)

/-- The entry of a checked command. -/
def copyEntry (mcast : Bool) (bs : List Byte) (list : List Nat) (post : Option Nat) : CqEntry :=
  { kind := if mcast then .mcast else .put, seqNo := 0, desc := some (descOf bs), list := if mcast then list else [], post := post }

/-! ### Reading a piece (R360, R363) -/

/-- What a part of a piece gives: its bytes and poison, nothing yet, a pause or a failure. -/
inductive Got where
  | bytes (s : State) (bs : List Byte) (bad : List Bool)
  | asked (s : State)
  | notYet
  | pause (h : HaltRec)
  | fail (cause : Nat)
  /-- The host has not answered for 50 ms (R411). -/
  | timeout (pa : Nat)
  deriving DecidableEq, Repr

/-- A fault met by a piece (R361). -/
def pieceFault (t : Trap) (asid va : Nat) (kind : AccKind) : Got :=
  match t with
  | .pageMissing | .pageMoving => .pause { trap := t, asid := asid, va := va, kind := kind }
  | _ => .fail (trapCode t)

/-- A read of the queue waits at the line. -/
def readAsked (l : LlcLine) (c q : Nat) : Bool :=
  let mine (r : LineReq) : Bool := match r with
    | .ioRead ag _ => ag == .copy c q
    | _ => false
  l.queue.any mine || match l.st with
    | .rvk _ _ r | .fwd _ r | .hrev _ _ r | .hsi r | .hsn r | .hrc r => mine r
    | .stable => false

/-- A part of one line read at its home: it takes its place among the requests of the line; owners' words are seen and stay with them, and a
line that is not quiet, or that the host may have changed, answers when it has performed the read (R339, R349) (DEDUCED, log entry 31). -/
def readHome (s : State) (c q : Nat) (key : LineKey) (pa i n : Nat) (x : CqEntry) : Got :=
  match getLine s key with
  | none => .notYet
  | some l =>
    match x.got.find? fun g => g.1 == pa / 128 * 128 && g.2.1 == byteMask i n with
    | some g =>
      let cs := updEntry (getCore s c) q x.seqNo fun y => { y with got := y.got.erase g }
      .bytes (setCore s c cs) (lineBytes g.2.2.1 i n) (lineBad g.2.2.2 i n)
    | none =>
      let r : LineReq := .ioRead (.copy c q) (byteMask i n)
      if readAsked l c q then .notYet
      else match arriveAt s l r with
        | none => .notYet
        | some m =>
          match peekLine s l with
          | some d => .bytes (settleTemp (putLine s { m with rrpv := 0 }) key) (lineBytes d.1 i n) (lineBad d.2 i n)
          | none => .asked (beginReq s m r)

/-- The request of an entry for an address of the piece at index i, and the entry with one more request. -/
def askOf (x : CqEntry) (i va : Nat) : Option LoadAsk := x.asks.find? fun a => a.va == va && a.idx == i
def putAsk (s : State) (c q : Nat) (x : CqEntry) (i va n : Nat) : State :=
  setCore s c (updEntry (getCore s c) q x.seqNo fun y =>
    { y with asks := y.asks ++ [{ va := va, n := n, firstAt := s.time, sentAt := s.time, who := 4 + q, idx := i }] })

/-- A part of a piece's source in one line. What another package or the host holds is asked for, and is there when the answer has come
(R363, R411). -/
def readGlobal (s : State) (c q asid i va n : Nat) (x : CqEntry) : Got :=
  match vaClass s va with
  | .remote p =>
    if s.rou.lostPkgs.contains p then .bytes s (List.replicate n 0) (List.replicate n true)
    else if (askOf x i va).isNone then .asked (sendPacket (putAsk s c q x i va n) (.load p va n))
    else .bytes { hear s p with fresh := s.fresh + 1 } (remoteData s va n) (remotePoison s va n)
  | _ =>
    match reach s asid va .load with
    | .error t => pieceFault t (keyOf s asid va).asid va .load
    | .ok (s, t, .dram _ _) =>
      let key := keyOf s asid va
      readHome (fillLine s key t.pa (permBits t) 0 (some (c / 48))) c q key t.pa (va % 128) n x
    | .ok (s, t, _) =>
      match hostAsk s (askOf x i va) with
      | .made => .asked (putAsk s c q x i va n)
      | .waits => .notYet
      | .late => .timeout t.pa
      | .here => .bytes { s with fresh := s.fresh + 1 } ((List.range n).map fun i => Config.hostByte (t.pa + i) s.fresh) (List.replicate n false)

/-- The parts of a source range, line by line. -/
def readParts (c q asid i : Nat) (x : CqEntry) : List Piece → State → List Byte → List Bool → Got
  | [], s, bs, bad => .bytes s bs bad
  | p :: t, s, bs, bad =>
    match readGlobal s c q asid i p.va p.n x with
    | .bytes s' b m => readParts c q asid i x t s' (bs ++ b) (bad ++ m)
    | r => r

/-- The source bytes of the piece that starts at index i. -/
def readSource (s : State) (c q : Nat) (x : CqEntry) (i n : Nat) : Got :=
  let a := srcAt x.dsc i
  let cs := getCore s c
  if x.dsc.ssp then .bytes s (readBytes cs.spm a n) ((List.range n).map fun j => spmBad cs (a + j))
  else readParts c q (asidOf s cs) i x (splitLines 3 a n 0) s [] []

/-! ### Writing a piece (R360, R362) -/

/-- A write of a scratchpad with poisoned bytes marks their granules (R243). -/
def spmPut (cs : CoreSt) (a : Nat) (bs : List Byte) (bad : List Bool) : CoreSt :=
  let cs := spmWrite cs a bs
  { cs with spmPoison := ((List.range bs.length).filter fun j => bad.getD j false).foldl (fun m j => mset m ((a + j) / 8) ()) cs.spmPoison }

/-- Poison bits at byte i of a line. -/
def badAt (i : Nat) (bad : List Bool) : BitVec 128 := BitVec.ofNat 128 (packLanes 1 (bad.map fun b => if b then 1 else 0) <<< i)

/-- The remote store piece of a copied piece, to destination k. R308 gives it no place for DHINT: the owner's LLC takes the line with class 0 (R356)
(DESIGN CHOICE, log entry 72). -/
def copyRem (s : State) (c q : Nat) (x : CqEntry) (i k va : Nat) (bs : List Byte) (bad : List Bool) : RemOp :=
  { code := 0xF0, asid := asidOf s (getCore s c), va := va, n := bs.length, mask := byteMask (va % 128) bs.length,
    opnd := (List.range 8).map (fun j => BitVec.ofNat 128 (laneOf 128 (bytesAt (va % 128) bs).toNat j)) ++
      (if bad.any id then [badAt (va % 128) bad] else []),
    core := c, copy := some (q, x.seqNo, i, k) }

/-- A destination has been handed its piece, or has performed it. -/
def handed (s : State) (c q : Nat) (x : CqEntry) (i k : Nat) : Bool :=
  x.acks.contains (i, k) ||
    (teamOps s (getCore s c)).any fun o => o.core == c && !o.saved && !o.discard && o.copy == some (q, x.seqNo, i, k)

/-- The piece goes to every destination that has not been handed it, in their order (DEDUCED, log entry 32). -/
def sendDests (c q : Nat) (x : CqEntry) (i : Nat) (bs : List Byte) (bad : List Bool) : List (Nat × Nat) → State → State
  | [], s => s
  | (k, b) :: t, s =>
    let s := if handed s c q x i k then s else (handOver s (copyRem s c q x i k (dstAt x.dsc b i) bs bad)).1
    sendDests c q x i bs bad t s

/-- A command pauses; firmware reports the halt (R361, R430). -/
def pauseEntry (s : State) (c q : Nat) (x : CqEntry) (h : HaltRec) : State :=
  let cs := getCore s c
  let o := cs.occ.getD ⟨0, 0, 0, 0⟩
  postReport (setCore s c (updEntry cs q x.seqNo fun y => { y with paused := some h }))
    { kind := 2, engine := 4 + q, code := trapCode h.trap, launch := o.launch, gang := o.gang, team := o.team, half := o.half,
      aux := accAux h.kind, core := c, asid := h.asid, addr := BitVec.ofNat 64 h.va, ctx := recordAddr s o }

/-- A write to local global memory is sent to its line; a write to the host's memory is performed when the host has taken it (R411). -/
def writeGlobal (s : State) (c q : Nat) (x : CqEntry) (i va : Nat) (bs : List Byte) (bad : List Bool) : Option State :=
  let asid := asidOf s (getCore s c)
  match reach s asid va .store with
  | .error t =>
    match pieceFault t (keyOf s asid va).asid va .store with
    | .pause h => some (pauseEntry s c q x h)
    | _ => some (cqFault s c q x.seqNo (trapCode t) 0)
  | .ok (s, t, .dram _ _) =>
    let key := keyOf s asid va
    let s := fillLine s key t.pa (permBits t) x.dsc.dhint (some (c / 48))
    let s := setCore s c (updEntry (getCore s c) q x.seqNo fun y => { y with sent := i :: y.sent })
    submitReq s key (.ioWrite (.copy c q) x.seqNo i (byteMask (va % 128) bs.length) (bytesAt (va % 128) bs) (badAt (va % 128) bad))
  | .ok (s, t, _) =>
    match hostAsk s (askOf x i va) with
    | .made => some (setCore (putAsk s c q x i va 0) c (updEntry (getCore (putAsk s c q x i va 0) c) q x.seqNo fun y => { y with held := some (i, bs, bad) }))
    | .waits => none
    | .late => some (cqFault (logTimeout s t.pa true) c q x.seqNo (trapCode .busError) 0)
    | .here =>
      let s := setCore s c (updEntry (getCore s c) q x.seqNo fun y => { y with held := none, asks := y.asks.filter fun a => a.va != va || a.idx != i })
      some (copyAck { s with fw := { s.fw with hostOut := (t.pa, bs) :: s.fw.hostOut } } c q x.seqNo i 0)

/-- The destinations of a piece that has been read. -/
def writePiece (s : State) (c q : Nat) (x : CqEntry) (i : Nat) (bs : List Byte) (bad : List Bool) : Option State :=
  let va := dstAt x.dsc x.dsc.dst i
  if x.kind = .put && x.dsc.dsp then some (copyAck (setCore s c (spmPut (getCore s c) va bs bad)) c q x.seqNo i 0)
  else if x.kind = .put && !isRemoteClass (vaClass s va) then writeGlobal s c q x i va bs bad
  else
    let s := sendDests c q x i bs bad (x.bases.mapIdx fun k b => (k, b)) s
    let all := (List.range x.bases.length).all fun k => handed s c q x i k
    some (setCore s c (updEntry (getCore s c) q x.seqNo fun y => { y with held := if all then none else some (i, bs, bad) }))

/-- The destinations of a piece lie in other packages. -/
def goesAway (s : State) (x : CqEntry) (i : Nat) : Bool :=
  x.kind == .mcast || (!x.dsc.dsp && isRemoteClass (vaClass s (dstAt x.dsc x.dsc.dst i)))

/-- Whether the piece at index i may be read now: remote pieces leave in ascending order, and a piece that has been read goes to every destination
before the next is read. -/
def pieceReady (s : State) (c q : Nat) (x : CqEntry) (i : Nat) : Bool :=
  x.fail.isNone && x.paused.isNone && isStart x i && x.cursor ≤ i && i < x.dsc.total && !x.done.contains i && (x.held.all fun h => h.1 == i) &&
    (if goesAway s x i then
      (x.sent.contains i || nextPiece x x.cursor (x.sent.length + x.done.length + 1) == i) &&
        (List.range x.bases.length).any fun k => !handed s c q x i k
     else !x.sent.contains i)

/-- The queue of a core works while its team is resident and no event has stopped it; after a fault of one queue the other goes on until the
team is saved (R361). -/
def queueRuns (cs : CoreSt) : Bool :=
  cs.occ.isSome && cs.run != .stopped && (!cs.event || (cs.tcode == trapCode .cqFault && cs.cqArg.isSome)) && cs.restartAt.isNone

/-- A piece that has been read before is not read again (R362). -/
def heldPiece (s : State) (x : CqEntry) (i : Nat) : Option Got := match x.held with
  | some (j, bs, bad) => if j = i then some (.bytes s bs bad) else none
  | none => none

/-- The piece at index i has its bytes: what it asked for is no longer outstanding. -/
def dropAsks (s : State) (c q i : Nat) (x : CqEntry) : State :=
  if x.held.isSome then s else setCore s c (updEntry (getCore s c) q x.seqNo fun y => { y with asks := y.asks.filter fun a => a.idx != i })

/-- A 128-byte piece of the command at the head of a queue, named by the index of its first byte; a fence entry at the head
completes when what it awaits has (DEDUCED, log entry 31). -/
def copyPiece (core q piece : Nat) (s : State) : Option State :=
  let cs := getCore s core
  match getCq cs q with
  | [] => none
  | x :: _ =>
    if !queueRuns cs || q > 1 then none
    else if x.kind = .fence then (if piece = 0 && fenceMet cs x && headMay s core q x then some (completeHead s core q) else none)
    else if x.cursor = x.dsc.total then (if piece = x.cursor && headMay s core q x then some (completeHead s core q) else none)
    else if !pieceReady s core q x piece then none
    else match (heldPiece s x piece).getD (readSource s core q x piece (pieceLen x piece)) with
      | .bytes s' bs bad => writePiece (dropAsks s' core q piece x) core q x piece bs bad
      | .asked s' => some s'
      | .notYet => none
      | .pause h => some (pauseEntry s core q x h)
      | .fail cause => some (cqFault s core q x.seqNo cause 0)
      | .timeout pa => some (cqFault (logTimeout s pa false) core q x.seqNo (trapCode .busError) 0)

/-- COPY_PIECE: A 128-byte piece of a copy command is performed and the cursor advances (R360). -/
def execCopyPiece (core q piece : Nat) (s : State) : Out := evOut s (copyPiece core q piece s)

/-! ### I/O-coherent accesses by physical address (R265, R349, R351, R410) -/

/-- Agents that carry a physical address: the DMA agent of a Galena in service, and a host that uses the plain endpoint. -/
def ioAllowed (s : State) : IoAgent → Bool
  | .copy _ _ | .packet _ | .hub => false
  | .dma g => g < 2 && ((mgetD {} s.fw.galenas g).st == .inService || (mgetD {} s.fw.galenas g).st == .degraded) &&
      (mgetD [] s.fw.classes (8 + g)).contains (6, 1)
  | .host => s.fw.linkUp && !s.fw.slate

/-- The host reaches device memory through BAR2, which shows its first bytes (R410). -/
def inBar2 (s : State) (ag : IoAgent) (pa n : Nat) : Bool := ag != .host || pa + n ≤ s.fw.bar2

/-- The host reaches a context area over the Slate link, and no other agent does (R376). -/
def hostArea (s : State) (ag : IoAgent) (pa : Nat) : Option (Occ × Nat) :=
  if ag = .host ∧ s.fw.linkUp ∧ (paCore pa).any (coreInService s) then s.fw.areas.find? fun a => a.2 ≤ pa && pa < a.2 + 0x364000 else none

/-- Bytes that the runtime writes into a context area: into the record that stands there, or into its DRAM (R376). -/
def areaPut (s : State) (a : Occ × Nat) (pa : Nat) (bs : List Byte) : State :=
  match findRecord s a.1 with
  | some r => putRecord s { r with bytes := writeBytes r.bytes (pa - a.2) bs }
  | none => dramPut s pa bs

/-- A write of bytes of one line: every owner of its words is revoked first; a line that is not cached is written in its stack (DEDUCED, log entry 36). -/
def ioWrite (ag : IoAgent) (pa : Nat) (data : List Byte) (s : State) : Option State :=
  if !ioAllowed s ag || data.isEmpty || pa % 128 + data.length > 128 || !inBar2 s ag pa data.length then none
  else if let some a := hostArea s ag pa then some (areaPut s a pa data)
  else if !isDram (paKind s pa) then some (ioBad s ag pa)
  else
    let key := windowKey s pa
    let m := byteMask (pa % 128) data.length
    match getLine s key with
    | some _ => submitReq s key (.ioWrite ag 0 0 m (bytesAt (pa % 128) data) 0)
    | none => some (wakeWatches (dramPut s pa data) key m)

/-- IO_COHERENT_WRITE: A copy, DMA or plain-endpoint write revokes owners and writes the LLC line (R349). -/
def execIoCoherentWrite (ag : IoAgent) (pa : Nat) (data : List Byte) (s : State) : Out := evOut s (ioWrite ag pa data s)

/-- A read at the home: owned words are forwarded, and the owners keep them. -/
def ioRead (ag : IoAgent) (pa n : Nat) (s : State) : Option State :=
  if !ioAllowed s ag || n = 0 || pa % 128 + n > 128 || !inBar2 s ag pa n then none
  else if (hostArea s ag pa).isSome then some s
  else if !isDram (paKind s pa) then some (ioBad s ag pa)
  else
    let key := windowKey s pa
    match getLine s key with
    | some _ => submitReq s key (.ioRead ag (byteMask (pa % 128) n))
    | none => some s

/-- IO_COHERENT_READ: A copy, DMA or plain-endpoint read is served at the home with owned words forwarded (R349). -/
def execIoCoherentRead (ag : IoAgent) (pa n : Nat) (s : State) : Out := evOut s (ioRead ag pa n s)

/-- A line that an agent without a translation brings in: its window address names its physical address, and a core's access is translated (R264, R265). -/
def windowLine (s : State) (key : LineKey) (pa : Nat) : State := if (getLine s key).isSome then allotLine s key 0 else addLine s key pa 0 0

/-- A host request of the Slate protocol: it carries a physical address, which the window address of its line stands for (R265, R351). One for a context
area is answered from it and leaves the host no copy (R376) (DESIGN CHOICE, log entry 72). -/
def hostRequest (key : LineKey) (req : LineReq) (s : State) : Option State :=
  let pa := key.va - winBase s.pkg
  if !(s.fw.linkUp && s.fw.slate) || key.asid != 0 || key.va % 128 != 0 || vaClass s key.va != .window || !inBar2 s .host pa 128 then none
  else if (hostArea s .host pa).isSome then some s
  else if !isDram (paKind s pa) then some (ioBad s .host pa)
  else submitReq (windowLine s key pa) key req

/-- HOST_READ_SHARED: A Slate read-shared request revokes core owners and gives the host HS (R351). -/
def execHostReadShared (key : LineKey) (s : State) : Out := evOut s (hostRequest key .hostShared s)
/-- HOST_READ_EXCLUSIVE: A Slate read-exclusive or upgrade request gives the host HE (R351). -/
def execHostReadExclusive (key : LineKey) (s : State) : Out := evOut s (hostRequest key .hostExclusive s)

end Sys2Proof.Machine
end

