-- ==== Sys2Proof/Machine/IntOps.lean ====
section
/-! DEFINITION. The integer group (R141 to R147) and MOV. -/

namespace Sys2Proof.Machine

/-- A result takes the greatest cause among its sources' tags and is then 0 (R125, R372). -/
def tagged (vs : List SVal) (r : Word) : SVal :=
  match vs.foldl (fun t v => maxTag t v.tag) none with
  | some c => { val := 0, tag := some c }
  | none => { val := r }

/-- An instruction of one source. -/
def unary (f : Word → Word) (vs : List SVal) : Except Verdict SVal :=
  .ok (tagged vs (f (vs.getD 0 {}).val))

/-- An instruction of two sources. -/
def binary (f : Word → Word → Word) (vs : List SVal) : Except Verdict SVal :=
  .ok (tagged vs (f (vs.getD 0 {}).val (vs.getD 1 {}).val))

/-- An instruction of three sources. -/
def ternary (f : Word → Word → Word → Word) (vs : List SVal) : Except Verdict SVal :=
  .ok (tagged vs (f (vs.getD 0 {}).val (vs.getD 1 {}).val (vs.getD 2 {}).val))

/-! ### Functions of 64-bit words -/

/-- High half of the signed product (R142). -/
def mulHigh (a b : Word) : Word := BitVec.ofInt 64 (a.toInt * b.toInt / 2 ^ 64)
def mulHighU (a b : Word) : Word := BitVec.ofNat 64 (a.toNat * b.toNat / 2 ^ 64)

/-- Division (R144). -/
def divS (a b : Word) : Word := if b = 0 then BitVec.allOnes 64 else BitVec.ofInt 64 (a.toInt.tdiv b.toInt)
def divU (a b : Word) : Word := if b = 0 then BitVec.allOnes 64 else BitVec.ofNat 64 (a.toNat / b.toNat)
def remS (a b : Word) : Word := if b = 0 then a else BitVec.ofInt 64 (a.toInt.tmod b.toInt)
def remU (a b : Word) : Word := if b = 0 then a else BitVec.ofNat 64 (a.toNat % b.toNat)

/-- Shifts by any amount (R143). -/
def shlW (a : Word) (n : Nat) : Word := if n < 64 then a <<< n else 0
def shrW (a : Word) (n : Nat) : Word := if n < 64 then a >>> n else 0
def sarW (a : Word) (n : Nat) : Word := a.sshiftRight (min n 63)
def rotrW (a : Word) (n : Nat) : Word := a.rotateRight (n % 64)

/-- Leading zero bits of a w-bit number. -/
def leadZeros (w n : Nat) : Nat := if n = 0 then w else w - 1 - Nat.log2 n

/-- Trailing zero bits, at most the fuel. -/
def trailZeros : Nat → Nat → Nat
  | 0, _ => 0
  | k + 1, n => if n % 2 = 1 then 0 else 1 + trailZeros k (n / 2)

/-- 1 bits among the low w. -/
def popCount : Nat → Nat → Nat
  | 0, _ => 0
  | k + 1, n => n % 2 + popCount k (n / 2)

/-- Conditions of CMP (R78, R142). -/
def cmpHolds (cc : CmpCond) (a b : Word) : Bool :=
  match cc with
  | .eq => a == b
  | .ne => a != b
  | .lt => a.toInt < b.toInt
  | .ge => a.toInt ≥ b.toInt
  | .le => a.toInt ≤ b.toInt
  | .gt => a.toInt > b.toInt
  | .ltu => a.toNat < b.toNat
  | .geu => a.toNat ≥ b.toNat
  | .leu => a.toNat ≤ b.toNat
  | .gtu => a.toNat > b.toNat

def pickS (less : Bool) (a b : Word) : Word := if (a.toInt < b.toInt) = less then a else b
def pickU (less : Bool) (a b : Word) : Word := if (a.toNat < b.toNat) = less then a else b

/-- EXT (R146). -/
def extract (sx : Bool) (pos width : Nat) (a : Word) : Word :=
  let f := (a.toNat >>> pos) % 2 ^ width
  if sx then BitVec.ofInt 64 (asInt width f) else BitVec.ofNat 64 f

/-- INS (R146). -/
def insert (pos width : Nat) (d a : Word) : Word :=
  let m : Word := BitVec.ofNat 64 ((2 ^ width - 1) <<< pos)
  (d &&& ~~~m) ||| ((a <<< pos) &&& m)

/-! ### Meanings (R142, S32 register forms) -/

/-- ADD: Adds a register and a shifted register (R142). -/
def execAdd (d : SDst) (a b : SSrc) (sh : Nat) (s : State) : Out :=
  issue (.add d a b sh) s (scalarBody [a, b] d 1 (binary fun x y => x + y <<< sh))
/-- SUB: Subtracts a shifted register from a register (R142). -/
def execSub (d : SDst) (a b : SSrc) (sh : Nat) (s : State) : Out :=
  issue (.sub d a b sh) s (scalarBody [a, b] d 1 (binary fun x y => x - y <<< sh))
/-- MUL: Low 64 bits of the product (R142). -/
def execMul (d : SDst) (a b : SSrc) (s : State) : Out :=
  issue (.mul d a b) s (scalarBody [a, b] d 1 (binary fun x y => x * y))
/-- MULH: High 64 bits of the signed product (R142). -/
def execMulh (d : SDst) (a b : SSrc) (s : State) : Out :=
  issue (.mulh d a b) s (scalarBody [a, b] d 1 (binary mulHigh))
/-- MULHU: High 64 bits of the unsigned product (R142). -/
def execMulhu (d : SDst) (a b : SSrc) (s : State) : Out :=
  issue (.mulhu d a b) s (scalarBody [a, b] d 1 (binary mulHighU))
/-- DIV: Signed division rounding toward zero, with defined results for zero and overflow (R144). -/
def execDiv (d : SDst) (a b : SSrc) (s : State) : Out :=
  issue (.div d a b) s (scalarBody [a, b] d 1 (binary divS))
/-- DIVU: Unsigned division (R144). -/
def execDivu (d : SDst) (a b : SSrc) (s : State) : Out :=
  issue (.divu d a b) s (scalarBody [a, b] d 1 (binary divU))
/-- REM: Signed remainder taking the sign of the dividend (R144). -/
def execRem (d : SDst) (a b : SSrc) (s : State) : Out :=
  issue (.rem d a b) s (scalarBody [a, b] d 1 (binary remS))
/-- REMU: Unsigned remainder (R144). -/
def execRemu (d : SDst) (a b : SSrc) (s : State) : Out :=
  issue (.remu d a b) s (scalarBody [a, b] d 1 (binary remU))
/-- AND: Bitwise AND of two registers (R142). -/
def execAnd (d : SDst) (a b : SSrc) (s : State) : Out :=
  issue (.and d a b) s (scalarBody [a, b] d 1 (binary fun x y => x &&& y))
/-- OR: Bitwise OR of two registers (R142). -/
def execOr (d : SDst) (a b : SSrc) (s : State) : Out :=
  issue (.or d a b) s (scalarBody [a, b] d 1 (binary fun x y => x ||| y))
/-- XOR: Bitwise XOR of two registers (R142). -/
def execXor (d : SDst) (a b : SSrc) (s : State) : Out :=
  issue (.xor d a b) s (scalarBody [a, b] d 1 (binary fun x y => x ^^^ y))
/-- ANDN: a AND NOT b (R142). -/
def execAndn (d : SDst) (a b : SSrc) (s : State) : Out :=
  issue (.andn d a b) s (scalarBody [a, b] d 1 (binary fun x y => x &&& ~~~y))
/-- SHL: Shift left by a register amount (R143). -/
def execShl (d : SDst) (a b : SSrc) (s : State) : Out :=
  issue (.shl d a b) s (scalarBody [a, b] d 1 (binary fun x y => shlW x y.toNat))
/-- SHR: Logical shift right by a register amount (R143). -/
def execShr (d : SDst) (a b : SSrc) (s : State) : Out :=
  issue (.shr d a b) s (scalarBody [a, b] d 1 (binary fun x y => shrW x y.toNat))
/-- SAR: Arithmetic shift right by a register amount (R143). -/
def execSar (d : SDst) (a b : SSrc) (s : State) : Out :=
  issue (.sar d a b) s (scalarBody [a, b] d 1 (binary fun x y => sarW x y.toNat))
/-- ROTR: Rotate right by a register amount (R143). -/
def execRotr (d : SDst) (a b : SSrc) (s : State) : Out :=
  issue (.rotr d a b) s (scalarBody [a, b] d 1 (binary fun x y => rotrW x y.toNat))
/-- MIN: Signed minimum (R142). -/
def execMin (d : SDst) (a b : SSrc) (s : State) : Out :=
  issue (.min d a b) s (scalarBody [a, b] d 1 (binary (pickS true)))
/-- MINU: Unsigned minimum (R142). -/
def execMinu (d : SDst) (a b : SSrc) (s : State) : Out :=
  issue (.minu d a b) s (scalarBody [a, b] d 1 (binary (pickU true)))
/-- MAX: Signed maximum (R142). -/
def execMax (d : SDst) (a b : SSrc) (s : State) : Out :=
  issue (.max d a b) s (scalarBody [a, b] d 1 (binary (pickS false)))
/-- MAXU: Unsigned maximum (R142). -/
def execMaxu (d : SDst) (a b : SSrc) (s : State) : Out :=
  issue (.maxu d a b) s (scalarBody [a, b] d 1 (binary (pickU false)))
/-- CLZ: Counts leading zero bits (R142). -/
def execClz (d : SDst) (a : SSrc) (s : State) : Out :=
  issue (.clz d a) s (scalarBody [a] d 1 (unary fun x => BitVec.ofNat 64 (leadZeros 64 x.toNat)))
/-- CTZ: Counts trailing zero bits (R142). -/
def execCtz (d : SDst) (a : SSrc) (s : State) : Out :=
  issue (.ctz d a) s (scalarBody [a] d 1 (unary fun x => BitVec.ofNat 64 (trailZeros 64 x.toNat)))
/-- POPC: Counts one bits (R142). -/
def execPopc (d : SDst) (a : SSrc) (s : State) : Out :=
  issue (.popc d a) s (scalarBody [a] d 1 (unary fun x => BitVec.ofNat 64 (popCount 64 x.toNat)))
/-- CMP: Writes 1 when the condition in F holds between two registers, else 0 (R142). -/
def execCmp (cc : CmpCond) (d : SDst) (a b : SSrc) (s : State) : Out :=
  issue (.cmp cc d a b) s (scalarBody [a, b] d 1 (binary fun x y => if cmpHolds cc x y then 1 else 0))
/-- MOV: Copies a scalar operand, popping or pushing queues as named (R142). -/
def execMov (d : SDst) (a : SSrc) (s : State) : Out :=
  issue (.mov d a) s (scalarBody [a] d 1 (unary fun x => x))

/-! ### Immediate forms (R143, R145) -/

/-- ADDI: Adds a sign-extended 11-bit immediate (R145). -/
def execAddi (d : SDst) (a : SSrc) (imm : BitVec 11) (s : State) : Out :=
  issue (.addi d a imm) s (scalarBody [a] d 1 (unary fun x => x + imm.signExtend 64))
/-- ANDI: ANDs with a sign-extended 11-bit immediate (R145). -/
def execAndi (d : SDst) (a : SSrc) (imm : BitVec 11) (s : State) : Out :=
  issue (.andi d a imm) s (scalarBody [a] d 1 (unary fun x => x &&& imm.signExtend 64))
/-- ORI: ORs with a sign-extended 11-bit immediate (R145). -/
def execOri (d : SDst) (a : SSrc) (imm : BitVec 11) (s : State) : Out :=
  issue (.ori d a imm) s (scalarBody [a] d 1 (unary fun x => x ||| imm.signExtend 64))
/-- XORI: XORs with a sign-extended 11-bit immediate (R145). -/
def execXori (d : SDst) (a : SSrc) (imm : BitVec 11) (s : State) : Out :=
  issue (.xori d a imm) s (scalarBody [a] d 1 (unary fun x => x ^^^ imm.signExtend 64))
/-- SHL_IMM: Shift left by an immediate 0-63 (R143). -/
def execShlImm (d : SDst) (a : SSrc) (n : Nat) (s : State) : Out :=
  issue (.shlImm d a n) s (scalarBody [a] d 1 (unary fun x => shlW x n))
/-- SHR_IMM: Logical shift right by an immediate 0-63 (R143). -/
def execShrImm (d : SDst) (a : SSrc) (n : Nat) (s : State) : Out :=
  issue (.shrImm d a n) s (scalarBody [a] d 1 (unary fun x => shrW x n))
/-- SAR_IMM: Arithmetic shift right by an immediate 0-63 (R143). -/
def execSarImm (d : SDst) (a : SSrc) (n : Nat) (s : State) : Out :=
  issue (.sarImm d a n) s (scalarBody [a] d 1 (unary fun x => sarW x n))
/-- ROTR_IMM: Rotate right by an immediate 0-63 (R143). -/
def execRotrImm (d : SDst) (a : SSrc) (n : Nat) (s : State) : Out :=
  issue (.rotrImm d a n) s (scalarBody [a] d 1 (unary fun x => rotrW x n))
/-- MOVI: Loads a sign-extended 32-bit literal into a scalar (R145). -/
def execMovi (k : Ctl) (d : SDst) (lit : BitVec 32) (s : State) : Out :=
  issue (.movi k d lit) s (scalarBody [] d 1 fun _ => .ok { val := lit.signExtend 64 })
/-- MOVI_HI: Writes the literal into bits 63:32 of a scalar, keeping bits 31:0 (R145). -/
def execMoviHi (k : Ctl) (d : Nat) (lit : BitVec 32) (s : State) : Out :=
  issue (.moviHi k d lit) s
    (scalarBody [.reg d] (.reg d) 1 (unary fun x => (lit.setWidth 64 <<< 32) ||| (x &&& 0xFFFFFFFF)))
/-- ADDI_X96: Adds a sign-extended 32-bit literal (R145). -/
def execAddiX96 (k : Ctl) (d : SDst) (a : SSrc) (lit : BitVec 32) (s : State) : Out :=
  issue (.addiX96 k d a lit) s (scalarBody [a] d 1 (unary fun x => x + lit.signExtend 64))
/-- ANDI_X96: ANDs with a sign-extended 32-bit literal (R145). -/
def execAndiX96 (k : Ctl) (d : SDst) (a : SSrc) (lit : BitVec 32) (s : State) : Out :=
  issue (.andiX96 k d a lit) s (scalarBody [a] d 1 (unary fun x => x &&& lit.signExtend 64))
/-- ORI_X96: ORs with a sign-extended 32-bit literal (R145). -/
def execOriX96 (k : Ctl) (d : SDst) (a : SSrc) (lit : BitVec 32) (s : State) : Out :=
  issue (.oriX96 k d a lit) s (scalarBody [a] d 1 (unary fun x => x ||| lit.signExtend 64))
/-- XORI_X96: XORs with a sign-extended 32-bit literal (R145). -/
def execXoriX96 (k : Ctl) (d : SDst) (a : SSrc) (lit : BitVec 32) (s : State) : Out :=
  issue (.xoriX96 k d a lit) s (scalarBody [a] d 1 (unary fun x => x ^^^ lit.signExtend 64))
/-- EXT: Extracts a bit field, zero- or sign-extended (R146). -/
def execExt (k : Ctl) (sx : Bool) (d : SDst) (a : SSrc) (pos width : Nat) (s : State) : Out :=
  issue (.ext k sx d a pos width) s (scalarBody [a] d 1 (unary (extract sx pos width)))
/-- INS: Inserts the low bits of a source into a field of the destination (R146). -/
def execIns (k : Ctl) (d : Nat) (a : SSrc) (pos width : Nat) (s : State) : Out :=
  issue (.ins k d a pos width) s (scalarBody [.reg d, a] (.reg d) 1 (binary (insert pos width)))
/-- SEL: Selects a or b by whether c is non-zero, reading and popping all three (R147). -/
def execSel (k : Ctl) (d : SDst) (a b c : SSrc) (s : State) : Out :=
  issue (.sel k d a b c) s (scalarBody [a, b, c] d 1 (ternary fun x y z => if z = 0 then y else x))

end Sys2Proof.Machine
end

