-- ==== Sys2Proof/Machine/VecArith.lean ====
section
/-! DEFINITION. Vector arithmetic, special functions, logic and shifts (R163 to R166, R171). -/

namespace Sys2Proof.Machine

/-- What one lane computes: the source lanes to a result and flags, in a mode. -/
abbrev LaneFn := RMode → Bool → List Nat → Nat × Flags

/-- The common shape of a lane-wise instruction (R162): the sources, then the old D when it is read. -/
def laneBody (k : Ctl) (t : ElemType) (lat : Nat) (d : VDst) (srcs : List VSrc) (readD : Bool) (f : LaneFn) (s : State) : Verdict :=
  vecBody { vd := some d, vs := srcs, readD := readD, chk := clusterVDst d :: srcs.map clusterVSrc, w := t.width, pred := k.pred, lat := lat }
    (fun x => .ok (laneMap t.width x (x.vs ++ (if readD then [x.old] else [])) (f x.rm x.ftz))) s

def in0 (xs : List Nat) : Nat := xs.getD 0 0
def in1 (xs : List Nat) : Nat := xs.getD 1 0
def in2 (xs : List Nat) : Nat := xs.getD 2 0

/-- An operation by type: on exact values, rounded once, or on integers, wrapped. -/
def byType1 (t : ElemType) (f : FVal → FRes) (g : Int → Int) : LaneFn := fun rm ftz xs =>
  if t.isInt then (wrapTo t.width (g (intVal t.isSigned t.width (in0 xs))), 0)
  else roundF (fmtOf t) rm ftz (f (readF (fmtOf t) ftz (in0 xs)))

def byType2 (t : ElemType) (f : RMode → FVal → FVal → FRes) (g : Int → Int → Int) : LaneFn := fun rm ftz xs =>
  if t.isInt then (wrapTo t.width (g (intVal t.isSigned t.width (in0 xs)) (intVal t.isSigned t.width (in1 xs))), 0)
  else roundF (fmtOf t) rm ftz (f rm (readF (fmtOf t) ftz (in0 xs)) (readF (fmtOf t) ftz (in1 xs)))

def byType3 (t : ElemType) (f : RMode → FVal → FVal → FVal → FRes) (g : Int → Int → Int → Int) : LaneFn := fun rm ftz xs =>
  let v := intVal t.isSigned t.width
  let r := readF (fmtOf t) ftz
  if t.isInt then (wrapTo t.width (g (v (in0 xs)) (v (in1 xs)) (v (in2 xs))), 0)
  else roundF (fmtOf t) rm ftz (f rm (r (in0 xs)) (r (in1 xs)) (r (in2 xs)))

/-- Lane functions of R163. -/
def laneAdd (t : ElemType) : LaneFn := byType2 t addV (· + ·)
def laneSub (t : ElemType) : LaneFn := byType2 t (fun rm a b => addV rm a b.flip) (· - ·)
def laneMul (t : ElemType) : LaneFn := byType2 t (fun _ => mulV) (· * ·)
def laneFma (t : ElemType) : LaneFn := byType3 t fmaV (fun a b d => a * b + d)
def laneFms (t : ElemType) : LaneFn := byType3 t (fun rm a b d => fmaV rm a b d.flip) (fun a b d => a * b - d)
def laneFnma (t : ElemType) : LaneFn := byType3 t (fun rm a b d => fmaV rm a.flip b d) (fun a b d => d - a * b)
def laneMin (t : ElemType) : LaneFn := byType2 t (fun _ => minMaxV false) min
def laneMax (t : ElemType) : LaneFn := byType2 t (fun _ => minMaxV true) max

/-- A change of sign: a NaN gives the canonical one (R164). -/
def signV (f : FVal → FVal) (a : FVal) : FRes := if a.isNan then { v := .nan false, fl := sigFlag a } else { v := f a }

def FVal.abs : FVal → FVal
  | .nan s => .nan s | .inf _ => .inf false | .fin _ m e => .fin false m e

def laneAbs (t : ElemType) : LaneFn := byType1 t (signV FVal.abs) (fun a => a.natAbs)
def laneNeg (t : ElemType) : LaneFn := byType1 t (signV FVal.flip) (fun a => -a)

/-- Saturating sums (R165). -/
def laneSat (t : ElemType) (g : Int → Int → Int) : LaneFn := fun _ _ xs =>
  (satTo t.isSigned t.width (g (intVal t.isSigned t.width (in0 xs)) (intVal t.isSigned t.width (in1 xs))), 0)

def laneMulh (t : ElemType) : LaneFn := fun _ _ xs =>
  (wrapTo t.width (intVal t.isSigned t.width (in0 xs) * intVal t.isSigned t.width (in1 xs) / (2 ^ t.width : Nat)), 0)

/-- VADD: Lane-wise add (R163). -/
def execVadd (k : Ctl) (t : ElemType) (d : VDst) (a b : VSrc) (s : State) : Out :=
  issue (.vadd k t d a b) s (laneBody k t 3 d [a, b] false (laneAdd t))
/-- VSUB: Lane-wise subtract (R163). -/
def execVsub (k : Ctl) (t : ElemType) (d : VDst) (a b : VSrc) (s : State) : Out :=
  issue (.vsub k t d a b) s (laneBody k t 3 d [a, b] false (laneSub t))
/-- VMUL: Lane-wise multiply (R163). -/
def execVmul (k : Ctl) (t : ElemType) (d : VDst) (a b : VSrc) (s : State) : Out :=
  issue (.vmul k t d a b) s (laneBody k t 4 d [a, b] false (laneMul t))
/-- VFMA (R163). -/
def execVfma (k : Ctl) (t : ElemType) (d : Nat) (a b : VSrc) (s : State) : Out :=
  issue (.vfma k t d a b) s (laneBody k t 4 (.reg d) [a, b] true (laneFma t))
/-- VFMS (R163). -/
def execVfms (k : Ctl) (t : ElemType) (d : Nat) (a b : VSrc) (s : State) : Out :=
  issue (.vfms k t d a b) s (laneBody k t 4 (.reg d) [a, b] true (laneFms t))
/-- VFNMA (R163). -/
def execVfnma (k : Ctl) (t : ElemType) (d : Nat) (a b : VSrc) (s : State) : Out :=
  issue (.vfnma k t d a b) s (laneBody k t 4 (.reg d) [a, b] true (laneFnma t))
/-- VMIN: Lane-wise minimum, minimumNumber for floats (R164). -/
def execVmin (k : Ctl) (t : ElemType) (d : VDst) (a b : VSrc) (s : State) : Out :=
  issue (.vmin k t d a b) s (laneBody k t 2 d [a, b] false (laneMin t))
/-- VMAX: Lane-wise maximum, maximumNumber for floats (R164). -/
def execVmax (k : Ctl) (t : ElemType) (d : VDst) (a b : VSrc) (s : State) : Out :=
  issue (.vmax k t d a b) s (laneBody k t 2 d [a, b] false (laneMax t))
/-- VABS: Lane-wise absolute value (R164). -/
def execVabs (k : Ctl) (t : ElemType) (d : VDst) (a : VSrc) (s : State) : Out :=
  issue (.vabs k t d a) s (laneBody k t 2 d [a] false (laneAbs t))
/-- VNEG: Lane-wise negation (R164). -/
def execVneg (k : Ctl) (t : ElemType) (d : VDst) (a : VSrc) (s : State) : Out :=
  issue (.vneg k t d a) s (laneBody k t 2 d [a] false (laneNeg t))
/-- VADDS: Lane-wise saturating integer add (R165). -/
def execVadds (k : Ctl) (t : ElemType) (d : VDst) (a b : VSrc) (s : State) : Out :=
  issue (.vadds k t d a b) s (laneBody k t 3 d [a, b] false (laneSat t (· + ·)))
/-- VSUBS: Lane-wise saturating integer subtract (R165). -/
def execVsubs (k : Ctl) (t : ElemType) (d : VDst) (a b : VSrc) (s : State) : Out :=
  issue (.vsubs k t d a b) s (laneBody k t 3 d [a, b] false (laneSat t (· - ·)))
/-- VMULH: High half of the lane-wise integer product (R165). -/
def execVmulh (k : Ctl) (t : ElemType) (d : VDst) (a b : VSrc) (s : State) : Out :=
  issue (.vmulh k t d a b) s (laneBody k t 4 d [a, b] false (laneMulh t))

/-! ### Special functions (R43, R44, R166) -/

/-- Bits that a quotient or root carries before its one rounding. -/
def specPrec : Nat := 64

/-- Rounding of a special function: in RM for FP64, else to nearest-even (R43). -/
def specRm (t : ElemType) (rm : RMode) : RMode := if t = .f64 then rm else .rne

def spec1 (t : ElemType) (f : FVal → FRes) : LaneFn := fun rm ftz xs =>
  roundF (fmtOf t) (specRm t rm) ftz (f (readF (fmtOf t) ftz (in0 xs)))

def laneDiv (t : ElemType) : LaneFn := fun rm ftz xs =>
  roundF (fmtOf t) (specRm t rm) ftz (divV specPrec (readF (fmtOf t) ftz (in0 xs)) (readF (fmtOf t) ftz (in1 xs)))

/-- 1 / a. -/
def rcpV (a : FVal) : FRes := divV specPrec (.fin false 1 0) a

/-- VDIV: Lane-wise division, latency 14 (R166). -/
def execVdiv (k : Ctl) (t : ElemType) (d : VDst) (a b : VSrc) (s : State) : Out :=
  issue (.vdiv k t d a b) s (laneBody k t 14 d [a, b] false (laneDiv t))
/-- VSQRT: Lane-wise square root, latency 14 (R166). -/
def execVsqrt (k : Ctl) (t : ElemType) (d : VDst) (a : VSrc) (s : State) : Out :=
  issue (.vsqrt k t d a) s (laneBody k t 14 d [a] false (spec1 t (sqrtV specPrec)))
/-- VRCP: Lane-wise reciprocal (R166). -/
def execVrcp (k : Ctl) (t : ElemType) (d : VDst) (a : VSrc) (s : State) : Out :=
  issue (.vrcp k t d a) s (laneBody k t 6 d [a] false (spec1 t rcpV))
/-- VRSQ: Lane-wise reciprocal square root (R166). -/
def execVrsq (k : Ctl) (t : ElemType) (d : VDst) (a : VSrc) (s : State) : Out :=
  issue (.vrsq k t d a) s (laneBody k t 14 d [a] false (spec1 t (rsqV specPrec)))
/-- VEXP2: Lane-wise 2^x (R166). -/
def execVexp2 (k : Ctl) (t : ElemType) (d : VDst) (a : VSrc) (s : State) : Out :=
  issue (.vexp2 k t d a) s (laneBody k t 6 d [a] false (spec1 t exp2V))
/-- VLOG2: Lane-wise base-2 logarithm (R166). -/
def execVlog2 (k : Ctl) (t : ElemType) (d : VDst) (a : VSrc) (s : State) : Out :=
  issue (.vlog2 k t d a) s (laneBody k t 6 d [a] false (spec1 t log2V))
/-- VSINP (R166). -/
def execVsinp (k : Ctl) (t : ElemType) (d : VDst) (a : VSrc) (s : State) : Out :=
  issue (.vsinp k t d a) s (laneBody k t 6 d [a] false (spec1 t sinpV))
/-- VCOSP (R166). -/
def execVcosp (k : Ctl) (t : ElemType) (d : VDst) (a : VSrc) (s : State) : Out :=
  issue (.vcosp k t d a) s (laneBody k t 6 d [a] false (spec1 t cospV))

/-! ### Logic, shifts, counts (R171) -/

def bits1 (f : Nat → Nat) : LaneFn := fun _ _ xs => (f (in0 xs), 0)
def bits2 (f : Nat → Nat → Nat) : LaneFn := fun _ _ xs => (f (in0 xs) (in1 xs), 0)

def shlLane (w a n : Nat) : Nat := if n ≥ w then 0 else (a <<< n) % 2 ^ w
def shrLane (w a n : Nat) : Nat := if n ≥ w then 0 else a >>> n
def sarLane (w a n : Nat) : Nat := wrapTo w (asInt w a / (2 ^ min n w : Nat))

/-- VAND: Lane-wise AND (R171). -/
def execVand (k : Ctl) (t : ElemType) (d : VDst) (a b : VSrc) (s : State) : Out :=
  issue (.vand k t d a b) s (laneBody k t 2 d [a, b] false (bits2 (· &&& ·)))
/-- VOR: Lane-wise OR (R171). -/
def execVor (k : Ctl) (t : ElemType) (d : VDst) (a b : VSrc) (s : State) : Out :=
  issue (.vor k t d a b) s (laneBody k t 2 d [a, b] false (bits2 (· ||| ·)))
/-- VXOR: Lane-wise XOR (R171). -/
def execVxor (k : Ctl) (t : ElemType) (d : VDst) (a b : VSrc) (s : State) : Out :=
  issue (.vxor k t d a b) s (laneBody k t 2 d [a, b] false (bits2 (· ^^^ ·)))
/-- VNOT: Lane-wise NOT (R171). -/
def execVnot (k : Ctl) (t : ElemType) (d : VDst) (a : VSrc) (s : State) : Out :=
  issue (.vnot k t d a) s (laneBody k t 2 d [a] false (bits1 fun x => 2 ^ t.width - 1 - x))
/-- VSHL: Lane-wise shift left (R171). -/
def execVshl (k : Ctl) (t : ElemType) (d : VDst) (a b : VSrc) (s : State) : Out :=
  issue (.vshl k t d a b) s (laneBody k t 2 d [a, b] false (bits2 (shlLane t.width)))
/-- VSHR: Lane-wise logical shift right (R171). -/
def execVshr (k : Ctl) (t : ElemType) (d : VDst) (a b : VSrc) (s : State) : Out :=
  issue (.vshr k t d a b) s (laneBody k t 2 d [a, b] false (bits2 (shrLane t.width)))
/-- VSAR: Lane-wise arithmetic shift right (R171). -/
def execVsar (k : Ctl) (t : ElemType) (d : VDst) (a b : VSrc) (s : State) : Out :=
  issue (.vsar k t d a b) s (laneBody k t 2 d [a, b] false (bits2 (sarLane t.width)))
/-- VCLZ: Lane-wise leading-zero count (R171). -/
def execVclz (k : Ctl) (t : ElemType) (d : VDst) (a : VSrc) (s : State) : Out :=
  issue (.vclz k t d a) s (laneBody k t 2 d [a] false (bits1 (leadZeros t.width)))
/-- VPOPC: Lane-wise population count (R171). -/
def execVpopc (k : Ctl) (t : ElemType) (d : VDst) (a : VSrc) (s : State) : Out :=
  issue (.vpopc k t d a) s (laneBody k t 2 d [a] false (bits1 (popCount t.width)))

end Sys2Proof.Machine
end

