-- ==== Sys2Proof/Machine/VecMove.lean ====
section
/-! DEFINITION. Conversions, block quantisation, moves, broadcast, extract and insert (R167 to R174). -/

namespace Sys2Proof.Machine

/-! ### Conversions (R167, R168) -/

/-- Lane of the source that element i of part P lies in, and lane of the destination. -/
def convSrc (ts td : ElemType) (part i : Nat) : Nat :=
  if ts.width < td.width then part * (4096 / td.width) + i else i
def convDst (ts td : ElemType) (part i : Nat) : Nat :=
  if td.width < ts.width then part * (4096 / ts.width) + i else i

/-- Lanes of a conversion. -/
def convCount (ts td : ElemType) : Nat := 4096 / max ts.width td.width

/-- Places the result of element i in its destination lane; lanes outside the part are not written. -/
def placeConv (ts td : ElemType) (part : Nat) (old : VVal) (rs : List (Option LaneOut)) : VVal :=
  writeLanes td.width old ((List.range (4096 / td.width)).map fun j =>
    let base := convDst ts td part 0
    if base ≤ j && j < base + convCount ts td then (rs.getD (j - base) none) else none)

/-- A conversion of each active element. -/
def convLanes (ts td : ElemType) (part : Nat) (x : VIn) (f : Nat → LaneIn → LaneOut) : VOut :=
  let rs := (List.range (convCount ts td)).map fun i =>
    if x.mask.getLsbD i then some (f i (laneIn ts.width (x.src 0) (convSrc ts td part i))) else none
  { v := placeConv ts td part x.old rs, flags := laneFlags rs }

/-- VCVT: Converts lanes between types, writing or reading one part of the narrow side (R168). -/
def execVcvt (k : Ctl) (td ts : ElemType) (part : Nat) (d : VDst) (a : VSrc) (s : State) : Out :=
  issue (.vcvt k td ts part d a) s
    (vecBody { vd := some d, vs := [a], w := ts.width, pred := k.pred, lat := 4 } fun x =>
      .ok (convLanes ts td part x fun _ v => laneRes (fun xs => convElem x.rm x.ftz ts td ts.width td.width (in0 xs)) [v]))

/-! ### Block quantisation (R169, R170) -/

/-- emax of an element type (R169). -/
def emaxOf : ElemType → Int
  | .e4m3 => 8 | .e5m2 => 15 | .e2m1 => 2 | _ => 6

/-- What VQNT makes of one block. -/
structure QBlock where
  outs : List LaneOut
  scale : Nat
  tag : Option Cause
  flags : Flags
  deriving DecidableEq, Repr

/-- quantise(x / 2^(e − 127), TD): saturating, and without overflow (R169). -/
def quantise (td : ElemType) (rm : RMode) (e : Nat) (v : FVal) : Nat × Flags :=
  match v with
  | .fin neg m ex =>
    let ex := ex - ((e : Int) - 127)
    if td.isInt then
      let q := if ex ≥ 0 then (m <<< ex.toNat, false) else roundShift rm neg m (-ex).toNat false
      let y : Int := if neg then -(q.1 : Int) else q.1
      (satTo true 8 y, if q.2 || y < intMin true 8 || y > intMax true 8 then flNX else 0)
    else if m = 0 then (signBits (fmtOf td) neg, 0)
    else roundMag (fmtOf td) rm false true neg m ex false
  | _ => (0, 0)

/-- floor(log2) of the greatest magnitude; none when every lane is zero. -/
def blockLog (vs : List FVal) : Option Int :=
  vs.foldl (fun r v => match v with
    | .fin _ m e =>
      if m = 0 then r else
        let l : Int := Nat.log2 m + e
        some (match r with | none => l | some x => max x l)
    | _ => r) none

/-- Scale byte of a block of finite values (R169). -/
def blockScale (td : ElemType) (vs : List FVal) : Nat :=
  match blockLog vs with
  | none => 0
  | some l => (min (max (l - emaxOf td + 127) 0) 254).toNat

def quantBlock (ts td : ElemType) (rm : RMode) (ftz : Bool) (xs : List LaneIn) : QBlock :=
  match xs.foldl (fun t x => maxTag t x.tag) none with
  | some c => { outs := xs.map fun _ => { val := 0, tag := some c }, scale := 0, tag := some c, flags := 0 }
  | none =>
    let vs := xs.map fun x => readF (fmtOf ts) ftz x.val
    if vs.any (fun v => v.isNan || v.isInf) then
      { outs := xs.map fun _ => { val := 0 }, scale := 0xFF, tag := none,
        flags := if vs.any (fun v => v.isInf || sigFlag v != 0) then flNV else 0 }
    else
      let e := blockScale td vs
      let qs := vs.map (quantise td rm e)
      { outs := qs.map fun q => { val := q.1 }, scale := e, tag := none, flags := qs.foldl (fun f q => f ||| q.2) 0 }

def vqntOut (td ts : ElemType) (part : Nat) (x : VIn) : VOut :=
  let bs := (chunks 32 (convCount ts td / 32) ((List.range (convCount ts td)).map fun i => laneIn ts.width (x.src 0) i)).map
    (quantBlock ts td x.rm x.ftz)
  { v := placeConv ts td part x.old ((bs.flatMap (·.outs)).map some)
    sc := { val := BitVec.ofNat 64 (packLanes 8 (bs.map (·.scale))), tag := bs.foldl (fun t b => maxTag t b.tag) none }
    flags := bs.foldl (fun f b => f ||| b.flags) 0 }

/-- VQNT: Quantises 32-lane blocks to a microscaled format and returns the E8M0 scales (R169). -/
def execVqnt (k : Ctl) (td ts : ElemType) (part : Nat) (d : VDst) (a : VSrc) (sc : SDst) (s : State) : Out :=
  issue (.vqnt k td ts part d a sc) s
    (vecBody { vd := some d, sd := some sc, vs := [a], w := ts.width, pred := k.pred, lat := 4 } fun x => .ok (vqntOut td ts part x))

/-- One element of VDQNT with scale byte e. -/
def dequant (ts td : ElemType) (rm : RMode) (ftz : Bool) (e x : Nat) : Nat × Flags :=
  if e = 0xFF then (nanBits (fmtOf td), 0)
  else
    let v := if ts.isInt then intToF (asInt 8 x) else decodeF (fmtOf ts) x
    match v with
    | .fin neg m ex => roundF (fmtOf td) rm ftz { v := .fin neg m (ex + ((e : Int) - 127)) }
    | v => floatToFloat (fmtOf td) rm ftz v

/-- VDQNT: Dequantises a microscaled part using scale bytes from a scalar (R170). -/
def execVdqnt (k : Ctl) (td ts : ElemType) (part : Nat) (d : VDst) (a : VSrc) (sc : SSrc) (s : State) : Out :=
  issue (.vdqnt k td ts part d a sc) s
    (vecBody { vd := some d, vs := [a], ss := [sc], w := ts.width, pred := k.pred, lat := 4 } fun x =>
      .ok (convLanes ts td part x fun i v =>
        let e := laneOf 8 (x.sc 0).val.toNat (i / 32)
        laneRes (fun xs => dequant ts td x.rm x.ftz e (in0 xs)) [v, ⟨0, (x.sc 0).tag⟩]))

/-! ### Moves (R172 to R174) -/

/-- VMOV takes three cycles between two clusters (R159). -/
def vmovLat (d : VDst) (a : VSrc) : Nat :=
  match d, a with
  | .reg n, .reg m => if n / 128 = m / 128 then 2 else 3
  | _, _ => 2

/-- VMOV: Copies active lanes bit for bit, possibly between clusters or to and from queues (R172) (DEDUCED, log entry 25). -/
def execVmov (k : Ctl) (t : ElemType) (d : VDst) (a : VSrc) (s : State) : Out :=
  issue (.vmov k t d a) s
    (vecBody { vd := some d, vs := [a], chk := [clusterVDst d], w := t.width, pred := k.pred, lat := vmovLat d a } fun x =>
      .ok (laneMap t.width x x.vs fun xs => (in0 xs, 0)))

/-- VBCAST: Broadcasts a scalar to every active lane (R173). -/
def execVbcast (k : Ctl) (t : ElemType) (d : VDst) (a : SSrc) (s : State) : Out :=
  issue (.vbcast k t d a) s
    (vecBody { vd := some d, ss := [a], chk := [clusterVDst d], w := t.width, pred := k.pred, lat := 2 } fun x =>
      .ok (laneMove t.width x fun _ =>
        { val := if (x.sc 0).tag.isSome then 0 else (x.sc 0).val.toNat % 2 ^ t.width, tag := (x.sc 0).tag }))

/-- A lane as a 64-bit scalar (R174, R190). -/
def extendLane (t : ElemType) (x : Nat) : Word :=
  if t.isSigned then BitVec.ofInt 64 (asInt t.width x) else BitVec.ofNat 64 x

/-- VEXTR: Extracts one lane into a scalar (R174). -/
def execVextr (k : Ctl) (t : ElemType) (d : SDst) (a : VSrc) (b : SSrc) (s : State) : Out :=
  issue (.vextr k t d a b) s
    (vecBody { sd := some d, vs := [a], ss := [b], chk := [clusterVSrc a], w := t.width, pred := k.pred, lat := 3 } fun x =>
      match (x.sc 0).tag with
      | some c => .error (poisonTrap c)
      | none =>
        let l := laneIn t.width (x.src 0) ((x.sc 0).val.toNat % t.lanes)
        .ok { sc := match l.tag with
                    | some c => { val := 0, tag := some c }
                    | none => { val := extendLane t l.val } })

/-- VINS: Inserts a scalar into one lane (R174). -/
def execVins (k : Ctl) (t : ElemType) (d : Nat) (a b : SSrc) (s : State) : Out :=
  issue (.vins k t d a b) s
    (vecBody { vd := some (.reg d), ss := [a, b], readD := true, chk := [some (d / 128)], w := t.width, pred := k.pred, lat := 2 } fun x =>
      match (x.sc 1).tag with
      | some c => .error (poisonTrap c)
      | none =>
        let j := (x.sc 1).val.toNat % t.lanes
        .ok { v := writeLanes t.width x.old ((List.range t.lanes).map fun i =>
                if i = j then some { val := if (x.sc 0).tag.isSome then 0 else (x.sc 0).val.toNat % 2 ^ t.width, tag := (x.sc 0).tag }
                else none) })

end Sys2Proof.Machine
end

