-- ==== Sys2Proof/Machine/Lanes.lean ====
section
/-! DEFINITION. Compares, masks, lane movement, reductions, scans, votes and the bit network (R175 to R195). -/

namespace Sys2Proof.Machine

/-! ### Compare and select (R181 to R183) -/

/-- A comparison of two float lanes (R182). -/
def cmpFloat (cc : Cond) (a b : FVal) : Bool × Flags :=
  let un := a.isNan || b.isNan
  let eq := !un && !lessV a b && !lessV b a
  let lt := !un && lessV a b
  let gt := !un && lessV b a
  let sig := sigFlag a ||| sigFlag b
  match cc with
  | .eq => (eq, sig)
  | .ne => (!eq, sig)
  | .lt => (lt, if un then flNV else 0)
  | .ge => (eq || gt, if un then flNV else 0)
  | .le => (eq || lt, if un then flNV else 0)
  | .gt => (gt, if un then flNV else 0)

def cmpInt (cc : Cond) (a b : Int) : Bool :=
  match cc with
  | .eq => a == b | .ne => a != b | .lt => a < b | .ge => a ≥ b | .le => a ≤ b | .gt => a > b

def cmpLane (t : ElemType) (cc : Cond) (ftz : Bool) (a b : Nat) : Bool × Flags :=
  if t.isInt then (cmpInt cc (intVal t.isSigned t.width a) (intVal t.isSigned t.width b), 0)
  else cmpFloat cc (readF (fmtOf t) ftz a) (readF (fmtOf t) ftz b)

/-- A mask from a list of bits, bit 0 first. -/
def maskOf (bs : List Bool) : BitVec 512 := BitVec.ofNat 512 (packLanes 1 (bs.map fun b => if b then 1 else 0))

/-- VCMP's mask: an inactive lane keeps its bit, a poisoned one gives 0 and the tag. -/
def vcmpOut (t : ElemType) (cc : Cond) (x : VIn) : VOut :=
  let ls := (List.range t.lanes).map fun i =>
    if x.mask.getLsbD i then
      match maxTag (vTag t.width (x.src 0) i) (vTag t.width (x.src 1) i) with
      | some c => some ({ val := 0, tag := some c } : LaneOut)
      | none =>
        let r := cmpLane t cc x.ftz (vLane t.width (x.src 0) i) (vLane t.width (x.src 1) i)
        some { val := if r.1 then 1 else 0, flags := r.2 }
    else none
  let bits := ls.mapIdx fun i l => match l with | none => x.oldM.bits.getLsbD i | some r => r.val == 1
  let kept := if ls.any (·.isNone) then x.oldM.tag else none
  { m := { bits := maskOf bits, tag := ls.foldl (fun g l => match l with | some r => maxTag g r.tag | none => g) kept }
    flags := laneFlags ls }

/-- VCMP: Compares lanes and writes one mask bit per active lane (R181). It does not wait for an earlier writer of KD, whose bits and tag its inactive
lanes keep as they stand when the bits are written (R180) (DESIGN CHOICE, log entry 72). -/
def execVcmp (k : Ctl) (cc : Cond) (t : ElemType) (d : Nat) (a b : VSrc) (s : State) : Out :=
  issue (.vcmp k cc t d a b) s
    (vecBody { md := some d, vs := [a, b], chk := [clusterVSrc a, clusterVSrc b], w := t.width, pred := k.pred, lat := 2 } fun x =>
      .ok (vcmpOut t cc x))

/-- A select mask that carries a tag faults (R178). -/
def withMask (x : VIn) (f : BitVec 512 → VOut) : Except Verdict VOut :=
  match (x.km 0).tag with
  | some c => .error (poisonTrap c)
  | none => .ok (f (x.km 0).bits)

/-- VSEL: Selects each active lane from A or B by a select mask (R183). -/
def execVsel (k : Ctl) (t : ElemType) (d : VDst) (a b : VSrc) (m : Nat) (s : State) : Out :=
  issue (.vsel k t d a b m) s
    (vecBody { vd := some d, vs := [a, b], ms := [m], chk := [clusterVDst d, clusterVSrc a, clusterVSrc b], w := t.width,
               pred := k.pred, lat := 2 } fun x =>
      withMask x fun sel => laneMove t.width x fun i => laneIn t.width (if sel.getLsbD i then x.src 0 else x.src 1) i)

/-! ### Masks (R184 to R186) -/

/-- A bitwise operation on two masks. -/
def maskBody (k : Ctl) (d a b : Nat) (f : BitVec 512 → BitVec 512 → BitVec 512) (s : State) : Verdict :=
  vecBody { md := some d, ms := [a, b], pred := k.pred, lat := 1 }
    (fun x => .ok { m := { bits := f (x.km 0).bits (x.km 1).bits, tag := maxTag (x.km 0).tag (x.km 1).tag } }) s

/-- KAND: AND of two masks (R184). -/
def execKand (k : Ctl) (d a b : Nat) (s : State) : Out := issue (.kand k d a b) s (maskBody k d a b (· &&& ·))
/-- KOR: OR of two masks (R184). -/
def execKor (k : Ctl) (d a b : Nat) (s : State) : Out := issue (.kor k d a b) s (maskBody k d a b (· ||| ·))
/-- KXOR: XOR of two masks (R184). -/
def execKxor (k : Ctl) (d a b : Nat) (s : State) : Out := issue (.kxor k d a b) s (maskBody k d a b (· ^^^ ·))

/-- KNOT: Complement of a mask (R184). -/
def execKnot (k : Ctl) (d a : Nat) (s : State) : Out :=
  issue (.knot k d a) s
    (vecBody { md := some d, ms := [a], pred := k.pred, lat := 1 } fun x => .ok { m := { bits := ~~~(x.km 0).bits, tag := (x.km 0).tag } })

/-- KPOP: Counts the one bits of a mask into a scalar (R185). -/
def execKpop (k : Ctl) (d : SDst) (a : Nat) (s : State) : Out :=
  issue (.kpop k d a) s
    (vecBody { sd := some d, ms := [a], pred := k.pred, lat := 2 } fun x =>
      .ok { sc := match (x.km 0).tag with
                  | some c => { val := 0, tag := some c }
                  | none => { val := BitVec.ofNat 64 (popCount 512 (x.km 0).bits.toNat) } })

/-- KMOV_MASK: KMOV sub-function 0: copies one mask to another (R186). -/
def execKmovMask (k : Ctl) (d a : Nat) (s : State) : Out :=
  issue (.kmovMask k d a) s
    (vecBody { md := some d, ms := [a], pred := k.pred, lat := 2 } fun x => .ok { m := x.km 0 })

/-- KMOV_FROM_VECTOR: KMOV sub-function 1: loads a mask from bytes 0-63 of a vector (R186). -/
def execKmovFromVector (k : Ctl) (d : Nat) (a : VSrc) (s : State) : Out :=
  issue (.kmovFromVector k d a) s
    (vecBody { md := some d, vs := [a], pred := k.pred, lat := 2 } fun x =>
      .ok { m := { bits := (x.src 0).data.setWidth 512, tag := tagsFrom (x.src 0) 0 8 } })

/-- KMOV_TO_VECTOR: KMOV sub-function 2: writes a mask into bytes 0-63 of a vector (R186). -/
def execKmovToVector (k : Ctl) (d : VDst) (a : Nat) (s : State) : Out :=
  issue (.kmovToVector k d a) s
    (vecBody { vd := some d, ms := [a], pred := k.pred, lat := 2 } fun x =>
      .ok { v := { data := (x.km 0).bits.setWidth 4096, tags := BitVec.ofNat 256 (packLanes 4 (List.replicate 8 (tagNib (x.km 0).tag))) } })

/-! ### Lane movement (R187 to R189) -/

/-- VSHUF: Permutes lanes by an index vector (R188). -/
def execVshuf (k : Ctl) (hi : Bool) (t : ElemType) (d : VDst) (a b : VSrc) (s : State) : Out :=
  issue (.vshuf k hi t d a b) s
    (vecBody { vd := some d, vs := [a, b], chk := [clusterVDst d, clusterVSrc a, clusterVSrc b], w := t.width, pred := k.pred, lat := 3 }
      fun x => .ok (laneMove t.width x fun i =>
        match vTag t.width (x.src 1) i with
        | some c => ⟨0, some c⟩
        | none => laneIn t.width (x.src 0) ((vLane t.width (x.src 1) i + (if hi then 256 else 0)) % t.lanes)))

/-- VXSWP: Exchanges lane i with lane i XOR dist (R188). -/
def execVxswp (k : Ctl) (t : ElemType) (d : VDst) (a : VSrc) (dist : Nat) (s : State) : Out :=
  issue (.vxswp k t d a dist) s
    (vecBody { vd := some d, vs := [a], chk := [clusterVDst d, clusterVSrc a], w := t.width, pred := k.pred, lat := 2 } fun x =>
      .ok (laneMove t.width x fun i => laneIn t.width (x.src 0) (i ^^^ dist)))

/-- VROT: Rotates lanes by a scalar amount (R188). -/
def execVrot (k : Ctl) (t : ElemType) (d : VDst) (a : VSrc) (b : SSrc) (s : State) : Out :=
  issue (.vrot k t d a b) s
    (vecBody { vd := some d, vs := [a], ss := [b], chk := [clusterVDst d, clusterVSrc a], w := t.width, pred := k.pred, lat := 2 } fun x =>
      match (x.sc 0).tag with
      | some c => .error (poisonTrap c)
      | none => .ok (laneMove t.width x fun i => laneIn t.width (x.src 0) ((i + (x.sc 0).val.toNat % t.lanes) % t.lanes)))

/-- Numbers of the lanes that a mask selects, ascending. -/
def selected (l : Nat) (m : BitVec 512) : List Nat := (List.range l).filter fun i => m.getLsbD i

/-- VCOMPRESS: the selected lanes packed, then zeros. -/
def compressOut (t : ElemType) (x : VIn) (m : BitVec 512) : VOut :=
  let js := selected t.lanes m
  { v := writeLanes t.width x.old ((List.range t.lanes).map fun i =>
      match js[i]? with
      | some j => let l := laneIn t.width (x.src 0) j; some { val := l.val, tag := l.tag }
      | none => some { val := 0 }) }

/-- VCOMPRESS: Packs the lanes selected by a mask to the low lanes (R189). -/
def execVcompress (k : Ctl) (t : ElemType) (d : VDst) (a : VSrc) (m : Nat) (s : State) : Out :=
  issue (.vcompress k t d a m) s
    (vecBody { vd := some d, vs := [a], ms := [m], chk := [clusterVDst d, clusterVSrc a], w := t.width, pred := k.pred, lat := 3 } fun x =>
      withMask x (compressOut t x))

/-- VEXPAND: successive lanes of A into the selected lanes. -/
def expandOut (t : ElemType) (x : VIn) (m : BitVec 512) : VOut :=
  { v := writeLanes t.width x.old ((List.range t.lanes).map fun i =>
      if m.getLsbD i then
        let l := laneIn t.width (x.src 0) ((selected i m).length)
        some { val := l.val, tag := l.tag }
      else none) }

/-- VEXPAND: Spreads low lanes into the lanes selected by a mask (R189). -/
def execVexpand (k : Ctl) (t : ElemType) (d : Nat) (a : VSrc) (m : Nat) (s : State) : Out :=
  issue (.vexpand k t d a m) s
    (vecBody { vd := some (.reg d), vs := [a], ms := [m], readD := true, chk := [some (d / 128), clusterVSrc a], w := t.width,
               pred := k.pred, lat := 3 } fun x => withMask x (expandOut t x))

/-! ### Reductions and scans (R190, R191) -/

inductive RedOp where
  | sum | max | min
  deriving DecidableEq, Repr

/-- identity(op, T) as a lane. -/
def redIdentity (op : RedOp) (t : ElemType) : Nat :=
  if t.isInt then
    match op with
    | .sum => 0
    | .max => wrapTo t.width (intMin t.isSigned t.width)
    | .min => wrapTo t.width (intMax t.isSigned t.width)
  else
    match op with
    | .sum => signBits (fmtOf t) true
    | _ => nanBits (fmtOf t)

/-- combine(op, x, y). -/
def redCombine (op : RedOp) (t : ElemType) (rm : RMode) (ftz : Bool) (x y : Nat) : Nat × Flags :=
  match op with
  | .sum => laneAdd t rm ftz [x, y]
  | .max => laneMax t rm ftz [x, y]
  | .min => laneMin t rm ftz [x, y]

/-- One level of the tree: neighbours combined. -/
def redLevel (f : Nat → Nat → Nat × Flags) : List Nat → List Nat × Flags
  | a :: b :: t =>
    let r := f a b
    let u := redLevel f t
    (r.1 :: u.1, r.2 ||| u.2)
  | _ => ([], 0)

/-- The tree, over n levels. -/
def redTree (f : Nat → Nat → Nat × Flags) : Nat → List Nat → Nat × Flags
  | 0, l => (l.getD 0 0, 0)
  | n + 1, l =>
    let u := redLevel f l
    let r := redTree f n u.1
    (r.1, u.2 ||| r.2)

/-- The greatest cause among the active lanes. -/
def activeTag (t : ElemType) (x : VIn) : Option Cause :=
  (List.range t.lanes).foldl (fun g i => if x.mask.getLsbD i then maxTag g (vTag t.width (x.src 0) i) else g) none

def redOut (op : RedOp) (t : ElemType) (x : VIn) : VOut :=
  match activeTag t x with
  | some c => { sc := { val := 0, tag := some c } }
  | none =>
    let ls := (List.range t.lanes).map fun i => if x.mask.getLsbD i then vLane t.width (x.src 0) i else redIdentity op t
    let r := redTree (redCombine op t x.rm x.ftz) (Nat.log2 t.lanes) ls
    { sc := { val := extendLane t r.1 }, flags := r.2 }

def redBody (k : Ctl) (op : RedOp) (t : ElemType) (d : SDst) (a : VSrc) (s : State) : Verdict :=
  vecBody { sd := some d, vs := [a], chk := [clusterVSrc a], w := t.width, pred := k.pred, lat := 6 } (fun x => .ok (redOut op t x)) s

/-- VREDSUM: Sums active lanes in a fixed binary tree into a scalar (R190). -/
def execVredsum (k : Ctl) (t : ElemType) (d : SDst) (a : VSrc) (s : State) : Out :=
  issue (.vredsum k t d a) s (redBody k .sum t d a)
/-- VREDMAX: Maximum of active lanes into a scalar (R190). -/
def execVredmax (k : Ctl) (t : ElemType) (d : SDst) (a : VSrc) (s : State) : Out :=
  issue (.vredmax k t d a) s (redBody k .max t d a)
/-- VREDMIN: Minimum of active lanes into a scalar (R190). -/
def execVredmin (k : Ctl) (t : ElemType) (d : SDst) (a : VSrc) (s : State) : Out :=
  issue (.vredmin k t d a) s (redBody k .min t d a)

/-- The running sum of VSCAN: what has been summed, or the cause of the first poisoned active lane. -/
def scanStep (t : ElemType) (rm : RMode) (ftz : Bool) (r : Nat × Option Cause) (l : LaneIn) : (Nat × Option Cause) × LaneOut :=
  match maxTag r.2 l.tag with
  | some c => ((r.1, some c), { val := 0, tag := some c })
  | none =>
    let y := laneAdd t rm ftz [r.1, l.val]
    ((y.1, none), { val := y.1, flags := y.2 })

/-- The lanes of VSCAN, in ascending order. -/
def scanLanes (t : ElemType) (rm : RMode) (ftz : Bool) (r : Nat × Option Cause) : List (Option LaneIn) → List (Option LaneOut)
  | [] => []
  | none :: u => none :: scanLanes t rm ftz r u
  | some l :: u => let y := scanStep t rm ftz r l; some y.2 :: scanLanes t rm ftz y.1 u

/-- VSCAN (R191). -/
def execVscan (k : Ctl) (t : ElemType) (d : Nat) (a : VSrc) (s : State) : Out :=
  issue (.vscan k t d a) s
    (vecBody { vd := some (.reg d), vs := [a], readD := true, chk := [some (d / 128), clusterVSrc a], w := t.width, pred := k.pred, lat := 8 }
      fun x =>
        let ls := scanLanes t x.rm x.ftz (redIdentity .sum t, none)
          ((List.range t.lanes).map fun i => if x.mask.getLsbD i then some (laneIn t.width (x.src 0) i) else none)
        .ok { v := writeLanes t.width x.old ls, flags := laneFlags ls })

/-! ### Votes (R192) -/

/-- Each active lane of A read as a truth value; an inactive lane reads `z`. -/
def votes (t : ElemType) (x : VIn) (z : Bool) : List Bool :=
  (List.range t.lanes).map fun i => if x.mask.getLsbD i then vLane t.width (x.src 0) i != 0 else z

def voteBody (k : Ctl) (t : ElemType) (d : SDst) (a : VSrc) (f : VIn → Bool) (s : State) : Verdict :=
  vecBody { sd := some d, vs := [a], chk := [clusterVSrc a], w := t.width, pred := k.pred, lat := 2 } (fun x =>
    .ok { sc := match activeTag t x with
                | some c => { val := 0, tag := some c }
                | none => { val := if f x then 1 else 0 } }) s

/-- VVOTE_ANY: Writes 1 when any active lane is non-zero (R192). -/
def execVvoteAny (k : Ctl) (t : ElemType) (d : SDst) (a : VSrc) (s : State) : Out :=
  issue (.vvoteAny k t d a) s (voteBody k t d a fun x => (votes t x false).any id)
/-- VVOTE_ALL: Writes 1 when every active lane is non-zero (R192). -/
def execVvoteAll (k : Ctl) (t : ElemType) (d : SDst) (a : VSrc) (s : State) : Out :=
  issue (.vvoteAll k t d a) s (voteBody k t d a fun x => (votes t x true).all id)

/-- VVOTE_BALLOT: Writes a mask bit per lane that is active and non-zero (R192). -/
def execVvoteBallot (k : Ctl) (t : ElemType) (d : Nat) (a : VSrc) (s : State) : Out :=
  issue (.vvoteBallot k t d a) s
    (vecBody { md := some d, vs := [a], chk := [clusterVSrc a], w := t.width, pred := k.pred, lat := 2 } fun x =>
      .ok { m := { bits := maskOf ((List.range t.lanes).map fun i =>
                     x.mask.getLsbD i && (vTag t.width (x.src 0) i).isNone && vLane t.width (x.src 0) i != 0)
                   tag := activeTag t x } })

/-! ### The bit network (R193 to R195) -/

/-- Output pair of a pattern. -/
def routePair (pat : BitVec 1024) (pin : Nat) : Nat :=
  packLanes 1 ((List.range 128).map fun b =>
    let e := laneOf 8 pat.toNat b
    if e ≥ 128 then 0 else if pin.testBit e then 1 else 0)

def vbpermOut (x : VIn) : VOut :=
  let ps := (List.range 32).map fun j => (tagsFrom (x.src 0) (2 * j) 2, laneOf 128 (x.src 0).data.toNat j)
  { v := { data := BitVec.ofNat 4096 (packLanes 128 (ps.map fun p => if p.1.isSome then 0 else routePair x.bp p.2))
           tags := BitVec.ofNat 256 (packLanes 8 (ps.map fun p => tagNib p.1 * 17)) } }

/-- VBPERM: Routes the bits of every 128-bit pair through a pattern register (R195). -/
def execVbperm (k : Ctl) (d : VDst) (a : VSrc) (pat : Nat) (s : State) : Out :=
  issue (.vbperm k d a pat) s
    (vecBody { vd := some d, vs := [a], bp := some pat, pred := k.pred, lat := 3 } fun x => .ok (vbpermOut x))

/-- VBPLOAD reads 16 granules; when several carry a tag, the greatest cause names the fault (R194) (DESIGN CHOICE, log entry 64). -/
def execVbpload (k : Ctl) (pat : Nat) (a : VSrc) (part : Nat) (s : State) : Out :=
  issue (.vbpload k pat a part) s
    (vecBody { bpd := some pat, vs := [a], pred := k.pred, lat := 2 } fun x =>
      match tagsFrom (x.src 0) (16 * part) 16 with
      | some c => .error (poisonTrap c)
      | none => .ok { b := BitVec.ofNat 1024 (laneOf 1024 (x.src 0).data.toNat part) })

end Sys2Proof.Machine
end

