-- ==== Sys2Proof/Machine/Matrix.lean ====
section
/-! DEFINITION. Tiles, accumulators and the matrix engine (R196 to R217, R45 to R51). -/

namespace Sys2Proof.Machine

/-! ### TC.Tn and TC.ACCn (R197 to R199) -/

def tcType (v : Nat) : ElemType := ElemType.ofCode (v >>> 16 % 16)
def tcE4 (v : Nat) : Bool := v.testBit 20
def tcScle (v : Nat) : Bool := v.testBit 21
def tcScl (v : Nat) : Nat := v >>> 22 % 16
def tcMetae (v : Nat) : Bool := v.testBit 26
def tcMeta (v : Nat) : Nat := v >>> 27 % 16

/-- Element width of a configured tile, and its row length in elements. -/
def tcWidth (v : Nat) : Nat := if tcE4 v then 4 else (tcType v).width
def tcK (v : Nat) : Nat := tcBytes v * 8 / tcWidth v

/-- A value of TC.Tn without its reserved bits (R3, R197). -/
def tileValue (v : Word) : Nat := (v &&& 0x7FFFBFFF).toNat

/-- valid_tile (R198). -/
def validTile (v n : Nat) : Bool :=
  v == 0 ||
    (tcCfg v && 1 ≤ tcRows v && tcRows v ≤ 128 && 16 ≤ tcBytes v && tcBytes v ≤ 512 && (!tcE4 v || v >>> 16 % 16 == 0) &&
      (tcScle v || tcScl v == 0) && (tcMetae v || tcMeta v == 0) && (!tcScle v || tcScl v != n) && (!tcMetae v || tcMeta v != n) &&
      (!(tcScle v && tcMetae v) || tcScl v != tcMeta v))

/-- A value of TC.ACCn without its reserved bits, and valid_acc (R199). -/
def accValue (v : Word) : Nat := (v &&& 0xF3).toNat
def accType (v : Nat) : ElemType := ElemType.ofCode (v / 16)
def validAcc (v : Nat) : Bool := v / 16 != 14 && (accType v).width == 8 <<< (v % 4)

def tcAcc (cs : CoreSt) (n : Nat) : Nat := (mgetD 0 cs.tcAcc n).toNat

/-! ### Issue of a matrix instruction (R158, R200, R201) -/

/-- Tile claims of other engines hold it back. -/
def tileBusy (cs : CoreSt) (cl : List Claim) : Bool :=
  cs.flights.any fun f => f.eng != .mtx && f.claims.any fun h => cl.any fun q =>
    match q.res with | .tile _ => blocksOther h q | _ => false

/-- Instructions already issued by another engine name cluster n. -/
def clusterBusy (cs : CoreSt) (n : Nat) : Bool := cs.flights.any fun f => f.eng != .mtx && f.claims.any fun h => h.res == .cluster n

def tileClaims (reads writes : List Nat) (acc : Option Nat) : List Claim :=
  (reads.map fun n => ⟨.tile n, false⟩) ++ (writes.map fun n => ⟨.tile n, true⟩) ++ (acc.map fun n => ⟨.acc n, true⟩).toList

/-- Waits for tiles and for the cluster, then checks, then acts. -/
def mtxBody (reads writes : List Nat) (acc : Option Nat) (lat : Nat) (chk : CoreSt → Option Trap) (eff : CoreSt → CoreSt × Flags)
    (s : State) : Verdict :=
  let cs := focusCs s
  let cl := tileClaims reads writes acc
  if tileBusy cs cl then .stall
  else if (acc.map (clusterBusy cs)).getD false then .pend { cluster := acc.getD 0 } none
  else match chk cs with
    | some t => .trap { trap := t }
    | none =>
      let r := eff cs
      .done { s := withCs s r.1, lat := lat, flags := r.2, claims := if lat > 1 then cl else [] }

/-! ### TSET and TGET (R203) -/

def tsetTile (d : Nat) (v : Word) (cs : CoreSt) : Verdict ⊕ CoreSt :=
  let x := tileValue v
  if validTile x d then .inr { cs with tcT := mputD 0 cs.tcT d (BitVec.ofNat 64 x) } else .inl (.trap { trap := .tileShape })

def tsetAcc (d : Nat) (v : Word) (cs : CoreSt) : Verdict ⊕ CoreSt :=
  let x := accValue v
  if validAcc x then .inr { cs with tcAcc := mputD 0 cs.tcAcc d (BitVec.ofNat 64 x) } else .inl (.trap { trap := .tileShape })

def tsetBody (acc : Bool) (d : Nat) (a : SSrc) (s : State) : Verdict :=
  let cs := focusCs s
  match takeSrcs cs .mtx [a] with
  | none => .stall
  | some _ =>
    if !acc && tileBusy cs (tileClaims [] [d] none) then .stall
    else if acc && clusterBusy cs d then .pend { cluster := d } none
    else useBody a (fun cs v => match (if acc then tsetAcc d v cs else tsetTile d v cs) with
      | .inl x => x
      | .inr cs' => .done { s := withCs s cs', claims := if acc then tileClaims [] [] (some d) else tileClaims [] [d] none }) s

/-- TSET: Writes a checked value into TC.Tn or TC.ACCn (R203). -/
def execTset (k : Ctl) (acc : Bool) (d : Nat) (a : SSrc) (s : State) : Out := issue (.tset k acc d a) s (tsetBody acc d a)

/-- An instruction that is done holds further claims for its cycle (R200). -/
def addClaims (cl : List Claim) : Verdict → Verdict
  | .done d => .done { d with claims := d.claims ++ cl }
  | v => v

/-- TGET: Reads TC.Tn or TC.ACCn into a Z register or QR (R203). -/
def execTget (k : Ctl) (acc : Bool) (d : SDst) (a : Nat) (s : State) : Out :=
  issue (.tget k acc d a) s fun s =>
    if !acc && tileBusy (focusCs s) (tileClaims [a] [] none) then .stall
    else addClaims (if acc then [] else tileClaims [a] [] none) (scalarBody [] d 1 (fun _ =>
      .ok { val := if acc then mgetD 0 (focusCs s).tcAcc a else mgetD 0 (focusCs s).tcT a }) s)

/-! ### Clearing and moving (R212, R213) -/

/-- Rows a tile keeps, without those of tile t. -/
def dropTile (cs : CoreSt) (t : Nat) : NMap TileRow := cs.tiles.filter fun p => p.1 / 128 != t

/-- Writes rows r, r + 1, … of a tile. -/
def putRows (cs : CoreSt) (t : Nat) (rows : List TileRow) : CoreSt :=
  ((List.range rows.length).zip rows).foldl (fun cs p => writeTile cs t p.1 p.2) cs

def noCheck (_ : CoreSt) : Option Trap := none

/-- TZERO: Zeroes a whole tile and its row tags (R212). -/
def execTzero (k : Ctl) (d : Nat) (s : State) : Out :=
  issue (.tzero k d) s (mtxBody [] [d] none 2 noCheck fun cs => ({ cs with tiles := dropTile cs d }, 0))
/-- AZERO: Zeroes an accumulator and its granule tags (R212). -/
def execAzero (k : Ctl) (d : Nat) (s : State) : Out :=
  issue (.azero k d) s (mtxBody [] [] (some d) 2 noCheck fun cs => ({ cs with vregs := dropAcc cs d }, 0))
/-- TMOV: Copies a whole tile with its row tags (R213). -/
def execTmov (k : Ctl) (d a : Nat) (s : State) : Out :=
  issue (.tmov k d a) s (mtxBody [a] [d] none 8 noCheck fun cs => (putRows cs d ((List.range 128).map (readTile cs a)), 0))

/-- Element j of a tile row at width w. -/
def rowElem (r : TileRow) (w j : Nat) : Nat := laneOf w r.data.toNat j

/-- A row whose first elements of width w are replaced. -/
def rowWith (r : TileRow) (w : Nat) (xs : List Nat) (tag : Option Cause) : TileRow :=
  { data := rowLow r.data (w * xs.length / 8) (packLanes w xs), tag := tag }

def plainTile (v : Nat) : Bool := tcCfg v && !tcScle v && !tcMetae v

/-- TTR's shape rules (R213). -/
def ttrShape (d a : Nat) (cs : CoreSt) : Option Trap :=
  let x := tcT cs a
  let y := tcT cs d
  if plainTile x && plainTile y && d != a && tcWidth x != 4 && (tcType y == tcType x) && !tcE4 y && tcRows y == tcK x &&
      tcBytes y == tcRows x * tcWidth x / 8 then none
  else some .tileShape

def ttrEffect (d a : Nat) (cs : CoreSt) : CoreSt × Flags :=
  let x := tcT cs a
  let w := tcWidth x
  let tag := tileTags cs a (tcRows x)
  (putRows cs d ((List.range (tcK x)).map fun k =>
    rowWith (readTile cs d k) w ((List.range (tcRows x)).map fun m => rowElem (readTile cs a m) w k) tag), 0)

/-- TTR: Transposes a tile into another (R213). -/
def execTtr (k : Ctl) (d a : Nat) (s : State) : Out :=
  issue (.ttr k d a) s (mtxBody [a] [d] none 16 (ttrShape d a) (ttrEffect d a))

/-! ### Conversions (R214 to R216) -/

/-- A value multiplied by 2^(e − 127), or NaN for scale 0xFF (R30). -/
def scaleV (e : Nat) (v : FVal) : FVal :=
  if e = 0xFF then .nan false
  else match v with
    | .fin neg m x => .fin neg m (x + ((e : Int) - 127))
    | v => v

/-- Value of a tile or accumulator element; a tile is never flushed (R47). -/
def elemV (t : ElemType) (w x : Nat) : FVal := if t.isInt then intToF (intVal t.isSigned w x) else decodeF (fmtOf t) x

/-- One element converted, to nearest-even; `e` is its block scale when there is one. -/
def tileConv (ts : ElemType) (ws : Nat) (td : ElemType) (wd : Nat) (ftz : Bool) (e : Option Nat) (x : Nat) : Nat × Flags :=
  if ts.isInt && td.isInt then convElem .rne false ts td ws wd x
  else
    let v := elemV ts ws x
    let v := match e with | none => v | some e => scaleV e v
    if td.isInt then floatToInt .rne td.isSigned wd v else floatToFloat (fmtOf td) .rne ftz v

/-- TCVT's rules (R214). -/
def tcvtCheck (d a : Nat) (cs : CoreSt) : Option Trap :=
  let x := tcT cs a
  let y := tcT cs d
  if !(plainTile x && plainTile y && tcRows x == tcRows y && tcK x == tcK y) then some .tileShape
  else if tcType x = .e8m0 ∨ tcType y = .e8m0 then some .mmaType
  else none

/-- A row of n elements of f; a tagged row is zero and raises nothing. -/
def convRow (w n : Nat) (tag : Option Cause) (old : TileRow) (f : Nat → Nat × Flags) : TileRow × Flags :=
  match tag with
  | some c => (rowWith old w (List.replicate n 0) (some c), 0)
  | none =>
    let rs := (List.range n).map f
    (rowWith old w (rs.map (·.1)) none, rs.foldl (fun g r => g ||| r.2) 0)

def orFlags (l : List Flags) : Flags := l.foldl (· ||| ·) 0

def tcvtEffect (d a : Nat) (cs : CoreSt) : CoreSt × Flags :=
  let x := tcT cs a
  let y := tcT cs d
  let rs := (List.range (tcRows x)).map fun m =>
    let r := readTile cs a m
    convRow (tcWidth y) (tcK y) r.tag (readTile cs d m) fun j => tileConv (tcType x) (tcWidth x) (tcType y) (tcWidth y) false none (rowElem r (tcWidth x) j)
  (putRows cs d (rs.map (·.1)), orFlags (rs.map (·.2)))

/-- TCVT: Converts tile elements to another type (R214). -/
def execTcvt (k : Ctl) (d a : Nat) (s : State) : Out :=
  issue (.tcvt k d a) s (mtxBody [a] [d] none 16 (tcvtCheck d a) (tcvtEffect d a))

/-- Row m of an accumulator. -/
def accRow (cs : CoreSt) (n m : Nat) : VVal := readV cs (128 * n + m)

/-- The greatest cause among the first k lanes of width w. -/
def lanesTag (w : Nat) (v : VVal) (k : Nat) : Option Cause := tagsFrom v 0 ((w * k + 63) / 64)

/-- TACC's rules (R215). An accumulator of type E8M0, which no rule makes but a restored record may hold, raises MMA_TYPE as such a tile
does (DESIGN CHOICE, log entry 64). -/
def taccCheck (d a : Nat) (cs : CoreSt) : Option Trap :=
  let y := tcT cs d
  if !(plainTile y && tcK y ≤ 4096 / ewOf cs a) then some .tileShape
  else if tcType y = .e8m0 ∨ accType (tcAcc cs a) = .e8m0 then some .mmaType
  else none

def taccEffect (d a : Nat) (cs : CoreSt) : CoreSt × Flags :=
  let y := tcT cs d
  let ta := accType (tcAcc cs a)
  let rs := (List.range (tcRows y)).map fun m =>
    let v := accRow cs a m
    convRow (tcWidth y) (tcK y) (lanesTag ta.width v (tcK y)) (readTile cs d m) fun j =>
      tileConv ta ta.width (tcType y) (tcWidth y) false none (vLane ta.width v j)
  (putRows cs d (rs.map (·.1)), orFlags (rs.map (·.2)))

/-- TACC: Converts accumulator rows into a tile (R215). -/
def execTacc (k : Ctl) (d a : Nat) (s : State) : Out :=
  issue (.tacc k d a) s (mtxBody [] [d] (some a) 8 (taccCheck d a) (taccEffect d a))

/-- A scale tile meets R205 for an operand of `rows` rows and dense K `kd`. -/
def scaleShape (cs : CoreSt) (n rows kd : Nat) : Bool :=
  let v := tcT cs n
  tcCfg v && tcType v == .e8m0 && !tcScle v && !tcMetae v && rows ≤ tcRows v && kd % 32 == 0 && kd / 32 ≤ tcBytes v

/-- Scale byte of element k of row m of a tile with control value v. -/
def scaleByte (cs : CoreSt) (v m k : Nat) : Option Nat :=
  if tcScle v then some (rowElem (readTile cs (tcScl v) m) 8 (k / 32)) else none

/-- ATILE's rules (R216). An accumulator of type E8M0 raises MMA_TYPE, and so does a scaled tile for one of type E4M3 or E5M2 (DESIGN CHOICE, log
entry 64). -/
def atileCheck (d a : Nat) (cs : CoreSt) : Option Trap :=
  let x := tcT cs a
  let td := accType (tcAcc cs d)
  if !(tcCfg x && !tcMetae x && tcK x ≤ 4096 / ewOf cs d && (!tcScle x || scaleShape cs (tcScl x) (tcRows x) (tcK x))) then some .tileShape
  else if tcType x = .e8m0 ∨ td = .e2m1 ∨ td = .e8m0 ∨ (tcScle x ∧ !td.isVFloat) then some .mmaType
  else none

/-- Writes the first lanes of a row of an accumulator. -/
def putAccRow (cs : CoreSt) (n m w : Nat) (ls : List LaneOut) : CoreSt :=
  let old := accRow cs n m
  writeV cs (128 * n + m) (writeLanes w old ((List.range (4096 / w)).map fun j => ls[j]?))

/-- Writes rows 0, 1, … of an accumulator. -/
def putAcc (cs : CoreSt) (n w : Nat) (rows : List (List LaneOut)) : CoreSt :=
  ((List.range rows.length).zip rows).foldl (fun cs p => putAccRow cs n p.1 w p.2) cs

def rowsFlags (rows : List (List LaneOut)) : Flags := orFlags (rows.map fun ls => laneFlags (ls.map some))

def atileEffect (d a : Nat) (cs : CoreSt) : CoreSt × Flags :=
  let x := tcT cs a
  let td := accType (tcAcc cs d)
  let ftz := ftzOf cs.mtx.fpmode
  let rows := (List.range (tcRows x)).map fun m =>
    let r := readTile cs a m
    let tag := maxTag r.tag (if tcScle x then (readTile cs (tcScl x) m).tag else none)
    (List.range (tcK x)).map fun j => match tag with
      | some c => ({ val := 0, tag := some c } : LaneOut)
      | none =>
        let y := tileConv (tcType x) (tcWidth x) td td.width ftz (scaleByte cs x m j) (rowElem r (tcWidth x) j)
        { val := y.1, flags := y.2 }
  (putAcc cs d td.width rows, rowsFlags rows)

/-- The tiles that an operand brings with it: its scale tile and its metadata tile. -/
def sideTiles (v : Nat) : List Nat :=
  (if tcScle v then [tcScl v] else []) ++ (if tcMetae v then [tcMeta v] else [])

/-- ATILE: Converts a tile into accumulator rows (R216). -/
def execAtile (k : Ctl) (d a : Nat) (s : State) : Out :=
  issue (.atile k d a) s fun s =>
    mtxBody (a :: sideTiles (tcT (focusCs s) a)) [] (some d) 8 (atileCheck d a) (atileEffect d a) s

/-! ### Pairings and shapes (R204 to R206) -/

/-- How an accepted pairing is computed: by R45 with groups of g, by R50, or by R49. -/
inductive MKind where
  | flt (g : Nat)
  | int
  | dbl
  deriving DecidableEq, Repr

def isF8 (t : ElemType) : Bool := t == .e4m3 || t == .e5m2
def isI8 (t : ElemType) : Bool := t == .i8 || t == .u8
def accSmall (t : ElemType) : Bool := t == .f16 || t == .bf16 || t == .f32

/-- The pairings of R204, from the control values of A, B and the accumulator. -/
def pairing (x y acc : Nat) (sat : Bool) : Option MKind :=
  let ta := tcType x
  let tb := tcType y
  let sc := tcScle x
  let t := accType acc
  if tcScle x != tcScle y then none
  else if tcE4 x || tcE4 y then (if tcE4 x && tcE4 y && !sc && t == .i32 then some .int else none)
  else if isI8 ta && isI8 tb && !sc then (if t == .i32 then some .int else none)
  else if sat then none
  else if ta == .f16 && tb == .f16 then (if !sc && (t == .f16 || t == .f32) then some (.flt 16) else none)
  else if ta == .bf16 && tb == .bf16 then (if !sc && (t == .bf16 || t == .f32) then some (.flt 16) else none)
  else if ta == .f32 && tb == .f32 then (if !sc && t == .f32 then some (.flt 4) else none)
  else if ta == .f64 && tb == .f64 then (if !sc && t == .f64 then some .dbl else none)
  else if ta == .e2m1 && tb == .e2m1 then (if accSmall t then some (.flt 32) else none)
  else if isF8 ta && isF8 tb then (if accSmall t then some (.flt 32) else none)
  else if sc && (isF8 ta || ta == .i8) && (isF8 tb || tb == .i8) then (if accSmall t then some (.flt 32) else none)
  else none

/-- Stored elements per 48 of MMA.SP; 0 stands for a dense A. -/
def spCount (n : Nat) : Nat := match n with | 0 => 8 | 1 => 12 | 2 => 16 | _ => 24

/-- Array occupancy (R206). -/
def occupancy (w kd : Nat) (sp : Bool) : Nat :=
  let c := match w with
    | 16 => kd | 8 => (kd + 1) / 2 | 4 => (kd + 3) / 4 | 32 => 4 * kd | _ => 8 * kd
  if sp then (c + 1) / 2 else c

/-- The tiles of one half of an operation: the core that holds A, the core that holds B and the accumulator, and the numbers. -/
structure Half where
  lead : CoreSt
  own : CoreSt
  half : Nat
  d : Nat
  a : Nat
  b : Nat
  /-- Stored elements per 48, or 0. -/
  n : Nat
  deriving DecidableEq, Repr

def Half.x (h : Half) : Nat := tcT h.lead h.a
def Half.y (h : Half) : Nat := tcT h.own h.b
def Half.acc (h : Half) : Nat := tcAcc h.own h.d
def Half.kd (h : Half) : Nat := tcK h.y

/-- The shape rules (R205, check 4). -/
def shapeOk (h : Half) : Bool :=
  let sp := h.n != 0
  let kOk := if sp then h.kd % 48 == 0 && tcK h.x == h.kd / 48 * h.n else tcK h.x == h.kd
  let mOk :=
    if sp then
      let v := tcT h.lead (tcMeta h.x)
      tcMetae h.x && !tcMetae h.y && tcCfg v && tcType v == .u8 && !tcE4 v && !tcScle v && !tcMetae v &&
        tcRows h.x ≤ tcRows v && h.kd / 48 * h.n * 6 / 8 ≤ tcBytes v
    else !tcMetae h.x && !tcMetae h.y
  let sOk := !tcScle h.x ||
    (scaleShape h.lead (tcScl h.x) (tcRows h.x) h.kd && scaleShape h.own (tcScl h.y) (tcRows h.y) h.kd && (!sp || h.kd % 96 == 0))
  let side := sideTiles h.x ++ (if h.half = 0 then sideTiles h.y else [])
  kOk && tcRows h.y ≤ 4096 / ewOf h.own h.d && mOk && sOk && side.all (fun t => t != h.a && (h.half != 0 || t != h.b)) &&
    (sideTiles h.y).all fun t => t != h.b

/-- Index j of group g of a row of metadata (R32). -/
def metaIdx (r : TileRow) (n g j : Nat) : Nat := laneOf 6 r.data.toNat (g * n + j)

/-- Strictly increasing and at most 47. -/
def groupValid : List Nat → Bool
  | [] => true
  | [x] => x ≤ 47
  | x :: y :: t => x < y && groupValid (y :: t)

/-- Check 5: the metadata of rows 0 to M − 1. -/
def metaOk (h : Half) : Bool :=
  h.n == 0 || (List.range (tcRows h.x)).all fun m =>
    (List.range (h.kd / 48)).all fun g =>
      groupValid ((List.range h.n).map fun j => metaIdx (readTile h.lead (tcMeta h.x) m) h.n g j)

/-- The tiles read with their rows, on the core of A and on the core of B. -/
def Half.leadTiles (h : Half) : List (Nat × Nat) := (h.a :: sideTiles h.x).map fun t => (t, tcRows h.x)
def Half.ownTiles (h : Half) : List (Nat × Nat) := (h.b :: sideTiles h.y).map fun t => (t, tcRows h.y)

/-- Check 6. -/
def tilesClean (h : Half) : Bool :=
  (h.leadTiles.all fun p => (tileTags h.lead p.1 p.2).isNone) && h.ownTiles.all fun p => (tileTags h.own p.1 p.2).isNone

/-- The first half for which a check fails. -/
def failing (hs : List Half) (f : Half → Bool) : Option Nat := (hs.find? fun h => !f h).map (·.half)

/-- Checks 2 to 6 over the halves. -/
def mmaCheck (hs : List Half) (sat : Bool) : Option FaultRec :=
  match failing hs fun h => tcCfg h.x && tcCfg h.y with
  | some k => some { trap := .tileShape, arg := k }
  | none =>
    match failing hs fun h => (pairing h.x h.y h.acc sat).isSome with
    | some k => some { trap := .mmaType, arg := k }
    | none =>
      match failing hs shapeOk with
      | some k => some { trap := .tileShape, arg := k }
      | none =>
        match failing hs metaOk with
        | some k => some { trap := .sparseMeta, arg := k }
        | none => (failing hs tilesClean).map fun k => { trap := .tilePoison, arg := k }

/-! ### Multiplication (R45 to R50, R207, R209) -/

/-- Dense positions of row m of A: element k's place among the stored ones, or none when it is skipped. -/
def storedAt (h : Half) (m k : Nat) : Option Nat :=
  if h.n = 0 then some k
  else
    let r := readTile h.lead (tcMeta h.x) m
    let g := k / 48
    ((List.range h.n).find? fun j => metaIdx r h.n g j == k % 48).map fun j => g * h.n + j

/-- Bits of element k of row m of A with its scale; none when it is skipped. -/
def aElem (h : Half) (m k : Nat) : Option (Nat × Option Nat) :=
  (storedAt h m k).map fun j => (rowElem (readTile h.lead h.a m) (tcWidth h.x) j, scaleByte h.lead h.x m k)

def bElem (h : Half) (n k : Nat) : Nat × Option Nat :=
  (rowElem (readTile h.own h.b n) (tcWidth h.y) k, scaleByte h.own h.y n k)

def scaledV (v : Nat) (x : Nat × Option Nat) : FVal :=
  let y := elemV (tcType v) (tcWidth v) x.1
  match x.2 with | none => y | some e => scaleV e y

/-- A product of two elements that are not NaN: none when it is ∞ × 0 (R46). -/
def prodV (a b : FVal) : Option FVal :=
  match a, b with
  | .fin n1 m1 e1, .fin n2 m2 e2 => some (.fin (n1 != n2) (m1 * m2) (e1 + e2))
  | x, y => if x.isZero || y.isZero then none else some (.inf (x.neg != y.neg))

/-- Exact sum of finite values, with the zero sign of R45. -/
def sumFin (ps : List FVal) : FVal :=
  let r := ps.foldl (fun a p => match a, p with
    | .fin n1 m1 e1, .fin n2 m2 e2 => addFin .rne n1 m1 e1 n2 m2 e2
    | a, _ => a) (.fin false 0 0)
  if r.isZero then .fin (ps.all fun p => p.isZero && p.neg) 0 0 else r

/-- The sum of one group (R45, R46): a NaN result is invalid (DEDUCED, log entry 25). -/
def groupSum (ps : List (Option FVal)) : FRes :=
  if ps.any (·.isNone) then { v := .nan false, fl := flNV }
  else
    let vs := ps.filterMap id
    let infs := vs.filter FVal.isInf
    match infs with
    | [] => { v := sumFin vs }
    | x :: t => if t.all (fun y => y.neg == x.neg) then { v := .inf x.neg } else { v := .nan false, fl := flNV }

/-- Adds the groups in turn; a NaN stays (R45, R46). The rounding flags of the groups before the one that makes the element NaN
stand, and those of the later groups are not raised (DESIGN CHOICE, log entry 66). -/
def addGroups (t : Fmt) (ftz : Bool) : List (List (Option FVal)) → Nat → Flags → Nat × Flags
  | [], acc, fl => (acc, fl)
  | g :: gs, acc, fl =>
    let s := groupSum g
    if s.v.isNan then (nanBits t, fl ||| s.fl)
    else
      let r := roundF t .rne ftz s
      let a := roundF t .rne ftz (addV .rne (readF t ftz acc) (readF t ftz r.1))
      if (decodeF t a.1).isNan then (nanBits t, fl ||| r.2 ||| a.2) else addGroups t ftz gs a.1 (fl ||| r.2 ||| a.2)

/-- The products of the pairs of each group that hold no NaN. -/
def numberProducts (gs : List (List (FVal × FVal))) : List (List (Option FVal)) :=
  gs.map fun g => (g.filter fun p => !p.1.isNan && !p.2.isNan).map fun p => prodV p.1 p.2

/-- Whether any group has a product of infinity and zero, or infinite products of both signs: invalid, whatever else the element
holds (R46). -/
def groupsInvalid (gs : List (List (FVal × FVal))) : Bool := (numberProducts gs).any fun g => (groupSum g).fl != 0

/-- Whether an infinite accumulator meets an infinite sum of the other sign, the products of NaN left aside: invalid, whatever else the
element holds (R46) (DESIGN CHOICE, log entry 66). -/
def accInvalid (t : Fmt) (ftz : Bool) (old : Nat) (gs : List (List (FVal × FVal))) : Bool :=
  !(decodeF t old).isNan && (addGroups t ftz (numberProducts gs) old 0).2 &&& flNV != 0

/-- One output element of a floating-point operation: the included pairs of each group. An element with a NaN operand, scale or
accumulator raises no rounding flag (DESIGN CHOICE, log entry 66). -/
def fltElem (t : Fmt) (ftz : Bool) (old : Nat) (gs : List (List (FVal × FVal))) : Nat × Flags :=
  let nv : Flags := if groupsInvalid gs then flNV else 0
  if gs.any (fun g => g.any fun p => p.1.isNan || p.2.isNan) || (decodeF t old).isNan then
    (nanBits t, if accInvalid t ftz old gs then flNV else nv)
  else addGroups t ftz (gs.map fun g => g.map fun p => prodV p.1 p.2) old nv

/-- FP64: one fused multiply-add per k (R49). -/
def dblElem (t : Fmt) (ftz : Bool) : List (FVal × FVal) → Nat → Flags → Nat × Flags
  | [], acc, fl => (acc, fl)
  | p :: ps, acc, fl =>
    let r := roundF t .rne ftz (fmaV .rne p.1 p.2 (readF t ftz acc))
    dblElem t ftz ps r.1 (fl ||| r.2)

/-- Integer groups (R50). -/
def intElem (sat : Bool) : List (List (Int × Int)) → Int → Int
  | [], acc => acc
  | g :: gs, acc =>
    let s := acc + g.foldl (fun a p => a + p.1 * p.2) 0
    intElem sat gs (asInt 32 (if sat then satTo true 32 s else wrapTo 32 s))

/-- Included positions of row m of A and row n of B. -/
def pairsOf (h : Half) (m n : Nat) : List (Nat × (Nat × Option Nat) × (Nat × Option Nat)) :=
  (List.range h.kd).filterMap fun k => (aElem h m k).map fun x => (k, x, bElem h n k)

/-- The included pairs by groups of g dense positions. -/
def grouped {α : Type} (g kd : Nat) (ps : List (Nat × α)) : List (List α) :=
  (List.range ((kd + g - 1) / g)).map fun i => (ps.filter fun p => p.1 / g == i).map (·.2)

def intOf (v x : Nat) : Int := intVal (tcType v).isSigned (tcWidth v) x

/-- Element (m, n) of the result from its old bits. -/
def mmaElem (h : Half) (kind : MKind) (sat ftz : Bool) (m n old : Nat) : Nat × Flags :=
  let ps := pairsOf h m n
  let t := accType h.acc
  match kind with
  | .flt g => fltElem (fmtOf t) ftz old (grouped g h.kd (ps.map fun p => (p.1, (scaledV h.x p.2.1, scaledV h.y p.2.2))))
  | .dbl => dblElem (fmtOf t) ftz (ps.map fun p => (scaledV h.x p.2.1, scaledV h.y p.2.2)) old 0
  | .int => (wrapTo 32 (intElem sat (grouped 32 h.kd (ps.map fun p => (p.1, (intOf h.x p.2.1.1, intOf h.y p.2.2.1)))) (asInt 32 old)), 0)

/-- Rows of the result of one half. -/
def mmaRows (h : Half) (kind : MKind) (sat ftz : Bool) : List (List LaneOut) :=
  let w := (accType h.acc).width
  (List.range (tcRows h.x)).map fun m =>
    let old := accRow h.own h.d m
    (List.range (tcRows h.y)).map fun n => match vTag w old n with
      | some c => ({ val := 0, tag := some c } : LaneOut)
      | none => let r := mmaElem h kind sat ftz m n (vLane w old n); { val := r.1, flags := r.2 }

/-- The shadow: the rows of the accumulator with their tags (R207, R210) (DEDUCED, log entry 14). -/
def takeShadow (cs : CoreSt) (d : Nat) : Shadow := { acc := d, rows := cs.vregs.filter fun p => p.1 / 128 == d }

/-- FTZ of an operation: the value saved at an abandonment, or the mode's (R40) (DEDUCED, log entry 23). -/
def mmaFtz (cs : CoreSt) : Bool := cs.mtx.replayFtz.getD (ftzOf cs.mtx.fpmode)

/-- FTZ of a half: the follower's is kept with the leader until the replay (R40, R208) (DEDUCED, log entry 23). -/
def Half.ftz (h : Half) : Bool := if h.half = 0 then mmaFtz h.own else h.lead.mtx.replayPair.getD (ftzOf h.own.mtx.fpmode)

/-- One half of an operation: the accumulator written, the shadow kept (DEDUCED, log entry 14). -/
def mmaHalf (h : Half) (sat : Bool) : CoreSt × Flags :=
  match pairing h.x h.y h.acc sat with
  | none => (h.own, 0)
  | some kind =>
    let rows := mmaRows h kind sat h.ftz
    ({ putAcc h.own h.d (accType h.acc).width rows with shadow := some (takeShadow h.own h.d) }, rowsFlags rows)

/-- The issue gap (R15, R201): it counts from the first cycle in which the operation could otherwise issue. -/
def gapWait (s : State) (cs : CoreSt) (d : Nat) : Option Pending :=
  let ready := ((cs.mtx.pending.bind (·.ready)).getD (coreCycle s))
  if coreCycle s < ready + s.hub.gap then some { cluster := d, ready := some ready } else none

/-- MMA and MMA.SP. -/
def mmaBody (sat : Bool) (n d a b : Nat) (s : State) : Verdict :=
  let cs := focusCs s
  let h : Half := { lead := cs, own := cs, half := 0, d := d, a := a, b := b, n := n }
  let reads := (h.leadTiles ++ h.ownTiles).map (·.1)
  let cl := tileClaims reads [] (some d)
  if tileBusy cs cl then .stall
  else if clusterBusy cs d then .pend { cluster := d } none
  else match mmaCheck [h] sat with
    | some r => .trap r
    | none =>
      match gapWait s cs d with
      | some p => .pend p none
      | none =>
        let r := mmaHalf h sat
        .done { s := withCs s r.1, lat := occupancy (tcWidth h.x) h.kd (n != 0) + 4, flags := r.2, claims := cl,
                mma := some (d, mmaFtz cs), mmaTiles := h.leadTiles ++ h.ownTiles }

/-- MMA: Multiplies two tiles into an accumulator under the grouped accumulation rule (R207). -/
def execMma (k : Ctl) (sat : Bool) (d a b : Nat) (s : State) : Out := issue (.mma k sat d a b) s (mmaBody sat 0 d a b)
/-- MMA_SP: Structured-sparse multiply using a metadata tile (R209). -/
def execMmaSp (k : Ctl) (sat : Bool) (n : Nat) (d a b : Nat) (s : State) : Out :=
  issue (.mmaSp k sat n d a b) s (mmaBody sat (spCount n) d a b)

/-! ### Paired multiplication (R208) -/

/-- Check 1 of R205: the issuer is half 0 of a paired team whose half 1 has not exited. -/
def pairRole (s : State) : Bool :=
  let cs := focusCs s
  isPaired s cs && (cs.occ.map (·.half)) == some 0 && (getCore s (pairOf s.focusCore)).exitStatus.isNone

/-- The follower's core while it computes its half. -/
def followerIn (cs : CoreSt) (h : Half) (fl : Flags) (pc : Pc) : CoreSt :=
  { cs with
    held := true, pairPend := none, nextId := cs.nextId + 1
    flights := cs.flights ++ [{ id := cs.nextId, eng := .mtx, claims := tileClaims (h.ownTiles.map (·.1)) [] (some h.d), flags := fl,
                                pc := pc, mma := some (h.d, h.ftz), mmaTiles := h.ownTiles }] }

/-- A fault of an MMA.P: it is no longer pending in the follower. -/
def pairTrap (s : State) (r : FaultRec) : Verdict :=
  let f := pairOf s.focusCore
  .trapIn (setCore s f { getCore s f with pairPend := none }) r

def mmaPBody (sat : Bool) (d a b : Nat) (s : State) : Verdict :=
  let cs := focusCs s
  let f := pairOf s.focusCore
  let fs := getCore s f
  let h0 : Half := { lead := cs, own := cs, half := 0, d := d, a := a, b := b, n := 0 }
  let h1 : Half := { h0 with own := fs, half := 1 }
  let cl := tileClaims ((h0.leadTiles ++ h0.ownTiles).map (·.1)) [] (some d)
  let fl := tileClaims (h1.ownTiles.map (·.1)) [] (some d)
  if !pairRole s then pairTrap s { trap := .pairRole }
  else if tileBusy cs cl || tileBusy fs fl || (fs.flights.any fun g => g.eng == .mtx) || coreCycle s < fs.mtx.nextIssue then .stall
  else if clusterBusy cs d || clusterBusy fs d then .pend { cluster := d } (some f)
  else match mmaCheck [h0, h1] sat with
    | some r => pairTrap s r
    | none =>
      match gapWait s cs d with
      | some p => .pend p (some f)
      | none =>
        let r0 := mmaHalf h0 sat
        let r1 := mmaHalf h1 sat
        let s1 := setCore (withCs s r0.1) f (followerIn r1.1 h1 r1.2 fs.mtx.pc)
        .done { s := s1, lat := occupancy (tcWidth h0.x) h0.kd false + 6, flags := r0.2, claims := cl, mma := some (d, mmaFtz cs),
                mmaTiles := h0.leadTiles ++ h0.ownTiles, partner := some f }

/-- MMA_P: Paired multiply: the leader's A tile is broadcast and each half multiplies its own B (R208). -/
def execMmaP (k : Ctl) (sat : Bool) (d a b : Nat) (s : State) : Out := issue (.mmaP k sat d a b) s (mmaPBody sat d a b)

/-! ### MFENCE (R217) -/

/-- Every tile and accumulator of the core is at rest. -/
def tilesQuiet (cs : CoreSt) : Bool :=
  cs.flights.all fun f => f.claims.all fun q => match q.res with | .tile _ => false | .acc _ => false | _ => true

/-- MFENCE: Issues when no tile claim, busy cluster or follower hold remains in the core (R217). -/
def execMfence (k : Ctl) (s : State) : Out :=
  issue (.mfence k) s fun s => if tilesQuiet (focusCs s) then .done { s := s } else .stall

/-! ### Errors (R211) -/

/-- A tile error under an operation in flight: abandonment, then TILE_POISON precise at it (R211). -/
def poisonAbandon (s : State) (c : Nat) : State :=
  match mmaLeader s c with
  | none => s
  | some l =>
    let half := if l = c then 0 else 1
    let s := abandonMma s l
    let s := setCore s l { getCore s l with tileTrap := some (coreCycle s, (getCore s l).tcode, (getCore s l).tcodePrio, (getCore s l).tcodeEng) }
    raiseTrap s l .mtx { trap := .tilePoison, arg := half } (getStream s l .mtx).waitDone (getStream s l .mtx).pc

/-- The operation in flight on the core reads row r of tile t. -/
def mmaReads (cs : CoreSt) (t r : Nat) : Bool := match mmaFlight cs with
  | none => false
  | some f => f.mmaTiles.any fun p => p.1 == t && r < p.2

/-- Bits that an uncorrectable error leaves: a free value. -/
def struck (s : State) (w : Nat) : Nat := Config.eccBits s.fresh % 2 ^ w
def usedFresh (s : State) : State := { s with fresh := s.fresh + 1 }

/-- Strikes granule g of a vector: its bits are lost and its tag is set with cause 1 (R372). -/
def poisonGran (bits : Nat) (v : VVal) (g : Nat) : VVal :=
  { data := BitVec.ofNat 4096 (setLane 64 v.data.toNat g bits), tags := BitVec.ofNat 256 (setLane 4 v.tags.toNat g (tagNib (some .memory))) }

/-- An uncorrectable error in a tile row, an accumulator granule or a shadow granule (R211). -/
def tileEcc (core : Nat) (w : MatrixErr) (s : State) : Option State :=
  let cs := getCore s core
  match w with
  | .tileRow t r =>
    if t < 16 && r < 128 then
      let x := readTile cs t r
      let s := usedFresh (setCore s core (writeTile cs t r { data := BitVec.ofNat 4096 (struck s 4096), tag := some .memory }))
      some (if mmaReads cs t r && !mmaEnds s core then poisonAbandon s core else s)
    else none
  | .accGran a r g =>
    if a < 3 && r < 128 && g < 64 then some (usedFresh (setCore s core (writeV cs (128 * a + r) (poisonGran (struck s 64) (accRow cs a r) g)))) else none
  | .shadowGran r g =>
    match cs.shadow with
    | some sh =>
      if r < 128 && g < 64 then
        let k := 128 * sh.acc + r
        some (usedFresh (setCore s core { cs with shadow := some { sh with rows := mset sh.rows k (poisonGran (struck s 64) (mgetD {} sh.rows k) g) } }))
      else none
    | none => none

/-- TILE_ECC_ERROR: An uncorrectable error in a tile row, accumulator or shadow sets tags and may abandon an MMA (R211). -/
def execTileEccError (core : Nat) (w : MatrixErr) (s : State) : Out := evOut s (tileEcc core w s)

end Sys2Proof.Machine
end

