-- ==== Sys2Proof/Machine/MemEvents.lean ====
section
/-! DEFINITION. The events that carry an access from issue to its end: clearing, return, delivery to the host, and the fetch of code lines; retirement; RSP.ST writes; errors in register state; shoot-downs (R60, R159, R247 to R266, R274 to R277, R374, R411). -/

namespace Sys2Proof.Machine

/-! ### Retirement (R159, R250) -/

/-- Of two flights, the one that retires first. -/
def earlier (a b : Flight) : Flight := if (b.retireAt.getD 0) < (a.retireAt.getD 0) then b else a

/-- The instruction of an engine that retires next, when its last cycle is over. -/
def dueFlight (s : State) (c : Nat) (e : Engine) : Option Flight :=
  match (getCore s c).flights.filter fun f => f.eng == e && mayRetire s (getCore s c) f with
  | [] => none
  | f :: t => some (t.foldl earlier f)

/-- The retirement of an engine's instruction whose last cycle is over, after the posts of that cycle in their order (R159, R286). -/
def retire (core : Nat) (e : Engine) (s : State) : Option State :=
  let s1 := postsTo (coreCycle s - 1) s core
  (dueFlight s1 core e).map (retireFlight s1 core)

/-- RETIRE: An issued instruction delivers its results at the end of its latency, fills its pushes and applies its post (R159) (DEDUCED, log entry 13). -/
def execRetire (core : Nat) (e : Engine) (s : State) : Out := evOut s (retire core e s)

/-! ### An access that faults (R247) -/

def findAccess (s : State) (c id : Nat) : Option Access := (getCore s c).accesses.find? fun a => a.id == id

/-- The queue entries that an instruction popped are its queue's heads again. -/
def giveBack (cs : CoreSt) (a : Access) : CoreSt :=
  let q := qsName a.eng
  let cs := setSq cs q ((a.undoS.map fun v => { val := some v }) ++ getSq cs q)
  a.undoD.foldl (fun cs x => setDq cs x.1 ({ val := some x.2 } :: getDq cs x.1)) cs

/-- An access leaves no effect: it is forgotten with its flight, its reservations and its claims, and its engine stands at it again. -/
def undoAccess (s : State) (c : Nat) (a : Access) : State :=
  let cs := getCore s c
  let cs := { cs with accesses := cs.accesses.filter fun b => b.id != a.id
                      flights := cs.flights.filter fun f => f.id != a.flight
                      pend := cs.pend.filter fun p => p.flight != a.flight }
  let cs := giveBack (dropReserved cs a.flight) a
  let st := cs.stream a.eng
  setCore s c (cs.setStream a.eng { st with entry := none, ending := false })

/-- PC and wait of an access. -/
def issuePoint (s : State) (c : Nat) (a : Access) : Pc × Bool :=
  match (getCore s c).flights.find? fun f => f.id == a.flight with
  | some f => (f.pc, f.waited)
  | none => ((getStream s c a.eng).pc, (getStream s c a.eng).waitDone)

/-- A precise fault of an access. Behind a SEM_OVERFLOW of its engine it has no effect but that the engine stands at it, and is raised again when it
issues again (R288). -/
def faultAccess (s : State) (c : Nat) (a : Access) (r : FaultRec) : State :=
  let p := issuePoint s c a
  let u := undoAccess s c a
  if (getStream s c a.eng).fault.map (·.trap) = some .semOverflow then setStream u c a.eng { getStream u c a.eng with waitDone := p.2, pc := p.1 }
  else raiseTrap u c a.eng r p.2 p.1

/-- A resumable halt of an access. -/
def haltAccess (s : State) (c : Nat) (a : Access) (h : HaltRec) : State :=
  let p := issuePoint s c a
  haltStream (undoAccess s c a) c a.eng h p.2 p.1

/-- The access ends with these values: its destination is written, its pushes are filled, and it retires. -/
def endAccess (s : State) (c : Nat) (a : Access) (cs : CoreSt) (fills : List Fill) : State :=
  let cs := { cs with accesses := cs.accesses.filter fun b => b.id != a.id }
  let s := setCore s c cs
  match cs.flights.find? fun f => f.id == a.flight with
  | some f => retireFlight s c { f with fills := f.fills ++ fills }
  | none => s

/-- LD.S whose check fails writes 0 with a tag of cause 0 (R258). -/
def specFails (s : State) (c : Nat) (a : Access) : State :=
  let cs := getCore s c
  let r := match a.dst with
    | .scalar e d _ _ _ => sdFill cs e { val := 0, tag := some .speculative } d
    | _ => (cs, [])
  endAccess s c a r.1 r.2

/-- What a failed translation or memory check does to an access (R252, R258, R262, R274). -/
def clearFails (s : State) (c : Nat) (a : Access) (t : Trap) (va : Nat) (kind : AccKind) : State :=
  if a.pref then setCore s c { getCore s c with accesses := (getCore s c).accesses.filter fun b => b.id != a.id }
  else if isSpec a.dst then specFails s c a
  else match t with
    | .pageMissing | .pageMoving => haltAccess s c a { trap := t, asid := (keyOf s a.asid va).asid, va := va, kind := kind }
    | _ => faultAccess s c a { trap := t, addr := BitVec.ofNat 64 va }

/-! ### Clearing (R247, R252, R264, R266) -/

/-- Where a part of an access is performed. -/
inductive Place where
  /-- In the L1, which holds the words of a load. -/
  | l1
  /-- At its line, under the translation of the L1's or the LLC's copy. -/
  | line (x : Xlate)
  | home (asid : Nat) (x : Xlate)
  | host (asid : Nat) (x : Xlate)
  | away (pkg : Nat)
  deriving DecidableEq, Repr

/-- A load's hit in the L1: a line that may be read and holds its words. -/
def l1Hit (cs : CoreSt) (key : LineKey) (p : Piece) : Bool :=
  (findL1 cs key).any fun l => l.r && l.valid &&& pieceWords p == pieceWords p

/-- The translation that a line of the L1 keeps (R264). -/
def l1Xlate (l : L1Line) (va : Nat) : Xlate :=
  { pa := l.pa + va % 128, r := l.r, w := l.w, x := l.x, moving := false, mig := l.mig, base := l.key.va, size := 128 }

/-- The core's line that may be written: a store that finds it is translated no more (R150, R439). -/
def storeHit (cs : CoreSt) (key : LineKey) : Option L1Line := (findL1 cs key).filter (·.w)

/-- The core's copy of the line lacks the permission (R264). -/
def l1Lacks (cs : CoreSt) (key : LineKey) (kind : AccKind) : Bool := (findL1 cs key).any fun l => !permitted l.r l.w l.x kind

/-- An atomic operation's check 4: its own package translates it; a page that moves does not stop it (R281). -/
def atomPlace (s : State) (a : Access) (p : Piece) (pkg : Nat) : Except Trap Place :=
  if pkg ≠ s.pkg then .ok (.away pkg)
  else match resolve s a.asid p.va (if a.store then .store else .readWrite) with
    | .error .pageMoving => .ok (.away pkg)
    | .error t => .error t
    | .ok _ => .ok (.away pkg)

/-- Checks 6 and 7 of a part: a hit carries its permission, and an access that no cache can serve is translated (R19, R264). -/
def placeOf (s : State) (cs : CoreSt) (a : Access) (p : Piece) : Except Trap Place :=
  match p.route with
  | .remote pkg => atomPlace s a p pkg
  | _ =>
    match vaClass s p.va with
    | .hole => .error .busError
    | .remote pkg => .ok (.away pkg)
    | _ =>
      let key := keyOf s a.asid p.va
      let kind := if a.store then AccKind.store else .load
      if !a.store && l1Hit cs key p then .ok .l1
      else match (if a.store then storeHit cs key else none) with
        | some l => .ok (.line (l1Xlate l p.va))
        | none =>
          match (if l1Lacks cs key kind then none else llcHit s key kind) with
          | some l => .ok (.line (lineXlate l p.va))
          | none =>
            match resolve s a.asid p.va kind with
            | .error t => .error t
            | .ok (asid, x, .host) => .ok (.host asid x)
            | .ok (asid, x, _) => .ok (.home asid x)

/-- The places of the parts, or the first failure and its address. -/
def placesOf (s : State) (cs : CoreSt) (a : Access) : List Piece → Except (Trap × Nat) (List Place)
  | [] => .ok []
  | p :: t =>
    match placeOf s cs a p with
    | .error e => .error (e, p.va)
    | .ok x => match placesOf s cs a t with
      | .error e => .error e
      | .ok xs => .ok (x :: xs)

/-- The translation that an access has been given holds for the LLC's line and for the core's copy of it (R264). -/
def grantPerms (s : State) (c : Nat) (key : LineKey) (x : Xlate) : State :=
  let s := match getLine s key with
    | some l => putLine s (refresh l x)
    | none => s
  let cs := getCore s c
  match findL1 cs key with
  | some l => setCore s c (putL1 cs { l with pa := x.pa / 128 * 128, r := x.r, w := x.grantsW, x := x.x, mig := x.mig })
  | none => s

/-- A part takes its place (DEDUCED, log entry 18). -/
def settle (s : State) (c : Nat) (a : Access) (p : Piece) : Place → State × Piece
  | .l1 =>
    let r := hitPiece (getCore s c) (keyOf s a.asid p.va) false p
    (setCore s c r.1, r.2)
  | .line x => (if a.pref then s else allotLine s (keyOf s a.asid p.va) a.hint, { p with xpa := some (x.pa, permBits x) })
  | .home asid x => (grantPerms (tlbAdd s asid p.va x) c (keyOf s a.asid p.va) x, { p with xpa := some (x.pa, permBits x) })
  | .host asid x => (tlbAdd s asid p.va x, { p with route := .host x.pa, st := .sent })
  | .away pkg =>
    if a.store || !a.ops.isEmpty || s.rou.lostPkgs.contains pkg then (s, { p with route := .remote pkg })
    else (sendPacket s (.load pkg p.va p.n), { p with route := .remote pkg, sentAt := s.time, firstAt := s.time })

def settleAll (c : Nat) (a : Access) : List (Piece × Place) → State → State × List Piece
  | [], s => (s, [])
  | (p, x) :: t, s =>
    let r := settle s c a p x
    let q := settleAll c a t r.1
    (q.1, r.2 :: q.2)

/-! #### Remote store pieces (R303) -/

/-- Insertion by address. -/
def insertVa (x : Nat) : List Nat → List Nat
  | [] => [x]
  | y :: t => if x < y then x :: y :: t else y :: insertVa x t

/-- The lines of the parts that go to other packages: ascending, or by lowest lane for a scatter. -/
def awayLines (scatter : Bool) (ps : List Piece) : List Nat :=
  let ls := ((ps.filter fun p => isRemoteRoute p.route).map fun p => lineBase p.va).eraseDups
  if scatter then ls else ls.foldl (fun acc x => insertVa x acc) []

/-- The bytes of a store in one line: later elements stand over earlier ones. -/
def lineStore (ps : List Piece) (line : Nat) : LineData × BitVec 128 :=
  (ps.filter fun p => isRemoteRoute p.route && lineBase p.va == line).foldl
    (fun d p => let m := byteMask (p.va % 128) p.n; (mergeData d.1 (bytesAt (p.va % 128) p.data) m, d.2 ||| m)) (0, 0)

/-- A store's parts in other packages become one operation for each line. -/
def awayStore (s : State) (c : Nat) (a : Access) (ps : List Piece) : List Piece × List RemOp :=
  let near := ps.filter fun p => !isRemoteRoute p.route
  let lines := awayLines a.scatter ps
  let far := lines.map fun l => ({ va := l, n := 128, off := 0, route := .remote (ownerOf s l) } : Piece)
  let ops := lines.mapIdx fun i l =>
    let d := lineStore ps l
    ({ code := 0xF0, type := a.type, ord := if a.rel then .rel else .rlx, asid := a.asid, va := l, n := 128, mask := d.2,
       opnd := (List.range 8).map fun j => BitVec.ofNat 128 (laneOf 128 d.1.toNat j), core := c, eng := a.eng, flight := a.flight, acc := some a.id, piece := near.length + i } : RemOp)
  (near ++ far, ops)

def putAccess (cs : CoreSt) (a : Access) : CoreSt := { cs with accesses := cs.accesses.map fun b => if b.id = a.id then a else b }

/-- A part of a store whose words the core owns is performed in the L1, unless an earlier part of the store that is not performed lies under it
(R257, R338); at a line that the home atomic unit holds it waits (R311). -/
def hitPart (s : State) (key : Piece → LineKey) (r : CoreSt × List Piece) (p : Piece) : CoreSt × List Piece :=
  let under := r.2.any fun q => q.st != .done && q.route == .cached && overlaps q.va q.n p.va p.n
  if p.route == .cached && p.st == .idle && !under && !lineHeld s (key p) && ownsPiece r.1 (key p) p then
    let h := hitPiece r.1 (key p) true p
    (h.1, r.2 ++ [h.2])
  else (r.1, r.2 ++ [p])

/-- The store has passed every check: its parts at words that the core owns are performed (R247, R338). -/
def performHits (s : State) (c id : Nat) : State :=
  match findAccess s c id with
  | none => s
  | some a =>
    if !a.store then s
    else
      let r := a.pieces.foldl (hitPart s fun p => keyOf s a.asid p.va) (getCore s c, [])
      setCore s c (putAccess r.1 { a with pieces := r.2 })

/-- Operations that are homed in the package have cleared once their check 4 has passed; one for another package clears when it leaves (R322). -/
def clearLocal (s : State) (c : Nat) (a : Access) : State :=
  if a.ops.all fun o => ownerOf s o.va == s.pkg then
    setCore s c { getCore s c with accesses := (getCore s c).accesses.map fun b => if b.id = a.id then { b with cleared := true } else b }
  else s

/-- A part of the access waits for the host. -/
def hostWaits (a : Access) : Bool := a.pieces.any fun p => match p.route with | .host _ => p.st != .done | _ => false

/-- The requests of an access ask for miss-status entries (R249). -/
def withEntries (s : State) (c id : Nat) : State :=
  match findAccess s c id with
  | none => s
  | some a => setCore s c (askEntries (getCore s c) a)

/-- The access has cleared, and a store retires (R247). -/
def clearAccess (s : State) (c id : Nat) : State :=
  match findAccess s c id with
  | none => s
  | some a =>
    let s := setCore s c (dropDone (putAccess (getCore s c) { a with cleared := true }))
    if a.store then
      match (getCore s c).flights.find? fun f => f.id == a.flight with
      | some f => retireFlight s c f
      | none => s
    else s

/-- What follows the checks: host parts wait for the host; then no fault can come any more, and the stores that hit are performed; the instruction
waits while a request of it has no miss-status entry, and a prefetch without one is dropped (R249, R262); remote operations leave; else the access
has cleared (R247, R252). -/
def afterClear (s : State) (c id : Nat) : State :=
  match findAccess s c id with
  | none => s
  | some a =>
    if hostWaits a then s
    else
      let s := withEntries (if a.ops.isEmpty then performHits s c id else s) c id
      let b := (findAccess s c id).getD a
      if b.pieces.any (wantsEntry (getCore s c) b) then
        (if a.pref then setCore s c { getCore s c with accesses := (getCore s c).accesses.filter fun x => x.id != id } else s)
      else if !b.ops.isEmpty then sendOps b.ops (dropAtoms (clearLocal s c b) c b.ops) c id
      else clearAccess s c id

/-- An access whose parts have taken their places goes on: a request of it can have its entry; or all have theirs, and an operation can be handed
over or the access clears (R249, R303). -/
def goesAfter (s : State) (c : Nat) (a : Access) : Bool :=
  let cs := getCore s c
  if hostWaits a then false
  else if a.pieces.any (wantsEntry cs a) then a.pieces.any fun p => wantsEntry cs a p && mseGrant cs (a.id, lineBase p.va)
  else if a.ops.isEmpty then !a.cleared && !opsWait a
  else nextMay s a

/-- An access waits at a line that the home atomic unit holds between its steps 3 and 5 (R311); a store that hits clears all the same, and is
performed later (R439). -/
def partHeld (s : State) (c : Nat) (a : Access) (p : Piece) : Bool :=
  lineHeld s (keyOf s a.asid p.va) && !(a.store && (storeHit (getCore s c) (keyOf s a.asid p.va)).isSome)

/-- A prefetch of a line that no cache of the package can hold is dropped (R262, R266, R411). -/
def prefGone (a : Access) (xs : List Place) : Bool :=
  a.pref && xs.any fun x => match x with
    | .host _ _ | .away _ => true
    | _ => false

/-- An access clears: in the cycle after its issue at the earliest, with every part checked before any takes its place. -/
def clearOne (core id : Nat) (s : State) : Option State :=
  match findAccess s core id with
  | none => none
  | some a =>
    if a.checked then (if goesAfter s core a then some (afterClear s core id) else none)
    else if a.cleared || coreCycle s ≤ a.issuedAt || (getCore s core).occ.isNone then none
    else if a.pieces.any (partHeld s core a) then none
    else match placesOf s (getCore s core) a a.pieces with
      | .error (t, va) => some (clearFails s core a t va (if a.store then .store else if a.ops.isEmpty then .load else .readWrite))
      | .ok xs =>
        if prefGone a xs then some (setCore s core { getCore s core with accesses := (getCore s core).accesses.filter fun b => b.id != a.id })
        else
        let r := settleAll core a (a.pieces.zip xs) s
        let q := if a.store && a.ops.isEmpty then awayStore r.1 core a r.2 else (r.2, a.ops)
        some (afterClear (setCore r.1 core (putAccess (getCore r.1 core) { a with checked := true, pieces := q.1, ops := q.2 })) core id)

/-- Operations of an access of the sequencer that its core has handed over. -/
def seqHanded (s : State) (core id : Nat) : Nat :=
  (s.rou.slots.flatMap fun p => (p.2.out ++ p.2.waitq).filter fun o => o.core == core && o.eng == .seq && o.acc == some id).length

/-- An operation of the sequencer, checked or not, can be handed over in the same cycle as those of this access, and so before them (R306). -/
def seqFirst (s : State) (core : Nat) (a : Access) : Bool := (getCore s core).accesses.any fun b =>
  b.eng == .seq && a.eng != .seq && b.store && (a.store || !a.ops.isEmpty) &&
    b.pieces.any (fun p => isRemoteRoute p.route || isRemoteClass (vaClass s p.va)) &&
    (clearOne core b.id s).any fun t => seqHanded s core b.id < seqHanded t core b.id

/-- An access clears; of two whose operations are handed over in one cycle the sequencer's goes first (R306). -/
def accessClear (core id : Nat) (s : State) : Option State :=
  match findAccess s core id with
  | none => none
  | some a => if seqFirst s core a then none else clearOne core id s

/-- ACCESS_CLEAR: The hub returns translation and permission for a global access, which clears or faults precisely (R247). -/
def execAccessClear (core id : Nat) (s : State) : Out := evOut s (accessClear core id s)

/-! ### Return (R117, R250, R253, R266, R342, R359, R363, R411) -/

/-- Bytes of host memory or of another package for a load. -/
def fillAway (s : State) (p : Piece) : Piece :=
  match p.route with
  | .cached => p
  | .host pa => { p with st := .done, data := (List.range p.n).map fun i => Config.hostByte (pa + i) s.fresh, bad := List.replicate p.n false }
  | .remote pkg =>
    if s.rou.lostPkgs.contains pkg then { p with st := .done, data := List.replicate p.n 0, bad := List.replicate p.n true, lost := true }
    else { p with st := .done, data := remoteData s p.va p.n, bad := remotePoison s p.va p.n }

/-- The data of a load, and its poisoned bytes and those of a lost owner, each at its place. -/
def loadData (ps : List Piece) : Nat × Nat × Nat :=
  ps.foldl (fun r p =>
    let b := packLanes 1 (p.bad.map fun x => if x then 1 else 0)
    (r.1 ||| leNat p.data <<< (8 * p.off), r.2.1 ||| b <<< p.off, if p.lost then r.2.2 ||| b <<< p.off else r.2.2)) (0, 0, 0)

/-- A dispatch packet of 64 bytes (R389). -/
def packetOfBytes (bs : List Byte) : DPacket :=
  let f (o n : Nat) : Nat := leNat ((bs.drop o).take n)
  let h := f 0 4
  { type := h % 256, prio := h / 256 % 8, pmask := h >>> 12 % 8, paired := h.testBit 15, cluster := h.testBit 16, barrier := h.testBit 17,
    resv := h.testBit 11 || h >>> 18 != 0 || f 0x24 28 != 0, code := f 4 4, gangs := f 8 4, teams := f 0xC 2, tokreq := f 0xE 2,
    param := f 0x10 8, signal := f 0x18 8, module := f 0x20 4 }

def nextChild (n : Nat) : Nat := if n ≥ 0xFFFFFFFF then 1 else n + 1

/-- LAUNCH goes on: the child is recorded and submitted, and D receives its number. -/
def submitChild (s : State) (c : Nat) (a : Access) (d : Nat) (bs : List Byte) : State :=
  let cs := getCore s c
  let id := nextChild cs.childId
  let o := cs.occ.getD ⟨0, 0, 0, 0⟩
  let s := { s with disp := { s.disp with children := s.disp.children ++ [(packetOfBytes bs, o.launch, o.gang, o.team, o.half, id)] } }
  endAccess s c a (setReg { cs with childId := id, children := cs.children ++ [{ id := id }] } .seq d { val := BitVec.ofNat 64 id }) []

/-- The command is checked and placed, or its fault is raised (DEDUCED, log entry 33). -/
def placeCommand (s : State) (c : Nat) (a : Access) (q : Nat) (mcast : Bool) (desc : List Byte) (list : List Nat) (post : Option Nat) : State :=
  match descTrap s mcast desc list with
  | some r => faultAccess s c a r
  | none => endAccess s c a (appendCq (getCore s c) q (copyEntry mcast desc list post)) []

/-- CQ.MCAST goes on with the load of its destination list. -/
def loadList (s : State) (c : Nat) (a : Access) (q : Nat) (desc : List Byte) (post : Option Nat) : State :=
  let d := descOf desc
  if d.dst % 8 ≠ 0 then faultAccess s c a { trap := .misaligned, addr := BitVec.ofNat 64 d.dst }
  else if d.n = 0 then placeCommand s c a q true desc [] post
  else setCore s c (putAccess (getCore s c) { a with cleared := false, checked := false, issuedAt := coreCycle s, dst := .cqList q desc post,
                                                     pieces := piecesOf [⟨d.dst, 8 * d.n, 0⟩] })

/-- The data of a load that has all its parts goes to its destination; an acquiring load acquires then. -/
def loadEnds (s : State) (c : Nat) (a : Access) (ps : List Piece) : State :=
  let r := loadData ps
  let n := (ps.map fun p => p.off + p.n).foldl max 0
  let bs := leBytes n r.1
  let poisoned (k : State) : State :=
    match loadTag r.2.1 r.2.2 with
    | some t => faultAccess s c a { trap := causeTrap t, cause := t.code }
    | none => k
  match a.dst with
  | .launch d => poisoned (submitChild s c a d bs)
  | .cqDesc q mcast post => poisoned (if mcast then loadList s c a q bs post else placeCommand s c a q false bs [] post)
  | .cqList q desc post => poisoned (placeCommand s c a q true desc (listAddrs (descOf desc).n bs) post)
  | _ =>
    let x := deliver (getCore s c) a.dst r.1 r.2.1 r.2.2
    endAccess s c a (if a.acq then acquire x.1 else x.1) x.2

/-- The data of a load from another package have come: the package has been heard of (R364). -/
def hearPiece (s : State) (p : Piece) : State :=
  match p.route with
  | .remote pkg => if p.st == .done || s.rou.lostPkgs.contains pkg then s else hear s pkg
  | _ => s

/-- A request to host memory is not over 50 ms old (R411). -/
def hostInTime (s : State) (a : Access) : Bool := s.time < 2 * a.issuedAt + 50 * msec

/-- The last data of a load returns. Parts in another package return once the access has cleared; parts in host memory clear the
access when they return (DEDUCED, log entry 33). -/
def loadReturn (core id : Nat) (s : State) : Option State :=
  match findAccess s core id with
  | none => none
  | some a =>
    if a.store || a.pref || !a.ops.isEmpty || ((getCore s core).pend.any fun p => p.flight == a.flight) || !(a.cleared || a.checked) then none
    else
      let host := a.pieces.any fun p => match p.route with | .host _ => p.st != .done | _ => false
      if host && !(s.fw.linkUp && hostInTime s a) then none
      else
        let ps := a.pieces.map fun p => if p.st == .done then p else fillAway s p
        let s1 := if ps = a.pieces then s else { (a.pieces.foldl hearPiece s) with fresh := s.fresh + 1 }
        let b := { a with pieces := ps }
        if ps.all fun p => p.st == .done then some (loadEnds (setCore s1 core (putAccess (getCore s1 core) b)) core b ps)
        else if host then some (afterClear (setCore s1 core (putAccess (getCore s1 core) b)) core id)
        else none

/-- LOAD_RETURN: Data of a global load returns and the load retires (R250). -/
def execLoadReturn (core id : Nat) (s : State) : Out := evOut s (loadReturn core id s)

/-! ### The host aperture (R411) (DEDUCED, log entry 34) -/

def hostPart (p : Piece) : Option Nat := match p.route with
  | .host pa => if p.st == .done then none else some pa
  | _ => none

/-- An earlier store of the core that goes to the aperture, or may yet turn out to (R411). -/
def apertureBefore (b : Access) : Bool := b.store && b.pieces.any fun p => (hostPart p).isSome || (!b.checked && p.route == .cached)

/-- A store to the aperture is delivered: it is performed, in the order of issue of its core's stores. -/
def apertureStore (core id : Nat) (s : State) : Option State :=
  match findAccess s core id with
  | none => none
  | some a =>
    let before := (getCore s core).accesses.takeWhile fun b => b.id != id
    if !a.store || a.cleared || !s.fw.linkUp || !hostInTime s a || !(a.pieces.any fun p => (hostPart p).isSome) || before.any apertureBefore
    then none
    else
      let out := a.pieces.filterMap fun p => (hostPart p).map fun pa => (pa, p.data)
      let ps := a.pieces.map fun p => if (hostPart p).isSome then { p with st := .done } else p
      let s := { s with fw := { s.fw with hostOut := out.reverse ++ s.fw.hostOut } }
      some (afterClear (setCore s core (putAccess (getCore s core) { a with pieces := ps })) core id)

/-- APERTURE_STORE_DELIVERED: The Slate link delivers a core store to the host aperture, and the store becomes performed (R411). -/
def execApertureStoreDelivered (core id : Nat) (s : State) : Out := evOut s (apertureStore core id s)

/-- A request that the host does not complete within 50 ms ends with BUS_ERROR (DEDUCED, log entry 34). -/
def slateTimeout (core id : Nat) (s : State) : Option State :=
  match findAccess s core id with
  | none => none
  | some a =>
    match a.pieces.findSome? fun p => (hostPart p).map fun pa => (p.va, pa) with
    | none => none
    | some (va, pa) =>
      if s.time ≥ 2 * a.issuedAt + 50 * msec then
        some (logHub (if isSpec a.dst then specFails s core a else faultAccess s core a { trap := .busError, addr := BitVec.ofNat 64 va })
          0x0811 [(8, pa), (1, if a.store then 1 else 0)])
      else none

/-- SLATE_TIMEOUT: A host-aperture request not completed in 50 ms ends with BUS_ERROR (R411). -/
def execSlateTimeout (core id : Nat) (s : State) : Out := evOut s (slateTimeout core id s)

/-! ### Code lines (R58, R60) -/

/-- Lines of a launch's code segment. -/
def codeLines (s : State) (cs : CoreSt) : Option Nat := (launchOf s cs).bind fun l => l.var.map (·.lines)

/-- The 64 bytes of a code line at its home, and the state after its LLC fill with value 0 (R267) (DEDUCED, log entry 35). -/
def codeBytes (s : State) (c asid va : Nat) (x : Xlate) : Try (State × List Byte) :=
  let key := keyOf s asid va
  let s := fillLine s key x.pa (permBits x) 0 (some (c / 48))
  match getLine s key with
  | none => .error .wait
  | some l => (homePeek s l).map fun d => (s, lineBytes d.1 (va % 128) 64)

/-- The 64 bytes of a code line in host memory. -/
def hostLine (s : State) (pa : Nat) : List Byte := (List.range 64).map fun i => Config.hostByte (pa + i) s.fresh

/-- The request of a stream for a code line of host memory or of another package. -/
def codeAskOf (st : Stream) (va : Nat) : Option LoadAsk := st.codeAsk.filter fun a => a.va == va
def setAsk (s : State) (c : Nat) (e : Engine) (a : Option LoadAsk) : State :=
  setCore s c ((getCore s c).setStream e { (getCore s c).stream e with codeAsk := a })
def newAsk (s : State) (e : Engine) (va : Nat) : Option LoadAsk := some { va := va, n := 64, firstAt := s.time, sentAt := s.time, who := engCode e }

/-- A line enters an instruction memory of 1,024 lines; from a full one the lowest-numbered line leaves, since R60 gives no replacement rule
(DESIGN CHOICE, log entry 38). -/
def putCode (cs : CoreSt) (e : Engine) (line : Nat) (bs : List Byte) : CoreSt :=
  let m := cs.imem e
  (cs.setStream e { cs.stream e with codeAsk := none }).setImem e (mset (if m.length < 1024 then m else m.drop 1) line (BitVec.ofNat 512 (leNat bs)))

/-- An engine that stands at a line it does not hold reads it from the LLC, or asks its home in another package or in host memory for it (R363, R411); a fetch that fails is reported at the entry (DEDUCED, log
entry 35). The model never reads ahead along NEXT or a branch target, which R61 lets an engine do (DESIGN CHOICE, log entry 67). -/
def lineFetch (core : Nat) (e : Engine) (s : State) : Option State :=
  let cs := getCore s core
  let st := cs.stream e
  match st.pc with
  | .fin => none
  | .pos line _ =>
    if !runnable s core e || (mget (cs.imem e) line).isSome then none
    else
      let va := ((launchOf s cs).map (·.codeBase)).getD 0 + 64 * line
      let ask := codeAskOf st va
      let bad (t : Trap) : State :=
        let s := if st.codeAsk.isNone then s else setAsk s core e none
        match t with
        | .pageMissing | .pageMoving => haltStream s core e { trap := t, asid := (keyOf s (asidOf s cs) va).asid, va := va, kind := .fetch } st.waitDone st.pc
        | _ => raiseTrap s core e { trap := t, addr := BitVec.ofNat 64 va } st.waitDone st.pc
      if ((codeLines s cs).map fun n => decide (n ≤ line)) = some true then some (bad .pageMissing)
      else match vaClass s va with
        | .remote p =>
          if s.rou.lostPkgs.contains p then some (setCore s core (putCode cs e line (List.replicate 64 0)))
          else if ask.isNone then some (sendPacket (setAsk s core e (newAsk s e va)) (.load p va 64))
          else some (setCore { hear s p with fresh := s.fresh + 1 } core (putCode cs e line (remoteData s va 64)))
        | _ =>
          match reach s (asidOf s cs) va .fetch with
          | .error t => some (bad t)
          | .ok (s1, x, .host) =>
            match hostAsk s ask with
            | .made => some (setAsk s1 core e (newAsk s e va))
            | .waits => none
            | .late => some (logTimeout (bad .busError) x.pa false)
            | .here => some (setCore { s1 with fresh := s1.fresh + 1 } core (putCode (getCore s1 core) e line (hostLine s1 x.pa)))
          | .ok (s1, x, _) =>
            tried s ((codeBytes s1 core (asidOf s cs) va x).map fun r => setCore r.1 core (putCode (getCore r.1 core) e line r.2))

/-- LINE_FETCH: A code line missing in the instruction memory arrives from the LLC (R60). -/
def execLineFetch (core : Nat) (e : Engine) (s : State) : Out := evOut s (lineFetch core e s)

/-! ### RSP.ST (R243, R259, R260) -/

/-- The oldest RSP.ST on its way to a core is performed in its scratchpad; for a team that has exited it is discarded. All its blocks are
written in one step (R243) (DESIGN CHOICE, log entry 70); those of different cores arrive in the order of their issue, which R261 leaves open
(DESIGN CHOICE, log entry 72). -/
def rspWrite (target : Nat) (s : State) : Option State :=
  let cs := getCore s target
  match cs.rspIn with
  | [] => none
  | (_, off, d) :: t =>
    let cs := { cs with rspIn := t }
    some (setCore s target (if cs.occ.isSome then spmWrite cs off (vecBytes d.toNat 512) else cs))

/-- INCOMING_RSP_ST_WRITE: The 512 bytes of an RSP.ST arrive at the target core and are performed in its scratchpad at incoming-write precedence (R259). -/
def execIncomingRspStWrite (target : Nat) (s : State) : Out := evOut s (rspWrite target s)

/-! ### Errors in register state (R374) -/

def queueOfCode : Nat → QName
  | 0 => .qsMem | 1 => .qsVec | 2 => .qsMtx | _ => .qr
def dqOfCode (n : Nat) : QName := if n < 4 then .lq n else .sq (n - 4)

/-- A value struck by an uncorrectable error: lost bits and a tag of cause 1. -/
def strikeS (s : State) (v : SVal) : SVal := { val := BitVec.ofNat 64 (struck s 64), tag := some .memory }

def regError (core : Nat) (w : RegErr) (s : State) : Option State :=
  let cs := getCore s core
  let put (cs : CoreSt) : Option State := some (usedFresh (setCore s core cs))
  match w with
  | .scalar e n =>
    if n ≤ lastScalar e && !isZeroReg e n then put (setReg cs e n (strikeS s (readReg (cs.stream e) e n))) else none
  | .scalarQueue q i =>
    match (getSq cs (queueOfCode q))[i]? with
    | some x => if x.val.isSome then put (setSq cs (queueOfCode q) ((getSq cs (queueOfCode q)).set i { x with val := x.val.map (strikeS s) })) else none
    | none => none
  | .vgran r g => if r < 384 && g < 64 then put (writeV cs r (poisonGran (struck s 64) (readV cs r) g)) else none
  | .dqgran q i g =>
    match (getDq cs (dqOfCode q))[i]? with
    | some ⟨some v, f⟩ => if g < 64 && q < 6 then put (setDq cs (dqOfCode q) ((getDq cs (dqOfCode q)).set i ⟨some (poisonGran (struck s 64) v g), f⟩)) else none
    | _ => none
  | .mask n => if 1 ≤ n && n < 16 then put (writeMask cs n { bits := BitVec.ofNat 512 (struck s 512), tag := some .memory }) else none

/-- REGISTER_UNCORRECTABLE_ERROR: An uncorrectable error in a scalar register, scalar queue entry, vector granule or mask sets its poison tag with cause 1 (R374). -/
def execRegisterUncorrectableError (core : Nat) (w : RegErr) (s : State) : Out := evOut s (regError core w s)

/-- An error in state that has no tag stops the team. -/
def stateEcc (core : Nat) (s : State) : Option State :=
  if (getCore s core).occ.isSome && (getCore s core).run != .stopped then some (teamEvent s core .seq .stateEcc) else none

/-- STATE_ECC: An uncorrectable error in control state raises a team-level event (R374). -/
def execStateEcc (core : Nat) (s : State) : Out := evOut s (stateEcc core s)

/-! ### Shoot-downs (R276, R277) -/

def inShoot (h : Shoot) (k : LineKey) : Bool := k.asid == h.asid && overlaps k.va 128 h.base h.len

/-- A shoot-down begins: DONE is cleared and the range leaves every TLB; a UNMAP recalls the host's copies. -/
def shootStart (mode : ShootMode) (s : State) : State :=
  if !s.hub.shootDone then s
  else
    let h : Shoot := { mode := mode, asid := s.hub.shootAsid.toNat % 65536, base := s.hub.shootBase.toNat, len := s.hub.shootLen.toNat }
    let tlb := s.hub.tlb.filter fun t => !(t.asid == h.asid && overlaps t.base t.size h.base h.len)
    let s := { s with hub := { s.hub with shootDone := false, shoot := some h, tlb := tlb } }
    if mode = .unmap then
      (s.hub.llc.filter fun l => inShoot h l.key && l.host != .hi).foldl (fun s l => (submitReq s l.key recallReq).getD s) s
    else s

/-- A part of an access that has used a translation and has not been performed. -/
def partOpen (p : Piece) : Bool := p.st != .done && match p.route with
  | .cached => p.xpa.isSome
  | .host _ => true
  | .remote _ => false

/-- An access that has used a translation of the range is still under way, at a line, on its way to host memory, or staged at the home atomic
unit. -/
def shootBusy (s : State) (h : Shoot) : Bool :=
  (s.cores.any fun c =>
    (c.2.accesses.any fun a => a.pieces.any fun p => partOpen p && inShoot h (keyOf s a.asid p.va)) || c.2.wbOut.any fun w => inShoot h w.key) ||
  s.rou.entries.any fun e => e.st == .executing && (e.hostPa.isSome || (e.journaled && e.status == .done)) && inShoot h (keyOf s e.packet.asid e.packet.va)

/-- What a shoot-down does to a line of the LLC. -/
def shootLine (mode : ShootMode) (s : State) (l : LlcLine) : State :=
  match mode with
  | .inval => dropLine s l.key
  | .unmap => dropOut s l
  | .wrprotect =>
    let r := pullOwners s l
    putLine (if r.2.dirty then storeLine r.1 r.2.pa r.2.data r.2.poison else r.1) { r.2 with w := false, dirty := false }

/-- What it does to the lines of an L1. -/
def shootL1 (h : Shoot) (cs : CoreSt) : CoreSt :=
  match h.mode with
  | .wrprotect => { cs with l1 := cs.l1.map fun l => if inShoot h l.key then { l with w := false } else l }
  | _ => { cs with l1 := cs.l1.filter fun l => !inShoot h l.key }

/-- A line of the range that the host holds, and that UNMAP is to recall: its copy may have come after the shoot-down began (R277). -/
def shootRecall (s : State) (h : Shoot) (ls : List LlcLine) : Option LlcLine :=
  if h.mode = .unmap then ls.find? fun l => l.host != .hi && lineQuiet s l && (arriveAt s l recallReq).isSome else none

/-- The shoot-down recalls what the host still holds; then it acts on the lines and sets DONE, once every access that used a removed translation has
been performed. -/
def shootDone (s : State) : Option State :=
  match s.hub.shoot with
  | none => none
  | some h =>
    let ls := s.hub.llc.filter fun l => inShoot h l.key
    if let some l := shootRecall s h ls then submitReq s l.key recallReq
    else if shootBusy s h || ls.any (fun l => !lineQuiet s l || (h.mode == .unmap && l.host != .hi)) then none
    else
      let s := ls.foldl (shootLine h.mode) s
      some { s with cores := s.cores.map fun (c : Nat × CoreSt) => (c.1, shootL1 h c.2), hub := { s.hub with shootDone := true, shoot := none } }

/-- SHOOTDOWN_DONE: Every access using a removed translation has completed and DONE is set (R277). -/
def execShootdownDone (s : State) : Out := evOut s (shootDone s)

/-! ### DRAM that is gone, or that firmware takes (R13, R376, R384) -/

/-- Parts of accesses whose lines are gone with the DRAM of their home end with poison. -/
def endPieces (gone : Nat → Bool) (cs : CoreSt) : CoreSt :=
  let f (p : Piece) : Piece :=
    if p.route == .cached && p.st != .done && p.xpa.any (fun x => gone x.1) then
      { p with st := .done, data := List.replicate p.n 0, bad := List.replicate p.n true }
    else p
  dropDone { cs with accesses := cs.accesses.map fun a => { a with pieces := a.pieces.map f }, l1 := cs.l1.filter fun l => !gone l.pa }

/-- Lines of DRAM that is gone leave every cache. -/
def dropHomed (gone : Nat → Bool) (s : State) : State :=
  { s with hub := { s.hub with llc := s.hub.llc.filter fun l => !gone l.pa }, cores := s.cores.map fun (p : Nat × CoreSt) => (p.1, endPieces gone p.2) }

end Sys2Proof.Machine
end

