-- ==== Sys2Proof/Machine/Place.lean ====
section
/-! DEFINITION. Placement: usable cores, targets, fitting a gang onto cores, and the run lists of the stack schedulers (R97, R105 to R107, R114, R395, R396). -/

namespace Sys2Proof.Machine

/-! ### Launches and gangs -/

def setLaunch (s : State) (n : Nat) (l : Launch) : State := { s with disp := { s.disp with launches := mset s.disp.launches n l } }
/-- A team that has exited, or was killed, takes no slot. -/
def Team.over (t : Team) : Bool := match t.st with
  | .exited _ | .dead => true
  | _ => false
def Team.onCore (t : Team) : Option Nat := match t.st with
  | .placed c | .resident c => some c
  | _ => none
def Gang.left (g : Gang) : List (Nat × Team) := (g.teams.mapIdx fun i t => (i, t)).filter fun p => !p.2.over
def Gang.isResident (g : Gang) : Bool := g.teams.any fun t => match t.st with
  | .resident _ => true
  | _ => false

/-- Bank groups of the launch's row region (R94, R219). -/
def Launch.groups (l : Launch) : Nat := (l.var.map (·.bgmask)).getD 0

/-- A gang named by its launch and its index. -/
structure GangRef where
  launch : Nat
  gang : Nat
  deriving DecidableEq, Repr

/-- The launch's number goes with it. -/
def allGangs (s : State) : List (GangRef × Launch × Gang) :=
  s.disp.launches.flatMap fun p => p.2.gangs.mapIdx fun i g => (⟨p.1, i⟩, p.2, g)

/-! ### Cores (R10, R97, R105 to R107, R291) -/

/-- A core that a team of a launch occupies or has been placed on. -/
def coreTaken (s : State) (c : Nat) : Bool :=
  (getCore s c).occ.isSome || s.disp.scheds.any fun p => p.2.runList.any fun r =>
    r.1 == c || (r.1 == pairOf c && (((mget s.disp.launches r.2.1).map (·.pkt.paired)).getD false))

/-- A core that another gang has reserved. -/
def reservedElse (s : State) (r : GangRef) (c : Nat) : Bool :=
  (allGangs s).any fun x => x.1 != r && x.2.2.reserved.contains c

/-- A shard in state `st` has the bank group and the launch does not need its image: once it is VALID no ALLOT for the launch switches the group
(R415). -/
def shardIn (st : ShardSt) (s : State) (l : Launch) (c g : Nat) : Bool :=
  s.fw.shards.any fun h => h.pkg == s.pkg && h.core == c && h.bgmask.testBit g && h.st == st &&
    !(h.module == l.module && (l.var.any fun v => v.flags.testBit 2 && v.wimage == h.image))
def shardHolds (s : State) (l : Launch) (c g : Nat) : Bool := shardIn .valid s l c g

/-- A shard of the launch's own image fills the bank group and is neither VALID nor LOADING: the group stays in line mode (R415). -/
def shardOut (s : State) (l : Launch) (c g : Nat) : Bool :=
  s.fw.shards.any fun h => h.pkg == s.pkg && h.core == c && h.bgmask.testBit g && h.st != .valid && h.st != .loading &&
    h.module == l.module && l.var.any fun v => v.flags.testBit 2 && v.wimage == h.image

/-- No ALLOT for the launch switches the bank group (R415). -/
def shardBars (s : State) (l : Launch) (c g : Nat) : Bool := shardHolds s l c g || shardOut s l c g

/-- A physical address of a bank group. -/
def inGroup (c g pa : Nat) : Bool := pa < 2 ^ 40 && paCore pa == some c && paBgrp pa == g

/-- The journal lies in the bank group, which stays in line mode (R314) (DESIGN CHOICE, log entry 6). -/
def journalIn (s : State) (c g : Nat) : Bool := s.fw.kept.any fun r => inGroup c g r.1 || inGroup c g r.2

/-- Every bank group of the launch is in line mode on the core, or allotted to the launch (R107); the groups of a LOADING or VALID shard serve only
launches that need its image (R415). -/
def groupsFree (s : State) (l : Launch) (c launch : Nat) : Bool :=
  (List.range 16).all fun g => !l.groups.testBit g || (match rowMode s c g with | none => !shardBars s l c g && !shardIn .loading s l c g && !journalIn s c g | some n => n == launch)

/-- Another cluster-resident gang is on the cluster (R291). -/
def clusterHeld (s : State) (r : GangRef) (k : Nat) : Bool :=
  (allGangs s).any fun x => x.1 != r && x.2.1.pkt.cluster && x.2.2.teams.any fun t => match t.onCore with
    | some c => c / 8 == k
    | none => false

/-- A launch that needs a weight image is usable only on a core that a VALID shard of the image names (R415). -/
def imageCore (s : State) (l : Launch) (c : Nat) : Bool :=
  match l.var with
  | some v => !v.flags.testBit 2 || s.fw.shards.any fun h =>
      h.module == l.module && h.image == v.wimage && h.pkg == s.pkg && h.core == c && h.st == .valid
  | none => true

/-- The physical core behind a package core number: the built core that enumeration has mapped there, and before any, the one of the number itself
with the spares that have replaced it (R10, R13, R401). -/
def physCore (s : State) (c : Nat) : Nat := (mget s.fw.builtCore c).getD (64 + 48 * mgetD 0 s.fw.sparesUsed c + c % 48)

/-- The physical cores of a team's place. -/
def placeGen (s : State) (paired : Bool) (c : Nat) : Nat := physCore s c + if paired then 2 ^ 16 * (physCore s (pairOf c) + 1) else 0

/-- The number that a pinned team's physical cores have now in their stack, or a number that no core has when none has them: the team returns to its
physical core only (R10, R106, R407). -/
def livePin (s : State) (paired : Bool) (t : Team) : Team :=
  { t with pin := t.pin.map fun c =>
      if placeGen s paired c = t.pinGen then c
      else (((List.range 48).map (48 * (c / 48) + ·)).find? fun d => (!paired || d % 2 == c % 2) && placeGen s paired d == t.pinGen).getD 384 }

/-- One core that a gang may use, whoever occupies it. -/
def usableCore (s : State) (r : GangRef) (l : Launch) (g : Gang) (target : Option Nat) (c : Nat) : Bool :=
  c < 384 && coreInService s c && !(stackUnit s (c / 48)).leaving && groupsFree s l c r.launch && imageCore s l c &&
    (!l.pkt.cluster || !clusterHeld s r (c / 8)) &&
    (match target with | none => true | some k => c / 8 == k) &&
    ((g.left.all fun p => p.2.pin.isNone && p.2.leftStack.isNone) || g.left.any fun p => match (livePin s l.pkt.paired p.2).pin, p.2.leftStack with
      | some q, _ => c == q || (l.pkt.paired && c == pairOf q)
      | none, some k => c / 48 == k
      | none, none => false)

/-- The place of a team: one core, or the leader of a pair whose cores are both usable. -/
def usable (s : State) (r : GangRef) (l : Launch) (g : Gang) (target : Option Nat) (c : Nat) : Bool :=
  usableCore s r l g target c && (!l.pkt.paired || usableCore s r l g target (pairOf c))

def freeFor (s : State) (r : GangRef) (c : Nat) : Bool := !coreTaken s c && !reservedElse s r c

/-- Cores in ascending order that a gang can use now; `more` are cores that count as free. -/
def openCores (s : State) (r : GangRef) (l : Launch) (g : Gang) (target : Option Nat) (more : List Nat) : List Nat :=
  (List.range 384).filter fun c =>
    let ok (c : Nat) : Bool := (freeFor s r c || more.contains c) && !reservedElse s r c
    usable s r l g target c && ok c && (!l.pkt.paired || ok (pairOf c))

/-! ### Choice of cores (R395) -/

/-- Stacks by the number of cores in a list, most first, the lower-numbered first among equals (DEDUCED, log entry 43). -/
def rankStacks (cores : List Nat) : List Nat :=
  let n (k : Nat) : Nat := (cores.filter fun c => c / 48 == k).length
  (List.range 8).foldl (fun acc k => (acc.takeWhile fun j => n j ≥ n k) ++ [k] ++ acc.dropWhile fun j => n j ≥ n k) []

/-- The core that a team takes: its own when it is pinned, one of the stack it left, or the first stack of the ranking that has one. -/
def teamCore (paired : Bool) (rank cores : List Nat) (t : Team) : Option Nat :=
  let lead := if paired then cores.filter fun c => c % 2 == 0 && cores.contains (pairOf c) else cores
  match t.pin, t.leftStack with
  | some c, _ => lead.find? (· == c)
  | none, some k => lead.find? fun c => c / 48 == k
  | none, none => (rank.findSome? fun k => lead.find? fun c => c / 48 == k)

/-- Cores for the teams in ascending order; none when some team finds none. -/
def assign (paired : Bool) (rank : List Nat) : List Nat → List (Nat × Team) → Option (List (Nat × Nat))
  | _, [] => some []
  | cores, (i, t) :: rest =>
    match teamCore paired rank cores t with
    | none => none
    | some c =>
      let cores := cores.filter fun d => d != c && !(paired && d == pairOf c)
      (assign paired rank cores rest).map fun x => (i, c) :: x

/-- The cluster with the most open cores, the lowest-numbered among equals. -/
def bestCluster (cores : List Nat) : Nat :=
  let n (k : Nat) : Nat := (cores.filter fun c => c / 8 == k).length
  (List.range 48).foldl (fun b k => if n k > n b then k else b) 0

/-- The teams of a gang that need a place, with the cores to which they are pinned now. -/
def toPlace (s : State) (l : Launch) (g : Gang) : List (Nat × Team) := g.left.map fun p => (p.1, livePin s l.pkt.paired p.2)

/-- The ranking of the stacks by usable cores, free or not (DEDUCED, log entry 43). -/
def rankOf (s : State) (r : GangRef) (l : Launch) (g : Gang) : List Nat := rankStacks ((List.range 384).filter (usable s r l g g.target))

/-- The cores on which a gang fits wholly, if it does. -/
def fit (s : State) (r : GangRef) (l : Launch) (g : Gang) (more : List Nat) : Option (List (Nat × Nat)) :=
  let all := openCores s r l g g.target more
  let cores := if l.pkt.cluster then let k := g.target.getD (bestCluster all); all.filter fun c => c / 8 == k else all
  assign l.pkt.paired (rankOf s r l g) cores (toPlace s l g)

/-- The target of a cluster-resident gang: the cluster with the most usable cores, free or not; none while no cluster that counts for it has one
(DEDUCED, log entry 43). -/
def pickTarget (s : State) (r : GangRef) (l : Launch) (g : Gang) : Option Nat :=
  let cores := (List.range 384).filter (usable s r l g none)
  if l.pkt.cluster && !cores.isEmpty then some (bestCluster cores) else none

/-- The gang could be placed on the cores in service (R97, R390). -/
def couldFit (s : State) (l : Launch) : Bool :=
  let n := (List.range 384).filter fun c => coreInService s c && (!l.pkt.paired || coreInService s (pairOf c))
  let need := if l.pkt.paired then 2 * l.pkt.teams else l.pkt.teams
  if l.pkt.cluster then (List.range 48).any fun k => need ≤ (n.filter fun c => c / 8 == k).length else need ≤ n.length

/-! ### Placement (R395, R396) -/

def getSched (s : State) (k : Nat) : Scheduler := mgetD {} s.disp.scheds k
def setSched (s : State) (k : Nat) (x : Scheduler) : State := { s with disp := { s.disp with scheds := mset s.disp.scheds k x } }

/-- A placement round is to run (R105). -/
def callRound (s : State) : State := { s with disp := { s.disp with roundDue := true } }

/-- A team placed and not started leaves the run list. -/
def unplace (s : State) (l g : Nat) : State :=
  let s := updGang s l g fun x => { x with teams := x.teams.map fun t => match t.st with
    | .placed _ => { t with st := if t.started then .saved else .waiting }
    | _ => t }
  { s with disp := { s.disp with scheds := s.disp.scheds.map fun (p : Nat × Scheduler) =>
      (p.1, { p.2 with runList := p.2.runList.filter fun r => !(r.2.1 == l && r.2.2.1 == g) }) } }

/-- The teams of a gang are placed: they enter the run lists of their stacks, and a team of a launch with a row region is pinned to the core
on which it is first placed (R106). -/
def placeGang (s : State) (r : GangRef) (at' : List (Nat × Nat)) : State :=
  let pins := ((mget s.disp.launches r.launch).map fun l => l.groups != 0).getD false
  let gen (c : Nat) : Nat := placeGen s (((mget s.disp.launches r.launch).map (·.pkt.paired)).getD false) c
  let s := updGang s r.launch r.gang fun g =>
    { g with waiting := false, reserved := [], target := none, asleep := false,
             teams := g.teams.mapIdx fun i t => match at'.find? fun p => p.1 == i with
               | some p => { t with st := .placed p.2, placedAt := s.time, pin := if pins then some p.2 else t.pin, pinGen := if pins && t.pin.isNone then gen p.2 else t.pinGen }
               | none => t }
  at'.foldl (fun s p =>
    let k := p.2 / 48
    let x := getSched s k
    setSched s k { x with runList := x.runList ++ [(p.2, r.launch, r.gang, p.1)] }) s

/-- The gang takes part in placement: it waits, its image is ready, no drain holds it back, and a gang that sleeps in MWAIT has
been woken (R113, R301, R390). -/
def recordWakes (s : State) (r : Record) : Bool :=
  (recNat r 7 1).testBit 3 || (recNat r 0x28 8 != 0 && recNat r 0x28 8 ≤ s.time)
def wakened (s : State) (r : GangRef) : Bool := s.fw.records.any fun x => x.occ.launch == r.launch && x.occ.gang == r.gang && recordWakes s x

def inOrder (s : State) (r : GangRef) (l : Launch) (g : Gang) : Bool :=
  g.waiting && !g.swap && !g.left.isEmpty && !l.heldImage && l.killed.isNone && l.draining.isEmpty && (!g.asleep || wakened s r)

/-- x stands before y in placement order. -/
def before (x y : GangRef × Launch × Gang) : Bool :=
  let k (z : GangRef × Launch × Gang) : List Nat := [7 - z.2.1.prio, 2 ^ 32 - z.2.2.age, z.1.launch, z.1.gang]
  k x < k y

def insertGang (x : GangRef × Launch × Gang) : List (GangRef × Launch × Gang) → List (GangRef × Launch × Gang)
  | [] => [x]
  | y :: t => if before x y then x :: y :: t else y :: insertGang x t

/-- The waiting gangs in placement order: class, age, launch number, gang index. -/
def placementOrder (s : State) : List (GangRef × Launch × Gang) :=
  ((allGangs s).filter fun x => inOrder s x.1 x.2.1 x.2.2).foldl (fun acc x => insertGang x acc) []

/-- Cores that the teams of a gang occupy or have been placed on. -/
def gangSlots (l : Launch) (g : Gang) : List Nat :=
  g.teams.flatMap fun t => match t.onCore with
    | some c => if l.pkt.paired then [c, pairOf c] else [c]
    | none => []

def getLaunch (s : State) (n : Nat) : Option Launch := mget s.disp.launches n

/-! ### Reservation and placement (R105, R395) -/

/-- The gang's reserved cores suffice: it is placed on them. -/
def placeReserved (s : State) (r : GangRef) : State :=
  match getLaunch s r.launch, getGang s r.launch r.gang with
  | some l, some g =>
    match assign l.pkt.paired (rankOf s r l g) ((List.range 384).filter fun c => g.reserved.contains c && usable s r l g g.target c) (toPlace s l g) with
    | some cs => placeGang s r cs
    | none => s
  | _, _ => s

/-- Every free, unreserved core that the gang can use is reserved for it. -/
def reserveFree (s : State) (r : GangRef) : State :=
  match getLaunch s r.launch, getGang s r.launch r.gang with
  | some l, some g =>
    let t := match g.target with
      | some k => some k
      | none => pickTarget s r l g
    let g := { g with target := t }
    let add := (List.range 384).filter fun c => usable s r l g t c && freeFor s r c && !g.reserved.contains c
    setGang s r.launch r.gang { g with reserved := g.reserved ++ add }
  | _, _ => s

def reserveAndPlace (s : State) (r : GangRef) : State := placeReserved (reserveFree s r) r

def stillWaits (s : State) (r : GangRef) : Bool := ((getGang s r.launch r.gang).map (·.waiting)).getD false

/-- A gang that fits wholly on free cores, unreserved or its own, is placed there; not when its launch has begun to drain. -/
def placeIfFits (s : State) (r : GangRef) : State :=
  match getLaunch s r.launch, getGang s r.launch r.gang with
  | some l, some g =>
    if !inOrder s r l g then s
    else match fit s r l g [] with
      | some cs => placeGang s r cs
      | none => s
  | _, _ => s

/-- Drains end in the first round in which no gang of the newcomer waits (R113) (DEDUCED, log entry 47). -/
def endDrains (s : State) : State :=
  let waits (n : Nat) : Bool := match getLaunch s n with
    | some l => l.killed.isNone && l.gangs.any fun g => g.waiting && !g.left.isEmpty
    | none => false
  { s with disp := { s.disp with launches := s.disp.launches.map fun (p : Nat × Launch) => (p.1, { p.2 with draining := p.2.draining.filter waits }) } }

/-- The oldest gang: the first in order among those of the highest age. -/
def oldest : List (GangRef × Launch × Gang) → Option (GangRef × Launch × Gang)
  | [] => none
  | x :: t => match oldest t with
    | some y => if x.2.2.age < y.2.2.age then some y else some x
    | none => some x

/-- The part of a round that places gangs: the head reserves and is placed, the oldest gang too while the age limit is in force, `act` is what
Quartz does on behalf of the head, and then every other gang is placed that fits (R105, R395). -/
def placePart (act : GangRef → State → State) (s : State) : State :=
  let order := placementOrder s
  match order, oldest order with
  | h :: _, some o =>
    let limit : Bool := s.disp.agelim ≤ o.2.2.age
    let s := reserveAndPlace s h.1
    let s := if limit && o.1 != h.1 then reserveAndPlace s o.1 else s
    let s := act h.1 s
    let rest := order.filter fun g => !(g.1 == h.1 || (limit && g.1 == o.1) || (limit && g.2.1.prio ≤ o.2.1.prio))
    rest.foldl (fun s g => placeIfFits s g.1) s
  | _, _ => s

/-! ### What a round would place if a gang left its cores (R109, R120, R301) -/

/-- The package as it would be if the gang had been swapped out: its slots are free, and it waits with age 0, or sleeps. -/
def ifFreed (s : State) (r : GangRef) (asleep : Bool) : State :=
  let gone (t : Team) : Team := match t.st with
    | .resident c => { t with st := .saved, leftStack := some (c / 48) }
    | .placed c => { t with st := if t.started then .saved else .waiting, leftStack := if t.started then some (c / 48) else t.leftStack }
    | _ => t
  let leave (p : Nat × CoreSt) : Nat × CoreSt :=
    if p.2.occ.any fun o => o.launch == r.launch && o.gang == r.gang then (p.1, { p.2 with occ := none }) else p
  let s := updGang (unplace s r.launch r.gang) r.launch r.gang fun g =>
    { g with teams := g.teams.map gone, waiting := !asleep, asleep := asleep, age := 0, target := none, reserved := [] }
  { s with cores := s.cores.map leave }

/-- No other core than these has a free slot, and no gang holds a reservation elsewhere. -/
def onlySlots (cs : List Nat) (s : State) : State :=
  let s := ((List.range 384).filter fun c => !cs.contains c).foldl (fun s c => setCore s c { getCore s c with occ := some ⟨0, 0, 0, 0⟩ }) s
  { s with disp := { s.disp with launches := s.disp.launches.map fun (p : Nat × Launch) =>
      (p.1, { p.2 with gangs := p.2.gangs.map fun g => { g with reserved := g.reserved.filter cs.contains } }) } }

/-- A gang of at least this class that waits would be placed by a round once the gang had left its cores, and not by one that finds it there
(R109). -/
def makesRoom (s s' : State) (prio : Nat) : Bool :=
  let t := placePart (fun _ s => s) s'
  let t0 := placePart (fun _ s => s) s
  (placementOrder s).any fun x => prio ≤ x.2.1.prio && !stillWaits t x.1 && stillWaits t0 x.1

/-- The resident gangs of a launch that drains run until they retire (R113). -/
def drainsNow (s : State) (r : GangRef) : Bool := ((getLaunch s r.launch).map fun l => !l.draining.isEmpty).getD false

/-- A gang of at least this class that waits now would be placed by a round in that state (DEDUCED, log entry 21). -/
def wouldPlace (s s' : State) (prio : Nat) : Bool :=
  let t := placePart (fun _ s => s) s'
  (placementOrder s).any fun x => prio ≤ x.2.1.prio && !stillWaits t x.1

/-- The end of a slice: a waiting gang of equal or higher class can then be placed, which finds too few free slots before (R109). -/
def couldReplace (s : State) (r : GangRef) : Bool :=
  !(placementOrder s).isEmpty && !drainsNow s r && makesRoom s (ifFreed s r false) (((getLaunch s r.launch).map (·.prio)).getD 0)

/-- YIELD: such a gang can be placed on the slots that the issuing gang would free (R120). -/
def couldYield (s : State) (r : GangRef) : Bool :=
  match getLaunch s r.launch, getGang s r.launch r.gang with
  | some l, some g => !(placementOrder s).isEmpty && !drainsNow s r && wouldPlace s (onlySlots (gangSlots l g) (ifFreed s r false)) l.prio
  | _, _ => false

/-- Sleep in MWAIT: any waiting gang could then be placed (R301). -/
def couldSleep (s : State) (r : GangRef) : Bool := !(placementOrder s).isEmpty && !drainsNow s r && wouldPlace s (ifFreed s r true) 0

end Sys2Proof.Machine
end

