-- ==== Sys2Proof/Machine/Teams.lean ====
section
/-! DEFINITION. The life of a team: start, save, restore, stop, kill and exit, row-region allotment, the watchdog, slices and YIELD (R98 to R104, R109, R113, R119, R120, R220, R221, R240, R301, R366 to R382). -/

namespace Sys2Proof.Machine

/-! ### Cores of a team -/

/-- The cores of a team that stands on core c. -/
def teamCores (paired : Bool) (c : Nat) : List Nat := if paired then [c, pairOf c] else [c]

def launchPaired (s : State) (n : Nat) : Bool := ((mget s.disp.launches n).map (·.pkt.paired)).getD false

/-- A core without a team: what belongs to the core stays. -/
def vacate (cs : CoreSt) : CoreSt :=
  { inService := cs.inService, l1 := cs.l1, inbox := cs.inbox, wbOut := cs.wbOut, rvkOut := cs.rvkOut, fwdOut := cs.fwdOut, banks := cs.banks,
    actTimes := cs.actTimes, nextId := cs.nextId, cqSeq := cs.cqSeq }

def mapSlots (s : State) (f : ReqSlot → ReqSlot) : State :=
  { s with rou := { s.rou with slots := s.rou.slots.map fun (p : Nat × ReqSlot) => (p.1, f p.2) } }

/-- Slots of a requester. -/
def slotsOf (s : State) (o : Occ) : List Nat := (s.rou.slots.filter fun p => p.2.bound == some o).map (·.1)

/-! ### Saving (R380) -/

/-- Ends of an access in a save: it is forgotten and issues again, also when it has cleared and none of its operations has left; or it goes on
without the core (R320). -/
def accessParks (a : Access) : Bool := !hasLeft a && (!a.cleared || opsWait a)
def accessGoesOn (a : Access) : Bool := hasLeft a

/-- The parts of an access that stay in the package are performed: a save waits for those of an access that goes on (R320). -/
def localDone (a : Access) : Bool := a.pieces.all fun p => isRemoteRoute p.route || p.st == .done

/-- A request of one of the core's copy queues is at a line. -/
def copyAtLine (s : State) (c : Nat) : Bool :=
  let mine (r : LineReq) : Bool := match r with
    | .ioWrite (.copy d _) _ _ _ _ _ | .ioRead (.copy d _) _ => d == c
    | _ => false
  s.hub.llc.any fun l => l.queue.any mine || (match l.st with
    | .rvk _ _ r | .fwd _ r | .hrev _ _ r | .hsi r | .hsn r | .hrc r => mine r
    | .stable => false)

/-- Every RSP.ST of a gang has been performed (R261). -/
def gangRspDone (s : State) (o : Occ) : Bool :=
  s.cores.all fun p => !(p.2.occ.any fun q => q.launch == o.launch && q.gang == o.gang) || p.2.rspIn.isEmpty

/-- Whether in-flight work of a core has ended as far as a save completes it: steps 2 to 5. -/
def saveReady (s : State) (c : Nat) : Bool :=
  let cs := getCore s c
  let open' (f : Flight) : Bool := f.mma.isSome || (cs.pend.any fun p => p.flight == f.id) ||
    cs.accesses.any fun a => a.flight == f.id && (accessParks a || accessGoesOn a)
  cs.flights.all open' && (cs.accesses.all fun a => a.pref || accessParks a || (accessGoesOn a && localDone a)) && cs.rowJobs.isEmpty && cs.rspIn.isEmpty &&
    rspDone s c && !copyAtLine s c && released cs && !mmaEnds s c

/-- The oldest access that has not cleared is forgotten; its engine stands at it. -/
def parkAccess (s : State) (c : Nat) (a : Access) : State :=
  let p := issuePoint s c a
  let s := undoAccess s c a
  let cs := getCore s c
  let s := setCore s c (cs.setStream a.eng { cs.stream a.eng with pc := p.1, waitDone := p.2 })
  mapSlots s fun x => { x with waitq := x.waitq.filter fun o => !(o.core == c && o.acc == some a.id && o.copy.isNone && !o.saved) }

/-- A store or reduction of which some operation has left retires. -/
def retireLeft (s : State) (c : Nat) (a : Access) : State :=
  if !a.store then s
  else match (getCore s c).flights.find? fun f => f.id == a.flight with
    | some f => retireFlight s c f
    | none => s

/-- An instruction that waits inside itself is abandoned at its PC. -/
def unwait (st : Stream) : Stream := { st with waiting := none, entry := none, pending := none }

/-- The operations of a saved team: those that have left, or follow one that has, go on; its copy pieces that have not left do not. -/
def saveOps (c : Nat) (x : ReqSlot) : ReqSlot :=
  let mark (o : RemOp) : RemOp := if o.core = c && !o.discard then { o with saved := true } else o
  { x with out := x.out.map mark, waitq := (x.waitq.filter fun o => !(o.core == c && o.copy.isSome)).map mark }

/-- The operations that had not been handed over go on without the core, after those that had; the copy pieces among them do not (R320). -/
def parkRest (s : State) (c : Nat) : State :=
  let cs := getCore s c
  let mine := s.rou.parked.map fun x => if some x.1 = cs.occ then (x.1, { x.2 with saved := true }) else x
  let rest := ((cs.accesses.filter accessGoesOn).flatMap (·.ops)).map fun o => (cs.occ.getD ⟨0, 0, 0, 0⟩, { o with saved := true })
  { s with rou := { s.rou with parked := (mine.filter fun x => !(some x.1 == cs.occ && x.2.copy.isSome)) ++ rest } }

/-- Steps 2 to 4 of a save on one core. -/
def cutCore (s : State) (c : Nat) : State :=
  let s := match mmaLeader s c with
    | some l => abandonMma s l
    | none => s
  let s := ((getCore s c).accesses.filter fun a => accessParks a && !a.pref).foldl (fun s a => parkAccess s c a) s
  let s := ((getCore s c).accesses.filter accessGoesOn).foldl (fun s a => retireLeft s c a) s
  let s := parkRest s c
  let cs := getCore s c
  let post (p : PendRemote) : PendRemote := { p with post := (cs.flights.find? fun f => f.id == p.flight).bind (·.post) }
  let cs := { cs with pend := cs.pend.map post, flights := [], accesses := [], seq := unwait cs.seq, mem := unwait cs.mem, vec := unwait cs.vec,
                      mtx := unwait cs.mtx, cq0 := cs.cq0.map cutEntry, cq1 := cs.cq1.map cutEntry, held := false, pairPend := none }
  mapSlots (setCore s c cs) (saveOps c)

/-- FTZ of the follower's half of the MMA.P at which its leader stands: on the leader's core, or with the team once that core is free
(R40, R210). -/
def pairFtzOf (s : State) (c : Nat) (o : Occ) : Option Bool :=
  let lead := if o.half = 0 then c else pairOf c
  if (getCore s lead).occ == some { o with half := 0 } then (getCore s lead).mtx.replayPair
  else (getTeam s o.launch o.gang o.team).bind (·.pairFtz)

/-- What has fallen due on the banks has happened; the record of a core is written, and then its open rows are precharged (R240). -/
def recordCore (s : State) (c : Nat) (o : Occ) (st : Nat) : State :=
  let f := pairFtzOf s c o
  let s := settleBanks c ((getCore s c).banks.map (·.1)) s
  let s := shareWake (putRecord s (makeRecord s c o st (if o.half = 1 then f else none))) o
  closeRows (updTeam s o.launch o.gang o.team fun t => { t with pairFtz := f }) c

/-! ### A gang leaves its cores (R109, R113, R301) -/

/-- Every engine of both halves is without a fault, and the only event is a pre-emption (DEDUCED, log entry 40). -/
def onlyPreempt (s : State) (c : Nat) : Bool :=
  let quiet (c : Nat) : Bool := [Engine.seq, .mem, .vec, .mtx].all fun e => (getStream s c e).fault.isNone
  (getCore s c).tcode == trapCode .preempt && (teamCores (isPaired s (getCore s c)) c).all quiet

/-- A pre-emption no longer waits for a gang. -/
def clearVictim (s : State) (l g : Nat) : State :=
  { s with disp := { s.disp with launches := s.disp.launches.map fun (p : Nat × Launch) =>
      (p.1, { p.2 with gangs := p.2.gangs.map fun x => { x with victims := x.victims.filter (· != (l, g)) } }) } }

/-- The state of the cluster barriers goes into the record of the gang's lowest-numbered team (R291, R376). -/
def saveBars (s : State) (l g : Nat) (x : Gang) : State :=
  match x.left.head? with
  | none => s
  | some p => match findRecord s ⟨l, g, p.1, 0⟩ with
    | none => s
    | some r => setGang (putRecord s { r with bytes := putFields r.bytes (cbFields x.cbs) }) l g { x with cbs := [], cbTeam := some p.1 }

/-- The save of a gang has ended when none of its teams is on a core: its slots are free, which makes a placement round run. -/
def endSwap (s : State) (l g : Nat) : State :=
  match getGang s l g with
  | none => s
  | some x =>
    if x.swap && x.teams.all fun t => t.onCore.isNone then
      let x := { x with swap := false, waiting := !x.left.isEmpty, residentAt := none, target := none, reserved := [] }
      callRound (clearVictim (saveBars (setGang s l g x) l g x) l g)
    else s

/-- The save of a gang begins: every resident team takes the PREEMPT event. -/
def beginSwap (s : State) (l g age : Nat) (asleep : Bool) : State :=
  let s := updGang (unplace s l g) l g fun x => { x with swap := true, swapAt := s.time, age := age, asleep := asleep }
  match getGang s l g with
  | none => s
  | some x =>
    let s := x.teams.foldl (fun s t => match t.st with
      | .resident c => if (getCore s c).run = .stopped then s else teamEvent s c .seq .preempt
      | _ => s) s
    endSwap s l g

/-- A core's part of a saved team is free; with the last the team is saved. The status of a half that has ended stays with the team. -/
def freeSaved (s : State) (c : Nat) (o : Occ) : State :=
  let s := match (getCore s c).exitStatus with
    | some v => updTeam s o.launch o.gang o.team fun t => { t with halfExit := (t.halfExit.filter fun x => x.1 != o.half) ++ [(o.half, v.toNat)] }
    | none => s
  let s := callRound (setCore s c (vacate (getCore s c)))
  let other := launchPaired s o.launch && (getCore s (pairOf c)).occ.any fun p => p.launch == o.launch && p.gang == o.gang && p.team == o.team
  let s := if other then s else updTeam s o.launch o.gang o.team fun t => { t with st := .saved, leftStack := some (c / 48) }
  endSwap s o.launch o.gang

/-- One core of a gang that is being swapped out is saved; the record of a stopped team stands. -/
def contextSave (core : Nat) (s : State) : Option State :=
  let cs := getCore s core
  match cs.occ with
  | none => none
  | some o =>
    if !((getGang s o.launch o.gang).map (·.swap)).getD false || !gangRspDone s o then none
    else if cs.run = .stopped then some (freeSaved s core o)
    else if cs.event && onlyPreempt s core && saveReady s core then
      let s1 := cutCore s core
      some (freeSaved (recordCore s1 core o 1) core o)
    else none

/-! ### Trap stop (R366, R367, R430) -/

/-- An engine is idle, has faulted or halted, waits inside an instruction, or has let a core cycle pass without issuing; that nothing lets it
issue now is asked where the step takes the event (`teamRests`). -/
def atRest (s : State) (st : Stream) : Bool :=
  !st.active || st.fault.isSome || st.halted.isSome || st.waiting.isSome || st.nextIssue < coreCycle s

/-- The failed operation that the fault of a tagged use names: that of a place from which the instruction reads the tag; where the tag came another
way (through memory, a tile or a stream's start), one that still holds a tag of the cause, or the newest (R317) (DESIGN CHOICE, log entry 70). -/
def namedOp (cs : CoreSt) (e : Engine) (cause : Nat) : Option TagOp :=
  let ops := cs.tagOps.filter fun t => t.cause.code == cause
  let held (t : TagOp) : Bool := t.dst.any (placeHolds cs t.cause)
  (((standPlaces cs e).findSome? fun p => ops.find? fun t => t.dst == some p && held t).orElse fun _ => ops.find? held).orElse fun _ => ops.head?

/-- A fault of a matrix operation, which may name the follower's half (R208). -/
def mmaFault (st : Stream) : Bool := match st.fault with
  | some f => f.trap == .tileShape || f.trap == .mmaType || f.trap == .sparseMeta || f.trap == .tilePoison
  | none => false

/-- The first trap came from a copy queue: CQ_FAULT, or the overflow of a completion's post (R288, R361). -/
def ofQueue (cs : CoreSt) : Bool :=
  cs.cqArg.isSome && (cs.tcode == trapCode .cqFault || (cs.tcode == trapCode .semOverflow && cs.tcodePrio == 4))

/-- The TRAP report of one half (DEDUCED, log entries 40, 41) (DESIGN CHOICE, log entry 70). -/
def trapReport (s : State) (c : Nat) (o : Occ) : Report :=
  let cs := getCore s c
  let st := cs.stream cs.tcodeEng
  let f := st.fault.getD { trap := .trap }
  let n := ([Engine.seq, .mem, .vec, .mtx].filter fun e => (cs.stream e).fault.isSome).length
  let cq := ofQueue cs
  let q := cs.cqArg.getD (0, 0, none)
  let remote := st.fault.isSome && (f.trap == .remoteOwnerLost || f.trap == .remoteLost || f.trap == .remoteFault)
  let noted := f.addr != 0
  let tagged := if remote && !noted then namedOp cs cs.tcodeEng f.cause else none
  let dest := ((getCq cs q.1).find? fun x => x.seqNo == q.2.1).bind (·.fail)
  { kind := 1, engine := if cq then 4 + q.1 else engCode cs.tcodeEng, code := cs.tcode, launch := o.launch, gang := o.gang, team := o.team,
    half := if mmaFault st then max o.half f.arg else o.half, aux := if st.fault.isSome then f.cause else 0, core := c, asid := asidOf s cs,
    pc := if cs.tcode = trapCode .bkpt then ((cs.bkptArg.map (·.2)).getD (packPc st.pc))
          else if cs.tcode = trapCode .trap then f.instrPc.getD (packPc st.pc) else packPc st.pc,
    addr := if st.fault.isSome then f.addr else 0, ctx := recordAddr s o,
    count := if cq then q.2.2.getD ((getCq cs q.1).takeWhile fun x => x.seqNo != q.2.1).length else n,
    later := if remote then f.count else 0,
    serial := if remote then (match tagged with | some t => t.serial | none => f.arg) else 0,
    arg := if cs.tcode = trapCode .bkpt then (cs.bkptArg.map (·.1)).getD 0
           else if cs.tcode = trapCode .trap then f.arg
           else if cq then (dest.map (·.2)).getD 0
           else if remote then (match tagged with | some t => t.fcode | none => f.fcode) else 0,
    op := if !remote then none else match tagged with
      | some t => some (t.owner, t.handle, t.serial)
      | none => if noted then some (f.addr.toNat / 2 ^ 48, f.addr.toNat % 2 ^ 48, f.arg) else none }

/-- Team-level events are logged when the team stops, those of a copy queue with the queue as the engine (R430, R431); faults of engines were logged when they were raised (DEDUCED, log entry 10). -/
def logStop (s : State) (c : Nat) : State :=
  let cs := getCore s c
  let st := cs.stream cs.tcodeEng
  if (st.fault.map fun f => trapCode f.trap) = some cs.tcode ∨ cs.tcode = 0 then s
  else logTrap s c (if ofQueue cs then 4 + (cs.cqArg.map (·.1)).getD 0 else engCode cs.tcodeEng) cs.tcode (packPc st.pc) 0

/-- One core of a stopping team: its record with STATE 2, and its report (DEDUCED, log entry 39). -/
def stopCore (s : State) (c : Nat) : State :=
  match (getCore s c).occ with
  | none => s
  | some o =>
    let s := recordCore (logStop (cutCore s c) c) c o 2
    let s := setCore s c { stopEngines s (getCore s c) with run := .stopped }
    postReport s (trapReport s c o)

def isDraining : RunState → Bool
  | .draining _ => true
  | _ => false

/-- The team on a core comes to a stop: its engines are at rest, or an event has stopped them, and what is in flight has ended (DEDUCED, log entry 39). -/
def teamStop (core : Nat) (s : State) : Option State :=
  let cs := getCore s core
  match cs.occ with
  | none => none
  | some o =>
    let cores := teamCores (isPaired s cs) core
    let rest (c : Nat) : Bool := (getCore s c).event || drained s (getCore s c) || [Engine.seq, .mem, .vec, .mtx].all fun e => atRest s (getStream s c e)
    if o.half = 0 && cores.all (fun c => isDraining (getCore s c).run && rest c && saveReady s c) && !(cores.all (onlyPreempt s)) then
      let s1 := cores.foldl stopCore s
      some (updTeam s1 o.launch o.gang o.team fun t => { t with stopped := true })
    else none

/-- TEAM_STOP: After a precise fault the other engines come to rest and the team is saved with STATE 2 and reported (R367). -/
def execTeamStop (core : Nat) (s : State) : Out := evOut s (teamStop core s)

/-- 4,096 core cycles after the first fault every engine of the team stops. -/
def drainLimit (core : Nat) (s : State) : Option State :=
  let cs := getCore s core
  match cs.run with
  | .draining t =>
    if t + 4096 ≤ coreCycle s && !cs.event then
      some ((teamCores (isPaired s cs) core).foldl (fun s c => setCore s c (stopEngines s (getCore s c))) s)
    else none
  | _ => none

/-- TRAP_DRAIN_LIMIT: 4,096 core cycles after the first fault all engines are stopped (R367). -/
def execTrapDrainLimit (core : Nat) (s : State) : Out := evOut s (drainLimit core s)

/-- Streams that the watchdog leaves alone (R369). -/
def watchExempt (st : Stream) : Bool :=
  st.halted.isSome || (match (st.waiting.map fun (w : Waiting) => w.kind) with
    | some (.mwait _) | some (.cbw _ _ _ _) | some (.gbar _) | some (.waitch _ _) => true
    | _ => false)

def watchdog (core : Nat) (e : Engine) (s : State) : Option State :=
  let cs := getCore s core
  let st := cs.stream e
  if cs.occ.isSome && cs.run != .stopped && (!cs.event || cs.stoppedAt == some (coreCycle s)) && cs.restartAt.isNone && gangTogether s cs && st.active && !watchExempt st && st.lastIssue + s.disp.wdog ≤ residence s cs then
    some (teamEvent s core e .watchdog)
  else none

/-- WATCHDOG: A stream has issued nothing for DISP_WDOG cycles and the team-level watchdog fires (R369). -/
def execWatchdog (core : Nat) (e : Engine) (s : State) : Out := evOut s (watchdog core e s)

/-! ### Context areas (R376) -/

/-- Bank groups of a stack's own columns in which firmware may keep a record: in line mode and not of the launch's row region, the highest
first. -/
def areaGroups (s : State) (k mask : Nat) : List (Nat × Nat) :=
  ((List.range 48).flatMap fun i => (List.range 16).filterMap fun g =>
    let c := 48 * k + i
    if coreInService s c && (rowMode s c g).isNone && !mask.testBit g then some (c, g) else none).reverse

/-- Base of a candidate: 4 KiB aligned and wholly inside its bank group. -/
def areaBase (p : Nat × Nat) (page : Nat) : Nat := rowLinePa p.1 (8 * p.2) 0 0 + 4096 * (31900 - page % 31901)

/-- A place for a record of 0x364000 bytes that no other record and no journal has; firmware chooses it (DESIGN CHOICE, log entry 6). -/
def areaFor (s : State) (o : Occ) (c mask : Nat) : Option Nat :=
  let gs := areaGroups s (c / 48) mask
  let d := Config.recordDraw o.launch o.gang o.team o.half
  let free (a : Nat) : Bool := (s.fw.areas.all fun x => a + 0x364000 ≤ x.2 || x.2 + 0x364000 ≤ a) &&
    s.fw.kept.all fun r => a + 0x364000 ≤ r.1 || r.2 < a
  (List.range 1024).findSome? fun n =>
    (gs[(d + n / 36) % gs.length]?).bind fun p => let a := areaBase p (d / 1024 + 868 * n); if free a then some a else none

/-- Reserves the area of a core's half of a team: no cache holds a line of it any more, since no access reaches it (R376). -/
def reserveArea (s : State) (o : Occ) (c mask : Nat) : State :=
  if s.fw.areas.any fun a => a.1 == o then s
  else match areaFor s o c mask with
    | some a => dropHomed (fun pa => a ≤ pa && pa < a + 0x364000) { s with fw := { s.fw with areas := s.fw.areas ++ [(o, a)] } }
    | none => s

def freeAreas (s : State) (out : Occ → Bool) : State := { s with fw := { s.fw with areas := s.fw.areas.filter fun a => !out a.1 } }

/-- Records in a bank group that is to be allotted move to other line-mode groups of their stack (DESIGN CHOICE, log entry 6). -/
def moveAreas (s : State) (c g : Nat) : State :=
  (s.fw.areas.filter fun a => inGroup c g a.2).foldl (fun s a =>
    reserveArea (freeAreas s (· == a.1)) a.1 c (((mget s.disp.launches a.1.launch).map (·.groups)).getD 0)) s

/-! ### Row regions (R220, R221) -/

/-- A line access to the bank group is under way. -/
def groupBusy (s : State) (c g : Nat) : Bool :=
  s.cores.any fun p => p.2.accesses.any fun a => a.pieces.any fun x => x.route == .cached && x.st != .done && (x.xpa.any fun y => inGroup c g y.1)

/-- The refresh intervals of the banks of a group, which run from reset, are followed from here on (R227). -/
def startPhases (s : State) (c g : Nat) : State :=
  (List.range 8).foldl (fun s i =>
    let b := 8 * g + i
    setCore s c (setBank (getCore s c) b { getBank (getCore s c) b with dueAt := some (runningEnd s c b), refreshDue := none })) s

/-- Lines of a bank group leave every cache; then the group is in row mode, its banks closed. Not while a line is not quiet or a shard
of the group is loading, or fills it and is not the launch's (R415); lines that the host holds are asked for. -/
def allotGroup (launch : Nat) (s : State) (c g : Nat) : Try State :=
  match rowMode s c g with
  | some l => if l = launch then .ok s else .error .wait
  | none =>
    let ls := s.hub.llc.filter fun l => inGroup c g l.pa
    if (s.fw.shards.any fun h => h.pkg == s.pkg && h.core == c && h.bgmask.testBit g && h.st == .loading) ||
        (mget s.disp.launches launch).any (fun l => shardBars s l c g) then .error .wait
    else if let some l := ls.find? fun l => lineQuiet s l && l.host != .hi then .error (.line l.key recallReq)
    else if groupBusy s c g || ls.any fun l => !lineQuiet s l then .error .wait
    else
      let s := ls.foldl (shootLine .unmap) s
      let s := { s with cores := s.cores.map fun (p : Nat × CoreSt) => (p.1, { p.2 with l1 := p.2.l1.filter fun l => !inGroup c g l.pa }) }
      let s := closeGroup s c g
      let s := { s with hub := { s.hub with rows := mset s.hub.rows (c * 16 + g) launch } }
      .ok (startPhases (moveAreas s c g) c g)

def groupsOf (mask : Nat) : List Nat := (List.range 16).filter fun g => mask.testBit g

/-- Every bank group of a mask on a core. -/
def allotGroups (launch : Nat) (c : Nat) : List Nat → State → Try State
  | [], s => .ok s
  | g :: t, s => (allotGroup launch s c g).bind (allotGroups launch c t)

def allotTeam (launch mask : Nat) : List Nat → State → Try State
  | [], s => .ok s
  | c :: t, s => (allotGroups launch c (groupsOf mask) s).bind (allotTeam launch mask t)

/-- A bank group returns to line mode: its open rows are precharged first. -/
def reclaimGroup (s : State) (c g : Nat) : State :=
  let s := closeGroup s c g
  { s with hub := { s.hub with rows := mdel s.hub.rows (c * 16 + g) } }

/-! ### Start (R100, R396) -/

/-- The team that a run list holds for a core, when its scheduler works or has been adopted. -/
def nextTeam (s : State) (core : Nat) : Option (Nat × Nat × Nat) :=
  let k := getSched s (core / 48)
  if k.working || k.adopter.isSome then (k.runList.find? fun r => r.1 == core).map (·.2) else none

def takeRun (s : State) (core : Nat) : State :=
  let k := getSched s (core / 48)
  setSched s (core / 48) { k with runList := k.runList.filter fun r => r.1 != core }

/-- A core on which a team can be started: free, in service, and no shard of it is loading (R413). -/
def vacant (s : State) (c : Nat) : Bool :=
  (getCore s c).occ.isNone && coreInService s c && !(s.fw.shards.any fun h => h.pkg == s.pkg && h.core == c && h.st == .loading)

/-- A core at the start of a team. -/
def freshCore (s : State) (c : Nat) (o : Occ) (l : Launch) (v : Variant) : CoreSt :=
  let st : Stream := { active := true, pc := pcOfWord v.entry, entry := some false, regs := mputD {} [] 1 { val := BitVec.ofNat 64 l.pkt.param } }
  acquire { vacate (getCore s c) with occ := some o, seq := st, resStart := coreCycle s, estVal := v.remtime }

/-- The team is resident: its gang's slice runs from the first start. -/
def teamResident (s : State) (l g t core : Nat) : State :=
  let s := updTeam s l g t fun x => { x with st := .resident core, started := true, halfExit := [], pairFtz := none }
  updGang s l g fun x => { x with residentAt := some (x.residentAt.getD s.time) }

/-- The cluster barriers come back with the first team of the gang that does, from the record that holds them (R291). -/
def restoreBars (s : State) (l g : Nat) : State :=
  updGang s l g fun x => match x.cbTeam.bind fun t => findRecord s ⟨l, g, t, 0⟩ with
    | some r => { x with cbs := cbsFrom r.bytes, cbTeam := none }
    | none => x

/-- A shard that has come to a core since a team was placed there keeps a bank group of the team's from it, or the shard that the team needs there is no
longer VALID: the gang goes back to the placement order (R415) (DESIGN CHOICE, log entry 71). -/
def shardInWay (s : State) (l : Launch) (launch mask : Nat) (cores : List Nat) : Bool :=
  cores.any fun c => !imageCore s l c || (groupsOf mask).any fun g => (rowMode s c g).isNone && shardBars s l c g

/-- The scheduler starts a team that has never run. -/
def teamStart (core : Nat) (s : State) : Option State :=
  match nextTeam s core with
  | none => none
  | some (l, g, t) =>
    match mget s.disp.launches l, getTeam s l g t with
    | some x, some tm =>
      match x.var with
      | none => none
      | some v =>
        let cores := teamCores x.pkt.paired core
        if tm.started || tm.st != .placed core || cores.any (fun c => !vacant s c) then none
        else if shardInWay s x l v.bgmask cores then some (beginSwap s l g (((getGang s l g).map (·.age)).getD 0) false)
        else match allotTeam l v.bgmask cores s with
          | .error e => tried s (.error e)
          | .ok s1 =>
            let s2 := cores.foldl (fun s c => setCore s c (freshCore s c ⟨l, g, t, if c = core then 0 else 1⟩ x v)) (restoreBars (takeRun s1 core) l g)
            let s3 := (List.range cores.length).foldl (fun s h => reserveArea s ⟨l, g, t, h⟩ core v.bgmask) s2
            some (teamResident s3 l g t core)
    | _, _ => none

/-! ### Kill (R113, R320, R368, R384) -/

/-- The operations of a killed requester: those that have left are discarded when they are answered, the others are forgotten. -/
def killOps (o : Occ) (x : ReqSlot) : ReqSlot :=
  if x.bound = some o then { x with out := x.out.map fun (y : RemOp) => { y with discard := true }, waitq := [] } else x

/-- The streams of a requester that is gone close: at once where nothing is outstanding, and else when the last reply has arrived. -/
def closeIdle (s : State) (o : Occ) : State :=
  (slotsOf s o).foldl (fun s k => closeIfDead (setSlot s k { getSlot s k with dead := true }) k) s

/-- A requester is gone: its operations are discarded and its idle streams closed. -/
def dropRequester (s : State) (o : Occ) : State :=
  let s := mapSlots s (killOps o)
  closeIdle { s with rou := { s.rou with parked := s.rou.parked.filter fun x => x.1 != o } } o

/-- A resident half of launch n is stopped at once: open rows are closed, and everything else is discarded. Another launch's team may stand where a
half has been saved. -/
def killCore (n : Nat) (s : State) (c : Nat) : State :=
  match (getCore s c).occ with
  | none => s
  | some o =>
    if o.launch ≠ n then s
    else
      let s := dropRequester (closeRows s c) o
      setCore s c (vacate (getCore s c))

def killTeam (n : Nat) (paired : Bool) (s : State) (t : Team) : State :=
  match t.st with
  | .resident c => (teamCores paired c).foldl (killCore n) s
  | _ => s

/-- A launch is killed: every team that has not exited is discarded, with its record and its reservations. -/
def killLaunch (s : State) (n code : Nat) : State :=
  match mget s.disp.launches n with
  | none => s
  | some l =>
    if l.killed.isSome then s
    else
      let s := l.gangs.foldl (fun s g => g.teams.foldl (killTeam n l.pkt.paired) s) s
      let s := (s.fw.records.filter fun r => r.occ.launch == n).foldl (fun s r => dropRequester s r.occ) s
      let s := { s with fw := { s.fw with records := s.fw.records.filter fun r => r.occ.launch != n } }
      let s := freeAreas ((List.range l.gangs.length).foldl (fun s g => unplace s n g) s) fun o => o.launch == n && o != ⟨n, 0, 0, 0⟩
      let s := callRound (reserveArea s ⟨n, 0, 0, 0⟩ 0 0)
      let dead (t : Team) : Team := if t.over then t else { t with st := .dead, stopped := false }
      match mget s.disp.launches n with
      | none => s
      | some l => setLaunch s n { l with killed := some code, gangs := l.gangs.map fun g =>
          { g with teams := g.teams.map dead, waiting := false, reserved := [], swap := false, target := none, residentAt := none } }

/-! ### Limits of a record (R368) -/

/-- A PC in the layout of R56, and a tag byte of R377. -/
def pcOk (n : Nat) : Bool := if n.testBit 31 then n == 2 ^ 31 else n < 2 ^ 28 && n >>> 24 != 0
def tagOk (n : Nat) : Bool := n < 16 && n / 2 ≤ 4

/-- ESTAT, return stack, control registers, tags and reserved bytes of an engine block. -/
def engineOk (m : List Host.Cell) (e : Engine) : Bool :=
  let b := blockBase e
  pcOk (rd m b 4) && rd m (b + 4) 4 / 2048 == 0 && rd m (b + 0x80) 1 ≤ 16 &&
    ((List.range (rd m (b + 0x80) 1)).all fun i => pcOk (rd m (b + 0x40 + 4 * i) 4)) &&
    rd m (b + 0x18) 8 &&& fpmodeBits.toNat == rd m (b + 0x18) 8 && rd m (b + 0x20) 8 &&& fpstatBits.toNat == rd m (b + 0x20) 8 &&
    (if e = .seq then rd m (b + 0x38) 8 < 256 else rd m (b + 0x38) 8 == 0) && rd m (b + 0xA) 1 ≤ 4 && rd m (b + 0xB) 5 == 0 &&
    rd m (b + 0x81) 0x3F == 0 && ((List.range 64).all fun n => tagOk (rd m (b + 0xC0 + n) 1)) && rd m (b + 0x300) 0x100 == 0 &&
    (rd m (b + 8) 2 == 0 || (trapOfCode (rd m (b + 8) 2)).isSome)

/-- Semaphores, tile and accumulator registers, banks, queues. -/
def registersOk (m : List Host.Cell) : Bool :=
  ((List.range 32).all fun n => rd m (0x3000 + 4 * n) 4 < 2 ^ 17) &&
    ((List.range 16).all fun n => let v := rd m (0x3080 + 8 * n) 8; v == tileValue (BitVec.ofNat 64 v) && validTile v n) &&
    ((List.range 3).all fun n => let v := rd m (0x3100 + 8 * n) 8; v == accValue (BitVec.ofNat 64 v) && validAcc v) &&
    ((List.range 128).all fun n => let w := rd m (0x3A00 + 4 * n) 4; w % 4 ≤ 2 && w / 4 % 2 ^ 14 == 0 && w < 2 ^ 29) &&
    ((List.range 16).all fun n => tagOk (rd m (0x23C0 + n) 1)) &&
    ((List.range 4).all fun k => (List.range 16).all fun i => let a := 0x2800 + 0x200 * k + 16 * i; tagOk (rd m (a + 8) 1) && rd m (a + 9) 1 ≤ 2) &&
    ((List.range 6).all fun k => rd m (0xC600 + 16 * k) 1 < 8 && rd m (0xC601 + 16 * k) 1 ≤ 8)

/-- Tags of tile rows, and of the granules of data queues and of V registers, each four bits. -/
def tagsOk (m : List Host.Cell) : Bool :=
  let gran (x : Nat) : Bool := (0xC000 ≤ x && x < 0xC600) || (0xD000 ≤ x && x < 0x10000)
  m.all fun x =>
    if 0x3200 ≤ x.1 && x.1 < 0x3A00 then tagOk x.2.toNat
    else if gran x.1 then tagOk (x.2.toNat % 16) && tagOk (x.2.toNat / 16)
    else true

/-- Heads of scalar queues, child states, states of data-queue slots, and kinds of copy-queue entries. -/
def queuesOk (m : List Host.Cell) : Bool :=
  ((List.range 4).all fun k => rd m (0x2900 + 0x200 * k) 1 < 16) && ((List.range 256).all fun i => rd m (0x5008 + 16 * i) 1 ≤ 2) &&
    ((List.range 6).all fun k => (List.range 8).all fun i => rd m (0xC602 + 16 * k + i) 1 ≤ 2) &&
    (List.range 2).all fun q => (List.range 32).all fun i => rd m (0x10048 + 0x8000 * q + 1024 * i) 1 ≤ 3

/-- MAGIC, VERSION, reserved fields and limits of what is restored (R368, R376 to R379). -/
def recordOk (r : Record) : Bool :=
  let m := r.bytes
  rd m 0 4 == recMagic && rd m 4 2 == 1 && 1 ≤ rd m 6 1 && rd m 6 1 ≤ 2 && !(rd m 7 1).testBit 7 && rd m 0x13 1 == 0 && rd m 0x3C 4 == 0 && rd m 0x90 0xF70 == 0 &&
    ((List.range 16).all fun i => let w := rd m (0x40 + 4 * i) 4; w < 2 ^ 9 && (wordCb w).n ≤ 8) && rd m 0x80 1 < 16 && (!(rd m 0x80 1).testBit 0 || (2 ≤ rd m 0x80 1 / 2 && rd m 0x80 1 / 2 ≤ 4)) && rd m 0x81 1 == 0 &&
    [Engine.seq, .mem, .vec, .mtx].all (engineOk m) && registersOk m && tagsOk m && queuesOk m

/-! ### Restore (R240, R381) -/

/-- The flight of an instruction whose replies are still pending. -/
def pendFlight (p : PendRemote) : Flight :=
  let w : List Res := match p.dst with
    | .scalar (.reg n) _ => [.sreg p.eng n]
    | .pair d => [.sreg p.eng d, .sreg p.eng (d + 1)]
    | .lanes d _ => [.vreg d]
    | _ => []
  { id := p.flight, eng := p.eng, claims := claimsOf [] w, post := p.post }

/-- The end of tRP of a closed bank. -/
def readyAt (b : Bank) : Nat := (b.tClose.map (· + 12)).getD 0

/-- A refresh that has to end before a bank can be opened: it is running, or it has fallen due, or it falls due by the cycle in which the bank could
else be opened (R227, R240). -/
def refreshFirst (now : Nat) (b : Bank) : Option Nat :=
  match b.refreshEnd, b.refreshDue, b.dueAt with
  | some e, _, _ => some e
  | none, some d, _ => some (max d (readyAt b) + 176)
  | none, none, some d => if d ≤ max now (readyAt b) then some (max d (readyAt b) + 176) else none
  | none, none, none => none

/-- The cycle in which a bank saved as open is opened again: after tRP and any refresh that is due or running. -/
def reopenAt (now : Nat) (b : Bank) : Nat := max (max now (readyAt b)) ((refreshFirst now b).getD 0)

/-- The end of the interval after the one that a refresh before the reopening has begun. -/
def dueAfter (s : State) (c now : Nat) (b : Bank) : Option Nat :=
  if b.refreshEnd.isNone && b.refreshDue.isNone then b.dueAt.map fun d => if d ≤ max now (readyAt b) then intervalEnd s c d else d else b.dueAt

/-- A bank of a restored team. -/
def restoreBank (s : State) (c now : Nat) (cs : CoreSt) (x : Nat × Nat × Nat) : CoreSt :=
  let b := getBank cs x.1
  if x.2.1 = 1 then
    let t := reopenAt now b
    setBank cs x.1 { b with mode := .openReady, row := x.2.2, tAct := t, lease := 1024, leaseEnd := t + 2048, leaseRun := true, put := none,
                            refreshDue := none, refreshEnd := none, dueAt := dueAfter s c now b }
  else setBank cs x.1 { b with mode := .lapsedClosed, tPre := none }

/-- Banks that were saved as closed return in that state, with tRP treated as passed. -/
def calmBanks (cs : CoreSt) (open' : List Nat) : CoreSt :=
  { cs with banks := cs.banks.map fun p => if open'.contains p.1 then p else (p.1, { p.2 with mode := .closed, tPre := none }) }

/-- The operations of a restored team belong to its core again. -/
def resumeOps (o : Occ) (c : Nat) (x : ReqSlot) : ReqSlot :=
  if x.bound ≠ some o then x
  else
    let back (y : RemOp) : RemOp := if y.copy.isSome then y else { y with saved := false, core := c }
    { x with core := c, out := x.out.map back, waitq := x.waitq.map back }

/-- Those of them that wait for a slot. -/
def resumeParked (s : State) (o : Occ) (c : Nat) : State :=
  { s with rou := { s.rou with parked := s.rou.parked.map fun x => if x.1 = o then (x.1, { x.2 with saved := false, core := c }) else x } }

/-- Operations of a team in streams and without a slot, as it is restored. -/
def opsOf (s : State) (o : Occ) : List RemOp := teamOps s { ({} : CoreSt) with occ := some o }

/-- A reduction that acquires and has no reply yet: the later accesses of its engine wait for it, as before the swap (R325). -/
def acqAccess (o : RemOp) : Access :=
  { id := o.acc.getD o.flight, eng := o.eng, store := true, flight := o.flight, asid := o.asid, acq := true, cleared := true, checked := true,
    pieces := [{ va := o.va, n := o.n, off := 0, st := .sent, route := .remote 0 }] }

/-- Copy entries with their numbers moved past those that the core has given out, so that no earlier write counts for them (R355). -/
def shiftCq (k : Nat) (x : CqEntry) : CqEntry := { x with seqNo := x.seqNo + k, waits := x.waits.map fun w => (w.1, w.2 + k) }

/-- Status of a half that ended before its team left its cores (R103). -/
def savedExit (s : State) (c : Nat) (o : Occ) : Option Word :=
  match (getTeam s o.launch o.gang o.team).bind fun t => t.halfExit.find? fun x => x.1 == o.half with
  | some x => some (BitVec.ofNat 64 x.2)
  | none => if (getCore s c).occ == some o then (getCore s c).exitStatus else none

/-- A record is read onto a core: its banks are reopened, pending replies are attached, and the core acquires. -/
def restoreCore (s : State) (c : Nat) (r : Record) (lead : List Host.Cell) (own : Bool) : State :=
  let now := coreCycle s
  let s := settleBanks c ((savedBanks r.bytes).map (·.1)) s
  let ended := savedExit s c r.occ
  let old := vacate (getCore s c)
  let base := coreFrom s r (launchAsid s r.occ.launch) lead own
  let saved := savedBanks r.bytes
  let open' := (saved.filter fun x => x.2.1 == 1).map (·.1)
  let cs := { base with inService := old.inService, l1 := old.l1, inbox := old.inbox, wbOut := old.wbOut, rvkOut := old.rvkOut,
                        fwdOut := old.fwdOut, banks := old.banks, flights := base.pend.map pendFlight,
                        nextId := (base.pend.map (·.flight) ++ (opsOf s r.occ).map (·.flight)).foldl (fun m n => max m (n + 1)) old.nextId
                        accesses := ((opsOf s r.occ).filter fun o => isRed o.code && acquires o.ord).map acqAccess
                        cq0 := base.cq0.map (shiftCq old.cqSeq), cq1 := base.cq1.map (shiftCq old.cqSeq), cqSeq := base.cqSeq + old.cqSeq
                        exitStatus := ended }
  let cs := saved.foldl (restoreBank s c now) (calmBanks cs open')
  let t := open'.foldl (fun m b => max m ((getBank cs b).tAct + 28)) now
  let s := setCore s c (acquire { cs with restartAt := some t })
  resumeParked (mapSlots (dropRecord s r.occ) (resumeOps r.occ c)) r.occ c

/-- A record of a stopped team stays; the team occupies its core and stays stopped, with its residence and estimate (R112, R128, R367). -/
def occupyStopped (s : State) (c : Nat) (o : Occ) (r : Option Record) : State :=
  let m := (r.map (·.bytes)).getD []
  setCore s c { vacate (getCore s c) with
    occ := some o, run := .stopped, event := true, resStart := coreCycle s, stoppedAt := some (coreCycle s), exitStatus := savedExit s c o,
    resBase := rd m 0x1030 8, estVal := rd m 0x18 8, estAt := rd m 0x1030 8, tcode := rd m 0x16 2 }

/-- Both halves restart in the cycle in which the later of them is ready, and the leader's MMA.P is replayed with the follower's saved FTZ
(R210, R240). -/
def joinHalves (s : State) (rs : List (Nat × Option Record)) (ftz : Option Bool) : State :=
  let t := rs.foldl (fun m p => max m ((getCore s p.1).restartAt.getD 0)) 0
  let s := rs.foldl (fun s p => setCore s p.1 { getCore s p.1 with restartAt := some t }) s
  match rs with
  | [(lead, _), (_, some r)] =>
    let st := (getCore s lead).mtx
    if ftz.isSome then setCore s lead { getCore s lead with mtx := { st with replayPair := if r.replay then r.pairFtz else some ((rd r.bytes 0x1C04 4).testBit 9) } } else s
  | _ => s

/-- The records of a team's cores are read back (R381). -/
def restoreTeam (s : State) (l g t : Nat) (rs : List (Nat × Option Record)) : State :=
  let ftz := (getTeam s l g t).bind (·.pairFtz)
  let m := ((rs.head?.bind (·.2)).map (·.bytes)).getD []
  let own := rs.any fun p => p.2.any (·.woke)
  joinHalves (rs.foldl (fun s p => (p.2.map fun r => restoreCore s p.1 r m own).getD s) (restoreBars s l g)) rs ftz

/-- Records of the cores of a team, in the order of its halves. -/
def teamRecords (s : State) (l g t : Nat) (cores : List Nat) : List (Nat × Option Record) :=
  cores.mapIdx fun h c => (c, findRecord s ⟨l, g, t, h⟩)

/-- A saved team is restored onto a free core of its stack; a record that breaks its limits kills the launch. -/
def contextRestore (core : Nat) (s : State) : Option State :=
  match nextTeam s core with
  | none => none
  | some (l, g, t) =>
    match mget s.disp.launches l, getTeam s l g t with
    | some x, some tm =>
      let cores := teamCores x.pkt.paired core
      let rs := teamRecords s l g t cores
      if !tm.started || tm.st != .placed core || cores.any (fun c => !vacant s c) then none
      else if tm.stopped then
        let s1 := restoreBars (takeRun s core) l g
        let s2 := rs.foldl (fun s p => occupyStopped s p.1 ⟨l, g, t, if p.1 = core then 0 else 1⟩ p.2) s1
        some (updTeam (teamResident s2 l g t core) l g t fun x => { x with pairFtz := tm.pairFtz })
      else if rs.all (fun p => p.2.any recordOk) then some (teamResident (restoreTeam (takeRun s core) l g t rs) l g t core)
      else some (killLaunch s l (trapCode .ctxBad))
    | _, _ => none

/-- A restored core in cycle R: each reopened row counts as activated in cycle R - 28 with a full lease from R. -/
def restarted (cs : CoreSt) (now le : Nat) : CoreSt :=
  let go (b : Bank) : Bank := if isOpen b then { b with tAct := now - 28, lease := le, leaseEnd := now + le, leaseRun := true } else b
  { cs with restartAt := none, actTimes := [], resStart := now, banks := cs.banks.map fun p => (p.1, go p.2) }

/-- Cycle R: the streams of the team restart, in both halves at once. -/
def streamRestart (core : Nat) (s : State) : Option State :=
  let cs := getCore s core
  let go (s : State) (c : Nat) : State := setCore s c (restarted (getCore s c) (coreCycle s) (leaseNow s c))
  match cs.restartAt with
  | none => none
  | some t =>
    if coreCycle s < t then none
    else some (((teamCores (isPaired s cs) core).filter fun c => (getCore s c).restartAt.isSome).foldl go s)

/-- STREAM_RESTART: After reopened rows have been open for tRAS the team's streams restart in cycle R (R240). -/
def execStreamRestart (core : Nat) (s : State) : Out := evOut s (streamRestart core s)

/-! ### Exit (R103, R104, R119, R317) -/

/-- Remote operations of a core, copy pieces among them, that have no answer; also those that wait for a slot (R103, R446). -/
def opsPending (s : State) (c : Nat) (o : Occ) : Bool :=
  (s.rou.slots.any fun p => p.2.bound == some o && ((p.2.out ++ p.2.waitq).any fun y => y.core == c)) || s.rou.parked.any fun x => x.1 == o

/-- Steps 1 to 5 of EXIT have been done on a core, and a remote failure that is left can be reported (R430) (DEDUCED, log entry 63) (DESIGN CHOICE, log entry 70). -/
def exitReady (s : State) (c : Nat) (o : Occ) : Option Word :=
  let cs := getCore s c
  match waitOf s c .seq with
  | some (.exit v) =>
    if cs.run = .running && cs.heldTo ≤ coreCycle s && !cs.mem.active && !cs.vec.active && !cs.mtx.active && cs.cq0.isEmpty && cs.cq1.isEmpty && rowsComplete s cs &&
        cs.rowJobs.isEmpty && cs.flights.isEmpty && (cs.accesses.all fun a => a.pref) && !opsPending s c o && rspDone s c && released cs && !(cs.rfail.isSome && reportsWait s) then some v
    else none
  | _ => none

/-- A recorded remote failure that no instruction has raised is reported (R317, R430). -/
def reportUnraised (s : State) (c : Nat) (o : Occ) : State :=
  match (getCore s c).rfail with
  | none => s
  | some r =>
    postReport s { kind := 6, code := trapCode (causeTrap r.cause), launch := o.launch, gang := o.gang, team := o.team, half := o.half, core := c,
                   asid := asidOf s (getCore s c), addr := BitVec.ofNat 64 (r.handle + r.owner * 2 ^ 48), count := r.count, serial := r.serial }

/-- Step 6 on one core: the status is recorded, the watch is freed, the requester's streams close, and the post is made; one that overflows stops the
team at END, with its status recorded (R69, R288) (DEDUCED, log entry 63). -/
def exitCore (s : State) (c : Nat) (o : Occ) (v : Word) : State :=
  let s := closeIdle (reportUnraised (closeRows s c) c o) o
  let cs := getCore s c
  let post := (cs.seq.waiting.bind (·.post))
  let cs := { cs with exitStatus := some v, watch := none, overflow := false, rfail := none, accesses := [],
                      seq := { cs.seq with active := false, waiting := none, pc := .fin, entry := none } }
  postOpt (setCore s c cs) c .seq post

/-- The status of a team from those of its halves (R104). -/
def teamStatus (vs : List Word) : Nat := (vs.map fun v => v.toNat % 2 ^ 32).foldl (fun a b => if a = 0 then b else a) 0

/-- Status of a half whose EXIT has completed on its core; none while a trap of the team's is open. -/
def exited (s : State) (c : Nat) (o : Occ) : Option Word :=
  let cs := getCore s c
  if cs.occ = some o ∧ cs.run = .running ∧ cs.restartAt = none then cs.exitStatus else none

/-- EXIT completes on the cores that are ready; when it has on every core of the team, the team retires and its slots are free. -/
def teamRetire (launch gang team : Nat) (s : State) : Option State :=
  match mget s.disp.launches launch, getTeam s launch gang team with
  | some l, some t =>
    match t.st with
    | .resident core =>
      let cores := teamCores l.pkt.paired core
      let occ (c : Nat) : Occ := ⟨launch, gang, team, if c = core then 0 else 1⟩
      let ready := cores.filterMap fun c =>
        if (getCore s c).exitStatus.isSome || (getCore s c).occ != some (occ c) then none else (exitReady s c (occ c)).map fun v => (c, v)
      let s := ready.foldl (fun s p => exitCore s p.1 (occ p.1) p.2) s
      let done := cores.filterMap fun c => exited s c (occ c)
      if done.length < cores.length then (if ready.isEmpty then none else some s)
      else
          let s := cores.foldl (fun s c => setCore s c (vacate (getCore s c))) (callRound (freeAreas s fun o =>
            o.launch == launch && o.gang == gang && o.team == team && o != ⟨launch, 0, 0, 0⟩))
          let s := updTeam s launch gang team fun t => { t with st := .exited (teamStatus done), stopped := false }
          some (endSwap s launch gang)
    | _ => none
  | _, _ => none

/-- TEAM_RETIRE: EXIT has completed on every core of the team and its slots are freed (R103). -/
def execTeamRetire (launch gang team : Nat) (s : State) : Out := evOut s (teamRetire launch gang team s)

/-! ### Slices and YIELD (R109, R120, R301) -/

/-- The scheduler that times a gang: that of the stack of its lowest-numbered resident team. -/
def gangClock (s : State) (g : Gang) : Bool :=
  match g.teams.findSome? fun t => match t.st with | .resident c => some c | _ => none with
  | some c => let k := getSched s (c / 48); k.working || k.adopter.isSome
  | none => false

/-- Every resident sequencer stream of the gang is blocked in MWAIT. -/
def allAsleep (s : State) (l g : Nat) : Bool :=
  let cs := gangCores s l g
  !cs.isEmpty && cs.all fun c => match waitOf s c .seq with
    | some (.mwait _) => true
    | _ => false

/-- The last resident team of the gang retires in this cycle: every team that is resident does (R109). -/
def retiresNow (s : State) (l g : Nat) (x : Gang) : Bool :=
  let here := (x.teams.mapIdx fun i t => (i, t)).filterMap fun p => match p.2.st with
    | .resident c => some (p.1, c)
    | _ => none
  !here.isEmpty && here.all fun p => (teamCores (launchPaired s l) p.2).all fun d =>
    (exited s d ⟨l, g, p.1, if d = p.2 then 0 else 1⟩).isSome || (exitReady s d ⟨l, g, p.1, if d = p.2 then 0 else 1⟩).isSome

/-- The end of a gang's slice, or the sleep of all its sequencers: it is swapped out when a waiting gang could take its cores,
and else a new slice begins (DEDUCED, log entry 21). -/
def sliceExpiry (launch gang : Nat) (s : State) : Option State :=
  match getGang s launch gang with
  | none => none
  | some g =>
    let sleep := allAsleep s launch gang
    let ended := match g.residentAt with
      | some t => t + s.disp.slice * usec ≤ s.time
      | none => false
    if !g.isResident || g.swap || !gangClock s g || retiresNow s launch gang g then none
    else if (ended && couldReplace s ⟨launch, gang⟩) || (sleep && couldSleep s ⟨launch, gang⟩) then some (beginSwap s launch gang 0 sleep)
    else if ended then some (setGang s launch gang { g with residentAt := some s.time })
    else none

/-! ### The order of an adopter (R398) -/

/-- Hub cycles in which what a stack's scheduler can do now fell due: starts and restores of teams, when they were placed; ends of slices; and saves,
when they began. -/
def dueTimes (s : State) (k : Nat) : List Nat :=
  ((getSched s k).runList.filterMap fun r => if vacant s r.1 then (getTeam s r.2.1 r.2.2.1 r.2.2.2).map (·.placedAt) else none) ++
  ((allGangs s).filterMap fun x =>
    let mine := (x.2.2.teams.findSome? fun t => match t.st with | .resident c => some (c / 48) | _ => none) == some k
    if mine && (sliceExpiry x.1.launch x.1.gang s).isSome then x.2.2.residentAt.map (· + s.disp.slice * usec) else none) ++
  ((List.range 48).filterMap fun i =>
    if (contextSave (48 * k + i) s).isSome then ((getCore s (48 * k + i)).occ.bind fun o => getGang s o.launch o.gang).map (·.swapAt) else none)

/-- An adopter performs what has fallen due on the failed scheduler's stack in due order; a working scheduler is not bound by it. -/
def inDueOrder (s : State) (k due : Nat) : Bool := (getSched s k).adopter.isNone || (dueTimes s k).all fun t => due ≤ t

/-- When the team that a run list holds for a core was placed. -/
def placedDue (s : State) (core : Nat) : Nat := ((nextTeam s core).bind fun r => (getTeam s r.1 r.2.1 r.2.2).map (·.placedAt)).getD 0
/-- When the save of the team on a core began. -/
def saveDue (s : State) (core : Nat) : Nat := (((getCore s core).occ.bind fun o => getGang s o.launch o.gang).map (·.swapAt)).getD 0
/-- The stack whose scheduler times a gang, and when the gang's slice ends. -/
def sliceDue (s : State) (l g : Nat) : Nat × Nat := match getGang s l g with
  | some x => (((x.teams.findSome? fun t => match t.st with | .resident c => some (c / 48) | _ => none).getD 0), (x.residentAt.getD 0) + s.disp.slice * usec)
  | none => (0, 0)

/-- CONTEXT_SAVE: A team is stopped, in-flight work finished or abandoned, and its context record written (R380). -/
def execContextSave (core : Nat) (s : State) : Out := evOut s (if inDueOrder s (core / 48) (saveDue s core) then contextSave core s else none)
/-- TEAM_START: The scheduler starts a placed team on a free core with its initial state (R100). -/
def execTeamStart (core : Nat) (s : State) : Out := evOut s (if inDueOrder s (core / 48) (placedDue s core) then teamStart core s else none)
/-- CONTEXT_RESTORE: The scheduler restores a saved team onto a core, reopening banks and attaching pending replies (R381). -/
def execContextRestore (core : Nat) (s : State) : Out := evOut s (if inDueOrder s (core / 48) (placedDue s core) then contextRestore core s else none)
/-- SLICE_EXPIRY: A gang's slice ends and it is swapped out if a waiting gang can be placed (R109). -/
def execSliceExpiry (launch gang : Nat) (s : State) : Out :=
  evOut s (if inDueOrder s (sliceDue s launch gang).1 (sliceDue s launch gang).2 then sliceExpiry launch gang s else none)

/-- YIELD: the gang is swapped out when a waiting gang can be placed on the slots that it would free (DEDUCED, log entry 21). -/
def yieldBody (d : Nat) (s : State) : Verdict :=
  let cs := focusCs s
  if hazard s cs .seq (claimsOf [] [.sreg .seq d]) 1 then .stall
  else match cs.occ with
    | none => .stall
    | some o =>
      let busy := ((getGang s o.launch o.gang).map (·.swap)).getD false
      if !busy && couldYield s ⟨o.launch, o.gang⟩ then
        .done { s := beginSwap (withCs s (setReg cs .seq d { val := 1 })) o.launch o.gang 0 false }
      else .done { s := withCs s (setReg cs .seq d { val := 0 }) }

/-- YIELD: Asks the scheduler to end the gang's slice early if a waiting gang can use the slots (R120). -/
def execYield (k : Ctl) (d : Nat) (s : State) : Out := issue (.yield k d) s (yieldBody d)

end Sys2Proof.Machine
end

