-- ==== Sys2Proof/Machine/Sched.lean ====
section
/-! DEFINITION. Placement rounds, pre-emption, stealing, and the failures of schedulers, workers and Quartz (R105, R111 to R113, R395 to R399). -/

namespace Sys2Proof.Machine

/-! ### Pre-emption (R111 to R113, R395) -/

/-- Cores that the resident gangs of a launch occupy. -/
def launchCores (l : Launch) : List Nat := l.gangs.flatMap fun g => if g.isResident then gangSlots l g else []

def isResidentLaunch (l : Launch) : Bool := l.gangs.any fun g => g.isResident

/-- A pre-emption begun on behalf of a gang is under way while a victim has not freed its cores. -/
def underWay (s : State) (g : Gang) : Bool := g.victims.any fun v => match getGang s v.1 v.2 with
  | some x => !x.left.isEmpty
  | none => false

/-- Victim launches in order: lowest class first, then highest number. -/
def insertVictim (x : Nat × Launch) : List (Nat × Launch) → List (Nat × Launch)
  | [] => [x]
  | y :: t => if [x.2.prio, 2 ^ 32 - x.1] < [y.2.prio, 2 ^ 32 - y.1] then x :: y :: t else y :: insertVictim x t
def victimOrder (s : State) (prio : Nat) : List (Nat × Launch) :=
  (s.disp.launches.filter fun p => isResidentLaunch p.2 && p.2.prio < prio).foldl (fun acc x => insertVictim x acc) []

/-- Victims until `ok` holds of those taken. -/
def takeVictims (ok : List (Nat × Launch) → Bool) : List (Nat × Launch) → List (Nat × Launch) → List Nat
  | _, [] => []
  | taken, v :: t => if ok taken then [] else v.1 :: takeVictims ok (taken ++ [v]) t

/-- The longest remaining time of the launch's resident teams. -/
def remainingMax (s : State) (l : Launch) : Nat :=
  (l.gangs.flatMap (·.teams)).foldl (fun m t => match t.st with
    | .resident c => max m (remaining s c)
    | _ => m) 0

inductive Policy where
  | kill | checkpoint | drain
  deriving DecidableEq, Repr

/-- The policy for a victim, by its mask: bit 0 kill, bit 1 checkpoint, bit 2 drain (R112). -/
def policyFor (mask est limit : Nat) : Policy :=
  if mask.testBit 2 && (est ≤ limit || mask % 8 == 4) then .drain
  else if mask.testBit 1 then .checkpoint
  else if mask.testBit 0 then .kill
  else .drain

/-- The package without a victim: a checkpointed one keeps its bank groups (R221). -/
def withoutVictim (s : State) (v : Nat × Launch) : State :=
  let keeps : Bool := policyFor v.2.pkt.pmask (remainingMax s v.2) s.disp.drain == .checkpoint
  { s with disp := { s.disp with launches := mdel s.disp.launches v.1 }, hub := { s.hub with rows := if keeps then s.hub.rows else s.hub.rows.filter fun p => p.2 != v.1 } }

/-- The victims' cores and those that the gang has reserved suffice: its teams find their places there (R395) (DEDUCED, log entry 43). -/
def coresSuffice (s : State) (r : GangRef) (l : Launch) (g : Gang) (vs : List (Nat × Launch)) : Bool :=
  let t := vs.foldl withoutVictim s
  let cores := g.reserved ++ vs.flatMap fun v => launchCores v.2
  (assign l.pkt.paired (rankOf t r l g) ((List.range 384).filter fun c => cores.contains c && usable t r l g g.target c) (toPlace t l g)).isSome

/-- Resident gangs of a launch. -/
def residentGangs (l : Launch) : List Nat := (l.gangs.mapIdx fun i g => (i, g)).filterMap fun p => if p.2.isResident then some p.1 else none

/-- Every resident gang of a launch is saved, and keeps its age. -/
def checkpointLaunch (s : State) (n : Nat) (l : Launch) : State :=
  (residentGangs l).foldl (fun s g => match getGang s n g with
    | some x => if x.swap then s else beginSwap s n g x.age false
    | none => s) s

/-- One victim is pre-empted on behalf of r; its resident gangs are noted before they leave. -/
def preemptOne (r : GangRef) (s : State) (n : Nat) : State :=
  match getLaunch s n with
  | none => s
  | some l =>
    let note (s : State) : State := updGang s r.launch r.gang fun g => { g with victims := g.victims ++ (residentGangs l).map fun i => (n, i) }
    match policyFor l.pkt.pmask (remainingMax s l) s.disp.drain with
    | .kill => killLaunch s n (trapCode .kill)
    | .checkpoint => checkpointLaunch (note s) n l
    | .drain => setLaunch (note s) n { (getLaunch (note s) n).getD l with draining := l.draining ++ [r.launch] }

def spendTokens (s : State) (q n : Nat) : State :=
  let x := mgetD {} s.disp.queues q
  { s with disp := { s.disp with queues := mset s.disp.queues q { x with tokens := x.tokens - n } } }

def tokensOf (s : State) (q : Nat) : Nat := (mgetD {} s.disp.queues q).tokens

/-- The head pre-empts when it still waits, its queue holds its tokens, a resident launch is of lower class, and no
pre-emption begun on its behalf is under way. A child launch has no queue of its own and never pre-empts (R389) (DEDUCED, log entry 47). -/
def preempt (s : State) (r : GangRef) : State :=
  match getLaunch s r.launch, getGang s r.launch r.gang with
  | some l, some g =>
    match l.queue with
    | none => s
    | some q =>
      let vs := victimOrder s l.prio
      if g.waiting && l.pkt.tokreq ≤ tokensOf s q && !vs.isEmpty && !underWay s g then
        let s := spendTokens s q l.pkt.tokreq
        (takeVictims (coresSuffice s r l g) [] vs).foldl (preemptOne r) s
      else s
  | _, _ => s

/-! ### The round -/

def ageGang (s : State) (r : GangRef) : State :=
  match getLaunch s r.launch, getGang s r.launch r.gang with
  | some l, some g => if inOrder s r l g then setGang s r.launch r.gang { g with age := g.age + 1 } else s
  | _, _ => s

/-- A round runs when a slot frees, a launch arrives or a gang is swapped out; a sleeping gang that has been woken arrives again (R105, R301)
(DEDUCED, log entry 47). -/
def roundCalled (s : State) : Bool := s.disp.roundDue || (placementOrder s).any fun g => g.2.2.asleep

/-- A gang that stands in the placement order sleeps no longer. -/
def awake (s : State) (r : GangRef) : State := updGang s r.launch r.gang fun g => { g with asleep := false }

/-- A placement round of Quartz. -/
def placementRound (s : State) : Option State :=
  if s.disp.quartzStopped || !roundCalled s then none
  else
    let s := endDrains { s with disp := { s.disp with roundDue := false } }
    let order := placementOrder s
    let s := placePart (fun r s => preempt s r) s
    some (order.foldl (fun s g => ageGang s g.1) (order.foldl (fun s g => awake s g.1) s))

/-- PLACEMENT_ROUND: Quartz reserves slots, places gangs, begins pre-emptions and ages waiting gangs (R395). -/
def execPlacementRound (s : State) : Out := evOut s (placementRound s)

/-! ### Stealing (R397) -/

/-- Neither of two stacks' schedulers has failed or is being returned. -/
def ownsList (s : State) (k : Nat) : Bool := (getSched s k).working

/-- The gang stands unstarted and unpinned on one stack. -/
def stealable (g : Gang) (k : Nat) : Bool :=
  (g.teams.all fun t => !t.started) && g.left.all fun p => p.2.pin.isNone && (match p.2.st with
    | .placed c => c / 48 == k
    | _ => false)

/-- Cores of the idle stack on which the gang fits. -/
def stealFit (s : State) (r : GangRef) (l : Launch) (g : Gang) (k : Nat) : Option (List (Nat × Nat)) :=
  let open' := (openCores s r l g none []).filter fun c => c / 48 == k
  let cores := if l.pkt.cluster then let j := bestCluster open'; open'.filter fun c => c / 8 == j else open'
  assign l.pkt.paired [k] cores g.left

/-- An idle stack asks a neighbour for a gang; the neighbour grants the request, or refuses it and nothing changes. -/
def gangSteal (stack launch gang : Nat) (s : State) : Option State :=
  let free := (List.range 48).any fun i => coreInService s (48 * stack + i) && !coreTaken s (48 * stack + i)
  if 8 ≤ stack || !free || !(getSched s stack).runList.isEmpty || !ownsList s stack then none
  else match getLaunch s launch, getGang s launch gang with
    | some l, some g =>
      let grants (k : Nat) : Bool := stealable g k && ownsList s k
      if g.left.isEmpty || !(grants ((stack + 1) % 8) || grants ((stack + 7) % 8)) then some s
      else match stealFit s ⟨launch, gang⟩ l g stack with
        | none => some s
        | some cs => some (callRound (placeGang (unplace s launch gang) ⟨launch, gang⟩ cs))
    | _, _ => none

/-- GANG_STEAL: An idle stack's scheduler asks a neighbour for an unstarted gang, which is granted or refused (R397). -/
def execGangSteal (stack : Nat) (launch gang : Nat) (s : State) : Out := evOut s (gangSteal stack launch gang s)

/-! ### Heartbeats and adoption (R398) -/

/-- A heartbeat, due 100 µs after the last; that of a failed scheduler says that it has been reset. -/
def heartbeat (stack : Nat) (s : State) : Option State :=
  let k := getSched s stack
  if 8 ≤ stack || (k.working && s.time < k.lastBeat + 100 * usec) then none
  else some (setSched s stack { k with lastBeat := s.time, returning := !k.working })

/-- SCHEDULER_HEARTBEAT (R398). -/
def execSchedulerHeartbeat (stack : Nat) (s : State) : Out := evOut s (heartbeat stack s)

/-- The nearest working scheduler after stack k. -/
def nextWorking (s : State) (k : Nat) : Option Nat := ((List.range 7).map fun i => (k + 1 + i) % 8).find? fun j => j != k && (getSched s j).working

def adoptList (s : State) (k : Nat) : State :=
  let x := getSched s k
  let a := nextWorking s k
  let s := setSched s k { x with working := false, returning := false, adopter := a }
  logHub s 0x080B [(1, k), (1, a.getD 0xFF)]

/-- A heartbeat has been missing for 1 ms: the run list is adopted, with those that the failed scheduler had adopted (DEDUCED, log entry 48). -/
def schedAdopt (stack : Nat) (s : State) : Option State :=
  let k := getSched s stack
  if 8 ≤ stack || !k.working || s.time < k.lastBeat + msec then none
  else
    let s := adoptList s stack
    some ((((List.range 8).filter fun j => (getSched s j).adopter == some stack)).foldl adoptList s)

/-- SCHED_ADOPT: A heartbeat is missing for 1 ms and the nearest working scheduler adopts the run list (R398). -/
def execSchedAdopt (stack : Nat) (s : State) : Out := evOut s (schedAdopt stack s)

/-- A slice boundary of the gangs that a stack times: one of their slices ends now, or there is none. -/
def sliceBoundary (s : State) (k : Nat) : Bool :=
  let first (g : Gang) : Option Nat := g.teams.findSome? fun t => match t.st with | .resident c => some c | _ => none
  let timed := (allGangs s).filter fun x => (first x.2.2).any fun c => c / 48 == k
  timed.isEmpty || timed.any fun x => x.2.2.swap || x.2.2.residentAt == some s.time

/-- A scheduler whose heartbeat has returned takes its run list back at a slice boundary. -/
def schedReturn (stack : Nat) (s : State) : Option State :=
  let k := getSched s stack
  if 8 ≤ stack || k.working || !k.returning || !sliceBoundary s stack then none
  else some (logHub (setSched s stack { k with working := true, returning := false, adopter := none }) 0x080B [(1, stack), (1, 0xFF)])

/-- SCHEDULER_RETURN: A reset scheduler whose heartbeat returns takes its run list back at a slice boundary (R398). -/
def execSchedulerReturn (stack : Nat) (s : State) : Out := evOut s (schedReturn stack s)

/-! ### Workers and Quartz (R399) -/

/-- The worker that serves a queue: worker n mod 8, or the next working one. -/
def workerOf (s : State) (q : Nat) : Option Nat := ((List.range 8).map fun i => (q + i) % 8).find? fun w => !s.disp.workersDown.contains w

def workerFails (w : Nat) (s : State) : Option State :=
  if 8 ≤ w || s.disp.workersDown.contains w then none
  else some { s with disp := { s.disp with workersDown := s.disp.workersDown ++ [w] } }

/-- WORKER_FAILOVER: A failed worker's queues pass to the next working worker (R399). -/
def execWorkerFailover (w : Nat) (s : State) : Out := evOut s (workerFails w s)

/-- A mismatch stops Quartz and is logged; a second within 1 s is fatal and freezes the rings. -/
def quartzMismatch (pc : Nat) (s : State) : Option State :=
  if s.disp.quartzStopped then none
  else
    let again := s.disp.quartzLast.any fun t => s.time < t + 1000 * msec
    let n := if again then s.disp.quartzCount + 1 else 1
    let s := { s with disp := { s.disp with quartzStopped := true, quartzLast := some s.time, quartzCount := n } }
    some (logHubSev s 0x080C (if again then 2 else 1) [(8, pc), (1, n)])

/-- QUARTZ_MISMATCH: The Quartz lock-step pair disagrees and stops; a second within 1 s is fatal (R399). -/
def execQuartzMismatch (pc : Nat) (s : State) : Out := evOut s (quartzMismatch pc s)

/-- Quartz restarts, within 1 ms of its stop (DEDUCED, log entry 48). -/
def quartzRestart (s : State) : Option State :=
  if s.disp.quartzStopped && s.disp.quartzLast.any (fun t => s.time ≤ t + msec) then some { s with disp := { s.disp with quartzStopped := false } } else none

/-- QUARTZ_RESTART: Quartz restarts from its saved placement state (R399). -/
def execQuartzRestart (s : State) : Out := evOut s (quartzRestart s)

end Sys2Proof.Machine
end

