-- ==== Sys2Proof/Machine/Front.lean ====
section
/-! DEFINITION. The dispatch front end: queues, packets and their checks, completion signals, graphs, children, and the retirement of launches (R93, R104, R108, R113, R117, R386 to R393). -/

namespace Sys2Proof.Machine

/-! ### Queues (R386 to R388) -/

def getQ (s : State) (q : Nat) : DispQ := mgetD {} s.disp.queues q
def setQ (s : State) (q : Nat) (x : DispQ) : State := { s with disp := { s.disp with queues := mset s.disp.queues q x } }

def DispQ.en (x : DispQ) : Bool := x.qctl.getLsbD 0
def DispQ.logSize (x : DispQ) : Nat := x.qctl.toNat >>> 8 % 32
def DispQ.prioMax (x : DispQ) : Nat := x.qctl.toNat >>> 5 % 8
def DispQ.rate (x : DispQ) : Nat := x.qctl.toNat >>> 16 % 65536
def DispQ.cap (x : DispQ) : Nat := x.qctl.toNat >>> 32 % 65536
def DispQ.asid (x : DispQ) : Nat := x.qctl.toNat >>> 48
/-- Packets written and not copied. -/
def DispQ.fill (x : DispQ) : Nat := (x.wptr + 2 ^ 32 - x.rptr % 2 ^ 32) % 2 ^ 32

/-- The queue is disabled with ERR. -/
def DispQ.fail (x : DispQ) : DispQ := { x with qctl := (x.qctl &&& ~~~(1 : Word)) ||| 2 }

/-- A write of the write index. -/
def dispQwptr (q v : Nat) (s : State) : Option State :=
  if 64 ≤ q then none
  else
    let x := { getQ s q with wptr := v % 2 ^ 32 }
    some (setQ s q (if 2 ^ x.logSize < x.fill then x.fail else x))

/-- Writable fields of DISP_QCTL. -/
def qctlMask : Word := 0xFFFFFFFFFFFF1FE1

/-- A write of queue control: ERR is cleared by a 1; a queue is not enabled outside of normal running (R419). -/
def dispQctl (q : Nat) (v : Word) (s : State) : Option State :=
  if 64 ≤ q then none
  else
    let x := getQ s q
    let v' := if s.fw.boot = .running then v else v &&& ~~~(1 : Word)
    let err : Word := if v.getLsbD 1 then 0 else x.qctl &&& 2
    let y := { x with qctl := (v' &&& qctlMask) ||| err, tokens := if !x.en && v'.getLsbD 0 then 0 else x.tokens }
    let bad := y.logSize < 4 || 16 < y.logSize || 2 ^ y.logSize < y.fill
    some (setQ s q (if y.en && bad then y.fail else y))

/-- A tick of the package timer: each enabled queue gains its rate, up to its cap. -/
def tokenTick (s : State) : Option State :=
  if s.time < (s.disp.ticks + 1) * msec then none
  else
    let gain (x : DispQ) : DispQ := if x.en then { x with tokens := min (x.tokens + x.rate) x.cap } else x
    some { s with disp := { s.disp with ticks := s.disp.ticks + 1, queues := s.disp.queues.map fun (p : Nat × DispQ) => (p.1, gain p.2) } }

/-- TOKEN_TICK: Every 1 ms each enabled queue gains RATE tokens up to CAP (R388). -/
def execTokenTick (s : State) : Out := evOut s (tokenTick s)

/-! ### Completion signals (R391) -/

/-- The signal word after its update (DEDUCED, log entry 46). -/
def newSignal (old status : Nat) : Nat :=
  let st := old >>> 32
  let st' := if st = 0 then status else st
  (old % 2 ^ 32 + 2 ^ 32 - 1) % 2 ^ 32 + st' * 2 ^ 32

/-- One read-modify-write at the signal's home (DEDUCED, log entry 46). Of a signal that is not 8-byte aligned, whose packet
has failed, the bytes up to the end of the 128-byte line are updated (DESIGN CHOICE, log entry 72). -/
def signalPut (s : State) (n asid va status : Nat) : Try State :=
  if va = 0 then .ok s
  else match vaClass s va with
    | .remote p => .ok (if s.rou.lostPkgs.contains p then s else sendPacket s (.signal p va status))
    | _ =>
      match reach s asid va .readWrite with
      | .error .pageMoving => .error .wait
      | .error t => .ok (logHub s 0x080A [(4, n), (8, va), (2, trapCode t)])
      | .ok (s, x, .dram _ _) =>
        let key := keyOf s asid va
        let m := byteMask (va % 128) 8
        match homePull (fillLine s key x.pa (permBits x) 0 none) key (wordsOf m) with
        | .error e => .error e
        | .ok (s, l) =>
          let old := leNat (lineBytes l.data (va % 128) 8)
          .ok (writeLine s l (bytesAt (va % 128) (leBytes 8 (newSignal old status))) 0 m)
      | .ok (s, x, _) => (hostTry s 0 n x.pa true).map fun r =>
        let old := leNat ((List.range 8).map fun i => Config.hostByte (x.pa + i) s.fresh)
        let s := r.1
        if !r.2 then logHub s 0x080A [(4, n), (8, va), (2, trapCode .busError)]
        else { s with fresh := s.fresh + 1, fw := { s.fw with hostOut := (x.pa, leBytes 8 (newSignal old status)) :: s.fw.hostOut } }

/-! ### The checks of a packet (R93, R97, R389, R390) -/

def badPacket : Nat := 0xFFFF0001
def noVariant : Nat := 0xFFFF0002
def noFit : Nat := 0xFFFF0003
def flagsMismatch : Nat := 0xFFFF0004
def noPolicy : Nat := 0xFFFF0005
def badGraph : Nat := 0xFFFF0006
def killedStatus : Nat := 0xFFFF0010
def lostStatus : Nat := 0xFFFF0011
def cancelledStatus : Nat := 0xFFFF0012
def stallStatus : Nat := 0xFFFF0013

/-- The largest gang for the packet's flags. -/
def teamLimit (p : DPacket) : Nat := (if p.cluster then 8 else 384) / (if p.paired then 2 else 1)

/-- Fields that every packet must have right; a child's class and module are not its own (DEDUCED, log entry 44). -/
def commonOk (p : DPacket) (child : Bool) (prioMax : Nat) : Bool :=
  !p.resv && p.signal % 8 == 0 && (child || (p.prio ≤ prioMax && p.module ≤ 255))

/-- The variant of level 1, or else the highest below (R93). -/
def bestVariant (vs : List Variant) : Option Variant :=
  (vs.filter fun v => v.isa ≤ 1).foldl (fun b v => match b with
    | none => some v
    | some w => if w.isa < v.isa then some v else some w) none

/-- The checks of a launch in table order (DEDUCED, log entry 44). -/
def checkLaunch (s : State) (p : DPacket) (child : Bool) (prioMax module : Nat) : Except Nat Variant :=
  if !commonOk p child prioMax || p.gangs < 1 || 65536 < p.gangs || p.teams < 1 || teamLimit p < p.teams || p.param % 8 != 0 then .error badPacket
  else match (mget s.fw.modules module).bind fun m => m.objs[p.code]? with
    | none => .error badPacket
    | some vs =>
      match bestVariant vs with
      | none => .error noVariant
      | some v =>
        if p.param = 0 && v.paramsz ≠ 0 then .error badPacket
        else if !couldFit s { pkt := p } then .error noFit
        else if p.paired ≠ v.flags.testBit 0 || p.cluster ≠ v.flags.testBit 1 then .error flagsMismatch
        else if p.pmask = 0 then .error noPolicy
        else .ok v

/-- The next launch number (R387). -/
def takeNumber (s : State) : State × Nat :=
  let n := s.disp.nextLaunch
  ({ s with disp := { s.disp with nextLaunch := if n = 0xFFFFFFFF then 1 else n + 1 } }, n)

/-- A failed packet is reported (R390, R430). -/
def reportFailure (s : State) (n asid status : Nat) : State :=
  postReport s { kind := 3, code := status % 65536, launch := n, asid := asid, status := status }

/-- Every shard of an image that this package holds is VALID (R412). -/
def imageReady (s : State) (module image : Nat) : Bool :=
  s.fw.shards.all fun h => !(h.module == module && h.image == image && h.pkg == s.pkg) || h.st == .valid

/-- The launch's gangs enter the placement order, which makes a round run (R105), unless its weight image is not ready. -/
def addLaunch (s : State) (n : Nat) (l : Launch) (v : Variant) : State :=
  let gang : Gang := { teams := List.replicate l.pkt.teams {} }
  let hold := v.flags.testBit 2 && !imageReady s l.module v.wimage
  let s := setLaunch s n { l with var := some v, gangs := List.replicate l.pkt.gangs gang, heldImage := hold,
                                  codeBase := Config.codeBase l.asid l.module l.pkt.code / 65536 * 65536 % 2 ^ 64 }
  if hold then logHub s 0x0812 [(4, n), (1, l.module), (4, v.wimage)] else callRound s

/-! ### Graphs (R392, R393) -/

def getGraph (s : State) (n : Nat) : Option Graph := mget s.disp.graphs n
def setGraph (s : State) (n : Nat) (g : Graph) : State := { s with disp := { s.disp with graphs := mset s.disp.graphs n g } }

def setNode (g : Graph) (i : Nat) (f : GNode → GNode) : Graph := { g with nodes := g.nodes.mapIdx fun j x => if j = i then f x else x }

/-- A node has ended: with status 0 each naming of a successor lowers its counter by one. -/
def endNode (g : Graph) (i status : Nat) : Graph :=
  let succ := ((g.nodes[i]?).map (·.succ)).getD []
  let g := setNode g i fun x => { x with st := .done status }
  if status = 0 then { g with nodes := g.nodes.mapIdx fun j x => { x with preds := x.preds - succ.count j } } else g

def isIdle (x : GNode) : Bool := x.st == .idle
def isFailed (x : GNode) : Bool := match x.st with
  | .done st => st != 0
  | _ => false
def isRunning (x : GNode) : Bool := match x.st with
  | .running _ => true
  | _ => false

/-- A node that has not been launched and names a failed or cancelled node as a predecessor. -/
def isDoomed (g : Graph) (j : Nat) (x : GNode) : Bool := isIdle x && g.nodes.any fun y => isFailed y && y.succ.contains j

/-- A node's packet is checked as it is launched. -/
def launchNode (s : State) (n i : Nat) (g : Graph) (x : GNode) : Try State :=
  let (s, m) := takeNumber s
  let p := { x.pkt with barrier := false }
  let max := (getQ s g.queue).prioMax
  let fails (st : Nat) : Try State := (signalPut (reportFailure s m g.asid st) m g.asid p.signal st).map fun s => setGraph s n (endNode g i st)
  if p.type = 3 then
    if !commonOk p false max then fails badPacket
    else (signalPut s m g.asid p.signal 0).map fun s => setGraph s n (endNode g i 0)
  else if p.type ≠ 1 then fails badPacket
  else match checkLaunch s p false max p.module with
    | .error st => fails st
    | .ok v =>
      let l : Launch := { queue := some g.queue, asid := g.asid, prio := p.prio, module := p.module, pkt := p, node := some (n, i) }
      .ok (setGraph (addLaunch s m l v) n (setNode g i fun x => { x with st := .running m }))

/-- A node is cancelled with a status, which its own signal receives. -/
def cancelNode (s : State) (n i : Nat) (g : Graph) (x : GNode) (st : Nat) : Try State :=
  (signalPut s n g.asid x.pkt.signal st).map fun s => setGraph s n (endNode g i st)

/-- Every node of a stalled graph that has been neither launched nor cancelled is cancelled with GRAPH_STALL, and its signal receives it. -/
def stallNodes (s : State) (n : Nat) (g : Graph) : Try State :=
  let g' := { g with nodes := g.nodes.map fun x => if isIdle x then { x with st := .done stallStatus } else x }
  (g.nodes.filter isIdle).foldl (fun (r : Try State) x => r.bind fun s => signalPut s n g.asid x.pkt.signal stallStatus) (.ok (setGraph s n g'))

/-- Index and node of the lowest-numbered node that meets a test. -/
def firstNode (g : Graph) (f : Nat → GNode → Bool) : Option (Nat × GNode) :=
  (g.nodes.mapIdx fun i x => (i, x)).find? fun p => f p.1 p.2

/-- The graph's status: that of its lowest-numbered node whose status is not zero. -/
def graphStatus (g : Graph) : Nat := (g.nodes.findSome? fun x => match x.st with
  | .done st => if st = 0 then none else some st
  | _ => none).getD 0

/-- A graph goes on as far as it can: nodes whose counter is 0 are launched, doomed ones cancelled, those of a stalled graph too; at the
end the graph's own signal is updated and the graph is gone. -/
def runGraph : Nat → State → Nat → Try State
  | 0, s, _ => .ok s
  | k + 1, s, n =>
    match getGraph s n with
    | none => .ok s
    | some g =>
      match firstNode g (fun _ x => isIdle x && x.preds == 0) with
      | some (i, x) => (launchNode s n i g x).bind fun s => runGraph k s n
      | none =>
        match firstNode g (isDoomed g) with
        | some (i, x) => (cancelNode s n i g x cancelledStatus).bind fun s => runGraph k s n
        | none =>
          if g.nodes.any isRunning then .ok s
          else if g.nodes.any isIdle then (stallNodes s n g).bind fun s => runGraph k s n
          else (signalPut s n g.asid g.signal (graphStatus g)).map fun s => { s with disp := { s.disp with graphs := mdel s.disp.graphs n } }

def goGraph (s : State) (n : Nat) : Try State := runGraph (((getGraph s n).map (·.nodes.length)).getD 0 + 1) s n

/-- Node bytes as they stand in the table. -/
def nodeOf (bs : List Byte) : GNode :=
  let f (o n : Nat) : Nat := leNat ((bs.drop o).take n)
  { pkt := packetOfBytes (bs.take 64), preds := f 0x40 4, succ := (List.range (min (f 0x44 2) 14)).map fun i => f (0x48 + 4 * i) 4 }

/-- What a node's own bytes must hold: NSUCC at most 14, zeros where the table has them (DEDUCED, log entry 45). -/
def nodeFormed (bs : List Byte) : Bool :=
  let f (o n : Nat) : Nat := leNat ((bs.drop o).take n)
  f 0x44 2 ≤ 14 && f 0x46 2 == 0 && (bs.drop (0x48 + 4 * f 0x44 2)).all (· == 0)

/-- Every successor exists, and every PREDS is the number of times that its node is named. -/
def graphFormed (ns : List GNode) : Bool :=
  ns.all (fun x => x.succ.all (· < ns.length)) &&
    (ns.mapIdx fun j x => (ns.foldl (fun c y => c + y.succ.count j) 0) == x.preds).all id

/-- The node table is copied, node by node; none when it cannot be read (DEDUCED, log entry 45). -/
def readTable (asid va : Nat) : Nat → State → Try (State × Option (List (List Byte)))
  | 0, s => .ok (s, some [])
  | k + 1, s =>
    match reach s asid va .load with
    | .error _ => .ok (s, none)
    | .ok (s, x, .dram _ _) =>
      let key := keyOf s asid va
      let s := fillLine s key x.pa (permBits x) 0 none
      match getLine s key with
      | none => .error .wait
      | some l =>
        match homePeek s l with
        | .error e => .error e
        | .ok d => (readTable asid (va + 128) k s).map fun r => (r.1, r.2.map fun t => lineBytes d.1 0 128 :: t)
    | .ok (s, x, _) =>
      match hostTry s 1 va x.pa false with
      | .error e => .error e
      | .ok (s, false) => .ok (s, none)
      | .ok (s, true) =>
        let bs := (List.range 128).map fun i => Config.hostByte (x.pa + i) s.fresh
        (readTable asid (va + 128) k { s with fresh := s.fresh + 1 }).map fun r => (r.1, r.2.map fun t => bs :: t)

/-- A GRAPH packet: its table is copied and checked, and its first nodes are launched. -/
def startGraph (s : State) (n q asid : Nat) (p : DPacket) : Try State :=
  let fails (s : State) (st : Nat) : Try State := signalPut (reportFailure s n asid st) n asid p.signal st
  if !commonOk p false (getQ s q).prioMax || p.gangs < 1 || 65536 < p.gangs || p.param % 128 != 0 then fails s badPacket
  else match readTable asid p.param p.gangs s with
    | .error e => .error e
    | .ok (s, none) => fails s badGraph
    | .ok (s, some bss) =>
      let ns := bss.map nodeOf
      if bss.all nodeFormed && graphFormed ns then
        goGraph (setGraph s n { queue := q, signal := p.signal, asid := asid, nodes := ns }) n
      else fails s badGraph

/-! ### A packet of a queue (R387, R390) -/

/-- Launches and graphs of a queue that have not retired. -/
def queueBusy (s : State) (q : Nat) : Bool :=
  s.disp.launches.any (fun p => p.2.queue == some q) || s.disp.graphs.any fun p => p.2.queue == q

/-- The bytes of the next packet of a ring; a read that ends in a bus error leaves open values (R17) (DESIGN CHOICE, log entry 65). -/
def ringPacket (s : State) (x : DispQ) : Try (State × List Byte) :=
  let pa := x.qbase.toNat / 64 * 64 + 64 * (x.rptr % 2 ^ x.logSize)
  let lost (s : State) : State × List Byte := ({ s with fresh := s.fresh + 1 }, (List.range 64).map fun i => Config.busByte (pa + i) s.fresh)
  if !paMapped s pa then .ok (lost s)
  else if 2 ^ 40 ≤ pa then (hostTry s 2 0 pa false).map fun r => if r.2 then ({ r.1 with fresh := s.fresh + 1 }, physBytes s pa 64) else lost r.1
  else match lineAtPa s pa with
    | none => .ok (s, physBytes s pa 64)
    | some l => (homePeek s l).map fun d => (s, lineBytes d.1 (pa % 128) 64)

/-- The front end takes up a packet of queue q. -/
def takePacketOf (s : State) (q : Nat) (p : DPacket) : Try State :=
  let x := getQ s q
  let (s, n) := takeNumber s
  let fails (st : Nat) : Try State := signalPut (reportFailure s n x.asid st) n x.asid p.signal st
  match p.type with
  | 1 =>
    match checkLaunch s p false x.prioMax p.module with
    | .error st => fails st
    | .ok v => .ok (addLaunch s n { queue := some q, asid := x.asid, prio := p.prio, module := p.module, pkt := p } v)
  | 2 => startGraph s n q x.asid p
  | 3 => if commonOk p false x.prioMax then signalPut s n x.asid p.signal 0 else fails badPacket
  | _ => fails badPacket

/-- A worker copies the next packet of its queue and takes it up; a BARRIER packet waits for every earlier launch of the queue, uncopied in its ring
(DESIGN CHOICE, log entry 72); what was asked of host memory for it is asked again later. -/
def packetCopy (q : Nat) (s : State) : Option State :=
  let x := getQ s q
  if 64 ≤ q || !x.en || x.fill = 0 || (workerOf s q).isNone then none
  else match ringPacket s x with
    | .error e => tried s (.error e)
    | .ok (s1, bs) =>
      let p := packetOfBytes bs
      if p.barrier && queueBusy s q then
        (if s1.hub.hostAsks = s.hub.hostAsks then none else some { s with hub := { s.hub with hostAsks := s1.hub.hostAsks } })
      else tried s (takePacketOf (setQ s1 q { x with rptr := (x.rptr + 1) % 2 ^ 32 }) q p)

/-- PACKET_COPY: A worker copies the next packet, assigns a launch number and checks it (R390). -/
def execPacketCopy (q : Nat) (s : State) : Out := evOut s (packetCopy q s)

/-! ### Children (R108, R117, R118) -/

/-- A child's slot in the table of its parent's half, on its core or in its record. -/
def childDone (s : State) (o : Occ) (id status : Nat) : State :=
  let upd (c : Child) : Child := if c.id = id && !c.retired then { c with status := status, retired := true } else c
  let cores := s.cores.map fun (p : Nat × CoreSt) => (p.1, if p.2.occ = some o then { p.2 with children := p.2.children.map upd } else p.2)
  let slot (r : Record) : Option Nat := (List.range 256).find? fun i => recNat r (0x5000 + 16 * i) 4 == id && recNat r (0x5008 + 16 * i) 1 == 1
  let recs := s.fw.records.map fun r =>
    if r.occ = o then match slot r with
      | some i => recPut (recPut r (0x5004 + 16 * i) 4 status) (0x5008 + 16 * i) 1 2
      | none => r
    else r
  { s with cores := cores, fw := { s.fw with records := recs } }

/-- The front end checks a child packet; a failed one retires at once. -/
def childDispatch (parent child : Nat) (s : State) : Option State :=
  match s.disp.children.find? fun x => x.2.1 == parent && x.2.2.2.2.2 == child with
  | none => none
  | some (p, l, g, t, h, id) =>
    match getLaunch s l with
    | none => none
    | some pl =>
      let (s1, n) := takeNumber { s with disp := { s.disp with children := s.disp.children.erase (p, l, g, t, h, id) } }
      let r := if p.type = 1 then checkLaunch s1 p true 0 pl.module else .error badPacket
      match r with
      | .error st => tried s ((signalPut (reportFailure s1 n pl.asid st) n pl.asid p.signal st).map fun s => childDone s ⟨l, g, t, h⟩ id st)
      | .ok v => some (addLaunch s1 n { asid := pl.asid, prio := pl.prio, depth := pl.depth + 1, module := pl.module, pkt := p,
                                        parent := some (l, g, t, h, id) } v)

/-- CHILD_DISPATCH: The front end checks a child packet and enters its gangs into placement or retires it failed (R117). -/
def execChildDispatch (parent child : Nat) (s : State) : Out := evOut s (childDispatch parent child s)

/-! ### Retirement of a launch (R104, R108, R113, R221, R391) -/

/-- Replies that a killed launch still awaits, to be discarded. -/
def discardsPending (s : State) (n : Nat) : Bool :=
  s.rou.slots.any fun p => (p.2.bound.map (·.launch)) == some n && p.2.out.any fun o => o.discard

def teamExit (t : Team) : Nat := match t.st with
  | .exited v => v
  | _ => 0

/-- The launch's status: that of the lowest (gang, team) whose status is not zero. -/
def launchStatus (l : Launch) : Nat :=
  match l.killed with
  | some c => if c = trapCode .stackLost then lostStatus else killedStatus
  | none => ((l.gangs.flatMap (·.teams)).find? fun t => teamExit t != 0).elim 0 teamExit

/-- The launch has children, submitted or launched, that have not retired. -/
def hasChildren (s : State) (n : Nat) : Bool :=
  s.disp.children.any (fun x => x.2.1 == n) || s.disp.launches.any fun p => (p.2.parent.map (·.1)) == some n

/-- Every bank group of the launch returns to line mode. -/
def reclaimAll (s : State) (n : Nat) : State :=
  (s.hub.rows.filter fun p => p.2 == n).foldl (fun s p => reclaimGroup s (p.1 / 16) (p.1 % 16)) s

/-- An entry of the discarded-reply list: handle, owner package, serial, and four zero bytes. -/
def discardBytes (x : Nat × Nat × Nat) : List Byte := leBytes 6 x.1 ++ leBytes 2 x.2.1 ++ leBytes 4 x.2.2 ++ leBytes 4 0

/-- The kill report lists the replies that were discarded; the list stands in the context area of the first team (R430) (DESIGN CHOICE, log entry 71). -/
def reportKill (s : State) (n : Nat) (l : Launch) : State :=
  match l.killed with
  | none => s
  | some c =>
    let s := match s.fw.areas.find? fun a => a.1 == ⟨n, 0, 0, 0⟩ with
      | some a => writeDram s a.2 (l.discards.flatMap discardBytes)
      | none => s
    postReport s { kind := 4, code := c, launch := n, asid := l.asid, status := launchStatus l, ctx := recordAddr s ⟨n, 0, 0, 0⟩,
                             count := l.discards.length, list := l.discards }

/-- All teams and descendants have retired: the launch retires; a killed one only when its report can be written (R430). -/
def launchRetire (launch : Nat) (s : State) : Option State :=
  match getLaunch s launch with
  | none => none
  | some l =>
    if !(l.gangs.all fun g => g.left.isEmpty) || hasChildren s launch || (l.killed.isSome && (discardsPending s launch || reportsWait s)) then none
    else
      let st := launchStatus l
      let s1 := reclaimAll (reportKill s launch l) launch
      tried s ((signalPut s1 launch l.asid l.pkt.signal st).bind fun s =>
        let s := { s with disp := { s.disp with launches := mdel s.disp.launches launch } }
        let s := if l.killed.isSome then s else freeAreas s fun o => o.launch == launch
        let s := match l.parent with
          | some (a, g, t, h, id) => childDone s ⟨a, g, t, h⟩ id st
          | none => s
        match l.node with
        | none => .ok s
        | some (gn, i) =>
          match getGraph s gn with
          | some g => goGraph (setGraph s gn (endNode g i st)) gn
          | none => .ok s)

/-- LAUNCH_RETIRE: All teams and descendants have retired; the launch retires (R108). -/
def execLaunchRetire (launch : Nat) (s : State) : Out := evOut s (launchRetire launch s)

end Sys2Proof.Machine
end

