-- ==== Sys2Proof/Machine/Sha.lean ====
section
/-! DEFINITION. SHA-384, the hash algorithm that the manual names (R96, R413, R418, R420), as FIPS 180-4 defines it. -/

namespace Sys2Proof.Machine

def shaK0 : List Nat :=
  [0x428A2F98D728AE22, 0x7137449123EF65CD, 0xB5C0FBCFEC4D3B2F, 0xE9B5DBA58189DBBC,
   0x3956C25BF348B538, 0x59F111F1B605D019, 0x923F82A4AF194F9B, 0xAB1C5ED5DA6D8118,
   0xD807AA98A3030242, 0x12835B0145706FBE, 0x243185BE4EE4B28C, 0x550C7DC3D5FFB4E2,
   0x72BE5D74F27B896F, 0x80DEB1FE3B1696B1, 0x9BDC06A725C71235, 0xC19BF174CF692694]
def shaK1 : List Nat :=
  [0xE49B69C19EF14AD2, 0xEFBE4786384F25E3, 0x0FC19DC68B8CD5B5, 0x240CA1CC77AC9C65,
   0x2DE92C6F592B0275, 0x4A7484AA6EA6E483, 0x5CB0A9DCBD41FBD4, 0x76F988DA831153B5,
   0x983E5152EE66DFAB, 0xA831C66D2DB43210, 0xB00327C898FB213F, 0xBF597FC7BEEF0EE4,
   0xC6E00BF33DA88FC2, 0xD5A79147930AA725, 0x06CA6351E003826F, 0x142929670A0E6E70]
def shaK2 : List Nat :=
  [0x27B70A8546D22FFC, 0x2E1B21385C26C926, 0x4D2C6DFC5AC42AED, 0x53380D139D95B3DF,
   0x650A73548BAF63DE, 0x766A0ABB3C77B2A8, 0x81C2C92E47EDAEE6, 0x92722C851482353B,
   0xA2BFE8A14CF10364, 0xA81A664BBC423001, 0xC24B8B70D0F89791, 0xC76C51A30654BE30,
   0xD192E819D6EF5218, 0xD69906245565A910, 0xF40E35855771202A, 0x106AA07032BBD1B8]
def shaK3 : List Nat :=
  [0x19A4C116B8D2D0C8, 0x1E376C085141AB53, 0x2748774CDF8EEB99, 0x34B0BCB5E19B48A8,
   0x391C0CB3C5C95A63, 0x4ED8AA4AE3418ACB, 0x5B9CCA4F7763E373, 0x682E6FF3D6B2B8A3,
   0x748F82EE5DEFB2FC, 0x78A5636F43172F60, 0x84C87814A1F0AB72, 0x8CC702081A6439EC,
   0x90BEFFFA23631E28, 0xA4506CEBDE82BDE9, 0xBEF9A3F7B2C67915, 0xC67178F2E372532B]
def shaK4 : List Nat :=
  [0xCA273ECEEA26619C, 0xD186B8C721C0C207, 0xEADA7DD6CDE0EB1E, 0xF57D4F7FEE6ED178,
   0x06F067AA72176FBA, 0x0A637DC5A2C898A6, 0x113F9804BEF90DAE, 0x1B710B35131C471B,
   0x28DB77F523047D84, 0x32CAAB7B40C72493, 0x3C9EBE0A15C9BEBC, 0x431D67C49C100D4C,
   0x4CC5D4BECB3E42B6, 0x597F299CFC657E2A, 0x5FCB6FAB3AD6FAEC, 0x6C44198C4A475817]
/-- The 80 round constants. -/
def shaK : List Nat := shaK0 ++ shaK1 ++ shaK2 ++ shaK3 ++ shaK4

/-- The eight starting words. -/
def shaInit : List Nat :=
  [0xCBBB9D5DC1059ED8, 0x629A292A367CD507, 0x9159015A3070DD17, 0x152FECD8F70E5939,
   0x67332667FFC00B31, 0x8EB44A8768581511, 0xDB0C2E0D64F98FA7, 0x47B5481DBEFA4FA4]

def shaAdd (a b : Nat) : Nat := (a + b) % 2 ^ 64
def shaRot (x n : Nat) : Nat := x >>> n ||| (x <<< (64 - n)) % 2 ^ 64
def shaBig0 (x : Nat) : Nat := shaRot x 28 ^^^ shaRot x 34 ^^^ shaRot x 39
def shaBig1 (x : Nat) : Nat := shaRot x 14 ^^^ shaRot x 18 ^^^ shaRot x 41
def shaSmall0 (x : Nat) : Nat := shaRot x 1 ^^^ shaRot x 8 ^^^ x >>> 7
def shaSmall1 (x : Nat) : Nat := shaRot x 19 ^^^ shaRot x 61 ^^^ x >>> 6
def shaCh (x y z : Nat) : Nat := (x &&& y) ^^^ ((2 ^ 64 - 1 - x) &&& z)
def shaMaj (x y z : Nat) : Nat := (x &&& y) ^^^ (x &&& z) ^^^ (y &&& z)

/-- Big-endian number of a list of bytes, and the n bytes of a number, high byte first. -/
def beNat (l : List Byte) : Nat := l.foldl (fun n b => 256 * n + b.toNat) 0
def beBytes (n x : Nat) : List Byte := (leBytes n x).reverse

/-- The message schedule, extended one word at a time; the newest word stands first. -/
def shaExtend : Nat → List Nat → List Nat
  | 0, w => w
  | k + 1, w =>
    shaExtend k (shaAdd (shaAdd (shaSmall1 (w.getD 1 0)) (w.getD 6 0)) (shaAdd (shaSmall0 (w.getD 14 0)) (w.getD 15 0)) :: w)

/-- The 80 words of a block of 128 bytes. -/
def shaWords (b : List Byte) : List Nat := (shaExtend 64 ((List.range 16).map fun i => beNat ((b.drop (8 * i)).take 8)).reverse).reverse

/-- One round. -/
def shaRound (v : List Nat) (kw : Nat × Nat) : List Nat :=
  let g (i : Nat) : Nat := v.getD i 0
  let t1 := shaAdd (shaAdd (g 7) (shaBig1 (g 4))) (shaAdd (shaCh (g 4) (g 5) (g 6)) (shaAdd kw.1 kw.2))
  let t2 := shaAdd (shaBig0 (g 0)) (shaMaj (g 0) (g 1) (g 2))
  [shaAdd t1 t2, g 0, g 1, g 2, shaAdd (g 3) t1, g 4, g 5, g 6]

def shaBlock (h : List Nat) (b : List Byte) : List Nat :=
  List.zipWith shaAdd h ((List.zip shaK (shaWords b)).foldl shaRound h)

/-- Blocks of 128 bytes, at most `k` of them. -/
def shaBlocks : Nat → List Nat → List Byte → List Nat
  | 0, h, _ => h
  | k + 1, h, m => if m.isEmpty then h else shaBlocks k (shaBlock h (m.take 128)) (m.drop 128)

/-- The message with its padding and length. -/
def shaPad (m : List Byte) : List Byte :=
  m ++ [0x80] ++ List.replicate ((239 - m.length % 128) % 128) 0 ++ beBytes 16 (8 * m.length)

def sha384 (m : List Byte) : BitVec 384 :=
  let p := shaPad m
  BitVec.ofNat 384 (beNat (((shaBlocks (p.length / 128) shaInit p).take 6).flatMap (beBytes 8)))

/-- The 48 bytes of a digest as they stand in memory. -/
def digestBytes (d : BitVec 384) : List Byte := beBytes 48 d.toNat
def digestOf (bs : List Byte) : BitVec 384 := BitVec.ofNat 384 (beNat bs)

end Sys2Proof.Machine
end

