-- ==== Sys2Proof/Machine/Firmware.lean ====
section
/-! DEFINITION. The firmware mailbox and its actions on teams, launches, pages and bank groups (R113, R220 to R222, R275, R361, R367, R368, R428, R429). -/

namespace Sys2Proof.Machine

/-! ### Slots (R428) -/

/-- n bytes at an offset of firmware's copy of a request; a slot has 32 words of 8 bytes (DEDUCED, log entry 9). -/
def slotField (s : State) (slot off n : Nat) : Nat :=
  ((mgetD 0 s.fw.mbxReq (32 * slot + off / 8)).toNat >>> (8 * (off % 8))) % 256 ^ n

/-- Firmware copies the request of a slot as its doorbell rings (DESIGN CHOICE, log entry 71). -/
def copySlot (s : State) (slot : Nat) : State :=
  { s with fw := { s.fw with mbxReq := (List.range 32).foldl (fun m k => mputD 0 m (32 * slot + k) (mgetD 0 s.fw.mbx (32 * slot + k))) s.fw.mbxReq } }

/-- n bytes of an answer, in the slot itself (DEDUCED, log entry 9). -/
def putSlot (s : State) (slot off n v : Nat) : State :=
  let k := 32 * slot + off / 8
  let w := (mgetD 0 s.fw.mbx k).toNat
  let b := 8 * (off % 8)
  let w' := w - ((w >>> b) % 256 ^ n) <<< b + (v % 256 ^ n) <<< b
  { s with fw := { s.fw with mbx := mputD 0 s.fw.mbx k (BitVec.ofNat 64 w') } }

/-- Fields of a request: offset and size. -/
inductive SlotField where
  | asid | launch | core | mask | unit | module | tmo | image | nblk | addr | len | gang | team | kslot | mr
  deriving DecidableEq, Repr

def SlotField.place : SlotField → Nat × Nat
  | .asid => (2, 2) | .launch => (4, 4) | .core => (8, 2) | .mask => (10, 2) | .unit => (12, 1) | .module => (13, 1) | .tmo => (14, 2)
  | .image => (0x10, 4) | .nblk => (0x14, 4) | .addr => (0x18, 8) | .len => (0x20, 8) | .gang => (0x28, 4) | .team => (0x2C, 2)
  | .kslot => (0x2E, 1) | .mr => (0x2F, 1)

def allSlotFields : List SlotField :=
  [.asid, .launch, .core, .mask, .unit, .module, .tmo, .image, .nblk, .addr, .len, .gang, .team, .kslot, .mr]

def fieldOf (s : State) (slot : Nat) (f : SlotField) : Nat := slotField s slot f.place.1 f.place.2

/-- Fields that an action uses (R429); none for a value assigned to no action. -/
def actionFields : Nat → Option (List SlotField)
  | 0 | 1 => some [.launch, .core, .mask]
  | 8 | 9 => some [.unit]
  | 10 => some [.module, .image, .addr, .nblk, .tmo]
  | 11 => some [.module, .image]
  | 16 => some [.launch, .gang, .team]
  | 17 => some [.launch]
  | 18 | 19 => some [.asid, .addr, .len]
  | 24 | 25 => some [.kslot, .addr, .len]
  | 26 => some [.mr, .addr]
  | 32 => some [.module, .addr, .len]
  | 33 => some [.module]
  | _ => none

def mbxDone : Nat := 0
def mbxConflict : Nat := 1
def mbxOutOfService : Nat := 2
def mbxBusyCode : Nat := 3
def mbxBad : Nat := 4
def mbxLoadFailed : Nat := 5
def mbxStackLost : Nat := 6
def mbxDenied : Nat := 7

/-- Fields that the action does not use, the answer fields SHARD and CHUNK among them, and the reserved bytes are zero (DEDUCED, log entry 49). -/
def slotFormed (s : State) (slot : Nat) : Bool :=
  match actionFields (slotField s slot 0 1) with
  | none => false
  | some fs => (allSlotFields.all fun f => fs.contains f || fieldOf s slot f == 0) &&
      (List.range 26).all fun j => mgetD 0 s.fw.mbxReq (32 * slot + 6 + j) == 0

/-- The answer: STATUS, the slot's done bit, and the vector when it is enabled (DEDUCED, log entry 49). -/
def answerSlot (s : State) (slot status : Nat) : State :=
  let s := putSlot s slot 1 1 status
  let s := { s with fw := { s.fw with mbxBusy := s.fw.mbxBusy.filter (· != slot), mbxDone := s.fw.mbxDone ||| BitVec.ofNat 16 (2 ^ slot) } }
  if s.fw.mbxIrq.getLsbD 8 then sendMsix s (s.fw.mbxIrq.toNat % 256) else s

/-- A doorbell: a slot that waits for its answer ignores it; an unknown or malformed request is answered at once. -/
def ringDoorbell (s : State) (slot : Nat) : State :=
  if s.fw.mbxBusy.contains slot then s
  else
    let s := copySlot { s with fw := { s.fw with mbxBusy := s.fw.mbxBusy ++ [slot] } } slot
    if slotFormed s slot then s else answerSlot s slot mbxBad

/-- Two requests name the same core, unit, launch, module or image. -/
def sameThing (s : State) (a b : Nat) : Bool :=
  [SlotField.core, .unit, .launch, .module, .image].any fun f =>
    let uses (x : Nat) : Bool := ((actionFields (slotField s x 0 1)).getD []).contains f
    uses a && uses b && fieldOf s a f == fieldOf s b f && (f != .image || fieldOf s a .module == fieldOf s b .module)

/-- A LOADIMG that has started does not stand before a LOADIMG or UNLOADIMG of its image, which is refused with BUSY (R414). -/
def passesLoad (s : State) (j slot action : Nat) : Bool :=
  (action == 10 || action == 11) && s.fw.loads.any fun l => l.slot == j && l.module == fieldOf s slot .module && l.image == fieldOf s slot .image

/-- The slot's request has this action and its turn has come: requests of one thing are carried out in doorbell order. -/
def slotTurn (s : State) (slot action : Nat) : Bool :=
  s.fw.mbxBusy.contains slot && slotField s slot 0 1 == action && !(s.fw.loads.any fun l => l.slot == slot) &&
    ((s.fw.mbxBusy.takeWhile (· != slot)).all fun j => passesLoad s j slot action || !sameThing s j slot)

/-- A request is carried out and answered in one step. -/
def served (slot action : Nat) (s : State) (f : Except Nat State) : Option State :=
  if !slotTurn s slot action then none
  else match f with
    | .ok t => some (answerSlot t slot mbxDone)
    | .error st => some (answerSlot s slot st)

/-! ### ALLOT and RECLAIM (R220 to R222, R415) -/

/-- A group of the mask cannot go to row mode for the launch: a VALID shard that it does not need fills it, or one of
its own image that is not VALID (R415), or the journal lies there. -/
def groupForbids (s : State) (n c mask : Nat) : Bool :=
  let holds (g : Nat) : Bool := match getLaunch s n with
    | some l => shardBars s l c g
    | none => s.fw.shards.any fun h => h.pkg == s.pkg && h.core == c && h.bgmask.testBit g && h.st == .valid
  (groupsOf mask).any fun g => (rowMode s c g).isNone && (holds g || journalIn s c g)

/-- Some group of the mask is allotted to another launch. -/
def allottedElse (s : State) (n c mask : Nat) : Bool := (groupsOf mask).any fun g => match rowMode s c g with
  | some l => l != n
  | none => false

/-- ALLOT: waits while the lines of a group are under way or its shard is loading. -/
def allotRequest (slot : Nat) (s : State) : Option State :=
  let n := fieldOf s slot .launch
  let c := fieldOf s slot .core
  let m := fieldOf s slot .mask
  if !slotTurn s slot 0 then none
  else if m = 0 || 384 ≤ c || groupForbids s n c m then some (answerSlot s slot mbxBad)
  else if !coreInService s c then some (answerSlot s slot mbxOutOfService)
  else if allottedElse s n c m then some (answerSlot s slot mbxConflict)
  else tried s ((allotGroups n c (groupsOf m) s).map fun s => answerSlot s slot mbxDone)

/-- ALLOT: Mailbox action switching bank groups of a core to row mode for a launch (R220). -/
def execAllot (slot : Nat) (s : State) : Out := evOut s (allotRequest slot s)

/-- A team of the launch is resident on the core, or was swapped out from it. -/
def teamUses (s : State) (n c : Nat) : Bool :=
  ((getCore s c).occ.map (·.launch)) == some n || s.fw.records.any fun r => r.occ.launch == n && recNat r 0x14 2 == c

/-- RECLAIM: groups already in line mode are skipped. -/
def reclaimRequest (slot : Nat) (s : State) : Option State :=
  let n := fieldOf s slot .launch
  let c := fieldOf s slot .core
  let m := fieldOf s slot .mask
  served slot 1 s (
    if m = 0 || 384 ≤ c then .error mbxBad
    else if !coreInService s c then .error mbxOutOfService
    else if allottedElse s n c m then .error mbxConflict
    else
      let gs := (groupsOf m).filter fun g => (rowMode s c g).isSome
      if !gs.isEmpty && teamUses s n c then .error mbxBusyCode
      else .ok (gs.foldl (fun s g => reclaimGroup s c g) s))

/-- RECLAIM: Mailbox action returning bank groups to line mode (R221). -/
def execReclaim (slot : Nat) (s : State) : Out := evOut s (reclaimRequest slot s)

/-! ### RESUME and KILL (R367, R368) -/

/-- A report about the team is still held: the team stays as it is (R430). -/
def reportHeld (s : State) (n g t : Nat) : Bool := s.fw.heldReports.any fun r => r.launch == n && r.gang == g && r.team == t && r.kind ≤ 2

/-- RETURN FROM A TRAP STOP: a stopped team on its cores is restored from its records and restarts; one that is swapped out will be
when it is placed again. A record that breaks its limits kills the launch. -/
def resumeTeam (s : State) (n g t : Nat) (tm : Team) : State :=
  let go (s : State) : State := updTeam s n g t fun x => { x with stopped := false }
  match tm.st with
  | .resident core =>
    let rs := teamRecords s n g t (teamCores (launchPaired s n) core)
    if rs.all fun p => p.2.any recordOk then go (restoreTeam s n g t rs)
    else killLaunch s n (trapCode .ctxBad)
  | _ =>
    let clear (r : Record) : Record :=
      if r.occ.launch = n && r.occ.gang = g && r.occ.team = t then recPut (recPut r 6 1 1) 7 1 (recNat r 7 1 &&& 0xBF) else r
    go { s with fw := { s.fw with records := s.fw.records.map clear } }

def resumeRequest (slot : Nat) (s : State) : Option State :=
  let n := fieldOf s slot .launch
  let g := fieldOf s slot .gang
  let t := fieldOf s slot .team
  if reportHeld s n g t then none
  else served slot 16 s (match getTeam s n g t with
    | some tm => if tm.stopped then .ok (resumeTeam s n g t tm) else .error mbxBad
    | none => .error mbxBad)

/-- RESUME: Mailbox action restoring and restarting a team stopped by a trap (R368). -/
def execResume (slot : Nat) (s : State) : Out := evOut s (resumeRequest slot s)

/-- A report about the launch or one of its teams is still held: they stay as they are (R430). -/
def launchHeld (s : State) (n : Nat) : Bool := s.fw.heldReports.any fun r => r.launch == n && (r.kind ≤ 2 || r.kind == 4 || r.kind == 6)

def killRequest (slot : Nat) (s : State) : Option State :=
  let n := fieldOf s slot .launch
  if launchHeld s n then none else served slot 17 s (if (getLaunch s n).isSome then .ok (killLaunch s n (trapCode .kill)) else .error mbxBad)

/-- KILL: Mailbox action killing a launch (R113). -/
def execKill (slot : Nat) (s : State) : Out := evOut s (killRequest slot s)

/-! ### PAGE_RESUME and PAGE_DECLINE (R275, R361, R429) -/

/-- A range of an ASID's addresses. -/
structure PageRange where
  asid : Nat
  base : Nat
  len : Nat
  deriving DecidableEq, Repr

/-- The address of a launch lies in the range. -/
def inRange (s : State) (r : PageRange) (asid va : Nat) : Bool := (keyOf s asid va).asid == r.asid && r.base ≤ va && va < r.base + r.len

/-- A halt or pause that the request concerns. -/
def haltHit (s : State) (r : PageRange) (asid : Nat) (h : Option HaltRec) : Bool := h.any fun h => inRange s r asid h.va
def missingHit (s : State) (r : PageRange) (asid : Nat) (h : Option HaltRec) : Bool :=
  h.any fun h => inRange s r asid h.va && h.trap == .pageMissing

def engines4 : List Engine := [.seq, .mem, .vec, .mtx]

/-- An engine or a copy command of the core stands at a halt or pause that the request concerns. -/
def coreHit (s : State) (r : PageRange) (cs : CoreSt) : Bool :=
  let asid := asidOf s cs
  (engines4.any fun e => haltHit s r asid (cs.stream e).halted) || (cs.cq0 ++ cs.cq1).any fun x => haltHit s r asid x.paused

/-- Halted engines issue again, with their entry checked afresh; paused commands go on. -/
def unpage (s : State) (r : PageRange) (cs : CoreSt) : CoreSt :=
  let asid := asidOf s cs
  let go (st : Stream) : Stream := if haltHit s r asid st.halted then { st with halted := none, entry := some false } else st
  let on (x : CqEntry) : CqEntry := if haltHit s r asid x.paused then { x with paused := none } else x
  { cs with seq := go cs.seq, mem := go cs.mem, vec := go cs.vec, mtx := go cs.mtx, cq0 := cs.cq0.map on, cq1 := cs.cq1.map on }

/-- HALTED of an engine of a saved team whose recorded halt the request concerns. -/
def savedHalt (s : State) (r : PageRange) (rec : Record) (e : Engine) : Bool :=
  (recNat rec (blockBase e + 4) 4).testBit 2 && inRange s r (launchAsid s rec.occ.launch) (recNat rec (blockBase e + 0x10) 8)

/-- A copy command of a saved team is paused at an address that the request concerns. -/
def pauseHit (s : State) (r : PageRange) (rec : Record) (p : Nat × Nat × HaltRec) : Bool :=
  inRange s r (launchAsid s rec.occ.launch) p.2.2.va

/-- A halt of the request belongs to a team about which a report is still held: it stays as it is, and the request waits (R430). -/
def pageWaits (s : State) (r : PageRange) : Bool :=
  (s.cores.any fun p => coreHit s r p.2 && p.2.occ.any fun o => reportHeld s o.launch o.gang o.team) ||
    s.fw.records.any fun x => reportHeld s x.occ.launch x.occ.gang x.occ.team && ((engines4.any fun e => savedHalt s r x e) || x.pauses.any (pauseHit s r x))

def unpageRecord (s : State) (r : PageRange) (rec : Record) : Record :=
  engines4.foldl (fun x e =>
    if savedHalt s r x e then
      recPut (recPut (recPut x (blockBase e + 4) 4 (recNat x (blockBase e + 4) 4 - 4)) (blockBase e + 8) 2 0) (blockBase e + 0x10) 8 0
    else x) { rec with pauses := rec.pauses.filter fun p => !pauseHit s r rec p }

def pageRange (s : State) (slot : Nat) : PageRange := ⟨fieldOf s slot .asid, fieldOf s slot .addr, fieldOf s slot .len⟩

def pageResume (slot : Nat) (s : State) : Option State :=
  let r := pageRange s slot
  if pageWaits s r then none
  else served slot 18 s (.ok { s with cores := s.cores.map fun (p : Nat × CoreSt) => (p.1, unpage s r p.2)
                                      fw := { s.fw with records := s.fw.records.map (unpageRecord s r) } })

/-- PAGE_RESUME: Mailbox action resuming halted engines and paused copies in an address range (R429). -/
def execPageResume (slot : Nat) (s : State) : Out := evOut s (pageResume slot s)

/-- A halted engine takes the precise fault. The record of a stopped team holds its halts. -/
def declineEngine (r : PageRange) (c : Nat) (s : State) (e : Engine) : State :=
  let st := getStream s c e
  if missingHit s r (asidOf s (getCore s c)) st.halted && (getCore s c).run != .stopped then
    let va := (st.halted.map (·.va)).getD 0
    raiseTrap (setCore s c ((getCore s c).setStream e { st with halted := none })) c e { trap := .pageMissing, addr := BitVec.ofNat 64 va } st.waitDone st.pc
  else s

/-- Paused commands of a queue end with CQ_FAULT. -/
def declineQueue (r : PageRange) (c : Nat) (s : State) (q : Nat) : State :=
  match (getCq (getCore s c) q).find? fun x => missingHit s r (asidOf s (getCore s c)) x.paused && (getCore s c).run != .stopped with
  | some x => cqFault (setCore s c (updEntry (getCore s c) q x.seqNo fun y => { y with paused := none })) c q x.seqNo (trapCode .pageMissing) 0
  | none => s

def declineCore (r : PageRange) (s : State) (c : Nat) : State :=
  [0, 1].foldl (declineQueue r c) (engines4.foldl (declineEngine r c) s)

/-- Engines and paused commands of a record that the request declines. -/
def declinedEngines (s : State) (r : PageRange) (rec : Record) : List Engine :=
  engines4.filter fun e => savedHalt s r rec e && recNat rec (blockBase e + 8) 2 == trapCode .pageMissing
def declinedPauses (s : State) (r : PageRange) (rec : Record) : List (Nat × Nat × HaltRec) :=
  rec.pauses.filter fun p => pauseHit s r rec p && p.2.2.trap == .pageMissing

/-- The code that a decline brings to a saved half: that of its first trap, 0 where it declines nothing. -/
def declineCode (s : State) (r : PageRange) (rec : Record) : Nat :=
  if !(declinedPauses s r rec).isEmpty then trapCode .cqFault
  else if !(declinedEngines s r rec).isEmpty then trapCode .pageMissing
  else 0

/-- In a record, each halted engine is FAULTED, and each paused command has its cause in its entry; each fault is logged (R429, R431)
(DEDUCED, log entry 50). -/
def declineRecord (r : PageRange) (s : State) (rec : Record) : State :=
  let es := declinedEngines s r rec
  let ps := declinedPauses s r rec
  let x := es.foldl (fun x e => recordFault x e (trapCode .pageMissing) (recNat rec (blockBase e + 0x10) 8)) { rec with pauses := rec.pauses.filter fun p => !ps.contains p }
  let x := ps.foldl (fun x p => recordFail x p.1 p.2.1 (trapCode .pageMissing)) x
  let s := es.foldl (fun s e => logRecord s x (engCode e) (trapCode .pageMissing) e) (putRecord s x)
  match ps.head? with
  | some p => if recNat rec 6 1 = 1 then logRecord s x (4 + p.1) (trapCode .cqFault) .seq else s
  | none => s

/-- The saved teams of which something was declined stop. -/
def stopDeclined (codes : List (Occ × Nat)) (s : State) (o : Occ) : State := stopSaved s o fun h => ((codes.find? fun x => x.1 == h).map (·.2)).getD 0

/-- What the request declines in the records (DEDUCED, log entry 50). -/
def declineRecords (r : PageRange) (s : State) : State :=
  let codes := (s.fw.records.map fun x => (x.occ, declineCode s r x)).filter fun x => x.2 != 0
  (codes.map (·.1)).foldl (stopDeclined codes) ((s.fw.records.filter fun x => declineCode s r x != 0).foldl (declineRecord r) s)

def pageDecline (slot : Nat) (s : State) : Option State :=
  let r := pageRange s slot
  if pageWaits s r then none else served slot 19 s (.ok (declineRecords r ((s.cores.map (·.1)).foldl (declineCore r) s)))

/-- PAGE_DECLINE: Mailbox action turning PAGE_MISSING halts into precise faults and paused copies into CQ_FAULT (R429). -/
def execPageDecline (slot : Nat) (s : State) : Out := evOut s (pageDecline slot s)

end Sys2Proof.Machine
end

