-- ==== Sys2Proof/Machine/Images.lean ====
section
/-! DEFINITION. Fat objects registered as modules, and weight images loaded into row regions (R92 to R96, R390, R406, R412 to R415, R429). -/

namespace Sys2Proof.Machine

/-! ### Bytes that firmware reads and writes (R429) -/

def groupSize : Nat := 2 ^ 27

/-- A range lies in DRAM in line mode, or in the host aperture. -/
def fwRange (s : State) (pa n : Nat) : Bool :=
  let k (a : Nat) : PaKind := paKind s a
  n != 0 && pa + n ≤ 2 ^ 48 && (List.range (n / groupSize + 2)).all fun i =>
    let a := min (pa + groupSize * i) (pa + n - 1)
    k a != .nothing && (k a == .host) == (k pa == .host)

/-- n bytes at a physical address as their home sees them, line by line. -/
def homeBytes : Nat → State → Nat → Nat → Try (List Byte)
  | 0, _, _, _ => .ok []
  | k + 1, s, pa, n =>
    if n = 0 then .ok []
    else
      let m := min n (128 - pa % 128)
      let part : Try (List Byte) := match lineAtPa s pa with
        | none => .ok (physBytes s pa m)
        | some l => (homePeek s l).map fun d => lineBytes d.1 (pa % 128) m
      match part with
      | .error e => .error e
      | .ok bs => (homeBytes k s (pa + m) (n - m)).map fun t => bs ++ t

/-- What firmware reads; of host memory that does not answer, open values (R17, R411) (DESIGN CHOICE, log entry 65). -/
def fwRead (s : State) (pa n : Nat) : Try (State × List Byte) :=
  let s' := { s with fresh := s.fresh + 1 }
  if 2 ^ 40 ≤ pa then (hostTry s 3 n pa false).map fun r =>
    ({ r.1 with fresh := s.fresh + 1 }, if r.2 then physBytes s pa n else (List.range n).map fun i => Config.busByte (pa + i) s.fresh)
  else (homeBytes (n / 128 + 2) s pa n).map fun bs => (s', bs)

/-- Bytes written to physical memory once every line of the range has been taken from its owners. -/
def fwWrite (s : State) (pa : Nat) (bs : List Byte) : Try State :=
  let keys := (s.hub.llc.filter fun l => overlaps l.pa 128 pa bs.length).map (·.key)
  (keys.foldl (fun (r : Try State) k => r.bind fun s => (homePull s k (BitVec.allOnes 32)).map (·.1)) (.ok s)).map fun s => physWrite .hub s pa bs

/-! ### The fat object (R92 to R96) -/

/-- A little-endian number of n bytes of a file. -/
def num (f : List Byte) (off n : Nat) : Nat := leNat ((f.drop off).take n)

/-- A section entry. -/
structure Sect where
  type : Nat
  obj : Nat
  isa : Nat
  off : Nat
  size : Nat
  resv : Bool
  deriving DecidableEq, Repr

def sectAt (f : List Byte) (a : Nat) : Sect :=
  { type := num f a 2, obj := num f (a + 2) 2, isa := num f (a + 4) 2, off := num f (a + 8) 8, size := num f (a + 16) 8,
    resv := num f (a + 6) 2 != 0 || num f (a + 28) 4 != 0 }

def sections (f : List Byte) : List Sect := (List.range (num f 8 4)).map fun i => sectAt f (num f 0x10 8 + 32 * i)

/-- The file header's own fields (R92). A section table that reaches past the file's end rejects it, and bytes past the end of a file shorter than
its header read as 0 (DESIGN CHOICE, log entry 68). -/
def headerOk (f : List Byte) : Bool :=
  num f 0 4 == 0x314F4653 && num f 4 2 == 1 && num f 0xC 4 == 0 && num f 0x18 8 == 0 && num f 0x10 8 + 32 * num f 8 4 ≤ f.length

/-- A section entry's fields: of a variant, or of the whole file. Besides R92's cases, an OFFSET or a CODE SIZE that is no multiple of 64, an OBJ
not below NOBJ, and an ISA beside OBJ 0xFFFF reject the file (DESIGN CHOICE, log entry 68). -/
def sectOk (nobj len : Nat) (x : Sect) : Bool :=
  1 ≤ x.type && x.type ≤ 6 && !x.resv && x.off % 64 == 0 && x.off + x.size ≤ len && (x.type != 1 || x.size % 64 == 0) &&
    (if x.type ≤ 3 then x.obj < nobj else x.obj == 0xFFFF && x.isa == 0)

/-- A buffer entry (R95). -/
def bufOk (f : List Byte) (a : Nat) : Bool :=
  num f a 8 != 0 && num f (a + 8) 2 % 8 == 0 && num f (a + 10) 1 ≤ 5 && num f (a + 11) 1 / 8 == 0 &&
    (num f (a + 12) 1 ≤ 7 || num f (a + 12) 1 == 0xFF) && num f (a + 13) 3 == 0

/-- ENTRY has the layout of a PC and is not END (R56, R94). -/
def entryOk (pc : Nat) : Bool := !pc.testBit 31 && pc / 2 ^ 28 % 8 == 0 && pc / 2 ^ 24 % 16 != 0

/-- The limits of a program header (R94). RDOFF is not tested at MODREG: R90 makes a bad one an error of the assembler (DESIGN CHOICE, log
entry 68). -/
def phdrOk (f : List Byte) (code hdr : Sect) (rodata : Bool) (nimg : Nat) : Bool :=
  let g (o n : Nat) : Nat := num f (hdr.off + o) n
  let lines := g 8 4
  let need : Bool := (g 0x22 1).testBit 2
  g 0 4 == 0x4850424F && g 4 2 == 1 && g 6 2 == hdr.isa && 1 ≤ lines && lines ≤ 16777216 && code.size == 64 * lines &&
    entryOk (g 0xC 4) && g 0x18 4 % 8 == 0 && g 0x18 4 ≤ 65536 && g 0x1C 4 ≤ 2097152 && g 0x22 1 / 8 == 0 && g 0x23 1 == 0 &&
    g 0x24 2 ≤ 4096 && g 0x26 2 == 0 && 0x30 + 16 * g 0x24 2 ≤ hdr.size &&
    (if need then decide (g 0x28 4 < nimg) else g 0x28 4 == 0xFFFFFFFF) && (!rodata || g 0x2C 4 != 0xFFFFFFFF) &&
    (List.range (g 0x24 2)).all fun i => bufOk f (hdr.off + 0x30 + 16 * i)

/-- The variant that a program header describes. -/
def variantOf (f : List Byte) (h : Sect) : Variant :=
  let g (o n : Nat) : Nat := num f (h.off + o) n
  { isa := g 6 2, lines := g 8 4, entry := g 0xC 4, remtime := g 0x10 8, paramsz := g 0x18 4, spmuse := g 0x1C 4, bgmask := g 0x20 2,
    flags := g 0x22 1, wimage := g 0x28 4 }

/-- ISA levels of an object's variants, each once. -/
def isaLevels (ss : List Sect) (obj : Nat) : List Nat := ((ss.filter fun x => x.type ≤ 3 && x.obj == obj).map (·.isa)).eraseDups

/-- One variant: exactly one CODE, one PHDR and at most one RODATA. -/
def variantAt (f : List Byte) (ss : List Sect) (nimg obj isa : Nat) : Option Variant :=
  let of (t : Nat) : List Sect := ss.filter fun x => x.type == t && x.obj == obj && x.isa == isa
  match of 1, of 2 with
  | [c], [h] => if (of 3).length ≤ 1 && phdrOk f c h ((of 3).length == 1) nimg then some (variantOf f h) else none
  | _, _ => none

/-- Objects with their variants; none when some variant is malformed. -/
def objectsOf (f : List Byte) (ss : List Sect) (nimg : Nat) : Option (List (List Variant)) :=
  (List.range (num f 6 2)).mapM fun o => (isaLevels ss o).mapM fun i => variantAt f ss nimg o i

/-- The shards of image i of a WMAN section at offset w (R96). -/
def shardsOf (f : List Byte) (w module i : Nat) : List Shard :=
  let nimg := num f w 4
  let nsh := num f (w + 4) 4
  let first := num f (w + 16 + 8 * i) 4
  let digs := w + 16 + 8 * nimg + 48 * nsh
  (List.range (num f (w + 20 + 8 * i) 4)).map fun k =>
    let a := w + 16 + 8 * nimg + 48 * (first + k)
    { module := module, image := i, idx := first + k, pkg := num f a 2, core := num f (a + 2) 2, bgmask := num f (a + 4) 2,
      src := num f (a + 8) 8, len := num f (a + 16) 8, dst := num f (a + 24) 8,
      digests := (List.range (num f (a + 36) 4)).map fun c => digestOf ((f.drop (digs + 48 * (num f (a + 32) 4 + c))).take 48) }

def chunkSize : Nat := 2 ^ 26

/-- A WMAN section's own structure: sizes, indices and reserved fields. A shard that breaks a limit of R96 rejects the file (DESIGN CHOICE, log
entry 68). -/
def wmanOk (f : List Byte) (x : Sect) : Bool :=
  let w := x.off
  let nimg := num f w 4
  let nsh := num f (w + 4) 4
  let ndig := num f (w + 8) 4
  let sh (k : Nat) : Nat := w + 16 + 8 * nimg + 48 * k
  16 + 8 * nimg + 48 * nsh + 48 * ndig ≤ x.size && num f (w + 12) 4 == 0 &&
    ((List.range nimg).all fun i => num f (w + 16 + 8 * i) 4 + num f (w + 20 + 8 * i) 4 ≤ nsh) &&
    (List.range nsh).all fun k =>
      num f (sh k) 2 ≤ 1023 && num f (sh k + 2) 2 ≤ 383 && num f (sh k + 6) 2 == 0 && num f (sh k + 40) 8 == 0 &&
        num f (sh k + 36) 4 == (num f (sh k + 16) 8 + chunkSize - 1) / chunkSize && num f (sh k + 32) 4 + num f (sh k + 36) 4 ≤ ndig

/-- A checked file: the module and the shards of its images. -/
def parseModule (asid va size module : Nat) (f : List Byte) : Option (Module × List Shard) :=
  let ss := sections f
  let wm := ss.filter fun x => x.type == 4
  if !headerOk f || !ss.all (sectOk (num f 6 2) f.length) || wm.length > 1 || !wm.all (wmanOk f) then none
  else
    let nimg := (wm.head?.map fun x => num f x.off 4).getD 0
    (objectsOf f ss nimg).map fun objs =>
      ({ asid := asid, va := va, size := size, objs := objs, images := nimg },
       match wm.head? with
       | some x => (List.range nimg).flatMap (shardsOf f x.off module)
       | none => [])

/-- MODREG: the file is read, checked and registered. -/
def modreg (slot : Nat) (s : State) : Option State :=
  let m := fieldOf s slot .module
  let pa := fieldOf s slot .addr
  let n := fieldOf s slot .len
  if !slotTurn s slot 32 then none
  else if !fwRange s pa n || (mget s.fw.modules m).isSome then some (answerSlot s slot mbxBad)
  else match fwRead s pa n with
    | .error e => tried s (.error e)
    | .ok (s, bs) =>
      match parseModule 0 pa n m bs with
      | none => some (answerSlot s slot mbxBad)
      | some r => some (answerSlot { s with fw := { s.fw with modules := mset s.fw.modules m r.1, shards := s.fw.shards ++ r.2 } } slot mbxDone)

/-- MODREG: Mailbox action checking and registering a fat object as a module (R429). -/
def execModreg (slot : Nat) (s : State) : Out := evOut s (modreg slot s)

/-- MODUNREG: refused while a launch of the module lives or a shard of its images is not INVALID. -/
def modunreg (slot : Nat) (s : State) : Option State :=
  let m := fieldOf s slot .module
  served slot 33 s (
    if (mget s.fw.modules m).isNone then .error mbxBad
    else if s.disp.launches.any (fun p => p.2.module == m) || s.fw.shards.any (fun h => h.module == m && h.st != .invalid) then .error mbxBusyCode
    else .ok { s with fw := { s.fw with modules := mdel s.fw.modules m, shards := s.fw.shards.filter fun h => h.module != m } })

/-- MODUNREG: Mailbox action ending a module's registration (R429). -/
def execModunreg (slot : Nat) (s : State) : Out := evOut s (modunreg slot s)

/-! ### Loading (R412 to R414) -/

/-- The bank groups of a mask in ascending order (R413, step 4). -/
def nthGroup (mask k : Nat) : Nat := (groupsOf mask).getD k 0

/-- Physical address of offset o of a shard's region. -/
def regionPa (h : Shard) (o : Nat) : Nat :=
  (h.core / 48) <<< 37 + (h.core % 48) <<< 31 + (nthGroup h.bgmask (o / groupSize)) <<< 27 + o % groupSize

def onShards (s : State) (f : Shard → Shard) : State := { s with fw := { s.fw with shards := s.fw.shards.map f } }
def ofImage (m i pkg : Nat) (h : Shard) : Bool := h.module == m && h.image == i && h.pkg == pkg

def isLoading (h : Shard) : Bool := h.st == .loading
def isFailedShard (h : Shard) : Bool := match h.st with
  | .failed _ _ => true
  | _ => false

def logLoadFail (s : State) (h : Shard) (chunk cause : Nat) : State :=
  logHub s 0x0810 [(1, h.module), (4, h.image), (4, h.idx), (4, chunk), (1, cause)]

/-- A shard fails, and the failure is logged. -/
def failShard (cause : Nat) (s : State) (h : Shard) : State :=
  logLoadFail (onShards s fun x => if x = h then { x with st := .failed cause h.chunk } else x) h h.chunk cause

/-- Launches held for an image that is now ready enter the placement order (R390). -/
def releaseHeldLaunches (s : State) : State :=
  let free (l : Launch) : Launch := match l.var with
    | some v => if l.heldImage && imageReady s l.module v.wimage then { l with heldImage := false } else l
    | none => l
  let s' := { s with disp := { s.disp with launches := s.disp.launches.map fun (p : Nat × Launch) => (p.1, free p.2) } }
  if s'.disp.launches = s.disp.launches then s else callRound s'

/-- The first failed shard of an image, in shard order. -/
def firstFailed (s : State) (m i : Nat) : Option Shard := s.fw.shards.find? fun h => ofImage m i s.pkg h && isFailedShard h

def failedChunk (h : Shard) : Nat := match h.st with
  | .failed _ c => c
  | _ => 0

/-- A load with no shard left in LOADING is answered. -/
def finishLoad (s : State) (r : LoadReq) : State :=
  if s.fw.shards.any fun h => ofImage r.module r.image s.pkg h && isLoading h then s
  else
    let s := { s with fw := { s.fw with loads := s.fw.loads.filter fun x => x.slot != r.slot } }
    if r.lost then answerSlot s r.slot mbxStackLost
    else match firstFailed s r.module r.image with
    | none => releaseHeldLaunches (answerSlot s r.slot mbxDone)
    | some h => answerSlot (putSlot (putSlot s r.slot 0x30 4 h.idx) r.slot 0x34 4 (failedChunk h)) r.slot mbxLoadFailed

def finishLoads (s : State) : State := s.fw.loads.foldl finishLoad s

/-- Checks of a selected shard (R413, steps 2 and 3): the cause of a failure, or none. -/
def shardCheck (s : State) (nblk : Nat) (h : Shard) : Option Nat :=
  if !coreInService s h.core || h.bgmask = 0 || h.dst % 2048 ≠ 0 || (groupsOf h.bgmask).length * groupSize < h.dst + h.len ||
      (h.len != 0 && nblk ≤ (h.src + h.len - 1) / chunkSize) then some 0
  else if (groupsOf h.bgmask).any fun g => (rowMode s h.core g).isSome then some 1
  else none

/-- A selected shard starts to load, or fails a check; one without bytes is VALID at once. -/
def startShard (nblk : Nat) (s : State) (h : Shard) : State :=
  match shardCheck s nblk h with
  | some cause => failShard cause (onShards s fun x => if x = h then { x with chunk := 0 } else x) { h with chunk := 0 }
  | none => onShards s fun x => if x = h then { x with st := if h.digests.isEmpty then .valid else .loading, chunk := 0, tries := 0, copied := false } else x

/-- A request for the same image is under way. -/
def imageBusy (s : State) (m i : Nat) : Bool := s.fw.loads.any fun r => r.module == m && r.image == i

def imageCount (s : State) (m : Nat) : Nat := ((mget s.fw.modules m).map (·.images)).getD 0

/-- LOADIMG: the image's shards of this package that are not VALID are checked and start to load. -/
def loadimg (slot : Nat) (s : State) : Option State :=
  let m := fieldOf s slot .module
  let i := fieldOf s slot .image
  let tmo := fieldOf s slot .tmo
  let nblk := fieldOf s slot .nblk
  if !slotTurn s slot 10 then none
  else if (mget s.fw.modules m).isNone || imageCount s m ≤ i || 3600 < tmo || paKind s (fieldOf s slot .addr) != .host then some (answerSlot s slot mbxBad)
  else if imageBusy s m i then some (answerSlot s slot mbxBusyCode)
  else
    let r : LoadReq := { slot := slot, module := m, image := i, hosttab := fieldOf s slot .addr, nblk := nblk,
                         deadline := s.time + (if tmo = 0 then 60 else tmo) * 1000 * msec }
    let s := { s with fw := { s.fw with loads := s.fw.loads ++ [r] } }
    let s := (s.fw.shards.filter fun h => ofImage m i s.pkg h && h.st != .valid).foldl (startShard nblk) s
    some (finishLoads s)

/-- LOADIMG: Mailbox action loading a weight image's shards into row regions (R413). -/
def execLoadimg (slot : Nat) (s : State) : Out := evOut s (loadimg slot s)

/-- Byte j of a chunk in host memory, through the block table; none when an entry does not name the aperture. -/
def chunkByte (s : State) (r : LoadReq) (h : Shard) (j : Nat) : Option Byte :=
  let o := h.src + h.chunk * chunkSize + j
  let b := leNat ((List.range 8).map fun k => Config.hostByte (r.hosttab + 8 * (o / chunkSize) + k) s.fresh)
  if paKind s b == .host then some (Config.hostByte (b + o % chunkSize) s.fresh) else none

/-- No byte of a run lies where a copy would meet a bus error: its column is in service and its bank group in line mode (a run lies in one bank
group), and no byte is kept for the journal or a context area (R17). -/
def notKept (s : State) (pa n : Nat) : Bool :=
  isDram (paKind s pa) && (s.fw.kept.all fun r => !overlaps r.1 (r.2 + 1 - r.1) pa n) && s.fw.areas.all fun a => !overlaps a.2 0x364000 pa n

/-- The runs of a chunk that lie in one bank group each: region offset and length. -/
def chunkRuns (h : Shard) : List (Nat × Nat) :=
  let o := h.dst + h.chunk * chunkSize
  let n := min chunkSize (h.len - h.chunk * chunkSize)
  let m := min n (groupSize - o % groupSize)
  if m < n then [(o, m), (o + m, n - m)] else [(o, n)]

/-- The bytes of a chunk that its copy brings; none when the copy ends in a bus error (R414). -/
def chunkBytes (s : State) (r : LoadReq) (h : Shard) : Option (List Byte) :=
  if (chunkRuns h).all fun x => notKept s (regionPa h x.1) x.2 then
    (List.range (min chunkSize (h.len - h.chunk * chunkSize))).mapM (chunkByte s r h)
  else none

/-- The chunk's bytes are written to their places (DEDUCED, log entry 51). -/
def copyChunk (s : State) (h : Shard) (bs : List Byte) : Try State :=
  let o := h.dst + h.chunk * chunkSize
  (chunkRuns h).foldl (fun (t : Try State) x => t.bind fun s => fwWrite s (regionPa h x.1) ((bs.drop (x.1 - o)).take x.2)) (.ok s)

/-- A granule's newest copy is poisoned: its line's, or that in DRAM. -/
def granMarked (s : State) (pa : Nat) : Bool := match lineAtPa s pa with
  | some l => granBad l.poison (pa / 64 % 2)
  | none => dramMarked s pa

/-- The bytes that the hash unit reads back; none when it meets an uncorrectable error (R414). -/
def readBack (s : State) (h : Shard) : Option (List Byte) :=
  let bad := (chunkRuns h).any fun x => (List.range ((x.2 + 63) / 64)).any fun i => granMarked s (regionPa h x.1 + 64 * i)
  if bad then none else some ((chunkRuns h).flatMap fun x => physBytes s (regionPa h x.1) x.2)

/-- A chunk's check: the next chunk, or VALID after the last; a failed one is fetched again up to three times. -/
def chunkChecked (s : State) (h : Shard) (good : Bool) : State :=
  if good then
    onShards s fun x => if x = h then { x with chunk := h.chunk + 1, tries := 0, copied := false, st := if h.chunk + 1 < h.digests.length then .loading else .valid } else x
  else if h.tries < 3 then onShards s fun x => if x = h then { x with tries := h.tries + 1, copied := false } else x
  else failShard 2 s h

/-- The shard whose chunk is being loaded, with its request: its core holds no team, and TMO has not passed (R413, R414). -/
def loadingChunk (s : State) (module shard chunk : Nat) : Option (Shard × LoadReq) :=
  (s.fw.shards.find? fun h => h.module == module && h.idx == shard && h.pkg == s.pkg && isLoading h).bind fun h =>
    (s.fw.loads.find? fun r => r.module == module && r.image == h.image).bind fun r =>
      if h.chunk ≠ chunk || (getCore s h.core).occ.isSome || r.deadline ≤ s.time then none else some (h, r)

/-- A chunk is copied; a copy that ends in CQ_FAULT, by a bus error or because the host has not completed it for 50 ms, fails its check (R411, R414)
(DEDUCED, log entry 51) (DESIGN CHOICE, log entry 65). -/
def chunkCopy (module shard chunk : Nat) (s : State) : Option State :=
  match loadingChunk s module shard chunk with
  | none => none
  | some (h, r) =>
    if h.copied then none
    else match hostTry s 6 (module * 2 ^ 32 + shard) r.hosttab false with
      | .error b => tried s (.error b)
      | .ok (s, false) => some (finishLoads (chunkChecked s h false))
      | .ok (s1, true) =>
        let s1 := { s1 with fresh := s1.fresh + 1 }
        match chunkBytes s r h with
        | none => some (finishLoads (chunkChecked s1 h false))
        | some bs => tried s ((copyChunk s1 h bs).map fun s => onShards s fun x => if x = h then { x with copied := true } else x)

/-- The copy of a chunk has ended; it is read back and its digest is compared (R413, R414) (DEDUCED, log entry 51). -/
def chunkVerify (module shard chunk : Nat) (s : State) : Option State :=
  match loadingChunk s module shard chunk with
  | none => none
  | some (h, _) =>
    if h.copied then some (finishLoads (chunkChecked s h (((readBack s h).map sha384) == h.digests[chunk]?))) else none

/-- CHUNK_VERIFY: After a chunk's copy the hash unit compares its SHA-384 with the digest (R413). -/
def execChunkVerify (module shard chunk : Nat) (s : State) : Out := evOut s (chunkVerify module shard chunk s)

/-- TMO seconds have passed: the shards still LOADING fail. -/
def loadTimeout (slot : Nat) (s : State) : Option State :=
  match s.fw.loads.find? fun r => r.slot == slot with
  | none => none
  | some r =>
    if s.time < r.deadline then none
    else some (finishLoads ((s.fw.shards.filter fun h => ofImage r.module r.image s.pkg h && isLoading h).foldl (failShard 3) s))

/-- LOADIMG_TIMEOUT: TMO seconds pass and LOADING shards become FAILED (R414). -/
def execLoadimgTimeout (slot : Nat) (s : State) : Out := evOut s (loadTimeout slot s)

/-- A team of a launch that needs the image is resident or swapped out. -/
def imageUsed (s : State) (m i : Nat) : Bool :=
  s.disp.launches.any fun p => p.2.module == m && (p.2.var.any fun v => v.flags.testBit 2 && v.wimage == i) &&
    p.2.gangs.any fun g => g.left.any fun t => t.2.started

/-- UNLOADIMG: every shard of the image is INVALID. -/
def unloadimg (slot : Nat) (s : State) : Option State :=
  let m := fieldOf s slot .module
  let i := fieldOf s slot .image
  served slot 11 s (
    if (mget s.fw.modules m).isNone || imageCount s m ≤ i then .error mbxBad
    else if imageBusy s m i || imageUsed s m i then .error mbxBusyCode
    else .ok (onShards s fun h => if h.module = m && h.image = i then { h with st := .invalid, chunk := 0, tries := 0 } else h))

/-- UNLOADIMG: Mailbox action making every shard of an image INVALID (R415). -/
def execUnloadimg (slot : Nat) (s : State) : Out := evOut s (unloadimg slot s)

end Sys2Proof.Machine
end

