-- ==== Sys2Proof/Machine/Chiplets.lean ====
section
/-! DEFINITION. Chiplets in and out of service: the capability summary, isolation and rejoin, lost stacks, failed cores and modules, and the host link (R13, R383 to R385, R400 to R410). -/

namespace Sys2Proof.Machine

/-! ### The capability summary (R402) -/

def popcount16 (m : BitVec 16) : Nat := ((List.range 16).filter fun i => m.getLsbD i).length

/-- Cores of a stack in service, and the map of those that are not. -/
def inServiceCount (s : State) (k : Nat) : Nat := ((List.range 48).filter fun i => (getCore s (48 * k + i)).inService).length
def outMap (s : State) (k : Nat) : Nat := packLanes 1 ((List.range 48).map fun i => if (getCore s (48 * k + i)).inService then 0 else 1)

def galenaUnit (s : State) (g : Nat) : GalenaUnit := mgetD {} s.fw.galenas g
def setGalena (s : State) (g : Nat) (u : GalenaUnit) : State := { s with fw := { s.fw with galenas := mset s.fw.galenas g u } }

/-- State of unit u: stacks 0 to 7, Galenas 8 and 9. -/
def unitState (s : State) (u : Nat) : UnitSt := if u < 8 then (stackUnit s u).st else (galenaUnit s (u - 8)).st

/-- A unit in service is degraded when cores, modules or ports are missing. -/
def gradeOf (s : State) (u : Nat) : UnitSt :=
  if u < 8 then (if inServiceCount s u < 48 || popcount16 (stackUnit s u).modstat < 6 then .degraded else .inService)
  else
    let g := galenaUnit s (u - 8)
    if popcount16 g.modstat < 8 || ((List.range 18).any fun p => !g.ports.getLsbD p) then .degraded else .inService

/-- Modules that are trained, at either width; and the least number that a chiplet needs (R405). -/
def trainedMods (s : State) (u : Nat) : Nat :=
  if u < 8 then popcount16 ((stackUnit s u).modstat ||| (stackUnit s u).modhalf)
  else popcount16 ((galenaUnit s (u - 8)).modstat ||| (galenaUnit s (u - 8)).modhalf)
def needMods (u : Nat) : Nat := if u < 8 then 3 else 4

/-- GEN is raised before and after a rewrite, which takes the hub cycles of `rewriteTime`: `gen` is its value when the rewrite has ended
(DESIGN CHOICE, log entry 70). -/
def rewriteSummary (s : State) : State := { s with fw := { s.fw with gen := (s.fw.gen + 2) % 2 ^ 32, genAt := some s.time } }
def rewriteTime : Nat := 16
/-- GEN as a reader finds it: odd while the summary is being rewritten (DESIGN CHOICE, log entry 70). -/
def genNow (s : State) : Nat := if s.fw.genAt.any fun t => s.time < t + rewriteTime then (s.fw.gen + 2 ^ 32 - 1) % 2 ^ 32 else s.fw.gen

def isMarked (t : UnitSt) : Bool := t == .degraded || t == .isolated || t == .lost

def liveGalenas (s : State) : Nat := ([8, 9].filter fun u => unitState s u == .inService || unitState s u == .degraded).length

/-- A package with no Galena is in no domain (R22, R405). -/
def domainNow (s : State) : State := { s with fw := { s.fw with inDomain := decide (0 < liveGalenas s) } }

/-- A unit's state after a change: the summary is rewritten; entering or leaving a marked state is reported, and a stack that becomes
degraded is logged. -/
def changeUnit (s : State) (u : Nat) (t : UnitSt) : State :=
  let old := unitState s u
  let s := rewriteSummary (if u < 8 then setStack s u { stackUnit s u with st := t }
    else domainNow (setGalena s (u - 8) { galenaUnit s (u - 8) with st := t }))
  if old = t then s
  else
    let s := if isMarked old || isMarked t then postReport s { kind := 5, aux := u } else s
    if t = .degraded && u < 8 then logHub s 0x0814 [(1, u), (1, inServiceCount s u), (2, (stackUnit s u).modstat.toNat), (8, outMap s u)] else s

/-- The unit's grade after something in it has left service. -/
def regrade (s : State) (u : Nat) : State :=
  if unitState s u = .inService || unitState s u = .degraded then changeUnit s u (gradeOf s u) else rewriteSummary s

/-! ### Enumeration (R400, R401, R403, R405) -/

/-- A capability table that keeps R400: of a stack, a Galena, or the hub itself, unit 10. -/
def capOk (c : CapTable) : Bool :=
  let mica : Bool := c.unit < 8
  c.magic == 0x5041434F && c.version == 1 && c.unit ≤ 10 && c.kind == (if mica then 2 else if c.unit = 10 then 1 else 3) && c.isa == (if mica then 1 else 0) &&
    c.built == (if mica then 52 else 0) && c.passed ≤ c.built && c.spares == (c.passed - 48) && c.nmod == (if mica then 6 else if c.unit = 10 then 0 else 8) &&
    ((List.range 64).all fun i => !c.colstat.getLsbD i || i < c.built) &&
    (mica || c.geom == 0) && c.zero && c.agents.length ≤ 255 && c.agents.all (fun a => 1 ≤ a.1 && a.1 ≤ 8 && a.2.1 ≤ 3) &&
    (if mica then decide (((List.range 64).filter fun i => c.colstat.getLsbD i).length = c.passed) else c.passed == 0) &&
    c.modstat &&& c.modhalf == 0 && (c.modstat ||| c.modhalf) >>> c.nmod == 0

/-- The first agent whose class breaks R403: entry index and class. -/
def badAgent (c : CapTable) : Option (Nat × Nat) :=
  ((c.agents.mapIdx fun i a => (i, a)).find? fun p =>
    (p.2.2.1 == 0 && 8 ≤ c.unit) || (p.2.1 == 5 && p.2.2.1 != 2)).map fun p => (p.1, p.2.2.1)

/-- Built cores behind the package core numbers of a stack: the record's own choices where they are passed cores, each once, and the passed cores that
are left for the numbers still open, in ascending order (R401) (DEDUCED, log entry 54). -/
def recordCores (rec : List Byte) (k : Nat) (colstat : BitVec 64) : List (Option Nat) :=
  let passed := (List.range 52).filter fun b => colstat.getLsbD b
  let want := (List.range 48).map fun i => Config.recordMap rec k i
  let chosen := want.mapIdx fun i b => if passed.contains b && !(want.take i).contains b then some b else none
  let rest := passed.filter fun b => !chosen.contains (some b)
  let fill (r : List (Option Nat) × List Nat) (x : Option Nat) : List (Option Nat) × List Nat := match x, r.2 with
    | some b, _ => (r.1 ++ [some b], r.2)
    | none, b :: t => (r.1 ++ [some b], t)
    | none, [] => (r.1 ++ [none], [])
  (chosen.foldl fill ([], rest)).1

/-- Where the column of a package core number stands once the cores of its stack are mapped anew: at the number that its physical core has then. -/
def columnTo (s : State) (m : List (Option Nat)) (core : Nat) : Option Nat :=
  match mget s.fw.builtCore core with
  | none => some core
  | some b => (m.findIdx? (· == some b)).map (48 * (core / 48) + ·)

/-- The same for an address of stack k's DRAM. -/
def addrTo (s : State) (k : Nat) (m : List (Option Nat)) (pa : Nat) : Option Nat :=
  if pa < 2 ^ 40 && paStack pa == k then (paCore pa).bind fun c => (columnTo s m c).map fun d => pa + d % 48 * 2 ^ 31 - c % 48 * 2 ^ 31 else some pa

/-- A column belongs to its physical core: its bytes, its poison marks and its allotted groups go where that core goes, and with a core that has no
number they are out of reach (R13, R401, R407) (DEDUCED, log entry 54). -/
def moveColumns (s : State) (k : Nat) (m : List (Option Nat)) : State :=
  if (List.range 48).all fun i => columnTo s m (48 * k + i) == some (48 * k + i) then s
  else
    let s := dropHomed (fun pa => pa < 2 ^ 40 && paStack pa == k && addrTo s k m pa != some pa) s
    { s with hub := { s.hub with
        dram := s.hub.dram.foldl (fun d x => match addrTo s k m x.1 with | some a => writeByte d a x.2 | none => d) []
        dramPoison := s.hub.dramPoison.foldl (fun d x => match addrTo s k m (64 * x.1) with | some a => mset d (a / 64) () | none => d) []
        rows := s.hub.rows.foldl (fun d x => match (if x.1 / 16 / 48 = k then columnTo s m (x.1 / 16) else some (x.1 / 16)) with
          | some c => mset d (16 * c + x.1 % 16) x.2
          | none => d) [] } }

/-- The cores of a stack after enumeration: a number is in service when a passed core stands behind it (R13, R401) (DEDUCED, log entry 54). -/
def mapCores (s : State) (c : CapTable) : State :=
  let m := recordCores s.fw.record c.unit c.colstat
  let s := moveColumns s c.unit m
  let s := { s with fw := { s.fw with failedCores := s.fw.failedCores.filter fun f => f.1 != c.unit } }
  (m.mapIdx fun i b => (48 * c.unit + i, b)).foldl (fun s p =>
    let s := setCore s p.1 { ({} : CoreSt) with inService := p.2.isSome }
    { s with fw := { s.fw with builtCore := match p.2 with
        | some b => mset s.fw.builtCore p.1 b
        | none => mdel s.fw.builtCore p.1 } }) s

/-- Refresh intervals of the bank groups of a core that are in row mode run again (R227, R407). -/
def restartPhases (s : State) (core : Nat) : State :=
  (s.hub.rows.filter fun p => p.1 / 16 == core).foldl (fun s p => startPhases s core (p.1 % 16)) s

/-- A chiplet that is not there or is left out: its core numbers, its ports and its agents are gone; the modules that are trained are known when
its table has been read (R402, R405). -/
def leaveOut (s : State) (u : Nat) (c : Option CapTable) : State :=
  let m := (c.map (·.modstat)).getD 0
  let h := (c.map (·.modhalf)).getD 0
  let s := { s with fw := { s.fw with classes := mdel s.fw.classes u } }
  let s := if u < 8 then setStack s u { ({} : StackUnit) with st := (stackUnit s u).st, modstat := m, modhalf := h }
    else setGalena s (u - 8) { ({} : GalenaUnit) with st := (galenaUnit s (u - 8)).st, modstat := m, modhalf := h, ports := 0 }
  changeUnit s u .absent

/-- A chiplet comes up as reset, with what its table says of it; its agents have the classes that they declare (R403, R407). -/
def resetUnit (s : State) (c : CapTable) : State :=
  let s := { s with fw := { s.fw with classes := mset s.fw.classes c.unit (c.agents.map fun a => (a.1, a.2.1)) } }
  if c.unit < 8 then
    let s := (List.range 48).foldl (fun s i => restartPhases s (48 * c.unit + i)) (mapCores s c)
    let s := setSched s c.unit { ({} : Scheduler) with lastBeat := s.time }
    setStack s c.unit { ({} : StackUnit) with st := (stackUnit s c.unit).st, spares := c.spares, modstat := c.modstat, modhalf := c.modhalf, fwver := c.fwver }
  else setGalena s (c.unit - 8) { ({} : GalenaUnit) with st := (galenaUnit s (c.unit - 8)).st, modstat := c.modstat, modhalf := c.modhalf, fwver := c.fwver }

/-- A chiplet with a sound table joins under its own number, or is left out. -/
def joinUnit (s : State) (c : CapTable) : State :=
  let s := { s with fw := { s.fw with caps := mset s.fw.caps c.unit c } }
  if !capOk c || 10 ≤ c.unit then leaveOut s c.unit none
  else if popcount16 (c.modstat ||| c.modhalf) < needMods c.unit then leaveOut s c.unit (some c)
  else match badAgent c with
  | some a => leaveOut (logHub s 0x080D [(1, c.unit), (1, a.1), (1, a.2)]) c.unit (some c)
  | none =>
    let s := resetUnit s c
    let s := changeUnit s c.unit (gradeOf s c.unit)
    if c.unit < 8 then callRound s else s

/-- A unit whose table cannot be read is left out. -/
def enumUnit (caps : List CapTable) (s : State) (u : Nat) : State :=
  match caps.find? fun c => c.unit == u with
  | some c => joinUnit s c
  | none => leaveOut { s with fw := { s.fw with caps := mdel s.fw.caps u } } u none

/-- The hub's own table is read beside those of the chiplets; agents of a class that R403 forbids are left out and logged (R400, R401, R403). -/
def readHubTable (caps : List CapTable) (s : State) : State :=
  match caps.find? fun c => c.unit == 10 && capOk c with
  | some c =>
    let s := { s with fw := { s.fw with caps := mset s.fw.caps 10 c } }
    match badAgent c with
    | some a => logHub { s with fw := { s.fw with classes := mdel s.fw.classes 10 } } 0x080D [(1, 10), (1, a.1), (1, a.2)]
    | none => { s with fw := { s.fw with classes := mset s.fw.classes 10 (c.agents.map fun a => (a.1, a.2.1)) } }
  | none => s

/-- Enumeration at boot: every unit in turn, and one rewrite of the summary (R401, R402). -/
def enumerate (caps : List CapTable) (s : State) : State :=
  let t := (List.range 10).foldl (enumUnit caps) (readHubTable caps s)
  domainNow { t with fw := { t.fw with gen := (s.fw.gen + 2) % 2 ^ 32, genAt := some s.time } }

/-! ### ISOLATE (R385, R407, R408) -/

/-- A team of the gang stands on the stack. -/
def gangOnStack (k : Nat) (g : Gang) : Bool := g.teams.any fun t => t.onCore.any fun c => c / 48 == k

/-- Every gang with a team on the stack begins to leave it. -/
def clearStack (s : State) (k : Nat) : State :=
  ((allGangs s).filter fun x => gangOnStack k x.2.2 && !x.2.2.swap).foldl (fun s x => beginSwap s x.1.launch x.1.gang x.2.2.age false) s

/-- The owned words of a stack's cores, line by line, are written back and released; not while a line is not quiet. -/
def drainStack (s : State) (k : Nat) : Option State :=
  let ls := s.hub.llc.filter fun l => l.slots.any fun o => o.core / 48 == k
  if ls.any (fun l => !lineQuiet s l) || (s.cores.any fun p => p.1 / 48 == k && !(p.2.wbOut.isEmpty && p.2.rvkOut.isEmpty && p.2.fwdOut.isEmpty)) then none
  else some (ls.foldl (fun s l =>
    let r := (l.slots.filter fun o => o.core / 48 == k).foldl (fun (r : State × LlcLine) o => pullOwner (BitVec.allOnes 32) r.1 r.2 o) (s, l)
    putLine r.1 r.2) s)

/-- Remote operations and copy pieces that the stack's cores have sent, or have still to send, and that have no answer (R345, R385). -/
def stackOpsOpen (s : State) (k : Nat) : Bool :=
  (s.rou.slots.any fun p => (p.2.out ++ p.2.waitq).any fun o => o.core / 48 == k) || s.rou.parked.any fun x => x.2.core / 48 == k

/-- ISOLATE: a Galena stops its ports; a stack is emptied of teams, drained, and then isolated (PRESUMED, log entry 57). -/
def isolate (slot : Nat) (s : State) : Option State :=
  let u := fieldOf s slot .unit
  let st := unitState s u
  let begun : Bool := u < 8 && (stackUnit s u).leaving
  if !slotTurn s slot 8 then none
  else if 9 < u || st = .absent || st = .lost then some (answerSlot s slot mbxBad)
  else if !begun && (st = .isolated || (8 ≤ u && liveGalenas s ≤ 1) || (u < 8 && s.fw.shards.any fun h => h.pkg == s.pkg && h.core / 48 == u && isLoading h)) then
    some (answerSlot s slot mbxBusyCode)
  else if 8 ≤ u then
    some (answerSlot (changeUnit (setGalena s (u - 8) { galenaUnit s (u - 8) with ports := 0 }) u .isolated) slot mbxDone)
  else if !(stackUnit s u).leaving then some (clearStack (setStack s u { stackUnit s u with leaving := true }) u)
  else if (allGangs s).any fun x => gangOnStack u x.2.2 && !x.2.2.swap then some (clearStack s u)
  else if (allGangs s).any (fun x => gangOnStack u x.2.2) || stackOpsOpen s u then none
  else (drainStack s u).map fun s =>
    answerSlot (changeUnit (setStack s u { stackUnit s u with leaving := false }) u .isolated) slot mbxDone

/-- ISOLATE: Mailbox action isolating a stack or Galena (R407). -/
def execIsolate (slot : Nat) (s : State) : Out := evOut s (isolate slot s)

/-! ### REJOIN (R407) -/

/-- A lost stack's columns are written to zero, and its shards are INVALID. -/
def wipeStack (s : State) (k : Nat) : State :=
  let s := onShards s fun h => if h.pkg = s.pkg && h.core / 48 = k then { h with st := .invalid, chunk := 0, tries := 0 } else h
  { s with hub := { s.hub with dram := s.hub.dram.filter fun c => !(c.1 < 2 ^ 40 && paStack c.1 == k),
                               dramPoison := s.hub.dramPoison.filter fun p => !(64 * p.1 < 2 ^ 40 && paStack (64 * p.1) == k) } }

def rejoin (slot : Nat) (caps : List CapTable) (s : State) : Option State :=
  let u := fieldOf s slot .unit
  if !slotTurn s slot 9 then none
  else if 9 < u then some (answerSlot s slot mbxBad)
  else match unitState s u with
    | .isolated => some (answerSlot (enumUnit caps s u) slot mbxDone)
    | .lost => some (answerSlot (enumUnit caps (if u < 8 then wipeStack s u else s) u) slot mbxDone)
    | _ => some (answerSlot s slot mbxDone)

/-- REJOIN: Mailbox action resetting and re-enumerating a chiplet (R407). -/
def execRejoin (slot : Nat) (caps : List CapTable) (s : State) : Out := evOut s (rejoin slot caps s)

/-! ### Lost stacks (R383, R384) -/

/-- A request to the stack waits since this hub cycle: a revocation, a forward, or the write-through of an operation's bytes to the line's home (R311, R383). -/
def oldestWait (s : State) (k : Nat) : Option Nat :=
  let on (l : LlcLine) : Bool := (l.held.isSome && paStack l.pa == k) || match l.st with
    | .rvk w _ _ | .hrev w _ _ | .fwd w _ => w.any fun c => c / 48 == k
    | _ => false
  (s.hub.llc.filter on).foldl (fun m l => match m with
    | none => some l.since
    | some t => some (min t l.since)) none

/-- A request has waited for a waking link for 20 µs: logged once for the wake. -/
def linkWakeSlow (stack module : Nat) (s : State) : Option State :=
  let u := stackUnit s stack
  match oldestWait s stack with
  | none => none
  | some t =>
    if 8 ≤ stack || 6 ≤ module || u.slowLogged.contains module || s.time < t + 20 * usec then none
    else some (logHub (setStack s stack { u with slowLogged := module :: u.slowLogged }) 0x0801 [(1, stack), (1, module), (4, (s.time - t) / usec)])

/-- LINK_WAKE_SLOW (R383). -/
def execLinkWakeSlow (stack module : Nat) (s : State) : Out := evOut s (linkWakeSlow stack module s)

/-- Words that the stack's cores own in a line are marked poisoned and freed, and no answer of theirs is awaited; the marks go with the line to its home
(R253, R384). -/
def loseOwners (k : Nat) (s : State) (key : LineKey) : State :=
  match getLine s key with
  | none => s
  | some l =>
    let mine := l.slots.filter fun o => o.core / 48 == k
    let ws := mine.foldl (fun m o => m ||| o.words) (0 : BitVec 32)
    let l := { l with poison := l.poison ||| bytesOf ws, dirty := l.dirty || ws != 0, slots := l.slots.filter fun o => o.core / 48 != k, stale := l.stale.filter fun c => c / 48 != k }
    let wait := match l.st with
      | .rvk w _ _ | .hrev w _ _ | .fwd w _ => w.filter fun c => c / 48 == k
      | _ => []
    wait.foldl (fun s c => match getLine s key with
      | some l => answered s l c
      | none => s) (putLine s l)

def homedOn (k pa : Nat) : Bool := pa < 2 ^ 40 && paStack pa == k

/-- A team of the launch is resident on the stack, pinned to it or saved from it. -/
def launchOnStack (k : Nat) (l : Launch) : Bool :=
  l.gangs.any fun g => g.left.any fun t =>
    (match t.2.st with
      | .resident c => c / 48 == k
      | .saved => t.2.leftStack == some k
      | .placed _ => t.2.started && t.2.leftStack == some k
      | _ => false) || t.2.pin.any fun c => c / 48 == k

def killOnStack (s : State) (k : Nat) : State :=
  (s.disp.launches.filter fun p => launchOnStack k p.2).foldl (fun s p => killLaunch s p.1 (trapCode .stackLost)) s

/-- Streams whose journal or target lines the stack held are LOST; handles go on from the next block (R305, R318). -/
def loseJournal (s : State) : State :=
  let gone : Bool := paLost s s.rou.journalBase
  let lost (x : OwnStream) : Bool := gone || (entriesOf s x.handle).any fun e => e.commit.key.isSome && paLost s e.commit.pa
  { s with rou := { s.rou with streams := s.rou.streams.map fun (x : OwnStream) => if lost x then { x with lost := true } else x,
                               nextHandle := if gone then max s.rou.nextHandle ((s.rou.block.getD 0 + 1) * 2 ^ 24) else s.rou.nextHandle } }

/-- Shards of the stack: those LOADING fail, and the others are INVALID. -/
def loseShards (s : State) (k : Nat) : State :=
  let mine (h : Shard) : Bool := h.pkg == s.pkg && h.core / 48 == k
  let load := s.fw.shards.filter fun h => mine h && isLoading h
  let hit (r : LoadReq) : LoadReq := if load.any fun h => h.module == r.module && h.image == r.image then { r with lost := true } else r
  let s := onShards s fun h => if mine h && !isLoading h then { h with st := .invalid } else h
  let s := load.foldl (failShard 4) s
  finishLoads { s with fw := { s.fw with loads := s.fw.loads.map hit } }

/-- ISOLATE requests of the stack that are under way are answered. -/
def answerIsolates (s : State) (k : Nat) : State :=
  (s.fw.mbxBusy.filter fun j => slotField s j 0 1 == 8 && fieldOf s j .unit == k).foldl (fun s j => answerSlot s j mbxStackLost) s

def emptyCores (s : State) (k : Nat) : State :=
  (List.range 48).foldl (fun s i => setCore s (48 * k + i) { ({} : CoreSt) with inService := (getCore s (48 * k + i)).inService }) s

/-- A stack is declared lost. -/
def loseStack (k : Nat) (s : State) : State :=
  let leaving := (stackUnit s k).leaving
  let s := setStack s k { stackUnit s k with modstat := 0, modhalf := 0, leaving := false, slowLogged := [] }
  let s := ((s.hub.llc.filter fun l => !homedOn k l.pa).map (·.key)).foldl (loseOwners k) s
  let s := emptyCores (clearStack (killOnStack (changeUnit (dropHomed (homedOn k) s) k .lost) k) k) k
  let s := loseShards (loseJournal s) k
  let s := if leaving then answerIsolates s k else s
  logHub s 0x0705 [(1, k)]

def stackLost (stack : Nat) (s : State) : Option State :=
  if 8 ≤ stack || unitState s stack = .absent || unitState s stack = .lost then none else some (loseStack stack s)

/-- STACK_LOST: A stack is declared lost: isolated, its owned words poisoned and its launches killed (R384). -/
def execStackLost (stack : Nat) (s : State) : Out := evOut s (stackLost stack s)

/-- The stack has not answered a request for 2 ms: it is lost, and an answer of it is discarded (R383). -/
def stackLate (s : State) (k : Nat) : Bool := (oldestWait s k).any fun t => t + 2 * msec ≤ s.time
def inTime (core : Nat) (f : State → Option State) (s : State) : Option State :=
  if stackLate s (core / 48) then stackLost (core / 48) s else f (linkWoke s core)

/-- REVOCATION_ANSWER: An owner's answer reaches the slice; when all arrive the waiting request is performed (R340). -/
def execRevocationAnswer (core : Nat) (key : LineKey) (s : State) : Out := evOut s (inTime core (revocationAnswer core key) s)
/-- FORWARD_ANSWER: The owner's value reaches the slice and the read is answered (R340). -/
def execForwardAnswer (core : Nat) (key : LineKey) (s : State) : Out := evOut s (inTime core (forwardAnswer core key) s)
/-- WRITE_BACK: An owner's write-back reaches the slice and is accepted, taken as an answer or discarded (R341). -/
def execWriteBack (core : Nat) (key : LineKey) (s : State) : Out := evOut s (inTime core (writeBack core key) s)

/-- The stack through whose link a commit writes its bytes (R311, R383). -/
def commitStack (s : State) (handle serial : Nat) : Option Nat :=
  (findEnt s handle serial).bind fun e => if e.st == .executing && e.journaled && e.status == .done && e.commit.key.isSome then some (paStack e.commit.pa) else none

/-- The state after the stack has answered. -/
def wokeBy (s : State) : Option Nat → State
  | none => s
  | some k => linkWoke s (48 * k)

/-- A commit whose stack does not take its write-through for 2 ms finds the stack lost (R383). -/
def commitInTime (handle serial : Nat) (s : State) : Option State :=
  match commitStack s handle serial with
  | some k => if stackLate s k then stackLost k s else homeCommit handle serial (linkWoke s (48 * k))
  | none => homeCommit handle serial s

/-- HOME_COMMIT: After the journal record is durable the new bytes are applied, the entry becomes DONE and the reply leaves (R311). -/
def execHomeCommit (handle serial : Nat) (s : State) : Out := evOut s (commitInTime handle serial s)

/-! ### Modules and cores (R13, R404, R405) -/

/-- A module retrains at half width, or fails. -/
def setModule (m h : BitVec 16) (i : Nat) (half : Bool) : BitVec 16 × BitVec 16 :=
  let b : BitVec 16 := BitVec.ofNat 16 (2 ^ i)
  (m &&& ~~~b, if half then h ||| b else h &&& ~~~b)

def moduleRetrain (unit module : Nat) (half : Bool) (s : State) : Option State :=
  if 9 < unit || (if unit < 8 then 6 else 8) ≤ module || !(unitState s unit == .inService || unitState s unit == .degraded) then none
  else
    let s := if unit < 8 then
        let u := stackUnit s unit
        let r := setModule u.modstat u.modhalf module half
        setStack s unit { u with modstat := r.1, modhalf := r.2 }
      else
        let g := galenaUnit s (unit - 8)
        let r := setModule g.modstat g.modhalf module half
        setGalena s (unit - 8) { g with modstat := r.1, modhalf := r.2 }
    if needMods unit ≤ trainedMods s unit then some (regrade s unit)
    else if unit < 8 then some (loseStack unit s)
    else some (changeUnit (setGalena s (unit - 8) { galenaUnit s (unit - 8) with ports := 0 }) unit .lost)

/-- MODULE_RETRAIN: A UCIe module retrains to x32 or fails and the summary is rewritten (R404). -/
def execModuleRetrain (unit module : Nat) (half : Bool) (s : State) : Out := evOut s (moduleRetrain unit module half s)

/-- The column of a core leaves service with it: its lines leave every cache, and its bytes are gone (R13). -/
def inColumn (core pa : Nat) : Bool := pa < 2 ^ 40 && paCore pa == some core
/-- Context areas in the column are gone with the records that they hold; a team that has no record there gets another area (R17, R376)
(DESIGN CHOICE, log entry 6). -/
def dropAreas (s : State) (core : Nat) : State :=
  let gone := s.fw.areas.filter fun a => inColumn core a.2
  let live := gone.filter fun a => (findRecord s a.1).isNone
  let s := { s with fw := { s.fw with records := s.fw.records.filter fun r => !gone.any fun a => a.1 == r.occ } }
  live.foldl (fun s a => reserveArea s a.1 core (((mget s.disp.launches a.1.launch).map (·.groups)).getD 0)) (freeAreas s fun o => gone.any fun a => a.1 == o)

def dropColumn (s : State) (core : Nat) : State :=
  let s := dropHomed (inColumn core) (dropAreas s core)
  { s with hub := { s.hub with dram := s.hub.dram.filter (fun c => !inColumn core c.1), dramPoison := s.hub.dramPoison.filter fun c => !inColumn core (64 * c.1) } }

/-- The lowest passed core of a stack that stands behind no number and has not failed since. -/
def spareCore (s : State) (k : Nat) : Option Nat :=
  let passed := ((mget s.fw.caps k).map (·.colstat)).getD 0
  (List.range 52).find? fun b => passed.getLsbD b && !s.fw.failedCores.contains (k, b) && !((List.range 48).any fun i => mget s.fw.builtCore (48 * k + i) == some b)

/-- A spare stands behind a package core number from now on (R13, R106). -/
def useSpare (core : Nat) (s : State) : State :=
  { s with fw := { s.fw with sparesUsed := mset s.fw.sparesUsed core (mgetD 0 s.fw.sparesUsed core + 1)
                             failedCores := s.fw.failedCores ++ ((mget s.fw.builtCore core).map fun b => (core / 48, b)).toList
                             builtCore := match spareCore s (core / 48) with
                               | some b => mset s.fw.builtCore core b
                               | none => mdel s.fw.builtCore core } }

/-- A core fails. It is out of service, and no address maps to its column; a spare that is left replaces it, with a column of its own, as soon as
no team stands on the core (R13) (DEDUCED, log entry 54). -/
def coreFailure (core : Nat) (s : State) : Option State :=
  let k := core / 48
  let u := stackUnit s k
  let cs := getCore s core
  if 384 ≤ core || !stackLive s k then none
  else if u.spares ≠ 0 && cs.occ.isNone then
    some (callRound (regrade (setStack (restartPhases (setCore (useSpare core (dropColumn s core)) core {}) core) k { u with spares := u.spares - 1 }) k))
  else if cs.inService then some (regrade (dropColumn (setCore s core { cs with inService := false }) core) k)
  else none

/-- CORE_FAILURE: A core fails in the field with no spare and is marked out of service (R13). -/
def execCoreFailure (core : Nat) (s : State) : Out := evOut s (coreFailure core s)

/-! ### Fabric ports (R365, R402) -/

/-- A port of a Galena in service loses or regains training; the Galena is graded anew. -/
def portSet (g port : Nat) (up : Bool) (s : State) : Option State :=
  let u := galenaUnit s g
  let b : BitVec 18 := BitVec.ofNat 18 (2 ^ port)
  if g ≥ 2 ∨ port ≥ 18 ∨ u.ports.getLsbD port = up ∨ !(u.st == .inService || u.st == .degraded) then none
  else
    let s := setGalena s g { u with ports := if up then u.ports ||| b else u.ports &&& ~~~b }
    some (regrade (logGalena s g (if up then 0x0805 else 0x0804) [(1, port)]) (8 + g))

/-- FAB_PORT_DOWN: A fabric port loses link training (R365). -/
def execFabPortDown (galena port : Nat) (s : State) : Out := evOut s (portSet galena port false s)
/-- FAB_PORT_UP: A fabric port regains link training (R365). -/
def execFabPortUp (galena port : Nat) (s : State) : Out := evOut s (portSet galena port true s)

/-! ### The host link (R409, R410) -/

/-- The link trains: Slate when the host accepts it at 64 GT/s and x32 or x16, and else a plain endpoint. -/
def linkUp (accepts : Bool) (gts width : Nat) (s : State) : Option State :=
  if !([8, 16, 32].contains width) then none
  else some { s with fw := { s.fw with linkUp := true, slate := accepts && gts == 64 && (width == 32 || width == 16), linkWidth := width } }

/-- LINK_UP: The host link trains and operates as Slate or as a plain PCIe endpoint (R409). -/
def execLinkUp (accepts : Bool) (gts width : Nat) (s : State) : Out := evOut s (linkUp accepts gts width s)

end Sys2Proof.Machine
end

