-- ==== Sys2Proof/Machine/Trust.lean ====
section
/-! DEFINITION. Boot, measurement, key slots and attestation (R305, R314, R401, R416 to R422, R429). -/

namespace Sys2Proof.Machine

/-! ### Measurement registers (R420) -/

def mrAt (s : State) (i : Nat) : BitVec 384 := mgetD 0 s.fw.mrs i

/-- MR becomes the hash of MR and the digest. -/
def mrExtend (s : State) (i : Nat) (d : BitVec 384) : State :=
  { s with fw := { s.fw with mrs := mset s.fw.mrs i (sha384 (digestBytes (mrAt s i) ++ digestBytes d)) } }

/-! ### Key slots and signed images (R418, R421) -/

/-- Slot 0 holds the maker's keys; the others are empty until an owner enrols. -/
def keySlot (s : State) (k : Nat) : KeySlot :=
  mgetD (if k = 0 then { ed := Config.makerEd, ml := Config.makerMl, enabled := true } else {}) s.fw.keys k

/-- Why an image is rejected (R431), or none (PRESUMED, log entry 52). -/
def imageFault (s : State) (x : Image) : Option Nat :=
  let k := keySlot s x.slot
  if 4 ≤ x.slot || x.length ≠ x.body.length then some 5
  else if sha384 x.body ≠ x.digest then some 0
  else if !Config.edVerify k.ed x.digest x.edSig then some 1
  else if !Config.mlVerify k.ml x.digest x.mlSig then some 2
  else if !k.enabled then some 3
  else if x.svn.toNat < mgetD 0 s.fw.svn x.kind then some 4
  else none

def logReject (s : State) (kind slot svn reason : Nat) : State := logHub s 0x080F [(1, kind), (1, slot), (4, svn), (1, reason)]

/-- Image kinds: 1 to 8 in the order of the measurement registers, and 9 for a key request (PRESUMED, log entry 52). -/
def keyRequestKind : Nat := 9

/-- Bytes of a slot's contents, as they are measured. -/
def slotBytes (k : KeySlot) : List Byte := k.ed ++ k.ml ++ [if k.enabled then 1 else 0]

/-- A slot's new contents are recorded and measured into MR9. -/
def setKey (s : State) (i : Nat) (k : KeySlot) : State :=
  mrExtend { s with fw := { s.fw with keys := mset s.fw.keys i k } } 9 (sha384 (slotBytes k))

def edSigLen : Nat := 64
def mlSigLen : Nat := 3309
def edKeyLen : Nat := 32
def mlKeyLen : Nat := 1952

/-- Bytes of a signed request: header, target slot, keys of an ENROLL, and the two signatures. -/
def keyBodyLen (enrol : Bool) : Nat := 4 + (if enrol then edKeyLen + mlKeyLen else 0)
def keyRequestLen (enrol : Bool) : Nat := 256 + keyBodyLen enrol + edSigLen + mlSigLen

/-- The signed request as an image of R418. -/
def keyImage (enrol : Bool) (bs : List Byte) : Image :=
  let h := Config.imageHeader (bs.take 256)
  let n := 256 + keyBodyLen enrol
  { kind := h.1, svn := BitVec.ofNat 32 h.2.1, length := h.2.2.1, slot := h.2.2.2.2, digest := h.2.2.2.1, body := (bs.drop 256).take (keyBodyLen enrol),
    edSig := (bs.drop n).take edSigLen, mlSig := (bs.drop (n + edSigLen)).take mlSigLen }

/-- No slot but `i` is enabled. -/
def lastEnabled (s : State) (i : Nat) : Bool := [0, 1, 2, 3].all fun j => j == i || !(keySlot s j).enabled

/-- What a key request comes to. A DISABLE that would leave no slot enabled is refused with BUSY, whoever has signed it: one signed by another
enabled slot never does (DEDUCED, log entry 53). -/
def keyRequest (enrol : Bool) (slot t : Nat) (bs : List Byte) (s : State) : State :=
  let x := keyImage enrol bs
  if x.kind ≠ keyRequestKind || (x.body.getD 0 0).toNat ≠ t || (x.body.drop 1).take 3 != [0, 0, 0] then answerSlot s slot mbxBad
  else if !enrol && lastEnabled s t then answerSlot s slot mbxBusyCode
  else if x.slot = t then answerSlot s slot mbxDenied
  else match imageFault s x with
    | some r => answerSlot (logReject s x.kind x.slot x.svn.toNat r) slot mbxDenied
    | none =>
      if enrol then answerSlot (setKey s t { ed := (x.body.drop 4).take edKeyLen, ml := x.body.drop (4 + edKeyLen), enabled := true }) slot mbxDone
      else answerSlot (setKey s t { keySlot s t with enabled := false }) slot mbxDone

/-- ENROLL and DISABLE: the request is read once and carried out when its signatures verify. -/
def keyAction (enrol : Bool) (slot : Nat) (s : State) : Option State :=
  let t := fieldOf s slot .kslot
  let pa := fieldOf s slot .addr
  let n := fieldOf s slot .len
  if !slotTurn s slot (if enrol then 24 else 25) then none
  else if 3 < t || (enrol && t = 0) || n ≠ keyRequestLen enrol || !fwRange s pa n then some (answerSlot s slot mbxBad)
  else match fwRead s pa n with
    | .error e => tried s (.error e)
    | .ok (s, bs) => some (keyRequest enrol slot t bs s)

/-- ENROLL: Mailbox action enrolling owner keys under a signed request (R421). -/
def execEnroll (slot : Nat) (s : State) : Out := evOut s (keyAction true slot s)
/-- DISABLE: Mailbox action clearing a key slot's enable bit under a signed request (R421). -/
def execDisable (slot : Nat) (s : State) : Out := evOut s (keyAction false slot s)

/-- EXTEND: a runtime register is extended by a digest in memory; never for firmware, which has the slots from 12 on (R420, R428). -/
def extend (slot : Nat) (s : State) : Option State :=
  let i := fieldOf s slot .mr
  let pa := fieldOf s slot .addr
  if !slotTurn s slot 26 then none
  else if i < 10 || 15 < i || !fwRange s pa 48 then some (answerSlot s slot mbxBad)
  else if 12 ≤ slot then some (answerSlot s slot mbxDenied)
  else match fwRead s pa 48 with
    | .error e => tried s (.error e)
    | .ok (s, bs) => some (answerSlot (mrExtend s i (digestOf bs)) slot mbxDone)

/-- EXTEND: Mailbox action extending a runtime measurement register (R420). -/
def execExtend (slot : Nat) (s : State) : Out := evOut s (extend slot s)

/-! ### Boot (R419, R401) -/

/-- The images of Obsidian's firmware and the configuration record, and those that Obsidian checks. -/
def firstKinds : List Nat := [1, 2]
def laterKinds : List Nat := [3, 4, 5, 6, 7, 8]

/-- One image of a kind: accepted, it is measured into the register of its kind, and Obsidian's own is started, or the record applied; else it is
logged and boot ends. A kind that is missing from flash is logged as an image of slot 0 and version 0 with a bad header (DESIGN CHOICE, log entry 72). -/
def bootImage (imgs : List Image) (kind : Nat) (s : State) : Except State State :=
  match imgs.find? fun x => x.kind == kind with
  | none => .error (logReject s kind 0 0 5)
  | some x =>
    match imageFault s x with
    | some r => .error (logReject s kind x.slot x.svn.toNat r)
    | none => let s := mrExtend { s with fw := { s.fw with accepted := mset s.fw.accepted kind x.svn.toNat } } kind x.digest
              .ok (if laterKinds.contains kind then s
                else { s with fw := { s.fw with released := s.fw.released ++ [kind], record := if kind = 2 then x.body else s.fw.record } })

def bootImages (imgs : List Image) : List Nat → State → Except State State
  | [], s => .ok s
  | k :: t, s => (bootImage imgs k s).bind (bootImages imgs t)

/-- The board's rollback counters follow the versions that have been accepted since the cold reset (R419). -/
def advanceSvn (s : State) : State :=
  { s with fw := { s.fw with svn := s.fw.accepted.foldl (fun m p => mset m p.1 (max p.2 (mgetD 0 m p.1))) s.fw.svn } }

def setBoot (s : State) (p : BootPhase) : State := { s with fw := { s.fw with boot := p } }

/-- Firmware reserves the journal, a multiple of 256 MiB in the column of a core in service, and writes its header (R314) (DESIGN CHOICE, log entry 6). -/
def reserveJournal (s : State) : State :=
  let cores := (List.range 384).filter (coreInService s)
  let d := Config.journalDraw s.fw.resets
  match cores[d % cores.length]? with
  | none => s
  | some c =>
    let j := rowLinePa c (16 * (d / 384 % 8)) 0 0
    journalHeader { s with rou := { s.rou with journalBase := j }, fw := { s.fw with kept := [(j, j + 2 ^ 28 - 1)] } }

/-- What a cold reset starts from, the identity keys derived: everything at its reset value, but what the board keeps: key slots, rollback counters, the block of the
handle counter, the nonce counter, and the package's place in its domain. -/
def coldStart (s : State) : State :=
  { State.reset with
    schedule := s.schedule, fresh := s.fresh, focusCore := s.focusCore, focusEng := s.focusEng, pkg := s.pkg,
    rou := { nonce := s.rou.nonce, block := s.rou.block, nextHandle := match s.rou.block with | none => 1 | some b => (b + 1) * 2 ^ 24 },
    fw := { keys := s.fw.keys, svn := s.fw.svn, domain := s.fw.domain, resets := s.fw.resets + 1,
            idKeys := [Config.identityKey 0, Config.identityKey 1] } }

/-- The requesters of FW_DENY, but Obsidian, and the blocks of the register map (R425, R431). -/
def requesters : List Nat := List.range 7
def blocks : List Nat := List.range 23
/-- Blocks whose access the text itself fixes: dispatch, mailbox and translation are the runtime's and the driver's, all firmware reaches the
mailbox, and only Obsidian writes its own block (R417, R428) (DEDUCED, log entry 58). -/
def hostBlocks : List Nat := [1, 2, 3]
def mbxBlock : Nat := 2
def obsidianBlock : Nat := 10

/-- One entry of the firewall's table: reads, writes. -/
def policyEntry (r b : Nat) : Bool × Bool :=
  let own : Bool := if r = 0 then hostBlocks.contains b else b == mbxBlock
  (own || Config.readPolicy r b, b != obsidianBlock && (own || Config.policy r b))

/-- Obsidian writes the table of R417 and the PMP of each firmware processor, and releases the processors (R416, R419). -/
def releaseAll (s : State) : State :=
  { s with fw := { s.fw with policy := requesters.flatMap fun r => blocks.map fun b => (32 * r + b, policyEntry r b),
                             pmp := (requesters.drop 1).map fun r => (r, Config.pmpRanges r), released := s.fw.released ++ laterKinds } }

/-- Step 4 and step 5: the other images are checked and measured, then the processors are released, and the package runs; or it stays in recovery. -/
def bootRest (imgs : List Image) (s : State) : State :=
  match bootImages imgs laterKinds s with
  | .error s => setBoot s .recovery
  | .ok s => setBoot (advanceSvn (releaseAll s)) .running

/-- A cold reset: the boot ROM, Obsidian and the configuration record are measured and checked in order, the chiplets are enumerated, and the
other images follow (DEDUCED, log entry 53). -/
def coldReset (imgs : List Image) (caps : List CapTable) (s : State) : State :=
  match bootImages imgs firstKinds (mrExtend (coldStart s) 0 Config.bootRomDigest) with
  | .error s => setBoot s .recovery
  | .ok s => bootRest imgs (reserveJournal (enumerate caps s))

/-- COLD_RESET: Boot ROM measures and verifies firmware, enumerates and releases processors (R419). -/
def execColdReset (imgs : List Image) (caps : List CapTable) (s : State) : Out := evOut s (some (coldReset imgs caps s))

/-- A warm reset repeats steps 4 and 5; MR0 to MR2 and the Onyx rings stay (DEDUCED, log entry 53). -/
def warmReset (imgs : List Image) (s : State) : Option State :=
  if !(s.fw.released.contains 1 && s.fw.released.contains 2) then none
  else
    some (bootRest imgs { s with fw := { s.fw with mrs := s.fw.mrs.filter fun p => p.1 < 3, released := firstKinds } })

/-- WARM_RESET: Boot steps 4 and 5 are repeated without clearing MR0-MR2 (R419). -/
def execWarmReset (imgs : List Image) (s : State) : Out := evOut s (warmReset imgs s)

/-! ### Attestation (R422) -/

/-- Requests as they enter a transcript; the codes and layouts are SPDM's (PRESUMED, log entry 57). -/
def spdmRequest (code p1 p2 : Nat) (body : List Byte) : List Byte := leBytes 1 0x13 ++ leBytes 1 code ++ leBytes 1 p1 ++ leBytes 1 p2 ++ body

/-- A response as it enters a transcript, without its signatures (PRESUMED, log entry 57). -/
def spdmBytes : SpdmResp → List Byte
  | .version v => spdmRequest 0x04 0 0 (leBytes 2 1 ++ leBytes 1 0 ++ leBytes 1 v)
  | .capabilities c h m k => spdmRequest 0x61 0 0 (leBytes 4 0 ++ leBytes 4 ((if c then 2 else 0) + (if h then 4 else 0) + (if m then 16 else 0) + (if k then 512 else 0)))
  | .algorithms h g => spdmRequest 0x63 0 0 (leBytes 4 g ++ leBytes 4 h)
  | .digests ds => spdmRequest 0x01 0 (ds.foldl (fun n d => n + 2 ^ d.1) 0) (ds.flatMap fun d => digestBytes d.2)
  | .certificate k c => spdmRequest 0x02 k 0 (leBytes 2 c.length ++ c)
  | .challengeAuth k n _ _ => spdmRequest 0x03 k 1 (digestBytes (sha384 Config.certChain) ++ leBytes 32 n)
  | .measurements i bs _ _ => spdmRequest 0x60 i 0 (bs.flatMap fun b => leBytes 1 b.1 ++ digestBytes b.2)
  | .error c => spdmRequest 0x7F c 0 []

def respond (s : State) (r : SpdmResp) : State := { s with fw := { s.fw with spdmOut := s.fw.spdmOut ++ [r] } }

/-- SPDM error codes (PRESUMED, log entry 57). -/
def spdmInvalid : Nat := 0x01
def spdmUnexpected : Nat := 0x04
def spdmUnsupported : Nat := 0x07

/-- Obsidian's firmware has been accepted and runs (R419, R422). -/
def obsidianUp (s : State) : Bool := s.fw.released.contains 1

def answerSpdm (r : SpdmResp) (s : State) : Option State := if obsidianUp s then some (respond s r) else none

/-- An exchange up to the negotiation is added to the transcript; GET_VERSION begins a new one. -/
def noteVca (fresh : Bool) (req : List Byte) (r : SpdmResp) (s : State) : State :=
  { s with fw := { s.fw with spdmVca := (if fresh then [] else s.fw.spdmVca) ++ req ++ spdmBytes r, spdmCerts := if fresh then [] else s.fw.spdmCerts } }
/-- An exchange about certificates is added. -/
def noteCerts (req : List Byte) (r : SpdmResp) (s : State) : State :=
  { s with fw := { s.fw with spdmCerts := s.fw.spdmCerts ++ req ++ spdmBytes r } }

def versionResp : SpdmResp := .version 0x13
/-- Certificates, challenges and measurements; no key exchange. -/
def capResp : SpdmResp := .capabilities true true true false
/-- The digest of slot 0's chain. -/
def digestsResp : SpdmResp := .digests [(0, sha384 Config.certChain)]
def certResp : SpdmResp := .certificate 0 Config.certChain
/-- SHA-384 and a signature algorithm: 0 Ed25519, 1 ML-DSA-65. -/
def algResp (sig : Nat) : SpdmResp := .algorithms 384 sig

def getVersion (s : State) : Option State := answerSpdm versionResp (noteVca true (spdmRequest 0x84 0 0 []) versionResp s)
def getCapabilities (s : State) : Option State := answerSpdm capResp (noteVca false (spdmRequest 0xE1 0 0 []) capResp s)

/-- GET_VERSION: SPDM GET_VERSION request answered by Obsidian (R422). -/
def execGetVersion (s : State) : Out := evOut s (getVersion s)
/-- GET_CAPABILITIES: SPDM GET_CAPABILITIES request (R422). -/
def execGetCapabilities (s : State) : Out := evOut s (getCapabilities s)

/-- A negotiation: SHA-384 and the algorithm asked for. -/
def negotiate (sig : Nat) (s : State) : Option State :=
  if 2 ≤ sig then answerSpdm (.error spdmInvalid) s
  else answerSpdm (algResp sig) (noteVca false (spdmRequest 0xE3 0 0 (leBytes 4 sig)) (algResp sig) { s with fw := { s.fw with spdmSig := some sig } })

/-- NEGOTIATE_ALGORITHMS: SPDM NEGOTIATE_ALGORITHMS request (R422). -/
def execNegotiateAlgorithms (sig : Nat) (s : State) : Out := evOut s (negotiate sig s)

def getDigests (s : State) : Option State := answerSpdm digestsResp (noteCerts (spdmRequest 0x81 0 0 []) digestsResp s)
def getCertificate (slot : Nat) (s : State) : Option State :=
  if slot = 0 then answerSpdm certResp (noteCerts (spdmRequest 0x82 0 0 []) certResp s) else answerSpdm (.error spdmInvalid) s

/-- GET_DIGESTS: SPDM GET_DIGESTS request (R422). -/
def execGetDigests (s : State) : Out := evOut s (getDigests s)
/-- GET_CERTIFICATE: SPDM GET_CERTIFICATE request (R422). -/
def execGetCertificate (slot : Nat) (s : State) : Out := evOut s (getCertificate slot s)

/-- The signature in algorithm `a`, by the identity key, over a transcript's hash. -/
def signAs (s : State) (a : Nat) (transcript : List Byte) : Nat := Config.spdmSign a (s.fw.idKeys.getD a []) (sha384 transcript)

/-- A signed response: the signature in the negotiated algorithm, and the other's over the same transcript in OpaqueData. -/
def signed (s : State) (transcript : List Byte) (f : Nat → Nat → SpdmResp) : Option State :=
  match s.fw.spdmSig with
  | none => answerSpdm (.error spdmUnexpected) s
  | some a => answerSpdm (f (signAs s a transcript) (signAs s (1 - a) transcript)) s

/-- The transcript of a challenge; the exchanges about certificates that it covers are spent. -/
def challengeLog (s : State) (nonce : Nat) : List Byte :=
  s.fw.spdmVca ++ s.fw.spdmCerts ++ spdmRequest 0x83 0 0 (leBytes 32 nonce) ++ spdmBytes (.challengeAuth 0 nonce 0 0)

def challenge (slot nonce : Nat) (s : State) : Option State :=
  if slot = 0 then (signed s (challengeLog s nonce) fun a b => .challengeAuth slot nonce a b).map fun t =>
    if s.fw.spdmSig.isSome then { t with fw := { t.fw with spdmCerts := [] } } else t
  else answerSpdm (.error spdmInvalid) s

/-- CHALLENGE: SPDM CHALLENGE request answered with dual signatures (R422). -/
def execChallenge (slot : Nat) (nonce : Nat) (s : State) : Out := evOut s (challenge slot nonce s)

/-- Measurement blocks 1 to 16 are MR0 to MR15; index 0xFF asks for all of them, and 0 for their number. -/
def measBlocks (s : State) (idx : Nat) : List (Nat × BitVec 384) :=
  if idx = 0 then [] else if idx = 0xFF then (List.range 16).map fun i => (i + 1, mrAt s i) else [(idx, mrAt s (idx - 1))]

def measLog (s : State) (idx : Nat) : List Byte :=
  s.fw.spdmVca ++ spdmRequest 0xE0 1 idx [] ++ spdmBytes (.measurements idx (measBlocks s idx) 0 0)

/-- GET_MEASUREMENTS: SPDM GET_MEASUREMENTS returns MR0-MR15 (R422). -/
def execGetMeasurements (idx : Nat) (s : State) : Out :=
  evOut s (if idx ≤ 16 || idx = 0xFF then signed s (measLog s idx) (fun a b => .measurements idx (measBlocks s idx) a b) else answerSpdm (.error spdmInvalid) s)

/-- Key exchange and sessions are not supported. -/
def execSpdmUnsupported (code : Nat) (s : State) : Out := evOut s (answerSpdm (.error spdmUnsupported) s)

end Sys2Proof.Machine
end

