-- ==== Sys2Proof/Machine/Registers.lean ====
section
/-! DEFINITION. Register space: the access firewall and writes of registers (R276, R279, R386, R394, R417, R424 to R430). -/

namespace Sys2Proof.Machine

/-! ### The trap-report ring and the packet cores' flush (R427, R430) -/

/-- The runtime has not consumed the launch's kill report: its list keeps the context area of the first team. -/
def killUnread (s : State) (n : Nat) : Bool :=
  (s.fw.heldReports.any fun r => r.kind == 4 && r.launch == n) ||
    s.fw.reports.any fun r => r.kind == 4 && r.launch == n && (s.fw.trapWptr - BitVec.ofNat 32 r.seqNo).toNat ≤ (s.fw.trapWptr - s.fw.trapRptr).toNat

/-- The read pointer moves, unless it would pass the write pointer; held reports are written while there is room. -/
def trapRptr (v : Nat) (s : State) : State :=
  let p : BitVec 32 := BitVec.ofNat 32 v
  if 1024 < (s.fw.trapWptr - p).toNat then s
  else
    let s := { s with fw := { s.fw with trapRptr := p } }
    let s := freeAreas s fun o => (mget s.disp.launches o.launch).isNone && !(killUnread s o.launch)
    drainReports s.fw.heldReports.length s

/-- A write of a Galena's packet cores waits at its line. -/
def packetPending (s : State) (g : Nat) : Bool :=
  let mine (r : LineReq) : Bool := match r with
    | .ioWrite ag _ _ _ _ _ => ag == .packet g
    | _ => false
  s.hub.llc.any fun l => l.queue.any mine || match l.st with
    | .rvk _ _ r | .hrev _ _ r | .hsi r | .hsn r | .hrc r | .fwd _ r => mine r
    | .stable => false

/-- GO starts a flush of the packet cores' caches unless one is under way: what they have written goes to its lines, in order, and their lines are
dropped (R349, R427) (DESIGN CHOICE, log entry 59). -/
def galenaFlush (g : Nat) (v : Word) (s : State) : Option State :=
  if 2 ≤ g then none
  else
    let u := galenaUnit s g
    some (if v.getLsbD 0 && u.flushDone then
        u.cached.foldl (fun s w => physWrite (.packet g) s w.1 w.2) (setGalena s g { u with flushDone := false, cached := [] })
      else s)

/-- The flush completes when every write of it has been performed (R349) (DESIGN CHOICE, log entry 59). -/
def galenaFlushed (g : Nat) (s : State) : Option State :=
  let u := galenaUnit s g
  if 2 ≤ g || u.flushDone || packetPending s g then none else some (setGalena s g { u with flushDone := true })

/-- GALENA_FLUSH_DONE: A packet-core flush completes and DONE returns to 1 (R427). -/
def execGalenaFlushDone (g : Nat) (s : State) : Out := evOut s (galenaFlushed g s)

/-! ### The firewall (R416, R417, R428) -/

def reqCode : Requester → Nat
  | .host => 0 | .quartz => 1 | .worker => 2 | .scheduler => 3 | .packetCore => 4 | .rou => 5 | .power => 6 | .obsidian => 7

def inBlock (off base size : Nat) : Bool := base ≤ off && off < base + size
def isObsidian (off : Nat) : Bool := inBlock off 0x1000000 0x100000
/-- An Onyx ring: the hub's block, or a stack's ring. -/
def isOnyx (off : Nat) : Bool :=
  inBlock off 0x1100000 0x200000 || (List.range 8).any fun k => inBlock off (0x2000000 + 0x1000000 * k + 0xF0000) (0x1000000 - 0xF0000)

/-- The mailbox slot that a write concerns: its own bytes, or its doorbell. -/
def slotNamed (off : Nat) (v : Word) : Option Nat :=
  if off = 0x200000 then some (v.toNat % 16)
  else if inBlock off 0x201000 0x1000 then some ((off - 0x201000) / 0x100) else none

/-- Slots 0 to 11 are the host's, and 12 to 15 the firmware processors' (DEDUCED, log entry 58). -/
def slotAllowed (r : Requester) (off : Nat) (v : Word) : Bool :=
  match slotNamed off v with
  | none => true
  | some i => (r == .host) == decide (i < 12)

/-- The block of an offset of register space, in the order of R425. -/
def blockOf (off : Nat) : Nat :=
  if off < 0x400000 then off / 0x100000
  else if off < 0x800000 then 4 else if off < 0xC00000 then 5
  else if off < 0x1100000 then 6 + (off - 0xC00000) / 0x100000
  else if off < 0x2000000 then 11
  else if off < 0xC000000 then 12 + (off - 0x2000000) / 0x1000000
  else 22

/-- The firewall's entry for a requester and an offset; before Obsidian has written the table it refuses everything (DEDUCED, log entry 58). -/
def tableEntry (s : State) (r : Requester) (off : Nat) : Bool × Bool := mgetD (false, false) s.fw.policy (32 * reqCode r + blockOf off)

/-- Whether the firewall lets a write through: Obsidian may write every block, and only it its own; in recovery the host reaches only the Onyx
rings; a mailbox slot is its side's; the rest is the table's (DEDUCED, log entry 58). -/
def writeAllowed (s : State) (r : Requester) (off : Nat) (v : Word) : Bool :=
  if r = .obsidian then true
  else if isObsidian off || !slotAllowed r off v then false
  else if r = .host && s.fw.boot != .running then isOnyx off
  else (tableEntry s r off).2

/-- A processor runs: the host and Obsidian do, the others when Obsidian has released them (R416, R419). -/
def requesterUp (s : State) : Requester → Bool
  | .host | .obsidian => true
  | .quartz => s.fw.released.contains 3
  | .worker => s.fw.released.contains 4
  | .scheduler => s.fw.released.contains 5
  | .rou => s.fw.released.contains 6
  | .power => s.fw.released.contains 7
  | .packetCore => s.fw.released.contains 8

/-- PMP lets a firmware processor reach n bytes at an address, or an offset of register space; an access that it stops never leaves the processor (R416) (DEDUCED, log entry 58). -/
def pmpCovers (s : State) (r : Requester) (pa n : Nat) : Bool :=
  r == .host || r == .obsidian || (mgetD [] s.fw.pmp (reqCode r)).any fun x => x.1 ≤ pa && pa + n ≤ x.2 + 1
def pmpAllows (s : State) (r : Requester) (off : Nat) : Bool := pmpCovers s r (0x300000000000 + off) 1

/-! ### Registers -/

/-- A register that takes v when it lies in a range, and ignores it otherwise (R394). -/
def ranged (lo hi old v : Nat) : Nat := if lo ≤ v && v ≤ hi then v else old

/-- The scheduling registers and queues of the dispatch block. -/
def writeDisp (s : State) (r : Nat) (v : Word) : State :=
  let d := s.disp
  if r = 0 then { s with disp := { d with agelim := ranged 1 65535 d.agelim v.toNat } }
  else if r = 8 then { s with disp := { d with slice := ranged 1 1000000 d.slice v.toNat } }
  else if r = 0x10 then { s with disp := { d with drain := v.toNat } }
  else if r = 0x18 then { s with disp := { d with wdog := v.toNat } }
  else if inBlock r 0x1000 0x1000 then
    let q := (r - 0x1000) / 0x40
    match r % 0x40 with
    | 0 => setQ s q { getQ s q with qbase := v &&& ~~~(0x3F : Word) }
    | 8 => (dispQctl q v s).getD s
    | 0x10 => (dispQwptr q (v.toNat % 2 ^ 32) s).getD s
    | _ => s
  else s

/-- The mailbox block. -/
def writeMbx (s : State) (r : Nat) (v : Word) : State :=
  if r = 0 then ringDoorbell s (v.toNat % 16)
  else if r = 8 then { s with fw := { s.fw with mbxDone := s.fw.mbxDone &&& ~~~(BitVec.ofNat 16 v.toNat) } }
  else if r = 0x10 then { s with fw := { s.fw with mbxIrq := v &&& 0x1FF } }
  else if inBlock r 0x1000 0x1000 then { s with fw := { s.fw with mbx := mputD 0 s.fw.mbx ((r - 0x1000) / 8) v } }
  else if r = 0x80008 then trapRptr (v.toNat % 2 ^ 32) s
  else if r = 0x80010 then { s with fw := { s.fw with trapIrq := v &&& 0x1FF } }
  else s

/-- TRANS_SHOOT_CTL: a 1 in DONE clears it, and GO starts a shoot-down of the mode written with it. -/
def writeShootCtl (s : State) (v : Word) : State :=
  let m : BitVec 2 := v.extractLsb' 1 2
  let s1 := { s with hub := { s.hub with shootMode := m } }
  let s2 := if v.getLsbD 0 then
      match m.toNat with
      | 0 => shootStart .unmap s1
      | 1 => shootStart .wrprotect s1
      | 2 => shootStart .inval s1
      | _ => s1
    else s1
  if v.getLsbD 3 then { s2 with hub := { s2.hub with shootDone := false } } else s2

/-- The translation block. -/
def writeTrans (s : State) (r : Nat) (v : Word) : State :=
  let h := s.hub
  match r with
  | 0x00 => { s with hub := { h with transRoot := v &&& 0xFFFFFFFFF000 } }
  | 0x08 => { s with hub := { h with shootAsid := v &&& 0xFFFF } }
  | 0x10 => { s with hub := { h with shootBase := v } }
  | 0x18 => { s with hub := { h with shootLen := v } }
  | 0x20 => writeShootCtl s v
  | 0x40 => migSweep { s with hub := { h with migThresh := v } }
  | 0x48 => migSweep { s with hub := { h with migMargin := v } }
  | 0x50 => migSweep { s with hub := { h with migInterval := v } }
  | 0x60 => migBase v s
  | 0x68 => migCtl v s
  | 0x78 => migRptr (v.toNat % 2 ^ 32) s
  | _ => s

/-- ONYX_CTL: EN is written, and a 1 in FROZEN clears it. -/
def onyxCtl (o : OnyxRing) (v : Word) : OnyxRing := { o with en := v.getLsbD 0, frozen := o.frozen && !v.getLsbD 1 }

/-- A whole register of 64 bits; an unassigned or read-only offset ignores the write. -/
def writeRegister (s : State) (off : Nat) (v : Word) : State :=
  if inBlock off 0x100000 0x100000 then writeDisp s (off - 0x100000) v
  else if inBlock off 0x200000 0x100000 then writeMbx s (off - 0x200000) v
  else if inBlock off 0x300000 0x100000 then writeTrans s (off - 0x300000) v
  else if off = 0x1100000 then { s with fw := { s.fw with onyxHub := onyxCtl s.fw.onyxHub v } }
  else if inBlock off 0x2000000 0x8000000 && off % 0x1000000 = 0xF0000 then
    let k := (off - 0x2000000) / 0x1000000
    { s with fw := { s.fw with onyxStacks := mset s.fw.onyxStacks k (onyxCtl (mgetD {} s.fw.onyxStacks k) v) } }
  else if inBlock off 0xA000000 0x2000000 && off % 0x1000000 = 0 then (galenaFlush ((off - 0xA000000) / 0x1000000) v s).getD s
  else s

/-- The stored bits of a register, for a write of one half of it; bits that act when written are 0 (DEDUCED, log entry 60). -/
def heldBits (s : State) (off : Nat) : Word :=
  let d := s.disp
  let h := s.hub
  let n (x : Nat) : Word := BitVec.ofNat 64 x
  if off = 0x100000 then n d.agelim else if off = 0x100008 then n d.slice else if off = 0x100010 then n d.drain else if off = 0x100018 then n d.wdog
  else if inBlock off 0x101000 0x1000 then
    let q := getQ s ((off - 0x101000) / 0x40)
    match off % 0x40 with
    | 0 => q.qbase
    | 8 => q.qctl &&& ~~~(2 : Word)
    | 0x10 => n q.wptr
    | _ => 0
  else if off = 0x200010 then s.fw.mbxIrq
  else if inBlock off 0x201000 0x1000 then mgetD 0 s.fw.mbx ((off - 0x201000) / 8)
  else if off = 0x280008 then n s.fw.trapRptr.toNat
  else if off = 0x280010 then s.fw.trapIrq
  else match off with
    | 0x300000 => h.transRoot
    | 0x300008 => h.shootAsid
    | 0x300010 => h.shootBase
    | 0x300018 => h.shootLen
    | 0x300020 => n (2 * h.shootMode.toNat)
    | 0x300040 => h.migThresh
    | 0x300048 => h.migMargin
    | 0x300050 => h.migInterval
    | 0x300060 => h.migRingBase
    | 0x300068 => h.migRingCtl
    | 0x300078 => n h.migRptr.toNat
    | 0x1100000 => n (if s.fw.onyxHub.en then 1 else 0)
    | _ =>
      if inBlock off 0x2000000 0x8000000 && off % 0x1000000 = 0xF0000 then n (if (mgetD {} s.fw.onyxStacks ((off - 0x2000000) / 0x1000000)).en then 1 else 0)
      else 0

/-- The upper half of the register is reserved: a write of it alone is ignored (R3). -/
def upperReserved (off : Nat) : Bool :=
  off == 0x200000 || off == 0x200008 || off == 0x200010 || off == 0x280008 || off == 0x280010 || off == 0x300078 ||
    (inBlock off 0x101000 0x1000 && off % 0x40 == 0x10) || (inBlock off 0x100000 0x10)

/-- Bits of the half, or halves, of a register that a write covers. -/
def halfMask (off : Nat) (w64 : Bool) : Word := if w64 then BitVec.allOnes 64 else if off % 8 = 0 then 0xFFFFFFFF else 0xFFFFFFFF00000000

/-- The value that a write gives to a whole register: the half that it does not cover keeps its bits. -/
def regValue (s : State) (off : Nat) (w64 : Bool) (v : Word) : Word :=
  if w64 then v
  else
    let old := heldBits s (off / 8 * 8)
    if off % 8 = 0 then (old &&& 0xFFFFFFFF00000000) ||| (v &&& 0xFFFFFFFF) else (old &&& 0xFFFFFFFF) ||| (v <<< 32)

/-- The host has written a register in this hub cycle: a write of firmware takes effect before it, and not after (R425) (DESIGN CHOICE, log entry 1). -/
def hostNow (s : State) : Bool := s.fw.hostWrote == some s.time

/-- The cycle of a host's write is noted. -/
def noteHost (s : State) (who : Requester) : State := if who = .host then { s with fw := { s.fw with hostWrote := some s.time } } else s

/-- A write that the firewall lets through. -/
def registerPut (who : Requester) (off : Nat) (w64 : Bool) (v : Word) (s : State) : State :=
  if !w64 && off % 8 = 4 && upperReserved (off - 4) then s
  else writeRegister (noteHost s who) (off / 8 * 8) (regValue s off w64 v)

/-- An access of register space that completes with a bus error. -/
def regBad (s : State) (who : Requester) (off : Nat) : State := { s with fw := { s.fw with regErrors := (who, off) :: s.fw.regErrors } }

/-- A write of register space: a misaligned one completes with a bus error, and one that the firewall refuses is ignored and logged (DEDUCED, log
entry 60). Writes of one hub cycle take effect firmware first, then host (R425). -/
def registerWrite (who : Requester) (off : Nat) (w64 : Bool) (v : Word) (s : State) : Option State :=
  if 0x10000000 ≤ off || !requesterUp s who || (who != .host && hostNow s) then none
  else if !pmpAllows s who off then some s
  else if off % (if w64 then 8 else 4) ≠ 0 then some (regBad s who off)
  else if !writeAllowed s who off v then some (logHub s 0x080E [(1, reqCode who), (4, off), (1, 1)])
  else some (registerPut who off w64 v s)

/-- REGISTER_WRITE: A write to any other register, checked by the access firewall (R425). -/
def execRegisterWrite (who : Requester) (off : Nat) (w64 : Bool) (v : Word) (s : State) : Out := evOut s (registerWrite who off w64 v s)

/-! ### Registers that the opcode table names: the runtime and the driver write them, through BAR0 (R276, R279, R386, R427, R430) (DEDUCED, log entry 60) -/

/-- A write of a whole register by the host. -/
def hostWrite (off : Nat) (v : Word) (s : State) : Option State := registerWrite .host off true v s

/-- DISP_QWPTR: Writing a queue's write index rings its doorbell or disables the queue with ERR (R387). -/
def execDispQwptr (q v : Nat) (s : State) : Out := evOut s (if 64 ≤ q then none else hostWrite (0x101010 + 0x40 * q) (BitVec.ofNat 64 v) s)
/-- DISP_QCTL: Writing queue control enables or disables it, clears ERR and resets tokens on enable (R387). -/
def execDispQctl (q : Nat) (v : Word) (s : State) : Out := evOut s (if 64 ≤ q then none else hostWrite (0x101008 + 0x40 * q) v s)
/-- TRAP_RPTR: The runtime advances the trap-report read pointer, releasing held reports (R430). -/
def execTrapRptr (v : Nat) (s : State) : Out := evOut s (hostWrite 0x280008 (BitVec.ofNat 64 v) s)
/-- MIG_RING_RPTR: The driver advances the migration ring's read pointer, ignored if it would pass WPTR (R279). -/
def execMigRingRptr (v : Nat) (s : State) : Out := evOut s (hostWrite 0x300078 (BitVec.ofNat 64 v) s)
/-- MIG_RING_CTL: Writing ring control enables or disables the ring, ignoring size changes while enabled (R279). -/
def execMigRingCtl (v : Word) (s : State) : Out := evOut s (hostWrite 0x300068 v s)
/-- MIG_RING_BASE: Writing the ring base, ignored while the ring is enabled (R279). -/
def execMigRingBase (v : Word) (s : State) : Out := evOut s (hostWrite 0x300060 v s)
/-- SHOOTDOWN_UNMAP: TRANS_SHOOT_CTL GO with MODE UNMAP removes translations and writes back and invalidates lines (R277). -/
def execShootdownUnmap (s : State) : Out := evOut s (hostWrite 0x300020 1 s)
/-- SHOOTDOWN_WRPROTECT: GO with MODE WRPROTECT removes translations and clears W on lines (R277). -/
def execShootdownWrprotect (s : State) : Out := evOut s (hostWrite 0x300020 3 s)
/-- SHOOTDOWN_INVAL: GO with MODE INVAL removes translations and invalidates lines without write-back (R277). -/
def execShootdownInval (s : State) : Out := evOut s (hostWrite 0x300020 5 s)
/-- GALENA_FLUSH: Writing GO writes back and drops every packet-core cache line (R427). -/
def execGalenaFlush (g : Nat) (v : Word) (s : State) : Out := evOut s (if 2 ≤ g then none else hostWrite (0xA000000 + 0x1000000 * g) v s)

end Sys2Proof.Machine
end

