-- ==== Sys2Proof/Machine/Dispatch.lean ====
section
/-! DEFINITION. One arm per instruction and event: a direct call of its meaning. -/

namespace Sys2Proof.Machine

/-- The meaning of every row of the opcode table. -/
def exec (i : Instr) (s : State) : Host.Outcome State Fault Refusal :=
  match i with
  | .nop => Sys2Proof.Machine.execNop s
  | .ret => Sys2Proof.Machine.execRet s
  | .halt => Sys2Proof.Machine.execHalt s
  | .endl => Sys2Proof.Machine.execEndl s
  | .brReg a => Sys2Proof.Machine.execBrReg a s
  | .callReg a => Sys2Proof.Machine.execCallReg a s
  | .chk a => Sys2Proof.Machine.execChk a s
  | .trap n => Sys2Proof.Machine.execTrap n s
  | .bkpt n => Sys2Proof.Machine.execBkpt n s
  | .rdcr d cr => Sys2Proof.Machine.execRdcr d cr s
  | .wrcr cr a => Sys2Proof.Machine.execWrcr cr a s
  | .semw n => Sys2Proof.Machine.execSemw n s
  | .semp n => Sys2Proof.Machine.execSemp n s
  | .br p slot line => Sys2Proof.Machine.execBr p slot line s
  | .brc p cc a slot line => Sys2Proof.Machine.execBrc p cc a slot line s
  | .call p slot line => Sys2Proof.Machine.execCall p slot line s
  | .loopReg k a => Sys2Proof.Machine.execLoopReg k a s
  | .loopImm k n => Sys2Proof.Machine.execLoopImm k n s
  | .semwL64 k n => Sys2Proof.Machine.execSemwL64 k n s
  | .sempL64 k n => Sys2Proof.Machine.execSempL64 k n s
  | .nopL64 k => Sys2Proof.Machine.execNopL64 k s
  | .add d a b sh => Sys2Proof.Machine.execAdd d a b sh s
  | .sub d a b sh => Sys2Proof.Machine.execSub d a b sh s
  | .mul d a b => Sys2Proof.Machine.execMul d a b s
  | .mulh d a b => Sys2Proof.Machine.execMulh d a b s
  | .mulhu d a b => Sys2Proof.Machine.execMulhu d a b s
  | .div d a b => Sys2Proof.Machine.execDiv d a b s
  | .divu d a b => Sys2Proof.Machine.execDivu d a b s
  | .rem d a b => Sys2Proof.Machine.execRem d a b s
  | .remu d a b => Sys2Proof.Machine.execRemu d a b s
  | .and d a b => Sys2Proof.Machine.execAnd d a b s
  | .or d a b => Sys2Proof.Machine.execOr d a b s
  | .xor d a b => Sys2Proof.Machine.execXor d a b s
  | .andn d a b => Sys2Proof.Machine.execAndn d a b s
  | .shl d a b => Sys2Proof.Machine.execShl d a b s
  | .shr d a b => Sys2Proof.Machine.execShr d a b s
  | .sar d a b => Sys2Proof.Machine.execSar d a b s
  | .rotr d a b => Sys2Proof.Machine.execRotr d a b s
  | .min d a b => Sys2Proof.Machine.execMin d a b s
  | .minu d a b => Sys2Proof.Machine.execMinu d a b s
  | .max d a b => Sys2Proof.Machine.execMax d a b s
  | .maxu d a b => Sys2Proof.Machine.execMaxu d a b s
  | .clz d a => Sys2Proof.Machine.execClz d a s
  | .ctz d a => Sys2Proof.Machine.execCtz d a s
  | .popc d a => Sys2Proof.Machine.execPopc d a s
  | .cmp cc d a b => Sys2Proof.Machine.execCmp cc d a b s
  | .mov d a => Sys2Proof.Machine.execMov d a s
  | .addi d a imm => Sys2Proof.Machine.execAddi d a imm s
  | .andi d a imm => Sys2Proof.Machine.execAndi d a imm s
  | .ori d a imm => Sys2Proof.Machine.execOri d a imm s
  | .xori d a imm => Sys2Proof.Machine.execXori d a imm s
  | .shlImm d a n => Sys2Proof.Machine.execShlImm d a n s
  | .shrImm d a n => Sys2Proof.Machine.execShrImm d a n s
  | .sarImm d a n => Sys2Proof.Machine.execSarImm d a n s
  | .rotrImm d a n => Sys2Proof.Machine.execRotrImm d a n s
  | .movi k d lit => Sys2Proof.Machine.execMovi k d lit s
  | .moviHi k d lit => Sys2Proof.Machine.execMoviHi k d lit s
  | .addiX96 k d a lit => Sys2Proof.Machine.execAddiX96 k d a lit s
  | .andiX96 k d a lit => Sys2Proof.Machine.execAndiX96 k d a lit s
  | .oriX96 k d a lit => Sys2Proof.Machine.execOriX96 k d a lit s
  | .xoriX96 k d a lit => Sys2Proof.Machine.execXoriX96 k d a lit s
  | .ext k sx d a pos width => Sys2Proof.Machine.execExt k sx d a pos width s
  | .ins k d a pos width => Sys2Proof.Machine.execIns k d a pos width s
  | .sel k d a b c => Sys2Proof.Machine.execSel k d a b c s
  | .lds k size sx acq hint d a lit => Sys2Proof.Machine.execLds k size sx acq hint d a lit s
  | .sts k size rel hint a b lit => Sys2Proof.Machine.execSts k size rel hint a b lit s
  | .qpush k q a => Sys2Proof.Machine.execQpush k q a s
  | .qpop k d => Sys2Proof.Machine.execQpop k d s
  | .fork k eng sem a slot line => Sys2Proof.Machine.execFork k eng sem a slot line s
  | .launch k d a => Sys2Proof.Machine.execLaunch k d a s
  | .waitch k d a => Sys2Proof.Machine.execWaitch k d a s
  | .exit k a => Sys2Proof.Machine.execExit k a s
  | .yield k d => Sys2Proof.Machine.execYield k d s
  | .rdid k d sel => Sys2Proof.Machine.execRdid k d sel s
  | .hintRem k a => Sys2Proof.Machine.execHintRem k a s
  | .cba k d bar count => Sys2Proof.Machine.execCba k d bar count s
  | .cbw k d a bar => Sys2Proof.Machine.execCbw k d a bar s
  | .gbar k d => Sys2Proof.Machine.execGbar k d s
  | .watch k a => Sys2Proof.Machine.execWatch k a s
  | .mwait k d a => Sys2Proof.Machine.execMwait k d a s
  | .cqPut k q a cpost => Sys2Proof.Machine.execCqPut k q a cpost s
  | .cqMcast k q a cpost => Sys2Proof.Machine.execCqMcast k q a cpost s
  | .cqFence k q mask cpost => Sys2Proof.Machine.execCqFence k q mask cpost s
  | .lda k size sx acq sp hint d a lit => Sys2Proof.Machine.execLda k size sx acq sp hint d a lit s
  | .sta k size rel sp hint a b lit => Sys2Proof.Machine.execSta k size rel sp hint a b lit s
  | .vld k acq sp hint d a lit => Sys2Proof.Machine.execVld k acq sp hint d a lit s
  | .vst k rel sp hint d a lit => Sys2Proof.Machine.execVst k rel sp hint d a lit s
  | .vlds k size acq sp hint d a lit => Sys2Proof.Machine.execVlds k size acq sp hint d a lit s
  | .vsts k size rel sp hint d a lit => Sys2Proof.Machine.execVsts k size rel sp hint d a lit s
  | .vgath k size acq sp hint d a b => Sys2Proof.Machine.execVgath k size acq sp hint d a b s
  | .vscat k size rel sp hint d a b => Sys2Proof.Machine.execVscat k size rel sp hint d a b s
  | .tld k acq sp hint d a b => Sys2Proof.Machine.execTld k acq sp hint d a b s
  | .tst k rel sp hint d a b => Sys2Proof.Machine.execTst k rel sp hint d a b s
  | .ldS k size sx sp hint d a lit => Sys2Proof.Machine.execLdS k size sx sp hint d a lit s
  | .rspSt k hint d a b lit => Sys2Proof.Machine.execRspSt k hint d a b lit s
  | .pref k hint a lit => Sys2Proof.Machine.execPref k hint a lit s
  | .fenceAcq k => Sys2Proof.Machine.execFenceAcq k s
  | .fenceRel k => Sys2Proof.Machine.execFenceRel k s
  | .fenceSc k => Sys2Proof.Machine.execFenceSc k s
  | .acqr k a b => Sys2Proof.Machine.execAcqr k a b s
  | .cwb k a b => Sys2Proof.Machine.execCwb k a b s
  | .rowAct k a b => Sys2Proof.Machine.execRowAct k a b s
  | .rowCon k d a quad => Sys2Proof.Machine.execRowCon k d a quad s
  | .rowCon2 k d a b quad => Sys2Proof.Machine.execRowCon2 k d a b quad s
  | .rowPut k d a quad => Sys2Proof.Machine.execRowPut k d a quad s
  | .rowPre k a => Sys2Proof.Machine.execRowPre k a s
  | .rowStat k d sel => Sys2Proof.Machine.execRowStat k d sel s
  | .rowWait k => Sys2Proof.Machine.execRowWait k s
  | .amoAdd k size o hint d a b => Sys2Proof.Machine.execAmoAdd k size o hint d a b s
  | .amoSub k size o hint d a b => Sys2Proof.Machine.execAmoSub k size o hint d a b s
  | .amoMin k size o hint d a b => Sys2Proof.Machine.execAmoMin k size o hint d a b s
  | .amoMax k size o hint d a b => Sys2Proof.Machine.execAmoMax k size o hint d a b s
  | .amoMinu k size o hint d a b => Sys2Proof.Machine.execAmoMinu k size o hint d a b s
  | .amoMaxu k size o hint d a b => Sys2Proof.Machine.execAmoMaxu k size o hint d a b s
  | .amoAnd k size o hint d a b => Sys2Proof.Machine.execAmoAnd k size o hint d a b s
  | .amoOr k size o hint d a b => Sys2Proof.Machine.execAmoOr k size o hint d a b s
  | .amoXor k size o hint d a b => Sys2Proof.Machine.execAmoXor k size o hint d a b s
  | .amoSwp k size o hint d a b => Sys2Proof.Machine.execAmoSwp k size o hint d a b s
  | .amoCas k size o hint d a b => Sys2Proof.Machine.execAmoCas k size o hint d a b s
  | .amoFadd k t o hint d a b => Sys2Proof.Machine.execAmoFadd k t o hint d a b s
  | .amoFmin k t o hint d a b => Sys2Proof.Machine.execAmoFmin k t o hint d a b s
  | .amoFmax k t o hint d a b => Sys2Proof.Machine.execAmoFmax k t o hint d a b s
  | .acas128 k o hint d a b => Sys2Proof.Machine.execAcas128 k o hint d a b s
  | .redAdd k size o hint a b => Sys2Proof.Machine.execRedAdd k size o hint a b s
  | .redSub k size o hint a b => Sys2Proof.Machine.execRedSub k size o hint a b s
  | .redMin k size o hint a b => Sys2Proof.Machine.execRedMin k size o hint a b s
  | .redMax k size o hint a b => Sys2Proof.Machine.execRedMax k size o hint a b s
  | .redMinu k size o hint a b => Sys2Proof.Machine.execRedMinu k size o hint a b s
  | .redMaxu k size o hint a b => Sys2Proof.Machine.execRedMaxu k size o hint a b s
  | .redAnd k size o hint a b => Sys2Proof.Machine.execRedAnd k size o hint a b s
  | .redOr k size o hint a b => Sys2Proof.Machine.execRedOr k size o hint a b s
  | .redXor k size o hint a b => Sys2Proof.Machine.execRedXor k size o hint a b s
  | .redFadd k t o hint a b => Sys2Proof.Machine.execRedFadd k t o hint a b s
  | .redFmin k t o hint a b => Sys2Proof.Machine.execRedFmin k t o hint a b s
  | .redFmax k t o hint a b => Sys2Proof.Machine.execRedFmax k t o hint a b s
  | .vamoAdd k size o hint d a b => Sys2Proof.Machine.execVamoAdd k size o hint d a b s
  | .vamoSub k size o hint d a b => Sys2Proof.Machine.execVamoSub k size o hint d a b s
  | .vamoMin k size o hint d a b => Sys2Proof.Machine.execVamoMin k size o hint d a b s
  | .vamoMax k size o hint d a b => Sys2Proof.Machine.execVamoMax k size o hint d a b s
  | .vamoMinu k size o hint d a b => Sys2Proof.Machine.execVamoMinu k size o hint d a b s
  | .vamoMaxu k size o hint d a b => Sys2Proof.Machine.execVamoMaxu k size o hint d a b s
  | .vamoAnd k size o hint d a b => Sys2Proof.Machine.execVamoAnd k size o hint d a b s
  | .vamoOr k size o hint d a b => Sys2Proof.Machine.execVamoOr k size o hint d a b s
  | .vamoXor k size o hint d a b => Sys2Proof.Machine.execVamoXor k size o hint d a b s
  | .vamoSwp k size o hint d a b => Sys2Proof.Machine.execVamoSwp k size o hint d a b s
  | .vamoFadd k t o hint d a b => Sys2Proof.Machine.execVamoFadd k t o hint d a b s
  | .vamoFmin k t o hint d a b => Sys2Proof.Machine.execVamoFmin k t o hint d a b s
  | .vamoFmax k t o hint d a b => Sys2Proof.Machine.execVamoFmax k t o hint d a b s
  | .vadd k t d a b => Sys2Proof.Machine.execVadd k t d a b s
  | .vsub k t d a b => Sys2Proof.Machine.execVsub k t d a b s
  | .vmul k t d a b => Sys2Proof.Machine.execVmul k t d a b s
  | .vfma k t d a b => Sys2Proof.Machine.execVfma k t d a b s
  | .vfms k t d a b => Sys2Proof.Machine.execVfms k t d a b s
  | .vfnma k t d a b => Sys2Proof.Machine.execVfnma k t d a b s
  | .vmin k t d a b => Sys2Proof.Machine.execVmin k t d a b s
  | .vmax k t d a b => Sys2Proof.Machine.execVmax k t d a b s
  | .vabs k t d a => Sys2Proof.Machine.execVabs k t d a s
  | .vneg k t d a => Sys2Proof.Machine.execVneg k t d a s
  | .vadds k t d a b => Sys2Proof.Machine.execVadds k t d a b s
  | .vsubs k t d a b => Sys2Proof.Machine.execVsubs k t d a b s
  | .vmulh k t d a b => Sys2Proof.Machine.execVmulh k t d a b s
  | .vdiv k t d a b => Sys2Proof.Machine.execVdiv k t d a b s
  | .vsqrt k t d a => Sys2Proof.Machine.execVsqrt k t d a s
  | .vrcp k t d a => Sys2Proof.Machine.execVrcp k t d a s
  | .vrsq k t d a => Sys2Proof.Machine.execVrsq k t d a s
  | .vexp2 k t d a => Sys2Proof.Machine.execVexp2 k t d a s
  | .vlog2 k t d a => Sys2Proof.Machine.execVlog2 k t d a s
  | .vsinp k t d a => Sys2Proof.Machine.execVsinp k t d a s
  | .vcosp k t d a => Sys2Proof.Machine.execVcosp k t d a s
  | .vcvt k td ts part d a => Sys2Proof.Machine.execVcvt k td ts part d a s
  | .vqnt k td ts part d a sc => Sys2Proof.Machine.execVqnt k td ts part d a sc s
  | .vdqnt k td ts part d a sc => Sys2Proof.Machine.execVdqnt k td ts part d a sc s
  | .vand k t d a b => Sys2Proof.Machine.execVand k t d a b s
  | .vor k t d a b => Sys2Proof.Machine.execVor k t d a b s
  | .vxor k t d a b => Sys2Proof.Machine.execVxor k t d a b s
  | .vnot k t d a => Sys2Proof.Machine.execVnot k t d a s
  | .vshl k t d a b => Sys2Proof.Machine.execVshl k t d a b s
  | .vshr k t d a b => Sys2Proof.Machine.execVshr k t d a b s
  | .vsar k t d a b => Sys2Proof.Machine.execVsar k t d a b s
  | .vclz k t d a => Sys2Proof.Machine.execVclz k t d a s
  | .vpopc k t d a => Sys2Proof.Machine.execVpopc k t d a s
  | .vmov k t d a => Sys2Proof.Machine.execVmov k t d a s
  | .vbcast k t d a => Sys2Proof.Machine.execVbcast k t d a s
  | .vextr k t d a b => Sys2Proof.Machine.execVextr k t d a b s
  | .vins k t d a b => Sys2Proof.Machine.execVins k t d a b s
  | .vcmp k cc t d a b => Sys2Proof.Machine.execVcmp k cc t d a b s
  | .vsel k t d a b m => Sys2Proof.Machine.execVsel k t d a b m s
  | .kand k d a b => Sys2Proof.Machine.execKand k d a b s
  | .kor k d a b => Sys2Proof.Machine.execKor k d a b s
  | .kxor k d a b => Sys2Proof.Machine.execKxor k d a b s
  | .knot k d a => Sys2Proof.Machine.execKnot k d a s
  | .kpop k d a => Sys2Proof.Machine.execKpop k d a s
  | .kmovMask k d a => Sys2Proof.Machine.execKmovMask k d a s
  | .kmovFromVector k d a => Sys2Proof.Machine.execKmovFromVector k d a s
  | .kmovToVector k d a => Sys2Proof.Machine.execKmovToVector k d a s
  | .vshuf k hi t d a b => Sys2Proof.Machine.execVshuf k hi t d a b s
  | .vxswp k t d a dist => Sys2Proof.Machine.execVxswp k t d a dist s
  | .vrot k t d a b => Sys2Proof.Machine.execVrot k t d a b s
  | .vredsum k t d a => Sys2Proof.Machine.execVredsum k t d a s
  | .vredmax k t d a => Sys2Proof.Machine.execVredmax k t d a s
  | .vredmin k t d a => Sys2Proof.Machine.execVredmin k t d a s
  | .vscan k t d a => Sys2Proof.Machine.execVscan k t d a s
  | .vvoteAny k t d a => Sys2Proof.Machine.execVvoteAny k t d a s
  | .vvoteAll k t d a => Sys2Proof.Machine.execVvoteAll k t d a s
  | .vvoteBallot k t d a => Sys2Proof.Machine.execVvoteBallot k t d a s
  | .vcompress k t d a m => Sys2Proof.Machine.execVcompress k t d a m s
  | .vexpand k t d a m => Sys2Proof.Machine.execVexpand k t d a m s
  | .vbperm k d a pat => Sys2Proof.Machine.execVbperm k d a pat s
  | .vbpload k pat a part => Sys2Proof.Machine.execVbpload k pat a part s
  | .tset k acc d a => Sys2Proof.Machine.execTset k acc d a s
  | .tget k acc d a => Sys2Proof.Machine.execTget k acc d a s
  | .tzero k d => Sys2Proof.Machine.execTzero k d s
  | .azero k d => Sys2Proof.Machine.execAzero k d s
  | .tmov k d a => Sys2Proof.Machine.execTmov k d a s
  | .ttr k d a => Sys2Proof.Machine.execTtr k d a s
  | .tcvt k d a => Sys2Proof.Machine.execTcvt k d a s
  | .tacc k d a => Sys2Proof.Machine.execTacc k d a s
  | .atile k d a => Sys2Proof.Machine.execAtile k d a s
  | .mma k sat d a b => Sys2Proof.Machine.execMma k sat d a b s
  | .mmaP k sat d a b => Sys2Proof.Machine.execMmaP k sat d a b s
  | .mmaSp k sat n d a b => Sys2Proof.Machine.execMmaSp k sat n d a b s
  | .mfence k => Sys2Proof.Machine.execMfence k s
  | .retire core e => Sys2Proof.Machine.execRetire core e s
  | .lineFetch core e => Sys2Proof.Machine.execLineFetch core e s
  | .accessClear core id => Sys2Proof.Machine.execAccessClear core id s
  | .loadReturn core id => Sys2Proof.Machine.execLoadReturn core id s
  | .llcFill key => Sys2Proof.Machine.execLlcFill key s
  | .migIntervalExpiry => Sys2Proof.Machine.execMigIntervalExpiry s
  | .coreStoreRequest core id part => Sys2Proof.Machine.execCoreStoreRequest core id part s
  | .coreReadRequest core id part => Sys2Proof.Machine.execCoreReadRequest core id part s
  | .ioCoherentWrite ag pa data => Sys2Proof.Machine.execIoCoherentWrite ag pa data s
  | .ioCoherentRead ag pa n => Sys2Proof.Machine.execIoCoherentRead ag pa n s
  | .revocation core key => Sys2Proof.Machine.execRevocation core key s
  | .revocationAnswer core key => Sys2Proof.Machine.execRevocationAnswer core key s
  | .forwardRequest core key => Sys2Proof.Machine.execForwardRequest core key s
  | .forwardAnswer core key => Sys2Proof.Machine.execForwardAnswer core key s
  | .writeBack core key => Sys2Proof.Machine.execWriteBack core key s
  | .registrationAnswer core key => Sys2Proof.Machine.execRegistrationAnswer core key s
  | .writeBackAck core key => Sys2Proof.Machine.execWriteBackAck core key s
  | .mwaitWake core => Sys2Proof.Machine.execMwaitWake core s
  | .mwaitTimeout core => Sys2Proof.Machine.execMwaitTimeout core s
  | .cbwComplete core => Sys2Proof.Machine.execCbwComplete core s
  | .gbarPhaseComplete launch gang => Sys2Proof.Machine.execGbarPhaseComplete launch gang s
  | .waitchComplete core => Sys2Proof.Machine.execWaitchComplete core s
  | .fenceComplete core => Sys2Proof.Machine.execFenceComplete core s
  | .rowActComplete core bank => Sys2Proof.Machine.execRowActComplete core bank s
  | .rowPreComplete core bank => Sys2Proof.Machine.execRowPreComplete core bank s
  | .leaseExpiry core bank => Sys2Proof.Machine.execLeaseExpiry core bank s
  | .refreshDue core bank => Sys2Proof.Machine.execRefreshDue core bank s
  | .refreshEnd core bank => Sys2Proof.Machine.execRefreshEnd core bank s
  | .tempHot stack => Sys2Proof.Machine.execTempHot stack s
  | .tempNormal stack => Sys2Proof.Machine.execTempNormal stack s
  | .activationWindowSet w => Sys2Proof.Machine.execActivationWindowSet w s
  | .matrixIssueGapSet n => Sys2Proof.Machine.execMatrixIssueGapSet n s
  | .tileEccError core w => Sys2Proof.Machine.execTileEccError core w s
  | .stateEcc core => Sys2Proof.Machine.execStateEcc core s
  | .teamStart core => Sys2Proof.Machine.execTeamStart core s
  | .contextRestore core => Sys2Proof.Machine.execContextRestore core s
  | .streamRestart core => Sys2Proof.Machine.execStreamRestart core s
  | .contextSave core => Sys2Proof.Machine.execContextSave core s
  | .teamRetire launch gang team => Sys2Proof.Machine.execTeamRetire launch gang team s
  | .launchRetire launch => Sys2Proof.Machine.execLaunchRetire launch s
  | .teamStop core => Sys2Proof.Machine.execTeamStop core s
  | .trapDrainLimit core => Sys2Proof.Machine.execTrapDrainLimit core s
  | .watchdog core e => Sys2Proof.Machine.execWatchdog core e s
  | .sliceExpiry launch gang => Sys2Proof.Machine.execSliceExpiry launch gang s
  | .placementRound => Sys2Proof.Machine.execPlacementRound s
  | .gangSteal stack launch gang => Sys2Proof.Machine.execGangSteal stack launch gang s
  | .schedulerHeartbeat stack => Sys2Proof.Machine.execSchedulerHeartbeat stack s
  | .schedAdopt stack => Sys2Proof.Machine.execSchedAdopt stack s
  | .schedulerReturn stack => Sys2Proof.Machine.execSchedulerReturn stack s
  | .workerFailover w => Sys2Proof.Machine.execWorkerFailover w s
  | .quartzMismatch pc => Sys2Proof.Machine.execQuartzMismatch pc s
  | .quartzRestart => Sys2Proof.Machine.execQuartzRestart s
  | .dispQwptr q v => Sys2Proof.Machine.execDispQwptr q v s
  | .dispQctl q v => Sys2Proof.Machine.execDispQctl q v s
  | .packetCopy q => Sys2Proof.Machine.execPacketCopy q s
  | .childDispatch parent child => Sys2Proof.Machine.execChildDispatch parent child s
  | .tokenTick => Sys2Proof.Machine.execTokenTick s
  | .openPkt src slot nonce => Sys2Proof.Machine.execOpenPkt src slot nonce s
  | .opened owner slot nonce handle st => Sys2Proof.Machine.execOpened owner slot nonce handle st s
  | .req p => Sys2Proof.Machine.execReq p s
  | .homeCommit handle serial => Sys2Proof.Machine.execHomeCommit handle serial s
  | .reply owner handle serial st fcode value => Sys2Proof.Machine.execReply owner handle serial st fcode value s
  | .ack src handle f => Sys2Proof.Machine.execAck src handle f s
  | .acked owner handle dest => Sys2Proof.Machine.execAcked owner handle dest s
  | .close src handle f => Sys2Proof.Machine.execClose src handle f s
  | .closed owner handle => Sys2Proof.Machine.execClosed owner handle s
  | .closeAll src => Sys2Proof.Machine.execCloseAll src s
  | .ackTimer slot => Sys2Proof.Machine.execAckTimer slot s
  | .retransmit slot serial => Sys2Proof.Machine.execRetransmit slot serial s
  | .rouRecovery => Sys2Proof.Machine.execRouRecovery s
  | .requesterHubReset => Sys2Proof.Machine.execRequesterHubReset s
  | .remoteLoad src va n => Sys2Proof.Machine.execRemoteLoad src va n s
  | .fabPkgLost pkg => Sys2Proof.Machine.execFabPkgLost pkg s
  | .fabAgeDrop port n => Sys2Proof.Machine.execFabAgeDrop port n s
  | .fabPortDown galena port => Sys2Proof.Machine.execFabPortDown galena port s
  | .fabPortUp galena port => Sys2Proof.Machine.execFabPortUp galena port s
  | .copyPiece core q piece => Sys2Proof.Machine.execCopyPiece core q piece s
  | .allot slot => Sys2Proof.Machine.execAllot slot s
  | .reclaim slot => Sys2Proof.Machine.execReclaim slot s
  | .isolate slot => Sys2Proof.Machine.execIsolate slot s
  | .rejoin slot caps => Sys2Proof.Machine.execRejoin slot caps s
  | .loadimg slot => Sys2Proof.Machine.execLoadimg slot s
  | .unloadimg slot => Sys2Proof.Machine.execUnloadimg slot s
  | .resume slot => Sys2Proof.Machine.execResume slot s
  | .kill slot => Sys2Proof.Machine.execKill slot s
  | .pageResume slot => Sys2Proof.Machine.execPageResume slot s
  | .pageDecline slot => Sys2Proof.Machine.execPageDecline slot s
  | .enroll slot => Sys2Proof.Machine.execEnroll slot s
  | .disable slot => Sys2Proof.Machine.execDisable slot s
  | .extend slot => Sys2Proof.Machine.execExtend slot s
  | .modreg slot => Sys2Proof.Machine.execModreg slot s
  | .modunreg slot => Sys2Proof.Machine.execModunreg slot s
  | .chunkVerify module shard chunk => Sys2Proof.Machine.execChunkVerify module shard chunk s
  | .loadimgTimeout slot => Sys2Proof.Machine.execLoadimgTimeout slot s
  | .shootdownUnmap => Sys2Proof.Machine.execShootdownUnmap s
  | .shootdownWrprotect => Sys2Proof.Machine.execShootdownWrprotect s
  | .shootdownInval => Sys2Proof.Machine.execShootdownInval s
  | .shootdownDone => Sys2Proof.Machine.execShootdownDone s
  | .migRingRptr v => Sys2Proof.Machine.execMigRingRptr v s
  | .migRingCtl v => Sys2Proof.Machine.execMigRingCtl v s
  | .migRingBase v => Sys2Proof.Machine.execMigRingBase v s
  | .trapRptr v => Sys2Proof.Machine.execTrapRptr v s
  | .galenaFlush g v => Sys2Proof.Machine.execGalenaFlush g v s
  | .galenaFlushDone g => Sys2Proof.Machine.execGalenaFlushDone g s
  | .registerWrite who off w64 v => Sys2Proof.Machine.execRegisterWrite who off w64 v s
  | .hostReadShared key => Sys2Proof.Machine.execHostReadShared key s
  | .hostReadExclusive key => Sys2Proof.Machine.execHostReadExclusive key s
  | .hostWriteBack key data => Sys2Proof.Machine.execHostWriteBack key data s
  | .hostSnoopAnswer key dirty => Sys2Proof.Machine.execHostSnoopAnswer key dirty s
  | .slateRecallLost key => Sys2Proof.Machine.execSlateRecallLost key s
  | .slateTimeout core id => Sys2Proof.Machine.execSlateTimeout core id s
  | .linkUp accepts gts width => Sys2Proof.Machine.execLinkUp accepts gts width s
  | .linkWakeSlow stack module => Sys2Proof.Machine.execLinkWakeSlow stack module s
  | .stackLost stack => Sys2Proof.Machine.execStackLost stack s
  | .moduleRetrain unit module half => Sys2Proof.Machine.execModuleRetrain unit module half s
  | .coreFailure core => Sys2Proof.Machine.execCoreFailure core s
  | .coldReset imgs caps => Sys2Proof.Machine.execColdReset imgs caps s
  | .warmReset imgs => Sys2Proof.Machine.execWarmReset imgs s
  | .getVersion => Sys2Proof.Machine.execGetVersion s
  | .getCapabilities => Sys2Proof.Machine.execGetCapabilities s
  | .negotiateAlgorithms sig => Sys2Proof.Machine.execNegotiateAlgorithms sig s
  | .getDigests => Sys2Proof.Machine.execGetDigests s
  | .getCertificate slot => Sys2Proof.Machine.execGetCertificate slot s
  | .challenge slot nonce => Sys2Proof.Machine.execChallenge slot nonce s
  | .getMeasurements idx => Sys2Proof.Machine.execGetMeasurements idx s
  | .spdmUnsupported code => Sys2Proof.Machine.execSpdmUnsupported code s
  | .registerUncorrectableError core w => Sys2Proof.Machine.execRegisterUncorrectableError core w s
  | .incomingRspStWrite target => Sys2Proof.Machine.execIncomingRspStWrite target s
  | .apertureStoreDelivered core id => Sys2Proof.Machine.execApertureStoreDelivered core id s
  | .refreshStart core bank => Sys2Proof.Machine.execRefreshStart core bank s

end Sys2Proof.Machine
end

