-- ==== Sys2Proof/Machine/Auto.lean ====
section
/-! DEFINITION. What happens of itself when nothing is scheduled: the events that time or a core's own state brings about. -/

namespace Sys2Proof.Machine

/-- Retirements that are due (R159). -/
def dueRetire (s : State) (c : Nat) (cs : CoreSt) : List (State → Option State) :=
  ((cs.flights.find? fun f => mayRetire s cs f).map fun f => retire c f.eng).toList

/-- What an access of a core may do next: clear, ask the registry for a part, have its line filled, return. -/
def dueAccess (s : State) (c : Nat) (a : Access) : List (State → Option State) :=
  (if !a.cleared || !a.ops.isEmpty then [accessClear c a.id] else []) ++
    ((List.range a.pieces.length).flatMap fun i => match a.pieces[i]? with
      | some p => if p.st == .idle && p.route == .cached then
          [llcFill (keyOf s a.asid p.va), if a.store then pieceRequest c a.id i true else pieceRequest c a.id i false] else []
      | none => []) ++ [loadReturn c a.id]

/-- Messages of the coherence protocol under way to or from a core (R340 to R342, R442). -/
def dueMessages (c : Nat) (cs : CoreSt) : List (State → Option State) :=
  (cs.inbox.map fun m => match m with
    | .revoke k _ => revocation c k
    | .forward k _ => forwardRequest c k
    | .registered k _ _ _ _ _ _ => registrationAnswer c k
    | .wbAck k _ => writeBackAck c k) ++
  (cs.wbOut.filter fun w => !w.taken).map (fun w => (fun s => writeBack c w.key (linkWoke s c))) ++
  cs.rvkOut.map (fun w => (fun s => revocationAnswer c w.key (linkWoke s c))) ++ cs.fwdOut.map fun w => (fun s => forwardAnswer c w.key (linkWoke s c))

/-- Banks whose time has come (R225 to R227). -/
def dueBanks (c : Nat) (cs : CoreSt) : List (State → Option State) :=
  cs.banks.flatMap fun p =>
    (if p.2.refreshEnd.isSome then [refreshEnds c p.1] else []) ++ (if p.2.leaseRun then [leaseExpiry c p.1] else []) ++
    (if p.2.dueAt.isSome then [refreshDue c p.1] else []) ++ (if p.2.refreshDue.isSome then [refreshStart c p.1] else [])

/-- Waits of a core's streams, row operations and copies (R282, R285, R292, R295, R300, R360). -/
def dueWaits (c : Nat) (cs : CoreSt) : List (State → Option State) :=
  (if cs.seq.waiting.isSome || cs.mem.waiting.isSome then
    [mwaitWake c, mwaitTimeout c, cbwComplete c, waitchDone c, fenceDone c] ++
    (match cs.occ with | some o => [gbarPhase o.launch o.gang] | none => []) else []) ++
  (cs.rowJobs.flatMap fun j => [rowJobDone true c j.bank, rowJobDone false c j.bank]) ++
  (if cs.cq0.isEmpty then [] else [copyPiece c 0 (cs.cq0.head?.map (·.cursor) |>.getD 0)]) ++
  (if cs.cq1.isEmpty then [] else [copyPiece c 1 (cs.cq1.head?.map (·.cursor) |>.getD 0)])

/-- A team that is stopping or restarting (R240, R367). -/
def dueTeam (c : Nat) (cs : CoreSt) : List (State → Option State) :=
  (if cs.restartAt.isSome then [streamRestart c] else []) ++
  (match cs.run with | .draining _ => [drainLimit c] | _ => [])

/-- A stream that stands at a line it does not hold (R60). -/
def dueFetch (c : Nat) (cs : CoreSt) : List (State → Option State) :=
  [Engine.seq, .mem, .vec, .mtx].flatMap fun e => match (cs.stream e).pc with
    | .pos line _ => if (cs.stream e).active && (mget (cs.imem e) line).isNone then [lineFetch c e] else []
    | .fin => []

/-- A stack that has not answered a request for 2 ms is lost (R383). -/
def stackSilent (k : Nat) (s : State) : Option State :=
  if stackLate s k then stackLost k s else none

/-- Candidates for one core; an event's own rule says whether it can happen (DESIGN CHOICE, log entry 3). -/
def dueOf (s : State) (c : Nat) (cs : CoreSt) : List (State → Option State) :=
  dueRetire s c cs ++ cs.accesses.flatMap (dueAccess s c) ++ dueMessages c cs ++ dueBanks c cs ++ dueWaits c cs ++ dueTeam c cs ++ dueFetch c cs

/-- The first of these events that can happen (DESIGN CHOICE, log entry 3). -/
def firstEvent (s : State) : List (State → Option State) → Option State
  | [] => none
  | f :: t => match f s with
    | some s' => some s'
    | none => firstEvent s t

/-- The first event that is due anywhere (DESIGN CHOICE, log entry 3). -/
def dueEvent (s : State) : Option State :=
  firstEvent s ((if s.time < msec then [] else [tokenTick] ++ (List.range 8).map stackSilent) ++ (if s.hub.migInterval = 0 then [] else [migInterval]) ++
    (if s.hub.migRegions.isEmpty then [] else [migDue]) ++ (if s.rou.recovering.isSome then [recoveryDue] else []) ++
    (if s.hub.migWait.isEmpty then [] else [migWrite]) ++ s.rou.entries.map (fun e => commitInTime e.handle e.serial) ++
    (if s.rou.parked.isEmpty then [] else [fun s => handParked [] s.rou.parked s]) ++ s.cores.flatMap fun p => dueOf s p.1 p.2)

end Sys2Proof.Machine
end

