-- ==== Sys2Proof/Machine/Env.lean ====
section
/-! DEFINITION. What the outside of the modelled agents does that no row of the opcode table names: reads of register space, writes of context records by the runtime, errors that memory's ECC meets, packets that the fabric drops, writes of the packet cores, and a restart of the ROU (R3, R211, R238, R243, R308, R316, R318, R349, R368, R374, R376, R425) (DESIGN CHOICE, log entry 65). -/

namespace Sys2Proof.Machine

/-! ### Reads of register space (R3, R402, R424 to R430) -/

/-- The 64 bytes of a report (R430). -/
def reportBytes (r : Report) : List Byte :=
  leBytes 4 r.seqNo ++ leBytes 1 r.kind ++ leBytes 1 r.engine ++ leBytes 2 r.code ++ leBytes 4 r.launch ++ leBytes 4 r.gang ++ leBytes 2 r.team ++
    leBytes 1 r.half ++ leBytes 1 r.aux ++ leBytes 2 r.core ++ leBytes 2 r.asid ++ leBytes 4 r.pc ++ leBytes 4 r.status ++ leBytes 8 r.addr.toNat ++
    leBytes 8 r.ctx ++ leBytes 4 r.count ++ leBytes 4 r.serial ++ leBytes 8 0

/-- The 64 bytes of an Onyx event (R423); unwritten ones are 0. -/
def eventBytes (e : OnyxEvent) : List Byte :=
  let p := e.payload.flatMap fun f => leBytes f.1 f.2
  leBytes 8 e.time ++ leBytes 4 e.seqNo ++ leBytes 2 e.code ++ leBytes 2 e.src ++ leBytes 1 e.sev ++ leBytes 1 p.length ++ p ++ leBytes (46 - p.length) 0

/-- 8 bytes of entry i, from byte o, of a ring in which entry n mod size holds the entry of number n; the newest comes first. -/
def ringRead (size i o : Nat) (es : List (Nat × List Byte)) : Nat :=
  ((es.find? fun e => e.1 % size == i).map fun e => leNat ((e.2.drop o).take 8)).getD 0

/-- How many of its eight writes the recorder has made for an event: SEV 0xFF, TIME, SEQ, CODE, SRC, LEN, PAYLOAD and SEV (R423). They begin when the
event's core cycle is over, one in a hub cycle (DESIGN CHOICE, log entry 70). -/
def writesDone (now : Nat) (e : OnyxEvent) : Nat := now - (e.time / 2 * 2 + 1)

/-- The write that brings byte j of an entry. -/
def byteWrite (j : Nat) : Nat :=
  if j < 8 then 2 else if j < 12 then 3 else if j < 14 then 4 else if j < 16 then 5 else if j = 16 then 8 else if j = 17 then 6 else 7

/-- An entry while it is being written over another: SEV reads 0xFF from the first write to the last. -/
def mixBytes (k : Nat) (new old : List Byte) : List Byte :=
  (List.range 64).map fun j =>
    if byteWrite j ≤ k then new.getD j 0 else if j = 16 && 1 ≤ k then 0xFF else old.getD j 0

/-- Entry i of a ring, as a reader finds it now. -/
def entryNow (now size i : Nat) (es : List OnyxEvent) : List Byte :=
  match es.filter fun e => e.seqNo % size == i with
  | [] => []
  | [e] => mixBytes (writesDone now e) (eventBytes e) []
  | e :: o :: _ => mixBytes (writesDone now e) (eventBytes e) (eventBytes o)

/-- A register of an Onyx ring: ONYX_CTL, ONYX_WPTR, the number of events that have been written, and the entries (R424). -/
def onyxRead (now size : Nat) (o : OnyxRing) (r : Nat) : Nat :=
  if r = 0 then (if o.en then 1 else 0) + (if o.frozen then 2 else 0)
  else if r = 8 then (o.wptr + 2 ^ 32 - (o.events.takeWhile fun e => writesDone now e < 8).length) % 2 ^ 32
  else if inBlock r 0x100000 (64 * size) then leNat (((entryNow now size ((r - 0x100000) / 64) o.events).drop (r % 64)).take 8)
  else 0

def unitCode : UnitSt → Nat
  | .absent => 0 | .inService => 1 | .degraded => 2 | .isolated => 3 | .lost => 4

/-- The capability summary (R402). -/
def summaryBytes (s : State) : List Byte :=
  let stack (k : Nat) : List Byte :=
    let u := stackUnit s k
    leBytes 1 (unitCode u.st) ++ leBytes 1 u.spares ++ leBytes 2 u.modstat.toNat ++ leBytes 2 u.modhalf.toNat ++ leBytes 1 ((List.range 48).filter fun i => coreInService s (48 * k + i)).length ++
      leBytes 1 0 ++ leBytes 8 (packLanes 1 ((List.range 48).map fun i => if coreInService s (48 * k + i) then 0 else 1)) ++ leBytes 4 u.fwver ++ leBytes 12 0
  let gal (g : Nat) : List Byte :=
    let u := galenaUnit s g
    leBytes 2 (unitCode u.st) ++ leBytes 2 u.modstat.toNat ++ leBytes 2 u.modhalf.toNat ++ leBytes 2 0 ++ leBytes 4 u.ports.toNat ++ leBytes 4 u.fwver ++
      leBytes 16 0
  let live (k : Nat) : Nat := if stackLive s k then inServiceCount s k else 0
  leBytes 4 0x4D53434F ++ leBytes 2 1 ++ leBytes 2 (if s.fw.inDomain then s.pkg else 0xFFFF) ++
    leBytes 2 ((List.range 8).foldl (fun n k => n + live k) 0) ++ leBytes 2 1 ++ leBytes 4 (genNow s) ++
    (List.range 8).flatMap stack ++ (List.range 2).flatMap gal

/-- The dispatch block (R386, R394). -/
def readDisp (s : State) (r : Nat) : Nat :=
  if inBlock r 0x1000 0x1000 then
    let q := getQ s ((r - 0x1000) / 0x40)
    match r % 0x40 with
    | 0 => q.qbase.toNat
    | 8 => q.qctl.toNat
    | 0x10 => q.wptr
    | 0x18 => q.rptr
    | 0x20 => q.tokens
    | _ => 0
  else match r with
    | 0 => s.disp.agelim
    | 8 => s.disp.slice
    | 0x10 => s.disp.drain
    | 0x18 => s.disp.wdog
    | _ => 0

/-- The mailbox block; MBX_DOORBELL is written only (R428, R430). -/
def readMbx (s : State) (r : Nat) : Nat :=
  if inBlock r 0x1000 0x1000 then (mgetD 0 s.fw.mbx ((r - 0x1000) / 8)).toNat
  else if inBlock r 0x81000 0x10000 then ringRead 1024 ((r - 0x81000) / 64) (r % 64) (s.fw.reports.map fun p => (p.seqNo, reportBytes p))
  else match r with
    | 0x8 => s.fw.mbxDone.toNat
    | 0x10 => s.fw.mbxIrq.toNat
    | 0x80000 => s.fw.trapWptr.toNat
    | 0x80008 => s.fw.trapRptr.toNat
    | 0x80010 => s.fw.trapIrq.toNat
    | _ => 0

/-- The translation block; GO is written only (R276, R278, R279, R426). -/
def readTrans (s : State) (r : Nat) : Nat :=
  let h := s.hub
  match r with
  | 0x00 => h.transRoot.toNat
  | 0x08 => h.shootAsid.toNat
  | 0x10 => h.shootBase.toNat
  | 0x18 => h.shootLen.toNat
  | 0x20 => 2 * h.shootMode.toNat + (if h.shootDone then 8 else 0)
  | 0x40 => h.migThresh.toNat
  | 0x48 => h.migMargin.toNat
  | 0x50 => h.migInterval.toNat
  | 0x58 => h.migDropped.toNat
  | 0x60 => h.migRingBase.toNat
  | 0x68 => h.migRingCtl.toNat
  | 0x70 => h.migWptr.toNat
  | 0x78 => h.migRptr.toNat
  | _ => 0

/-- A register of 64 bits: every unassigned offset reads zero (R425) (DESIGN CHOICE, log entry 65). -/
def readRegister (s : State) (off : Nat) : Nat :=
  if inBlock off 0x1000 0x150 then leNat (((summaryBytes s).drop (off - 0x1000)).take 8)
  else if inBlock off 0x100000 0x100000 then readDisp s (off - 0x100000)
  else if inBlock off 0x200000 0x100000 then readMbx s (off - 0x200000)
  else if inBlock off 0x300000 0x100000 then readTrans s (off - 0x300000)
  else if off = 0xC00000 then s.rou.journalBase
  else if inBlock off 0x1100000 0x200000 then onyxRead s.time 8192 s.fw.onyxHub (off - 0x1100000)
  else if inBlock off 0x2000000 0x8000000 && 0xF0000 ≤ off % 0x1000000 then
    onyxRead s.time 1024 (mgetD {} s.fw.onyxStacks ((off - 0x2000000) / 0x1000000)) (off % 0x1000000 - 0xF0000)
  else if inBlock off 0xA000000 0x2000000 && off % 0x1000000 = 0 then (if (galenaUnit s ((off - 0xA000000) / 0x1000000)).flushDone then 2 else 0)
  else 0

/-- Whether the firewall lets a read through: Obsidian reads every block, in recovery the host reads only the Obsidian block and the Onyx rings, a
mailbox slot is read by its side, the summary is open to all, and the rest is the table's (R402, R417, R419, R428) (DEDUCED, log entry 58). -/
def readAllowed (s : State) (r : Requester) (off : Nat) : Bool :=
  if r = .obsidian then true
  else if r = .host && s.fw.boot != .running then isObsidian off || isOnyx off
  else if inBlock off 0x201000 0x1000 && !slotAllowed r off 0 then false
  else if inBlock off 0x1000 0x150 then true
  else (tableEntry s r off).1

/-- The value that a read of 64 or 32 bits returns: zero where it is refused. -/
def readValue (s : State) (who : Requester) (off : Nat) (w64 : Bool) : Nat :=
  if !readAllowed s who off then 0
  else if w64 then readRegister s off
  else readRegister s (off / 8 * 8) >>> (8 * (off % 8)) % 2 ^ 32

/-- A read of register space: a misaligned one completes with a bus error, and one that the firewall refuses returns zero and is logged (DESIGN CHOICE, log entry 65). -/
def registerRead (who : Requester) (off : Nat) (w64 : Bool) (s : State) : Option State :=
  if 0x10000000 ≤ off || !requesterUp s who then none
  else if !pmpAllows s who off then some s
  else if off % (if w64 then 8 else 4) ≠ 0 then some (regBad s who off)
  else
    let s1 := { s with fw := { s.fw with regRead := some (who, off, BitVec.ofNat 64 (readValue s who off w64)) } }
    some (if readAllowed s who off then s1 else logHub s1 0x080E [(1, reqCode who), (4, off), (1, 0)])

/-- An access of another width completes with a bus error (R425) (DESIGN CHOICE, log entry 65). -/
def registerWidth (who : Requester) (off n : Nat) (s : State) : Option State :=
  if 0x10000000 ≤ off || !requesterUp s who || n = 4 || n = 8 || n = 0 then none
  else if !pmpAllows s who off then some s else some (regBad s who off)

/-- The host resizes BAR2, from 1 GiB to 1 TiB (R410) (DESIGN CHOICE, log entry 65). -/
def bar2Resize (n : Nat) (s : State) : Option State := if 30 ≤ n && n ≤ 40 then some { s with fw := { s.fw with bar2 := 2 ^ n } } else none

/-! ### The runtime's writes of context records (R368, R376) -/

/-- The runtime writes bytes of a record over the host link. -/
def recordWrite (o : Occ) (off : Nat) (bs : List Byte) (s : State) : Option State :=
  match findRecord s o with
  | some r => if s.fw.linkUp && off + bs.length ≤ 0x364000 then some (putRecord s { r with bytes := writeBytes r.bytes off bs }) else none
  | none => none

/-! ### Errors that ECC meets (R211, R238, R243, R314, R374) -/

/-- A corrected error changes nothing but the log: structures 0 to 4 are a stack's, 5 and 6 the hub's (R431) (DESIGN CHOICE, log entry 65). -/
def corrected (k struct core addr : Nat) (s : State) : Option State :=
  if struct ≤ 4 && k < 8 && stackLive s k then some (logCorrected s k struct core addr)
  else if struct = 5 || struct = 6 then some (logHub s 0x0813 [(1, struct), (2, core), (8, addr)])
  else none

/-- An uncorrectable error in a granule of a scratchpad. -/
def spmError (core gran : Nat) (s : State) : Option State :=
  if core < 384 && 8 * gran < spmSize then some (setCore s core { getCore s core with spmPoison := mset (getCore s core).spmPoison gran () }) else none

/-- An uncorrectable error in a granule of stacked DRAM, on a fill or on the internal write of a precharge; the journal lies there too. -/
def dramError (pa : Nat) (s : State) : Option State :=
  if pa < 2 ^ 40 && (paCore pa).any (coreInService s) then some (setMark s pa true) else none

/-! ### The fabric (R308, R316, R363 to R365) -/

/-- Packets that fail their link check are dropped. -/
def checkDrop (port n : Nat) (s : State) : Option State :=
  if port < 36 then some (logGalena s (port / 18) 0x0806 [(1, port % 18), (4, n)]) else none

/-- A packet of an unknown KIND is dropped and counted at the hub; its sender has been heard of (R364). -/
def kindDrop (src kind n : Nat) (s : State) : Option State :=
  if 8 < kind && kind < 16 && s.fw.inDomain && s.fw.domain.contains src then some (logHub (hear s src) 0x0807 [(2, src), (1, kind), (4, n)]) else none

/-- A load of another package's memory whose data have not returned is sent again on the schedule of R316. -/
def loadAgain (core acc part : Nat) (s : State) : Option State :=
  match pieceAt s core acc part with
  | some (a, p) =>
    match p.route with
    | .remote pkg =>
      if a.store || !a.ops.isEmpty || p.st == .done || s.time < p.sentAt + backoff p.tries then none
      else some (setCore (sendPacket s (.load pkg p.va p.n)) core
        (setPiece (getCore s core) acc part fun p => { p with sentAt := s.time, tries := p.tries + 1 }))
    | _ => none
  | none => none

/-- One more copy of a request. -/
def moreAsk (s : State) (b a : LoadAsk) : LoadAsk := if a.va = b.va && a.who = b.who && a.idx = b.idx then { a with sentAt := s.time, tries := a.tries + 1 } else a

/-- The same for what a copy queue or a stream has asked of another package. -/
def askAgain (core va : Nat) (s : State) : Option State :=
  let cs := getCore s core
  match vaClass s va, (asksOf cs).find? fun a => a.va == va && a.sentAt + backoff a.tries ≤ s.time with
  | .remote p, some a =>
    let cq (x : CqEntry) : CqEntry := { x with asks := x.asks.map (moreAsk s a) }
    let st (x : Stream) : Stream := { x with codeAsk := x.codeAsk.map (moreAsk s a) }
    some (setCore (sendPacket s (.load p va a.n)) core { cs with cq0 := cs.cq0.map cq, cq1 := cs.cq1.map cq, seq := st cs.seq, mem := st cs.mem,
                                                                 vec := st cs.vec, mtx := st cs.mtx })
  | _, _ => none

/-- The ROU's firmware restarts: it answers nothing until its recovery has ended (R318) (DESIGN CHOICE, log entry 65). -/
def rouRestart (s : State) : State := rouStops s

/-! ### Packet cores (R349) -/

/-- A packet core that Obsidian has released writes into its Galena's caches where its PMP lets it (R416) (DESIGN CHOICE, log entry 65). -/
def packetWrite (g pa : Nat) (bs : List Byte) (s : State) : Option State :=
  if 2 ≤ g || bs.isEmpty || !requesterUp s .packetCore then none
  else if !pmpCovers s .packetCore pa bs.length then some s
  else some (setGalena s g { galenaUnit s g with cached := (galenaUnit s g).cached ++ [(pa, bs)] })

/-- What the environment does (DESIGN CHOICE, log entry 65). -/
def envEvent (e : EnvEvent) (s : State) : Option State :=
  match e with
  | .registerRead who off w64 => registerRead who off w64 s
  | .registerWidth who off n => registerWidth who off n s
  | .bar2Resize n => bar2Resize n s
  | .chunkCopy m h c => chunkCopy m h c s
  | .recordWrite l g t h off bs => recordWrite ⟨l, g, t, h⟩ off bs s
  | .corrected k struct core addr => corrected k struct core addr s
  | .spmError core gran => spmError core gran s
  | .dramError pa => dramError pa s
  | .checkDrop port n => checkDrop port n s
  | .kindDrop src kind n => kindDrop src kind n s
  | .loadAgain core acc part => loadAgain core acc part s
  | .askAgain core va => askAgain core va s
  | .rouRestart => some (rouRestart s)
  | .packetWrite g pa bs => packetWrite g pa bs s

end Sys2Proof.Machine
end

