-- ==== Sys2Proof/Machine/Fetch.lean ====
section
/-! DEFINITION. How a stream reaches its next instruction: line entry, decoding, and the step of one stream. -/

namespace Sys2Proof.Machine

/-- Time passes. -/
def tick (n : Nat) (s : State) : State := { s with time := s.time + n }

/-- Hub cycles pass before a scheduled agent acts. A waiting CBW completes in the first core cycle in which it may, which is the present one or, for what
this one has brought about, the next (R437). -/
def pass (n : Nat) (s : State) : State :=
  let next := 2 * (coreCycle s + 1)
  if s.time + n < next then tick n s
  else
    let t := cbwsComplete s
    if s.time + n < next + 2 then tick n t else { cbwsComplete { t with time := next } with time := s.time + n }

/-- The fault of a rejected word (R73). -/
def rejectTrap : Reject → Trap
  | .length => .illegalLength | .opcode => .illegalOpcode | .field => .illegalField

/-- The words from a slot of a line to its FILL (R55, R62). -/
def wordsFrom (l : BitVec 512) (slot : Nat) : List Nat :=
  (List.range (linkFill (lineWord l 0) + 1 - slot)).map fun j => lineWord l (slot + j)

/-- Checks 2 to 4 of a line entry (R58). -/
def entryTrap (e : Engine) (link slot : Nat) (fall : Bool) : Option Trap :=
  if linkEng link ≠ engCode e then some .lineEngine
  else if linkKind link > 1 then some .lineKind
  else if slot > linkFill link ∧ !fall then some .lineSlot
  else none

/-- What a stream finds at its PC. -/
inductive Fetched where
  /-- The line is not in the instruction memory (R60). -/
  | missing
  | trap (t : Trap)
  /-- A fall-through into an empty line goes on at once (R58). -/
  | skip (pc : Pc) (fall : Bool)
  | instr (i : Instr)
  deriving DecidableEq, Repr

/-- The entry check and the decoding at a PC (R58, R73) (DESIGN CHOICE, log entry 24) (DESIGN CHOICE, log entry 67). -/
def fetchAt (cs : CoreSt) (e : Engine) (line slot : Nat) (entry : Option Bool) : Fetched :=
  match mget (cs.imem e) line with
  | none => .missing
  | some l =>
    let link := lineWord l 0
    match (match entry with | none => none | some f => entryTrap e link slot f) with
    | some t => .trap t
    | none =>
      if linkFill link = 0 then let n := succPc link line slot 0; .skip n.1 n.2
      else match decode e (wordsFrom l slot) with
        | .error r => .trap (rejectTrap r)
        | .ok (i, _) => .instr i

/-- Maps the state of an outcome. -/
def mapNext (f : State → State) : Out → Out
  | .next s => .next (f s)
  | .fault r => .fault r
  | .refused r => .refused r

/-- What reports of failed operations name moves with the tags that the instruction of a stream has read and written (R317). -/
def withTags (s t : State) (c : Nat) (e : Engine) : State := if (getCore s c).tagOps.isEmpty then t else setCore t c (carryTags (getCore s c) (getCore t c) e)

/-- What the stream in focus does in this core cycle when no other engine is in its way: it waits, enters a line, takes a fetch or decode
fault, or issues its instruction. A stream that is not running does nothing. -/
def streamAct (s : State) : Out :=
  let c := s.focusCore
  let e := s.focusEng
  let cs := getCore s c
  let st := cs.stream e
  if !runnable s c e || mustWait s cs e then .next s
  else match st.pc with
    | .fin => .next (if e = .seq then sequencerEnd s else s)
    | .pos line slot =>
      match fetchAt cs e line slot st.entry with
      | .missing => .next s
      | .trap t => .next (raiseTrap s c e { trap := t } st.waitDone st.pc)
      | .skip pc fall =>
        .next (endStream (setStream s c e
          { st with pc := pc, entry := if fall && pc != .fin then some true else none, ending := pc == .fin && e != .seq }) c e)
      | .instr i => mapNext (fun t => withTags s t c e) (exec i (setStream s c e { st with entry := none }))

/-- The stream in focus stands at an empty line that it may pass. -/
def atEmpty (s : State) : Bool :=
  let st := getStream s s.focusCore s.focusEng
  runnable s s.focusCore s.focusEng && !mustWait s (getCore s s.focusCore) s.focusEng && match st.pc with
    | .fin => false
    | .pos line slot => match fetchAt (getCore s s.focusCore) s.focusEng line slot st.entry with
      | .skip _ _ => true
      | _ => false

/-- The stream in focus goes on at once through at most n empty lines (R57, R58, R437). -/
def passEmpty : Nat → State → State
  | 0, s => s
  | n + 1, s => if atEmpty s then match streamAct s with
      | .next t => passEmpty n t
      | _ => s
    else s

/-- The stream in focus goes on at once through the empty lines at its PC; round a cycle of them once in a core cycle. -/
def pastEmpty (s : State) : State := passEmpty ((getCore s s.focusCore).imem s.focusEng).length s

/-! ### Engines that are ready in one core cycle (R151, R158, R200, R246, R286, R293) -/

/-- The instruction at a stream's PC. -/
def streamInstr (s : State) (c : Nat) (e : Engine) : Option Instr :=
  match (getStream s c e).pc with
  | .fin => none
  | .pos line slot => match fetchAt (getCore s c) e line slot (getStream s c e).entry with
    | .instr i => some i
    | _ => none

/-- The state after a stream that may issue has acted. -/
def acted (s : State) (c : Nat) (e : Engine) : Option State :=
  if runnable s c e && !mustWait s (getCore s c) e then
    match streamAct { s with focusCore := c, focusEng := e } with
    | .next t => some t
    | _ => none
  else none

/-- Between two states the stream has issued an instruction or raised a fault. -/
def moved (s t : State) (c : Nat) (e : Engine) : Bool := coreCycle s < (getStream t c e).nextIssue || (getStream t c e).fault.isSome

/-- The stream would issue or fault in this state. -/
def acts (s : State) (c : Nat) (e : Engine) : Bool := ((acted s c e).map fun t => moved s t c e).getD false

/-- How often an instruction that issues now takes from semaphore n: by its wait, unless that has been taken, and as a SEMW whose predicate
holds (R69, R289). -/
def takesSem (cs : CoreSt) (e : Engine) (i : Instr) (n : Nat) : Nat :=
  let k := instrCtl i
  let own : Bool := match i with
    | .semw m => m == n
    | .semwL64 _ m => m == n && predTrue cs e k.pred
    | _ => false
  (if k.wait == some n && !(cs.stream e).waitDone then 1 else 0) + (if own then 1 else 0)

/-- Engines that stand before e in the order seq, mem, vec, mtx and would issue in this cycle, with their instructions. -/
def aheadOf (s : State) (c : Nat) (e : Engine) : List (Engine × Instr) :=
  ([Engine.seq, .mem, .vec, .mtx].filter fun x => engCode x < engCode e && acts s c x).filterMap fun x => (streamInstr s c x).map fun i => (x, i)

/-- What a semaphore holds after the posts of the cycle does not suffice for the waits that are granted first (R286). -/
def semShort (s : State) (c : Nat) (e : Engine) (i : Instr) : Bool :=
  let cs := getCore s c
  (List.range 32).any fun n => takesSem cs e i n != 0 &&
    (getSem (getCore (settlePosts s c) c) n).count < takesSem cs e i n + ((aheadOf s c e).map fun x => takesSem cs x.1 x.2 n).sum

/-- The stream would reserve an entry of QR in this cycle. -/
def pushesQr (s : State) (c : Nat) (e : Engine) : Bool := (acted s c e).any fun t => (getCore s c).qr.length < (getCore t c).qr.length

/-- The free entries of QR go to engines that reserve first (R151). -/
def qrShort (s : State) (c : Nat) (e : Engine) : Bool :=
  e != .seq && pushesQr s c e && 16 ≤ (getCore s c).qr.length + ([Engine.mem, .vec, .mtx].filter fun x => engCode x < engCode e && pushesQr s c x).length

/-- The matrix engine before the others, and the vector engine before the access engine (R158, R200, R246). -/
def tieRank : Engine → Nat
  | .mtx => 0 | .vec => 1 | .mem => 2 | .seq => 3

/-- A rival that is ready in the same cycle, and has the semaphores and entries of QR that it needs, leaves the stream no issue in it, and
its claims come first. -/
def loses (s : State) (c : Nat) (e : Engine) (r : Nat × Engine) : Bool :=
  (r.1 != c || r.2 != e) && match streamInstr s r.1 r.2, acted s r.1 r.2 with
    | some i', some t => tieRank r.2 < tieRank e && !semShort s r.1 r.2 i' && !qrShort s r.1 r.2 && !acts t c e
    | _, _ => false

/-- Whose claims can reach a core: its own engines, and the leader's matrix engine (R208). -/
def rivals (s : State) (c : Nat) : List (Nat × Engine) :=
  ([Engine.seq, .mem, .vec, .mtx].map fun e => (c, e)) ++
    (if isPaired s (getCore s c) && ((getCore s c).occ.map (·.half)) == some 1 then [(pairOf c, .mtx)] else [])

/-- A lower-numbered core of the cluster arrives at the same barrier in the same cycle (R293). -/
def arrivesFirst (s : State) (c : Nat) (i : Instr) : Bool :=
  match i with
  | .cba _ _ bar _ => (List.range (c % 8)).any fun k =>
    let c' := c - c % 8 + k
    (match streamInstr s c' .seq with | some (.cba _ _ bar' _) => bar' == bar | _ => false) && acts s c' .seq
  | _ => false

/-- The stream waits for another that is ready in the same cycle and goes first. -/
def yields (s : State) (c : Nat) (e : Engine) (i : Instr) : Bool :=
  semShort s c e i || qrShort s c e || (rivals s c).any (loses s c e) || arrivesFirst s c i

/-- The stream in focus acts in one core cycle, unless another engine that is ready goes first. -/
def streamStep (s : State) : Out :=
  let o := streamAct s
  match o, streamInstr s s.focusCore s.focusEng with
  | .next t, some i => if moved s t s.focusCore s.focusEng && yields s s.focusCore s.focusEng i then .next s else o
  | _, _ => o

/-- The stream only stands behind work of its own that is under way, and goes on when that has ended (R159, R201, R247). -/
def ownWork (s : State) (c : Nat) (e : Engine) : Bool :=
  mustWait s (getCore s c) e || (getCore s c).flights.any fun f => f.eng == e && f.retireAt.isSome

/-- The stream has more to do than wait for another: it would issue or fault now, it stands behind its own work, or it goes on to a line. -/
def goesAhead (s : State) (c : Nat) (e : Engine) : Bool :=
  acts s c e || (runnable s c e && ownWork s c e) || (runnable s c e && match (getStream s c e).pc with
    | .fin => false
    | .pos line slot => match fetchAt (getCore s c) e line slot (getStream s c e).entry with
      | .missing | .skip _ _ => true
      | _ => false)

/-- No engine of the team on a core goes ahead: each is idle, blocked or at a fault (R367). -/
def teamRests (s : State) (c : Nat) : Bool :=
  (teamCores (isPaired s (getCore s c)) c).all fun d => [Engine.seq, .mem, .vec, .mtx].all fun e => !goesAhead s d e

/-- An event of the opcode table, which has no words of its own. -/
def isEvent (i : Instr) : Bool := instrWords i == 0

/-- A team stops only when none of its engines goes ahead (R367). -/
def stopWaits (s : State) : Instr → Bool
  | .teamStop c => !teamRests s c
  | _ => false

/-- The head of the schedule acts; an event whose rule's conditions do not hold does not happen (DESIGN CHOICE, log entry 1). -/
def actorStep (a : Actor) (s : State) : Out :=
  match a with
  | .stream c e => streamStep { s with focusCore := c, focusEng := e }
  | .event i => if isEvent i && !stopWaits s i then exec i s else .next s
  | .evictL1 c k => evOut s (evictL1 c k s)
  | .evictLlc k => evOut s (evictLlc k s)
  | .env e => evOut s (envEvent e s)

/-- The first team that has come to rest and can stop (R367). -/
def stopDue (s : State) : Option State :=
  s.cores.findSome? fun p => if isDraining p.2.run && teamRests s p.1 then teamStop p.1 s else none

/-- One step when nothing is scheduled: a due event, or else the stream in focus for one core cycle, in which it passes the empty lines before its
instruction. -/
def freeStep (s : State) : Out :=
  match (dueEvent s).orElse fun _ => stopDue s with
  | some s' => .next s'
  | none => mapNext (tick 2) (streamStep (pastEmpty s))

/-! ### A program placed where the machine fetches -/

/-- A code line of engine e that holds these words from slot 1 and ends its stream (R54). -/
def lineOf (e : Engine) (ws : List Nat) : BitVec 512 :=
  BitVec.ofNat 512 (packLanes 32 ((engCode e * 2 ^ 30 + 2 ^ 28 + 15 * 2 ^ 24) :: ws))

/-- A launch of one team, for `placeWords`. -/
def plainLaunch : Launch :=
  { pkt := { type := 0, prio := 0, pmask := 0, paired := false, cluster := false, barrier := false, resv := false,
             code := 0, gangs := 1, teams := 1, tokreq := 0, param := 0, signal := 0, module := 0 }
    gangs := [{ teams := [{ st := .resident 0, started := true }], waiting := false }] }

/-- A team that runs on core 0 with these words as the next of engine e, and the focus there (DESIGN CHOICE, log entry 4). -/
def placeWords (s : State) (e : Engine) (ws : List Nat) : State :=
  let cs := getCore s 0
  let st := cs.stream e
  let st := { st with active := true, pc := .pos 0 1, entry := none, fault := none, halted := none, waiting := none,
                      pending := none, ending := false, waitDone := false, nextIssue := 0 }
  let cs := cs.setStream e st
  let cs := cs.setImem e (mset (cs.imem e) 0 (lineOf e ws))
  let fresh := cs.occ.isNone
  let cs := { cs with run := .running, event := false, restartAt := none, held := false,
                      occ := if fresh then some ⟨1, 0, 0, 0⟩ else cs.occ }
  let s := setCore s 0 cs
  let s := if fresh then { s with disp := { s.disp with launches := mset s.disp.launches 1 plainLaunch } } else s
  { s with focusCore := 0, focusEng := e, schedule := [] }

end Sys2Proof.Machine
end

