-- ==== Sys2Proof/Machine/Step.lean ====
section
/-! DEFINITION. One step of the machine, and a program placed where it fetches. -/

namespace Sys2Proof.Machine

/-- One step: the head of the schedule after its delay, or else a due event, or else the stream in focus (DESIGN CHOICE, log entries 1, 62). -/
def step (s : State) : Host.Outcome State Fault Refusal :=
  match s.schedule with
  | a :: t => actorStep a.actor (pass a.delay { s with schedule := t })
  | [] => freeStep s

/-- The words of an instruction stored where the next step fetches (DESIGN CHOICE, log entry 4). -/
def State.withFetchWord (s : State) (nbits w : Nat) : State :=
  let ws := wordsOfNat 3 (w % 2 ^ nbits)
  match tableEngine ws with
  | some (e, _) => placeWords s e ws
  | none => placeWords s .seq ws

end Sys2Proof.Machine
end

