-- ==== Sys2Proof/Safety.lean ====
section
/-! DEFINITION. What a sound state and a sound step are, and the conditions and results that the statements speak of. -/

namespace Sys2Proof.Machine

/-- Every byte memory of the package has its canonical form: stacked DRAM, the scratchpads, and the context records. -/
def memOk (s : State) : Bool :=
  Memory.wf s.hub.dram && (s.cores.all fun p => Memory.wf p.2.spm) && s.fw.records.all fun r => Memory.wf r.bytes

/-- A step that answers neither a fault nor a refusal. -/
def answersNext (s : State) : Bool := match step s with
  | .next _ => true
  | _ => false

/-! ### Issue -/

/-- The conditions of R69, R73 and R101 under which the engine in focus issues `i`: its stream runs and may issue, every field is
acceptable, the wait of the sync field is granted, and the predicate holds. `s1` is the state after that wait, `w` says whether one
was taken. -/
def Issues (i : Instr) (s s1 : State) (w : Bool) : Prop :=
  runnable s s.focusCore s.focusEng = true ∧ mustWait s (focusCs s) s.focusEng = false ∧ wellFormed s.focusEng i = true ∧
  takeWait s s.focusCore s.focusEng (instrCtl i).wait = some (s1, w) ∧
  predTrue (focusCs s) s.focusEng (instrCtl i).pred = true

/-- exec answers the state in which `i` has issued with the effect `d`: the effect's state, with the stream moved on and the
instruction retired or in flight. -/
def GoesTo (i : Instr) (s : State) (w : Bool) (d : Done) : Prop :=
  exec i s = .next (finish s.focusCore s.focusEng (instrWords i) (instrCtl i).post w d)

/-- exec answers the state in which `i` has taken the fault `r` after its wait. -/
def TrapsWith (i : Instr) (s s1 : State) (w : Bool) (r : FaultRec) : Prop :=
  exec i s = .next (raiseTrap s1 s.focusCore s.focusEng r w ((focusCs s).stream s.focusEng).pc)

/-! ### Scalar results -/

/-- The scalar sources can be read and the destination written (R72, R124, R159): no hazard, heads and room in the queues. `cs1` is
the core after the pops, `vs` the values. -/
def SrcsReady (s1 : State) (srcs : List SSrc) (d : SDst) (vs : List SVal) (cs1 : CoreSt) : Prop :=
  hazard s1 (focusCs s1) s1.focusEng (claimsOf (srcs.flatMap (srcRes s1.focusEng)) (dstRes s1.focusEng d)) 1 = false ∧
  takeSrcs (focusCs s1) s1.focusEng srcs = some (vs, cs1) ∧ (d = .qr → roomSq (focusCs s1) .qr = true)

/-- The effect of writing `v` to the scalar destination d: a register, or the next entry of QR. -/
def scalarDone (s1 : State) (cs1 : CoreSt) (d : SDst) (v : SVal) : Done :=
  match d with
  | .reg n => { s := withCs s1 (setReg cs1 s1.focusEng n v) }
  | .qr => { s := withCs s1 (reserveQr cs1 s1.focusEng (coreCycle s1) (focusCs s1).nextId), fills := [.scalar .qr v] }

/-- `i` reads `srcs`, writes `f` of their values to d in one cycle, and does nothing else. -/
def Scalar (i : Instr) (srcs : List SSrc) (d : SDst) (f : List SVal → SVal) : Prop :=
  ∀ (s s1 : State) (w : Bool) (vs : List SVal) (cs1 : CoreSt),
    Issues i s s1 w → SrcsReady s1 srcs d vs cs1 → GoesTo i s w (scalarDone s1 cs1 d (f vs))

/-- Results of words, with the rule for tags (R125, R372). -/
def one (f : Word → Word) (vs : List SVal) : SVal := tagged vs (f (vs.getD 0 {}).val)
def two (f : Word → Word → Word) (vs : List SVal) : SVal := tagged vs (f (vs.getD 0 {}).val (vs.getD 1 {}).val)
def three (f : Word → Word → Word → Word) (vs : List SVal) : SVal :=
  tagged vs (f (vs.getD 0 {}).val (vs.getD 1 {}).val (vs.getD 2 {}).val)

/-- One untagged scalar source that a using instruction can read (R373). -/
def UseReady (s1 : State) (a : SSrc) (v : Word) (cs1 : CoreSt) : Prop :=
  hazard s1 (focusCs s1) s1.focusEng (claimsOf (srcRes s1.focusEng a) []) 1 = false ∧
  takeSrcs (focusCs s1) s1.focusEng [a] = some ([{ val := v }], cs1)

/-- `i` uses the value of a, and its effect is `f` of the core after the read and that value, where `ok` holds. -/
def Uses (i : Instr) (a : SSrc) (ok : State → CoreSt → Word → Prop) (f : State → CoreSt → Word → Done) : Prop :=
  ∀ (s s1 : State) (w : Bool) (v : Word) (cs1 : CoreSt),
    Issues i s s1 w → UseReady s1 a v cs1 → ok s1 cs1 v → GoesTo i s w (f s1 cs1 v)

/-- `i` uses the value of a, and takes the fault `r` where `bad` holds. -/
def UseTraps (i : Instr) (a : SSrc) (bad : State → CoreSt → Word → Prop) (r : FaultRec) : Prop :=
  ∀ (s s1 : State) (w : Bool) (v : Word) (cs1 : CoreSt),
    Issues i s s1 w → UseReady s1 a v cs1 → bad s1 cs1 v → TrapsWith i s s1 w r

/-- `i` reads no register: where `ok` holds after the wait, its effect is `f`. -/
def Plain (i : Instr) (ok : State → Prop) (f : State → Done) : Prop :=
  ∀ (s s1 : State) (w : Bool), Issues i s s1 w → ok s1 → GoesTo i s w (f s1)

/-- `i` reads no register, and takes the fault `r` where `bad` holds. -/
def PlainTraps (i : Instr) (bad : State → Prop) (r : FaultRec) : Prop :=
  ∀ (s s1 : State) (w : Bool), Issues i s s1 w → bad s1 → TrapsWith i s s1 w r

/-- The stream of the engine in focus. -/
def focusSt (s : State) : Stream := (focusCs s).stream s.focusEng

/-- The core in focus with its engine's stream replaced. -/
def withSt (s : State) (cs : CoreSt) (st : Stream) : State := withCs s (cs.setStream s.focusEng st)

/-! ### Vector results -/

/-- The operands of a vector instruction can be read (R72, R156 to R160): no hazard, heads and room in the queues, EW as the width
asks, and a mask without a tag. -/
def VecReady (o : VOps) (s1 : State) (ss : List SVal) (vs : List VVal) (cs2 : CoreSt) : Prop :=
  hazard s1 (focusCs s1) .vec (claimsOf o.reads o.writes) o.lat = false ∧ roomV (focusCs s1) o.vd = true ∧ roomS (focusCs s1) o.sd = true ∧
  (∃ cs1, takeSrcs (focusCs s1) .vec o.ss = some (ss, cs1) ∧ takeVSrcs cs1 o.w o.vs = some (vs, cs2)) ∧
  o.chk.any (ewWrong (focusCs s1) o.w) = false ∧ (readMask (focusCs s1) o.pred.idx).tag = none

/-- The effect of writing `x` to the destinations of a vector instruction. -/
def vecDone (o : VOps) (s1 : State) (cs2 : CoreSt) (x : VOut) : Done :=
  { s := withCs s1 (putOut (coreCycle s1) cs2 o x).1, lat := o.lat, fills := (putOut (coreCycle s1) cs2 o x).2, flags := x.flags,
    claims := if o.lat > 1 then claimsOf o.reads o.writes else [] }

/-- `i` writes `f` of what it reads to its destinations, where `ok` holds of what it reads. -/
def VectorWhen (i : Instr) (o : VOps) (ok : VIn → Prop) (f : VIn → VOut) : Prop :=
  ∀ (s s1 : State) (w : Bool) (ss : List SVal) (vs : List VVal) (cs2 : CoreSt),
    Issues i s s1 w → VecReady o s1 ss vs cs2 → ok (vecIn (focusCs s1) o vs ss) →
      GoesTo i s w (vecDone o s1 cs2 (f (vecIn (focusCs s1) o vs ss)))

/-- The same without a further condition. -/
def Vector (i : Instr) (o : VOps) (f : VIn → VOut) : Prop := VectorWhen i o (fun _ => True) f

/-- Operands of a lane-wise instruction (R162): width and EW check from the type. -/
def laneOps (k : Ctl) (t : ElemType) (lat : Nat) (d : VDst) (srcs : List VSrc) : VOps :=
  { vd := some d, vs := srcs, chk := clusterVDst d :: srcs.map clusterVSrc, w := t.width, pred := k.pred, lat := lat }

/-- A lane-wise instruction: each active lane of D is `f` of the lanes of the sources. -/
def LaneWise (i : Instr) (k : Ctl) (t : ElemType) (lat : Nat) (d : VDst) (srcs : List VSrc) (f : LaneFn) : Prop :=
  Vector i (laneOps k t lat d srcs) fun x => laneMap t.width x x.vs (f x.rm x.ftz)

/-- The same, with the old D as last source. -/
def LaneWiseD (i : Instr) (k : Ctl) (t : ElemType) (lat d : Nat) (srcs : List VSrc) (f : LaneFn) : Prop :=
  Vector i { laneOps k t lat (.reg d) srcs with readD := true } fun x => laneMap t.width x (x.vs ++ [x.old]) (f x.rm x.ftz)

/-! ### Memory results -/

/-- The operands of a memory instruction can be read and its waits have passed (R245 to R248, R252 check 1): `x` is what it reads,
`cs2` the core after the pops, `r` the request it forms. -/
def MemReady (o : MemOp) (s1 : State) (x : MemIn) (cs2 : CoreSt) (r : MemReq) : Prop :=
  (∃ cs1 ss v, takeSrcs (focusCs s1) s1.focusEng o.srcs = some (ss, cs1) ∧ takeData cs1 o = some (v, cs2) ∧ x = memIn (focusCs s1) o ss v) ∧
  hazard s1 (focusCs s1) s1.focusEng (claimsOf (o.reads s1.focusEng) (o.writes s1.focusEng)) (o.lat + r.extra) = false ∧
  roomDst (focusCs s1) o.sd o.vd = true ∧ acqPending (focusCs s1) s1.focusEng = false ∧ useTag s1.focusEng x = none

/-- The core with the queue entries of a load's destination reserved. -/
def reserved (s1 : State) (o : MemOp) (cs2 : CoreSt) : CoreSt := reserveDst cs2 (coreCycle s1) (focusCs s1).nextId o.sd o.vd

/-- A scratchpad access performed at issue (R248, R250). -/
def spmDone (o : MemOp) (s1 : State) (cs2 : CoreSt) (r : MemReq) : Done :=
  let cl := claimsOf (o.reads s1.focusEng) (o.writes s1.focusEng)
  let cs := reserved s1 o cs2
  if r.store then { s := withCs s1 (spmStore cs r.data r.es), lat := o.lat + r.extra, claims := cl }
  else
    let x := deliver cs r.dst (spmLoad cs r.es).1 (spmLoad cs r.es).2 0
    { s := withCs s1 x.1, lat := o.lat + r.extra, fills := x.2, claims := cl }

/-- A global access that has started (R247). -/
def globalDone (o : MemOp) (s1 : State) (cs2 : CoreSt) (x : MemIn) (r : MemReq) : Done :=
  let cs := reserved s1 o cs2
  let ps := if r.store then withData r.data (piecesOf r.es) else piecesOf r.es
  let a : Access := { id := cs.nextId, eng := s1.focusEng, store := r.store, flight := cs.nextId, asid := asidOf s1 cs, hint := o.hint, type := o.type, acq := o.acq, rel := o.rel,
                      issuedAt := coreCycle s1, dst := r.dst, pieces := ps, scatter := r.store && o.vidx.isSome,
                      undoS := poppedS o.srcs x.ss, undoD := poppedD o.vsrc x.v }
  { s := withCs s1 { cs with accesses := cs.accesses ++ [a] }, openEnd := true, claims := claimsOf (o.reads s1.focusEng) (o.writes s1.focusEng) }

/-- A memory instruction that forms the request `f`, where `ok` holds of what it reads: in scratchpad space it is performed at issue, in
global space its access starts. -/
def Accesses (i : Instr) (o : MemOp) (ok : MemIn → Prop) (f : MemIn → MemReq) : Prop :=
  ∀ (s s1 : State) (w : Bool) (x : MemIn) (cs2 : CoreSt),
    Issues i s s1 w → MemReady o s1 x cs2 (f x) → ok x → misaligned (f x) = none →
      (o.space = .spm → outOfSpm (f x) = none → GoesTo i s w (spmDone o s1 cs2 (f x))) ∧
      (o.space = .global → accessStalls s1 (focusCs s1) s1.focusEng o.rel (piecesOf (f x).es) = false →
        rfailTrap s1 (reserved s1 o cs2) o.rel (piecesOf (f x).es) = none → GoesTo i s w (globalDone o s1 cs2 x (f x)))

/-- A fault of the checks of R252 at an address. -/
def addrFault (t : Trap) (va : Nat) : FaultRec := { trap := t, addr := BitVec.ofNat 64 va }

/-- The faults of a memory instruction: a misaligned element, and one outside the scratchpad. -/
def AccessFaults (i : Instr) (o : MemOp) (f : MemIn → MemReq) : Prop :=
  ∀ (s s1 : State) (w : Bool) (x : MemIn) (cs2 : CoreSt), Issues i s s1 w → MemReady o s1 x cs2 (f x) →
    (o.space = .global → accessStalls s1 (focusCs s1) s1.focusEng o.rel (piecesOf (f x).es) = false) →
      (∀ va, misaligned (f x) = some va → TrapsWith i s s1 w (addrFault .misaligned va)) ∧
      (∀ va, misaligned (f x) = none → o.space = .spm → outOfSpm (f x) = some va → TrapsWith i s s1 w (addrFault .spmRange va))

/-- The operands of an atomic instruction can be read, its waits have passed, and no check of R322 fails. -/
def AtomReady (o : AtomOp) (s1 : State) (x : AtomIn) (cs1 : CoreSt) (gs : List AtomGroup) : Prop :=
  (∃ ss, takeSrcs (focusCs s1) .mem o.srcs = some (ss, cs1) ∧ x = atomIn (focusCs s1) o ss) ∧
  hazard s1 (focusCs s1) .mem (claimsOf o.reads o.writes) 1 = false ∧ roomDst (focusCs s1) o.sd none = true ∧
  acqPending (focusCs s1) .mem = false ∧ (isRed o.code = true ∨ (focusCs s1).pend.length < 64) ∧ o.poison x = none ∧
  overlapping s1 (focusCs s1) .mem (gs.map (atomPiece s1 o)) = false ∧ ordReady s1 o.ord = true ∧
  (∀ g ∈ gs, g.va % 2 ^ o.size = 0 ∧ vaClass s1 g.va ≠ .hole) ∧ (isRelease o.ord = true → (focusCs s1).rfail = none)

/-- An atomic instruction whose operations wait to leave; all but RED hold an entry of the pending table (R320, R325). -/
def atomDone (o : AtomOp) (s1 : State) (cs1 : CoreSt) (x : AtomIn) (gs : List AtomGroup) : Done :=
  let id := (focusCs s1).nextId
  let a : Access := { id := id, eng := .mem, store := isRed o.code, flight := id, asid := asidOf s1 (focusCs s1), hint := o.hint,
                      acq := acquires o.ord, issuedAt := coreCycle s1, pieces := gs.map (atomPiece s1 o),
                      ops := gs.mapIdx (atomRem s1 (focusCs s1) o), undoS := poppedS o.srcs x.ss }
  let p : PendRemote := { flight := id, eng := .mem, code := o.code, type := o.size + 8 * o.subf, ord := o.ord, dst := o.dst, left := gs.length }
  let cs := reserveDst cs1 (coreCycle s1) id o.sd none
  { s := withCs s1 { cs with accesses := cs.accesses ++ [a], pend := if isRed o.code then cs.pend else cs.pend ++ [p] }
    openEnd := true, claims := claimsOf o.reads o.writes }

/-- An atomic instruction sends the operations `f` of what it reads. -/
def Atomic (i : Instr) (o : AtomOp) (f : AtomIn → List AtomGroup) : Prop :=
  ∀ (s s1 : State) (w : Bool) (x : AtomIn) (cs1 : CoreSt), Issues i s s1 w → AtomReady o s1 x cs1 (f x) →
    GoesTo i s w (atomDone o s1 cs1 x (f x))

/-- A range can be read (R283): base x and length n, within the address space. -/
def RangeReady (s1 : State) (a b : SSrc) (x n : Word) (cs1 : CoreSt) : Prop :=
  hazard s1 (focusCs s1) .mem (claimsOf (srcRes .mem a ++ srcRes .mem b) []) 1 = false ∧
  takeSrcs (focusCs s1) .mem [a, b] = some ([{ val := x }, { val := n }], cs1) ∧ x.toNat + n.toNat ≤ 2 ^ 64

/-! ### Matrix results -/

/-- The tiles and the accumulator of a matrix instruction are free (R158, R200). -/
def TilesFree (s1 : State) (cl : List Claim) (acc : Option Nat) : Prop :=
  tileBusy (focusCs s1) cl = false ∧ ∀ n, acc = some n → clusterBusy (focusCs s1) n = false

/-- `i` reads and writes these tiles and this accumulator, where `ok` holds of the core, and leaves it as `f` says. -/
def Matrix (i : Instr) (reads writes : List Nat) (acc : Option Nat) (lat : Nat) (ok : CoreSt → Prop) (f : CoreSt → CoreSt × Flags) : Prop :=
  ∀ (s s1 : State) (w : Bool), Issues i s s1 w → TilesFree s1 (tileClaims reads writes acc) acc → ok (focusCs s1) →
    GoesTo i s w { s := withCs s1 (f (focusCs s1)).1, lat := lat, flags := (f (focusCs s1)).2, claims := tileClaims reads writes acc }

/-- `i` reads and writes these tiles and this accumulator, and takes the fault `t` where `bad` holds of the core. -/
def MatrixTraps (i : Instr) (reads : CoreSt → List Nat) (writes : List Nat) (acc : Option Nat) (bad : CoreSt → Prop) (t : Trap) : Prop :=
  ∀ (s s1 : State) (w : Bool), Issues i s s1 w → TilesFree s1 (tileClaims (reads (focusCs s1)) writes acc) acc → bad (focusCs s1) →
    TrapsWith i s s1 w { trap := t }

/-- One half of MMA or MMA.SP on the core in focus. -/
def halfOf (cs : CoreSt) (n d a b : Nat) : Half := { lead := cs, own := cs, half := 0, d := d, a := a, b := b, n := n }

/-- MMA and MMA.SP issue where the tiles are free, the checks of R205 pass and the issue gap has passed: the accumulator is as
R207 says, its old contents are kept in the shadow, and the latency is R206's occupancy and four cycles. -/
def MmaResult (i : Instr) (sat : Bool) (n d a b : Nat) : Prop :=
  ∀ (s s1 : State) (w : Bool), Issues i s s1 w →
    let cs := focusCs s1
    let h := halfOf cs n d a b
    let cl := tileClaims ((h.leadTiles ++ h.ownTiles).map (·.1)) [] (some d)
    TilesFree s1 cl (some d) → mmaCheck [h] sat = none → gapWait s1 cs d = none →
      GoesTo i s w
        { s := withCs s1 (mmaHalf h sat).1, lat := occupancy (tcWidth h.x) h.kd (n != 0) + 4, flags := (mmaHalf h sat).2, claims := cl,
          mma := some (d, mmaFtz cs), mmaTiles := h.leadTiles ++ h.ownTiles }

/-! ### Poison -/

/-- The fault of the use of a tag (R373). -/
def poisonRec (c : Cause) : FaultRec := { trap := causeTrap c, cause := c.code }

/-- `i` uses the value of a: a tag on it faults. -/
def PoisonTraps (i : Instr) (a : SSrc) : Prop :=
  ∀ (s s1 : State) (w : Bool) (v : Word) (c : Cause) (cs1 : CoreSt), Issues i s s1 w →
    hazard s1 (focusCs s1) s1.focusEng (claimsOf (srcRes s1.focusEng a) []) 1 = false →
    takeSrcs (focusCs s1) s1.focusEng [a] = some ([{ val := v, tag := some c }], cs1) → TrapsWith i s s1 w (poisonRec c)

/-- `i` faults where `bad` finds a tag in what it reads. -/
def VectorTraps (i : Instr) (o : VOps) (bad : VIn → Option Cause) : Prop :=
  ∀ (s s1 : State) (w : Bool) (ss : List SVal) (vs : List VVal) (cs2 : CoreSt) (c : Cause),
    Issues i s s1 w → VecReady o s1 ss vs cs2 → bad (vecIn (focusCs s1) o vs ss) = some c → TrapsWith i s s1 w (poisonRec c)

/-- `i` selects its lanes by a tagged mask named by PRED: it faults, with no other effect (R178). -/
def MaskTraps (i : Instr) (o : VOps) : Prop :=
  ∀ (s s1 : State) (w : Bool) (ss : List SVal) (vs : List VVal) (cs1 cs2 : CoreSt) (c : Cause), Issues i s s1 w →
    hazard s1 (focusCs s1) .vec (claimsOf o.reads o.writes) o.lat = false → roomV (focusCs s1) o.vd = true → roomS (focusCs s1) o.sd = true →
    takeSrcs (focusCs s1) .vec o.ss = some (ss, cs1) → takeVSrcs cs1 o.w o.vs = some (vs, cs2) → o.chk.any (ewWrong (focusCs s1) o.w) = false →
    (readMask (focusCs s1) o.pred.idx).tag = some c → TrapsWith i s s1 w (poisonRec c)

/-- A memory instruction whose operands carry a tag faults before any other check of R252. -/
def TagTraps (i : Instr) (o : MemOp) (f : MemIn → MemReq) : Prop :=
  ∀ (s s1 : State) (w : Bool) (ss : List SVal) (v : VVal) (cs1 cs2 : CoreSt) (c : Cause), Issues i s s1 w →
    takeSrcs (focusCs s1) s1.focusEng o.srcs = some (ss, cs1) → takeData cs1 o = some (v, cs2) →
    hazard s1 (focusCs s1) s1.focusEng (claimsOf (o.reads s1.focusEng) (o.writes s1.focusEng)) (o.lat + (f (memIn (focusCs s1) o ss v)).extra) = false →
    roomDst (focusCs s1) o.sd o.vd = true → acqPending (focusCs s1) s1.focusEng = false →
    useTag s1.focusEng (memIn (focusCs s1) o ss v) = some c → TrapsWith i s s1 w (poisonRec c)

/-! ### Frames -/

/-- What an issue keeps of a stream: its registers and its FPMODE. -/
def bareStream (st : Stream) : Stream := { regs := st.regs, fpmode := st.fpmode }

/-- What an issue keeps of a core when its instruction writes nothing: every register, mask, pattern register, vector register, tile and
control value with its tags, the predicates, the scratchpad, the rows, the copy queues and the team's own records. Left out: the streams'
positions and sticky flags, semaphores, queues, instructions and accesses in flight, and the note of a trap. -/
def bareCore (cs : CoreSt) : CoreSt :=
  { seq := bareStream cs.seq, mem := bareStream cs.mem, vec := bareStream cs.vec, mtx := bareStream cs.mtx, preds := cs.preds, masks := cs.masks,
    bps := cs.bps, vregs := cs.vregs, tiles := cs.tiles, tcT := cs.tcT, tcAcc := cs.tcAcc, spm := cs.spm, spmPoison := cs.spmPoison,
    banks := cs.banks, rowJobs := cs.rowJobs, cq0 := cs.cq0, cq1 := cs.cq1, occ := cs.occ, inService := cs.inService, watch := cs.watch,
    children := cs.children, rspIn := cs.rspIn, imemSeq := cs.imemSeq, imemMem := cs.imemMem, imemVec := cs.imemVec, imemMtx := cs.imemMtx }

/-- The package outside the cores is as before, but for firmware's records of a trap, and so is every other core. -/
def KeepsOthers (s t : State) : Prop :=
  t.hub = s.hub ∧ t.rou = s.rou ∧ t.disp = s.disp ∧ t.time = s.time ∧ ∀ c, c ≠ s.focusCore → bareCore (getCore t c) = bareCore (getCore s c)

/-- The core in focus is as before, or as `f` changes it. -/
def KeepsFocus (s t : State) (f : CoreSt → CoreSt → Prop) : Prop :=
  bareCore (getCore t s.focusCore) = bareCore (focusCs s) ∨ ∃ cs, f (focusCs s) cs ∧ bareCore (getCore t s.focusCore) = bareCore cs

/-- Destination of a scalar instruction that writes one register or QR and nothing else; none for one that writes no register. -/
def scalarDst : Instr → Option (Option SDst)
  | .add d _ _ _ | .sub d _ _ _ | .mul d _ _ | .mulh d _ _ | .mulhu d _ _ | .div d _ _ | .divu d _ _ | .rem d _ _ | .remu d _ _
  | .and d _ _ | .or d _ _ | .xor d _ _ | .andn d _ _ | .shl d _ _ | .shr d _ _ | .sar d _ _ | .rotr d _ _ | .min d _ _ | .minu d _ _
  | .max d _ _ | .maxu d _ _ | .clz d _ | .ctz d _ | .popc d _ | .cmp _ d _ _ | .mov d _ | .addi d _ _ | .andi d _ _ | .ori d _ _
  | .xori d _ _ | .shlImm d _ _ | .shrImm d _ _ | .sarImm d _ _ | .rotrImm d _ _ | .movi _ d _ | .addiX96 _ d _ _
  | .andiX96 _ d _ _ | .oriX96 _ d _ _ | .xoriX96 _ d _ _ | .ext _ _ d _ _ _ | .sel _ d _ _ _ | .rdcr d _ => some (some d)
  | .moviHi _ d _ | .ins _ d _ _ _ => some (some (.reg d))
  | .nop | .nopL64 _ | .br _ _ _ | .brc _ _ _ _ _ | .brReg _ | .call _ _ _ | .callReg _ | .ret | .loopReg _ _ | .loopImm _ _ | .endl
  | .chk _ | .trap _ | .semw _ | .semp _ | .semwL64 _ _ | .sempL64 _ _ => some none
  | _ => none

/-- Destinations of a vector instruction: vector, scalar, mask and pattern register. -/
structure VDsts where
  vd : Option VDst := none
  sd : Option SDst := none
  md : Option Nat := none
  bpd : Option Nat := none
  deriving DecidableEq, Repr

def vectorDst : Instr → Option VDsts
  | .vadd _ _ d _ _ | .vsub _ _ d _ _ | .vmul _ _ d _ _ | .vmin _ _ d _ _ | .vmax _ _ d _ _ | .vabs _ _ d _ | .vneg _ _ d _
  | .vadds _ _ d _ _ | .vsubs _ _ d _ _ | .vmulh _ _ d _ _ | .vdiv _ _ d _ _ | .vsqrt _ _ d _ | .vrcp _ _ d _ | .vrsq _ _ d _
  | .vexp2 _ _ d _ | .vlog2 _ _ d _ | .vsinp _ _ d _ | .vcosp _ _ d _ | .vand _ _ d _ _ | .vor _ _ d _ _ | .vxor _ _ d _ _
  | .vnot _ _ d _ | .vshl _ _ d _ _ | .vshr _ _ d _ _ | .vsar _ _ d _ _ | .vclz _ _ d _ | .vpopc _ _ d _ | .vcvt _ _ _ _ d _
  | .vdqnt _ _ _ _ d _ _ | .vmov _ _ d _ | .vbcast _ _ d _ | .vsel _ _ d _ _ _ | .kmovToVector _ d _ | .vshuf _ _ _ d _ _ | .vxswp _ _ d _ _
  | .vrot _ _ d _ _ | .vcompress _ _ d _ _ | .vbperm _ d _ _ => some { vd := some d }
  | .vfma _ _ d _ _ | .vfms _ _ d _ _ | .vfnma _ _ d _ _ | .vins _ _ d _ _ | .vexpand _ _ d _ _ | .vscan _ _ d _ => some { vd := some (.reg d) }
  | .vqnt _ _ _ _ d _ sc => some { vd := some d, sd := some sc }
  | .vextr _ _ d _ _ | .kpop _ d _ | .vredsum _ _ d _ | .vredmax _ _ d _ | .vredmin _ _ d _ | .vvoteAny _ _ d _ | .vvoteAll _ _ d _ => some { sd := some d }
  | .vcmp _ _ _ d _ _ | .kand _ d _ _ | .kor _ d _ _ | .kxor _ d _ _ | .knot _ d _ | .kmovMask _ d _ | .kmovFromVector _ d _
  | .vvoteBallot _ _ d _ => some { md := some d }
  | .vbpload _ p _ _ => some { bpd := some p }
  | _ => none

/-- One register of a vector engine's core has a new value. -/
def writesV (d : VDsts) (a b : CoreSt) : Prop :=
  ∃ v sc m p, b = putB (putM (putS (putV a 0 v d.vd).1 .vec 0 0 sc d.sd).1 m d.md) p d.bpd

/-- A store's frame: in scratchpad space every byte outside the elements of its request keeps its value and the rest of the core does too;
in global space nothing is stored at issue. -/
def StoreFrame (i : Instr) (o : MemOp) (f : MemIn → MemReq) : Prop :=
  ∀ (s s1 t : State) (w : Bool) (x : MemIn) (cs2 : CoreSt), Issues i s s1 w → MemReady o s1 x cs2 (f x) → exec i s = .next t →
    KeepsOthers s t ∧ KeepsFocus s t (fun a b => ∃ m p, b = { a with spm := m, spmPoison := p }) ∧
    (∀ a, o.space = .global ∨ (∀ e ∈ (f x).es, a < e.va ∨ e.va + e.n ≤ a) →
      readByte (getCore t s.focusCore).spm a = readByte (focusCs s).spm a)

/-- Data of a scratchpad load's frame. -/
def loadDsts (sd : Option SDst) (vd : Option MVDst) (e : Engine) (a b : CoreSt) : Prop :=
  (∃ n v, sd = some (.reg n) ∧ b = setReg a e n v) ∨ (∃ n v, vd = some (.reg n) ∧ b = writeV a n v)

/-! ### Events -/

/-- exec answers the state t. -/
def Happens (i : Instr) (s t : State) : Prop := exec i s = .next t

/-- The event does not happen in this state: nothing changes (DESIGN CHOICE, log entry 1). -/
def Stays (i : Instr) (s : State) : Prop := exec i s = .next s

end Sys2Proof.Machine
end

