-- ==== Sys2Proof/Certificates/Slice0/Obligations.lean ====
section
/-! DEFINITION. Statements for the provers. A result statement gives the whole next state, so it is the frame of its instruction too. -/

open Sys2Proof Sys2Proof.Machine

/-! ### The integer group (R142 to R147) -/

/-- R142, R144, R147: the register forms of the integer group, two sources. That results are written at issue, under claims that last until retirement, is the model's choice (log entries 11, 12, 13). -/
def Obligations.IntegerRegisterResults : Prop :=
  (∀ d a b sh, Scalar (.add d a b sh) [a, b] d (two fun x y => x + y * 2 ^ sh)) ∧
  (∀ d a b sh, Scalar (.sub d a b sh) [a, b] d (two fun x y => x - y * 2 ^ sh)) ∧
  (∀ d a b, Scalar (.mul d a b) [a, b] d (two fun x y => BitVec.ofNat 64 (x.toNat * y.toNat))) ∧
  (∀ d a b, Scalar (.mulh d a b) [a, b] d (two fun x y => BitVec.ofInt 64 (x.toInt * y.toInt / 2 ^ 64))) ∧
  (∀ d a b, Scalar (.mulhu d a b) [a, b] d (two fun x y => BitVec.ofNat 64 (x.toNat * y.toNat / 2 ^ 64))) ∧
  (∀ d a b, Scalar (.div d a b) [a, b] d (two fun x y => if y = 0 then -1 else BitVec.ofInt 64 (x.toInt.tdiv y.toInt))) ∧
  (∀ d a b, Scalar (.divu d a b) [a, b] d (two fun x y => if y = 0 then -1 else BitVec.ofNat 64 (x.toNat / y.toNat))) ∧
  (∀ d a b, Scalar (.rem d a b) [a, b] d (two fun x y => if y = 0 then x else BitVec.ofInt 64 (x.toInt.tmod y.toInt))) ∧
  (∀ d a b, Scalar (.remu d a b) [a, b] d (two fun x y => if y = 0 then x else BitVec.ofNat 64 (x.toNat % y.toNat))) ∧
  (∀ d a b, Scalar (.and d a b) [a, b] d (two fun x y => x &&& y)) ∧
  (∀ d a b, Scalar (.or d a b) [a, b] d (two fun x y => x ||| y)) ∧
  (∀ d a b, Scalar (.xor d a b) [a, b] d (two fun x y => x ^^^ y)) ∧
  (∀ d a b, Scalar (.andn d a b) [a, b] d (two fun x y => x &&& ~~~y)) ∧
  (∀ d a b, Scalar (.shl d a b) [a, b] d (two fun x y => x <<< y.toNat)) ∧
  (∀ d a b, Scalar (.shr d a b) [a, b] d (two fun x y => x >>> y.toNat)) ∧
  (∀ d a b, Scalar (.sar d a b) [a, b] d (two fun x y => x.sshiftRight y.toNat)) ∧
  (∀ d a b, Scalar (.rotr d a b) [a, b] d (two fun x y => x.rotateRight (y.toNat % 64))) ∧
  (∀ d a b, Scalar (.min d a b) [a, b] d (two fun x y => if x.toInt < y.toInt then x else y)) ∧
  (∀ d a b, Scalar (.minu d a b) [a, b] d (two fun x y => if x < y then x else y)) ∧
  (∀ d a b, Scalar (.max d a b) [a, b] d (two fun x y => if x.toInt < y.toInt then y else x)) ∧
  (∀ d a b, Scalar (.maxu d a b) [a, b] d (two fun x y => if x < y then y else x)) ∧
  (∀ d a, Scalar (.clz d a) [a] d (one fun x => BitVec.ofNat 64 (leadZeros 64 x.toNat))) ∧
  (∀ d a, Scalar (.ctz d a) [a] d (one fun x => BitVec.ofNat 64 (trailZeros 64 x.toNat))) ∧
  (∀ d a, Scalar (.popc d a) [a] d (one fun x => BitVec.ofNat 64 (popCount 64 x.toNat))) ∧
  (∀ c d a b, Scalar (.cmp c d a b) [a, b] d (two fun x y => if cmpHolds c x y then 1 else 0)) ∧
  (∀ d a, Scalar (.mov d a) [a] d (one fun x => x))

/-- R142, R143, R145, R146: the immediate and literal forms, and the bit-field forms. That results are written at issue, under claims that last until retirement, is the model's choice (log entries 11, 12, 13). -/
def Obligations.IntegerImmediateResults : Prop :=
  (∀ d a imm, Scalar (.addi d a imm) [a] d (one fun x => x + BitVec.ofInt 64 imm.toInt)) ∧
  (∀ d a imm, Scalar (.andi d a imm) [a] d (one fun x => x &&& BitVec.ofInt 64 imm.toInt)) ∧
  (∀ d a imm, Scalar (.ori d a imm) [a] d (one fun x => x ||| BitVec.ofInt 64 imm.toInt)) ∧
  (∀ d a imm, Scalar (.xori d a imm) [a] d (one fun x => x ^^^ BitVec.ofInt 64 imm.toInt)) ∧
  (∀ d a n, Scalar (.shlImm d a n) [a] d (one fun x => x <<< n)) ∧
  (∀ d a n, Scalar (.shrImm d a n) [a] d (one fun x => x >>> n)) ∧
  (∀ d a n, Scalar (.sarImm d a n) [a] d (one fun x => x.sshiftRight n)) ∧
  (∀ d a n, n < 64 → Scalar (.rotrImm d a n) [a] d (one fun x => x.rotateRight n)) ∧
  (∀ k d lit, Scalar (.movi k d lit) [] d (fun _ => { val := BitVec.ofInt 64 lit.toInt })) ∧
  (∀ k d lit, Scalar (.moviHi k d lit) [.reg d] (.reg d) (one fun x => lit ++ x.setWidth 32)) ∧
  (∀ k d a lit, Scalar (.addiX96 k d a lit) [a] d (one fun x => x + BitVec.ofInt 64 lit.toInt)) ∧
  (∀ k d a lit, Scalar (.andiX96 k d a lit) [a] d (one fun x => x &&& BitVec.ofInt 64 lit.toInt)) ∧
  (∀ k d a lit, Scalar (.oriX96 k d a lit) [a] d (one fun x => x ||| BitVec.ofInt 64 lit.toInt)) ∧
  (∀ k d a lit, Scalar (.xoriX96 k d a lit) [a] d (one fun x => x ^^^ BitVec.ofInt 64 lit.toInt)) ∧
  (∀ k d a pos width, Scalar (.ext k false d a pos width) [a] d (one fun x => BitVec.ofNat 64 (x.toNat / 2 ^ pos % 2 ^ width))) ∧
  (∀ k d a pos width, Scalar (.ext k true d a pos width) [a] d
    (one fun x => BitVec.ofInt 64 (asInt width (x.toNat / 2 ^ pos % 2 ^ width)))) ∧
  (∀ k d a pos width, Scalar (.ins k d a pos width) [.reg d, a] (.reg d) (two fun x y => insert pos width x y))

/-! ### The common group (R128 to R140, R289, R290) -/

/-- R133 to R138: NOP, branches, calls and loops. -/
def Obligations.ControlFlowResults : Prop :=
  Plain .nop (fun _ => True) (fun s => { s := s }) ∧
  (∀ k, Plain (.nopL64 k) (fun _ => True) (fun s => { s := s })) ∧
  (∀ p slot line, Plain (.br p slot line) (fun _ => True) (fun s => { s := s, flow := .goto (.pos line slot) })) ∧
  (∀ p c a slot line, Uses (.brc p c a slot line) a (fun _ _ _ => True)
    (fun s cs v => { s := withCs s cs, flow := if condHolds c v then .goto (.pos line slot) else .next })) ∧
  (∀ a p, Uses (.brReg a) a (fun _ _ v => readTarget v = some p) (fun s cs _ => { s := withCs s cs, flow := .goto p })) ∧
  (∀ p slot line, Plain (.call p slot line) (fun s => (focusSt s).rstack.length < 16)
    (fun s => { s := withSt s (focusCs s) { focusSt s with rstack := afterPc s 2 :: (focusSt s).rstack }, flow := .goto (.pos line slot) })) ∧
  (∀ a p, Uses (.callReg a) a (fun s cs v => readTarget v = some p ∧ p ≠ .fin ∧ (cs.stream s.focusEng).rstack.length < 16)
    (fun s cs _ => { s := withSt s cs { cs.stream s.focusEng with rstack := afterPc s 1 :: (cs.stream s.focusEng).rstack }, flow := .goto p })) ∧
  (∀ a, Uses (.callReg a) a (fun s cs v => readTarget v = some .fin ∧ (cs.stream s.focusEng).rstack.length < 16)
    (fun s cs _ => { s := withCs s cs, flow := .goto .fin })) ∧
  (∀ k a, Uses (.loopReg k a) a
    (fun s cs v => 1 ≤ v.toNat ∧ v.toNat < 2 ^ 32 ∧ (cs.stream s.focusEng).loop.setWidth 32 = 0#32)
    (fun s cs v => { s := withSt s cs { cs.stream s.focusEng with loop := BitVec.ofNat 64 (packPc (afterPc s 2) * 2 ^ 32 + v.toNat) } })) ∧
  (∀ k n, n ≠ 0#32 → Plain (.loopImm k n) (fun s => (focusSt s).loop.setWidth 32 = 0#32)
    (fun s => { s := withSt s (focusCs s) { focusSt s with loop := BitVec.ofNat 64 (packPc (afterPc s 3) * 2 ^ 32 + n.toNat) } })) ∧
  Plain .endl (fun s => (focusSt s).loop.setWidth 32 = 1#32)
    (fun s => { s := withSt s (focusCs s) { focusSt s with loop := (focusSt s).loop - 1 } }) ∧
  (∀ p, Plain .endl (fun s => 2#32 ≤ (focusSt s).loop.setWidth 32 ∧ readTarget ((focusSt s).loop >>> 32) = some p)
    (fun s => { s := withSt s (focusCs s) { focusSt s with loop := (focusSt s).loop - 1 }, flow := .goto p }))

/-- R69, R128 to R132, R140, R286, R288 to R290, R375: control registers, TRAP, BKPT, CHK, SEMW and SEMP. A SEMP that is issued
while earlier work of its engine is under way posts when that has settled; that a post made after a wait that was not granted completes it in a later
step of the same cycle is the model's choice (log entry 3). -/
def Obligations.CommonRegisterAndSyncResults : Prop :=
  (∀ d cr s s1 w cs1, Issues (.rdcr d cr) s s1 w → crBusy (focusCs s1) s1.focusEng cr = false → SrcsReady s1 [] d [] cs1 →
    GoesTo (.rdcr d cr) s w (scalarDone s1 cs1 d { val := readCr s1 (focusCs s1) s1.focusEng cr })) ∧
  (∀ cr a, Uses (.wrcr cr a) a (fun s _ _ => crBusy (focusCs s) s.focusEng cr = false)
    (fun s cs v => { s := withCs s (writeCr cs s.focusEng cr v) })) ∧
  (∀ a, Uses (.chk a) a (fun _ _ _ => True) (fun s cs _ => { s := withCs s cs })) ∧
  (∀ n, Plain (.trap n) (fun _ => True) (fun s => { s := s, after := some { trap := .trap, arg := n } })) ∧
  (∀ n, Plain (.bkpt n) (fun _ => True) (fun s =>
    let s' := teamEvent s s.focusCore s.focusEng .bkpt
    { s := withCs s' { focusCs s' with bkptArg := some (n, packPc (focusSt s).pc) } })) ∧
  (∀ n, Plain (.semw n) (fun s => 0 < (getSem (focusCs s) n).count ∧ ((getSem (focusCs s) n).cqrel = true → loadsDone (focusCs s) s.focusEng = true))
    (fun s => { s := withCs s (grantWait (coreCycle s) (if (getSem (focusCs s) n).cqrel then acquire (focusCs s) else focusCs s) n) })) ∧
  (∀ n, Plain (.semp n) (fun s => settledBefore s (focusCs s) s.focusEng (focusCs s).nextId = true ∧ countBefore (coreCycle s) (focusCs s) n < 65535)
    (fun s => { s := withCs s (applyPost (coreCycle s) (focusCs s) (engRank s.focusEng) n) })) ∧
  (∀ n, Plain (.semp n) (fun s => settledBefore s (focusCs s) s.focusEng (focusCs s).nextId = false)
    (fun s => { s := s, openEnd := true, semp := some n })) ∧
  (∀ k n, Plain (.sempL64 k n) (fun s => settledBefore s (focusCs s) s.focusEng (focusCs s).nextId = false)
    (fun s => { s := s, openEnd := true, semp := some n })) ∧
  (∀ n i, i = .semp n ∨ (∃ k, i = .sempL64 k n) →
    Plain i (fun s => settledBefore s (focusCs s) s.focusEng (focusCs s).nextId = true ∧ 65535 ≤ countBefore (coreCycle s) (focusCs s) n ∧
        (postAt (coreCycle s) (focusCs s) (engRank s.focusEng) n).2 = some (engRank s.focusEng))
      (fun s => { s := withCs s (postAt (coreCycle s) (focusCs s) (engRank s.focusEng) n).1, after := some { trap := .semOverflow } }) ∧
    ∀ e, Plain i (fun s => e ≠ s.focusEng ∧ settledBefore s (focusCs s) s.focusEng (focusCs s).nextId = true ∧
        65535 ≤ countBefore (coreCycle s) (focusCs s) n ∧ (postAt (coreCycle s) (focusCs s) (engRank s.focusEng) n).2 = some (engRank e))
      (fun s => let s1 := withCs s (postAt (coreCycle s) (focusCs s) (engRank s.focusEng) n).1
        { s := semOverflow s1 s1.focusCore e })) ∧
  (∀ now cs e n, 65535 ≤ countBefore now cs n →
    let r := postAt now cs (engRank e) n
    getSem r.1 n = getSem cs n ∧ bareCore r.1 = bareCore cs ∧
    ((semLogAt now cs).posts.all (fun p => p.1 != n || p.2 ≤ engRank e) = true → r.2 = some (engRank e)) ∧
    ∀ p ∈ (semLogAt now cs).posts, p.1 = n → engRank e < p.2 → r.2 ≠ some (engRank e)) ∧
  (∀ k n, Plain (.semwL64 k n) (fun s => 0 < (getSem (focusCs s) n).count ∧ ((getSem (focusCs s) n).cqrel = true → loadsDone (focusCs s) s.focusEng = true))
    (fun s => { s := withCs s (grantWait (coreCycle s) (if (getSem (focusCs s) n).cqrel then acquire (focusCs s) else focusCs s) n) })) ∧
  (∀ k n, Plain (.sempL64 k n) (fun s => settledBefore s (focusCs s) s.focusEng (focusCs s).nextId = true ∧ countBefore (coreCycle s) (focusCs s) n < 65535)
    (fun s => { s := withCs s (applyPost (coreCycle s) (focusCs s) (engRank s.focusEng) n) }))

/-- R76, R130, R137, R138: the faults of calls, loops and register targets. -/
def Obligations.ControlFlowFaults : Prop :=
  (∀ a, UseTraps (.brReg a) a (fun _ _ v => readTarget v = none) { trap := .branchTarget }) ∧
  (∀ a, UseTraps (.callReg a) a (fun _ _ v => readTarget v = none) { trap := .branchTarget }) ∧
  (∀ a, UseTraps (.callReg a) a (fun s cs v => (readTarget v).isSome ∧ 16 ≤ (cs.stream s.focusEng).rstack.length) { trap := .rstackOverflow }) ∧
  (∀ p slot line, PlainTraps (.call p slot line) (fun s => 16 ≤ (focusSt s).rstack.length) { trap := .rstackOverflow }) ∧
  (∀ k a, UseTraps (.loopReg k a) a (fun _ _ v => v = 0 ∨ 2 ^ 32 ≤ v.toNat) { trap := .loopCount }) ∧
  (∀ k a, UseTraps (.loopReg k a) a
    (fun s cs v => 1 ≤ v.toNat ∧ v.toNat < 2 ^ 32 ∧ (cs.stream s.focusEng).loop.setWidth 32 ≠ 0#32) { trap := .loopState }) ∧
  (∀ k, PlainTraps (.loopImm k 0) (fun _ => True) { trap := .loopCount }) ∧
  (∀ k n, n ≠ 0#32 → PlainTraps (.loopImm k n) (fun s => (focusSt s).loop.setWidth 32 ≠ 0#32) { trap := .loopState }) ∧
  PlainTraps .endl (fun s => (focusSt s).loop.setWidth 32 = 0#32) { trap := .loopState } ∧
  PlainTraps .endl (fun s => 2#32 ≤ (focusSt s).loop.setWidth 32 ∧ readTarget ((focusSt s).loop >>> 32) = none) { trap := .branchTarget }

/-! ### The vector engine (R153 to R195) -/

/-- R159, R162 to R166: lane-wise arithmetic, with its latencies. That results are written at issue, under claims that last until retirement, is the model's choice (log entries 11, 12, 13). -/
def Obligations.VectorArithmeticResults : Prop :=
  (∀ k t d a b, LaneWise (.vadd k t d a b) k t 3 d [a, b] (laneAdd t)) ∧
  (∀ k t d a b, LaneWise (.vsub k t d a b) k t 3 d [a, b] (laneSub t)) ∧
  (∀ k t d a b, LaneWise (.vmul k t d a b) k t 4 d [a, b] (laneMul t)) ∧
  (∀ k t d a b, LaneWiseD (.vfma k t d a b) k t 4 d [a, b] (laneFma t)) ∧
  (∀ k t d a b, LaneWiseD (.vfms k t d a b) k t 4 d [a, b] (laneFms t)) ∧
  (∀ k t d a b, LaneWiseD (.vfnma k t d a b) k t 4 d [a, b] (laneFnma t)) ∧
  (∀ k t d a b, LaneWise (.vmin k t d a b) k t 2 d [a, b] (laneMin t)) ∧
  (∀ k t d a b, LaneWise (.vmax k t d a b) k t 2 d [a, b] (laneMax t)) ∧
  (∀ k t d a, LaneWise (.vabs k t d a) k t 2 d [a] (laneAbs t)) ∧
  (∀ k t d a, LaneWise (.vneg k t d a) k t 2 d [a] (laneNeg t)) ∧
  (∀ k t d a b, LaneWise (.vadds k t d a b) k t 3 d [a, b] (laneSat t (· + ·))) ∧
  (∀ k t d a b, LaneWise (.vsubs k t d a b) k t 3 d [a, b] (laneSat t (· - ·))) ∧
  (∀ k t d a b, LaneWise (.vmulh k t d a b) k t 4 d [a, b] (laneMulh t)) ∧
  (∀ k t d a b, LaneWise (.vdiv k t d a b) k t 14 d [a, b] (laneDiv t)) ∧
  (∀ k t d a, LaneWise (.vsqrt k t d a) k t 14 d [a] (spec1 t (sqrtV specPrec))) ∧
  (∀ k t d a, LaneWise (.vrcp k t d a) k t 6 d [a] (spec1 t rcpV)) ∧
  (∀ k t d a, LaneWise (.vrsq k t d a) k t 14 d [a] (spec1 t (rsqV specPrec))) ∧
  (∀ k t d a, LaneWise (.vexp2 k t d a) k t 6 d [a] (spec1 t exp2V)) ∧
  (∀ k t d a, LaneWise (.vlog2 k t d a) k t 6 d [a] (spec1 t log2V)) ∧
  (∀ k t d a, LaneWise (.vsinp k t d a) k t 6 d [a] (spec1 t sinpV)) ∧
  (∀ k t d a, LaneWise (.vcosp k t d a) k t 6 d [a] (spec1 t cospV))

/-- R159, R171: lane-wise logic, shifts and counts; none raises a flag. That results are written at issue, under claims that last until retirement, is the model's choice (log entries 11, 12, 13). -/
def Obligations.VectorLogicResults : Prop :=
  (∀ k t d a b, LaneWise (.vand k t d a b) k t 2 d [a, b] fun _ _ xs => (in0 xs &&& in1 xs, 0)) ∧
  (∀ k t d a b, LaneWise (.vor k t d a b) k t 2 d [a, b] fun _ _ xs => (in0 xs ||| in1 xs, 0)) ∧
  (∀ k t d a b, LaneWise (.vxor k t d a b) k t 2 d [a, b] fun _ _ xs => (in0 xs ^^^ in1 xs, 0)) ∧
  (∀ k t d a, LaneWise (.vnot k t d a) k t 2 d [a] fun _ _ xs => (2 ^ t.width - 1 - in0 xs, 0)) ∧
  (∀ k t d a b, LaneWise (.vshl k t d a b) k t 2 d [a, b]
    fun _ _ xs => (if t.width ≤ in1 xs then 0 else in0 xs * 2 ^ in1 xs % 2 ^ t.width, 0)) ∧
  (∀ k t d a b, LaneWise (.vshr k t d a b) k t 2 d [a, b]
    fun _ _ xs => (if t.width ≤ in1 xs then 0 else in0 xs / 2 ^ in1 xs, 0)) ∧
  (∀ k t d a b, LaneWise (.vsar k t d a b) k t 2 d [a, b]
    fun _ _ xs => (wrapTo t.width (asInt t.width (in0 xs) / (2 ^ min (in1 xs) t.width : Nat)), 0)) ∧
  (∀ k t d a, LaneWise (.vclz k t d a) k t 2 d [a] fun _ _ xs => (leadZeros t.width (in0 xs), 0)) ∧
  (∀ k t d a, LaneWise (.vpopc k t d a) k t 2 d [a] fun _ _ xs => (popCount t.width (in0 xs), 0))

/-- R167 to R174: conversions, block quantisation, moves, broadcast, extract and insert. That results are written at issue, under claims that last until retirement, is the model's choice (log entries 11, 12, 13), and
so is that VMOV writes 0 beside the tag of a poisoned scalar (log entry 25). -/
def Obligations.VectorConversionResults : Prop :=
  (∀ k td ts part d a, Vector (.vcvt k td ts part d a) { vd := some d, vs := [a], w := ts.width, pred := k.pred, lat := 4 }
    fun x => convLanes ts td part x fun _ v => laneRes (fun xs => convElem x.rm x.ftz ts td ts.width td.width (in0 xs)) [v]) ∧
  (∀ k td ts part d a sc, Vector (.vqnt k td ts part d a sc)
    { vd := some d, sd := some sc, vs := [a], w := ts.width, pred := k.pred, lat := 4 } (vqntOut td ts part)) ∧
  (∀ k td ts part d a sc, Vector (.vdqnt k td ts part d a sc) { vd := some d, vs := [a], ss := [sc], w := ts.width, pred := k.pred, lat := 4 }
    fun x => convLanes ts td part x fun i v =>
      laneRes (fun xs => dequant ts td x.rm x.ftz (laneOf 8 (x.sc 0).val.toNat (i / 32)) (in0 xs)) [v, ⟨0, (x.sc 0).tag⟩]) ∧
  (∀ k t d a, Vector (.vmov k t d a) { vd := some d, vs := [a], chk := [clusterVDst d], w := t.width, pred := k.pred, lat := vmovLat d a }
    fun x => laneMap t.width x x.vs fun xs => (in0 xs, 0)) ∧
  (∀ k t d a b, VectorWhen (.vextr k t d a b) { sd := some d, vs := [a], ss := [b], chk := [clusterVSrc a], w := t.width, pred := k.pred, lat := 3 }
    (fun x => (x.sc 0).tag = none) fun x =>
      let l := laneIn t.width (x.src 0) ((x.sc 0).val.toNat % t.lanes)
      { sc := { val := if l.tag.isSome then 0 else extendLane t l.val, tag := l.tag } }) ∧
  (∀ k t d a b, VectorWhen (.vins k t d a b)
    { vd := some (.reg d), ss := [a, b], readD := true, chk := [some (d / 128)], w := t.width, pred := k.pred, lat := 2 }
    (fun x => (x.sc 1).tag = none)
    fun x => { v := writeLanes t.width x.old ((List.range t.lanes).map fun i =>
      if i = (x.sc 1).val.toNat % t.lanes then
        some { val := if (x.sc 0).tag.isSome then 0 else (x.sc 0).val.toNat % 2 ^ t.width, tag := (x.sc 0).tag }
      else none) })

/-- R175, R177, R181 to R186: compares, selects and masks. That results are written at issue, under claims that last until retirement, is the model's choice (log entries 11, 12, 13), and so is that
VSEL keeps the bits beside the tag of a lane (log entry 25), and that VCMP does not wait for an earlier writer of KD (log entry 72). -/
def Obligations.VectorMaskResults : Prop :=
  (∀ k c t d a b, Vector (.vcmp k c t d a b)
    { md := some d, vs := [a, b], chk := [clusterVSrc a, clusterVSrc b], w := t.width, pred := k.pred, lat := 2 } (vcmpOut t c)) ∧
  (∀ k t d a b m, VectorWhen (.vsel k t d a b m)
    { vd := some d, vs := [a, b], ms := [m], chk := [clusterVDst d, clusterVSrc a, clusterVSrc b], w := t.width, pred := k.pred, lat := 2 }
    (fun x => (x.km 0).tag = none)
    fun x => laneMove t.width x fun i => laneIn t.width (if (x.km 0).bits.getLsbD i then x.src 0 else x.src 1) i) ∧
  (∀ k d a, Vector (.kmovMask k d a) { md := some d, ms := [a], pred := k.pred, lat := 2 } fun x => { m := x.km 0 }) ∧
  (∀ k d a, Vector (.kmovFromVector k d a) { md := some d, vs := [a], pred := k.pred, lat := 2 }
    fun x => { m := { bits := (x.src 0).data.setWidth 512, tag := tagsFrom (x.src 0) 0 8 } }) ∧
  (∀ k d a, Vector (.kmovToVector k d a) { vd := some d, ms := [a], pred := k.pred, lat := 2 }
    fun x => { v := { data := (x.km 0).bits.setWidth 4096, tags := BitVec.ofNat 256 (packLanes 4 (List.replicate 8 (tagNib (x.km 0).tag))) } })

/-- R187 to R195: lane movement, reductions, scans, votes and the bit network. That results are written at issue, under claims that last until retirement, is the model's choice (log entries 11, 12, 13);
so are that lane movement keeps the bits beside a tag (log entry 25) and that VBPLOAD names the greatest cause (log entry 64). -/
def Obligations.VectorLaneMovementResults : Prop :=
  (∀ k hi t d a b, Vector (.vshuf k hi t d a b)
    { vd := some d, vs := [a, b], chk := [clusterVDst d, clusterVSrc a, clusterVSrc b], w := t.width, pred := k.pred, lat := 3 }
    fun x => laneMove t.width x fun i =>
      if (vTag t.width (x.src 1) i).isSome then ⟨0, vTag t.width (x.src 1) i⟩
      else laneIn t.width (x.src 0) ((vLane t.width (x.src 1) i + (if hi then 256 else 0)) % t.lanes)) ∧
  (∀ k t d a n, Vector (.vxswp k t d a n)
    { vd := some d, vs := [a], chk := [clusterVDst d, clusterVSrc a], w := t.width, pred := k.pred, lat := 2 }
    fun x => laneMove t.width x fun i => laneIn t.width (x.src 0) (i ^^^ n)) ∧
  (∀ k t d a b, VectorWhen (.vrot k t d a b)
    { vd := some d, vs := [a], ss := [b], chk := [clusterVDst d, clusterVSrc a], w := t.width, pred := k.pred, lat := 2 }
    (fun x => (x.sc 0).tag = none)
    fun x => laneMove t.width x fun i => laneIn t.width (x.src 0) ((i + (x.sc 0).val.toNat % t.lanes) % t.lanes)) ∧
  (∀ k t d a m, VectorWhen (.vcompress k t d a m)
    { vd := some d, vs := [a], ms := [m], chk := [clusterVDst d, clusterVSrc a], w := t.width, pred := k.pred, lat := 3 }
    (fun x => (x.km 0).tag = none) fun x => compressOut t x (x.km 0).bits) ∧
  (∀ k t d a m, VectorWhen (.vexpand k t d a m)
    { vd := some (.reg d), vs := [a], ms := [m], readD := true, chk := [some (d / 128), clusterVSrc a], w := t.width, pred := k.pred, lat := 3 }
    (fun x => (x.km 0).tag = none) fun x => expandOut t x (x.km 0).bits) ∧
  (∀ k t d a, Vector (.vredsum k t d a) { sd := some d, vs := [a], chk := [clusterVSrc a], w := t.width, pred := k.pred, lat := 6 } (redOut .sum t)) ∧
  (∀ k t d a, Vector (.vredmax k t d a) { sd := some d, vs := [a], chk := [clusterVSrc a], w := t.width, pred := k.pred, lat := 6 } (redOut .max t)) ∧
  (∀ k t d a, Vector (.vredmin k t d a) { sd := some d, vs := [a], chk := [clusterVSrc a], w := t.width, pred := k.pred, lat := 6 } (redOut .min t)) ∧
  (∀ k t d a, Vector (.vscan k t d a)
    { vd := some (.reg d), vs := [a], readD := true, chk := [some (d / 128), clusterVSrc a], w := t.width, pred := k.pred, lat := 8 }
    fun x =>
      let ls := scanLanes t x.rm x.ftz (redIdentity .sum t, none)
        ((List.range t.lanes).map fun i => if x.mask.getLsbD i then some (laneIn t.width (x.src 0) i) else none)
      { v := writeLanes t.width x.old ls, flags := laneFlags ls }) ∧
  (∀ k t d a, Vector (.vvoteAny k t d a) { sd := some d, vs := [a], chk := [clusterVSrc a], w := t.width, pred := k.pred, lat := 2 }
    fun x => { sc := { val := if (activeTag t x).isSome then 0 else if (votes t x false).any id then 1 else 0, tag := activeTag t x } }) ∧
  (∀ k t d a, Vector (.vvoteAll k t d a) { sd := some d, vs := [a], chk := [clusterVSrc a], w := t.width, pred := k.pred, lat := 2 }
    fun x => { sc := { val := if (activeTag t x).isSome then 0 else if (votes t x true).all id then 1 else 0, tag := activeTag t x } }) ∧
  (∀ k t d a, Vector (.vvoteBallot k t d a) { md := some d, vs := [a], chk := [clusterVSrc a], w := t.width, pred := k.pred, lat := 2 }
    fun x => { m := { bits := maskOf ((List.range t.lanes).map fun i =>
                        x.mask.getLsbD i && (vTag t.width (x.src 0) i).isNone && vLane t.width (x.src 0) i != 0)
                      tag := activeTag t x } }) ∧
  (∀ k d a p, Vector (.vbperm k d a p) { vd := some d, vs := [a], bp := some p, pred := k.pred, lat := 3 } vbpermOut) ∧
  (∀ k p a part, VectorWhen (.vbpload k p a part) { bpd := some p, vs := [a], pred := k.pred, lat := 2 } (fun x => tagsFrom (x.src 0) (16 * part) 16 = none)
    fun x => { b := BitVec.ofNat 1024 (laneOf 1024 (x.src 0).data.toNat part) }) ∧
  (∀ k p a part, VectorTraps (.vbpload k p a part) { bpd := some p, vs := [a], pred := k.pred, lat := 2 } fun x => tagsFrom (x.src 0) (16 * part) 16)

/-! ### The matrix engine (R196 to R217) -/

/-- R203, R213 to R217: tile control values, moving, conversion and MFENCE. That results are written at issue, under claims that last until retirement, is the model's choice (log entries 11, 12, 13). -/
def Obligations.TileResults : Prop :=
  (∀ k d a s s1 w v cs1, Issues (.tset k false d a) s s1 w → s1.focusEng = .mtx → UseReady s1 a v cs1 →
    tileBusy (focusCs s1) (tileClaims [] [d] none) = false → validTile (tileValue v) d = true →
      GoesTo (.tset k false d a) s w { s := withCs s1 { cs1 with tcT := mputD 0 cs1.tcT d (v &&& 0x7FFFBFFF) }, claims := tileClaims [] [d] none }) ∧
  (∀ k d a s s1 w v cs1, Issues (.tset k true d a) s s1 w → s1.focusEng = .mtx → UseReady s1 a v cs1 →
    clusterBusy (focusCs s1) d = false → validAcc (accValue v) = true →
      GoesTo (.tset k true d a) s w { s := withCs s1 { cs1 with tcAcc := mputD 0 cs1.tcAcc d (v &&& 0xF3) }, claims := tileClaims [] [] (some d) }) ∧
  (∀ k d a s s1 w cs1, Issues (.tget k false d a) s s1 w → SrcsReady s1 [] d [] cs1 →
    tileBusy (focusCs s1) (tileClaims [a] [] none) = false →
      GoesTo (.tget k false d a) s w { scalarDone s1 cs1 d { val := mgetD 0 (focusCs s1).tcT a } with claims := tileClaims [a] [] none }) ∧
  (∀ k d a s s1 w cs1, Issues (.tget k true d a) s s1 w → SrcsReady s1 [] d [] cs1 →
    GoesTo (.tget k true d a) s w (scalarDone s1 cs1 d { val := mgetD 0 (focusCs s1).tcAcc a })) ∧
  (∀ k d a, Matrix (.tmov k d a) [a] [d] none 8 (fun _ => True) fun cs => (putRows cs d ((List.range 128).map (readTile cs a)), 0)) ∧
  (∀ k d a, Matrix (.ttr k d a) [a] [d] none 16 (fun cs => ttrShape d a cs = none) (ttrEffect d a)) ∧
  (∀ k d a, Matrix (.tcvt k d a) [a] [d] none 16 (fun cs => tcvtCheck d a cs = none) (tcvtEffect d a)) ∧
  (∀ k d a, Matrix (.tacc k d a) [] [d] (some a) 8 (fun cs => taccCheck d a cs = none) (taccEffect d a)) ∧
  (∀ k d a s s1 w, Issues (.atile k d a) s s1 w →
    TilesFree s1 (tileClaims (a :: sideTiles (tcT (focusCs s1) a)) [] (some d)) (some d) → atileCheck d a (focusCs s1) = none →
      GoesTo (.atile k d a) s w
        { s := withCs s1 (atileEffect d a (focusCs s1)).1, lat := 8, flags := (atileEffect d a (focusCs s1)).2,
          claims := tileClaims (a :: sideTiles (tcT (focusCs s1) a)) [] (some d) }) ∧
  (∀ k, Plain (.mfence k) (fun s => tilesQuiet (focusCs s) = true) (fun s => { s := s }))

/-- R198, R201, R203 to R209, R213 to R216: the multiplications, and the faults of TSET, TTR, TCVT, TACC, ATILE and the multiplications, but for POISON_USE of TSET. That the accumulator has its new value from the issue is the model's choice (log entry 14), as are
the flags of an element that ends NaN (log entry 66), the sum of a sparse group with no stored element (log entry 25) and where the FTZ of a
replay is kept (log entry 23). -/
def Obligations.MatrixMultiplyResults : Prop :=
  (∀ k sat d a b, MmaResult (.mma k sat d a b) sat 0 d a b) ∧
  (∀ k sat n d a b, MmaResult (.mmaSp k sat n d a b) sat (spCount n) d a b) ∧
  (∀ k sat d a b s s1 w, Issues (.mmaP k sat d a b) s s1 w →
    let cs := focusCs s1
    let f := pairOf s1.focusCore
    let fs := getCore s1 f
    let h0 := halfOf cs 0 d a b
    let h1 : Half := { h0 with own := fs, half := 1 }
    let cl := tileClaims ((h0.leadTiles ++ h0.ownTiles).map (·.1)) [] (some d)
    pairRole s1 = true → TilesFree s1 cl (some d) → tileBusy fs (tileClaims (h1.ownTiles.map (·.1)) [] (some d)) = false →
    (fs.flights.any fun g => g.eng == .mtx) = false → fs.mtx.nextIssue ≤ coreCycle s1 → clusterBusy fs d = false → mmaCheck [h0, h1] sat = none → gapWait s1 cs d = none →
      GoesTo (.mmaP k sat d a b) s w
        { s := setCore (withCs s1 (mmaHalf h0 sat).1) f (followerIn (mmaHalf h1 sat).1 h1 (mmaHalf h1 sat).2 fs.mtx.pc)
          lat := occupancy (tcWidth h0.x) h0.kd false + 6, flags := (mmaHalf h0 sat).2, claims := cl, mma := some (d, mmaFtz cs)
          mmaTiles := h0.leadTiles ++ h0.ownTiles, partner := some f }) ∧
  (∀ k d a s s1 w v cs1, Issues (.tset k false d a) s s1 w → s1.focusEng = .mtx → UseReady s1 a v cs1 →
    tileBusy (focusCs s1) (tileClaims [] [d] none) = false → validTile (tileValue v) d = false →
      TrapsWith (.tset k false d a) s s1 w { trap := .tileShape }) ∧
  (∀ k d a s s1 w v cs1, Issues (.tset k true d a) s s1 w → s1.focusEng = .mtx → UseReady s1 a v cs1 →
    clusterBusy (focusCs s1) d = false → validAcc (accValue v) = false → TrapsWith (.tset k true d a) s s1 w { trap := .tileShape }) ∧
  (∀ k d a, MatrixTraps (.ttr k d a) (fun _ => [a]) [d] none (fun cs =>
    let x := tcT cs a
    let y := tcT cs d
    ¬(plainTile x = true ∧ plainTile y = true ∧ d ≠ a ∧ tcWidth x ≠ 4 ∧ tcType y = tcType x ∧ tcE4 y = false ∧ tcRows y = tcK x ∧
      tcBytes y = tcRows x * tcWidth x / 8)) .tileShape) ∧
  (∀ k d a,
    let fits := fun (cs : CoreSt) => plainTile (tcT cs a) = true ∧ plainTile (tcT cs d) = true ∧ tcRows (tcT cs a) = tcRows (tcT cs d) ∧
      tcK (tcT cs a) = tcK (tcT cs d)
    MatrixTraps (.tcvt k d a) (fun _ => [a]) [d] none (fun cs => ¬fits cs) .tileShape ∧
    MatrixTraps (.tcvt k d a) (fun _ => [a]) [d] none (fun cs => fits cs ∧ (tcType (tcT cs a) = .e8m0 ∨ tcType (tcT cs d) = .e8m0)) .mmaType) ∧
  (∀ k d a,
    let fits := fun (cs : CoreSt) => plainTile (tcT cs d) = true ∧ tcK (tcT cs d) ≤ 4096 / ewOf cs a
    MatrixTraps (.tacc k d a) (fun _ => []) [d] (some a) (fun cs => ¬fits cs) .tileShape ∧
    MatrixTraps (.tacc k d a) (fun _ => []) [d] (some a) (fun cs => fits cs ∧ tcType (tcT cs d) = .e8m0) .mmaType) ∧
  (∀ k d a,
    let fits := fun (cs : CoreSt) =>
      let x := tcT cs a
      tcCfg x = true ∧ tcMetae x = false ∧ tcK x ≤ 4096 / ewOf cs d ∧ (tcScle x = true → scaleShape cs (tcScl x) (tcRows x) (tcK x) = true)
    let reads := fun (cs : CoreSt) => a :: sideTiles (tcT cs a)
    MatrixTraps (.atile k d a) reads [] (some d) (fun cs => ¬fits cs) .tileShape ∧
    MatrixTraps (.atile k d a) reads [] (some d) (fun cs => fits cs ∧ (tcType (tcT cs a) = .e8m0 ∨ accType (tcAcc cs d) = .e2m1 ∨
      (tcScle (tcT cs a) = true ∧ (accType (tcAcc cs d)).isInt = true))) .mmaType) ∧
  (∀ k sat d a b s s1 w r, Issues (.mma k sat d a b) s s1 w →
    let h := halfOf (focusCs s1) 0 d a b
    TilesFree s1 (tileClaims ((h.leadTiles ++ h.ownTiles).map (·.1)) [] (some d)) (some d) → mmaCheck [h] sat = some r →
      TrapsWith (.mma k sat d a b) s s1 w r) ∧
  (∀ k sat n d a b s s1 w r, Issues (.mmaSp k sat n d a b) s s1 w →
    let h := halfOf (focusCs s1) (spCount n) d a b
    TilesFree s1 (tileClaims ((h.leadTiles ++ h.ownTiles).map (·.1)) [] (some d)) (some d) → mmaCheck [h] sat = some r →
      TrapsWith (.mmaSp k sat n d a b) s s1 w r) ∧
  (∀ k sat d a b s s1 w, Issues (.mmaP k sat d a b) s s1 w →
    let cs := focusCs s1
    let f := pairOf s1.focusCore
    let fs := getCore s1 f
    let h0 := halfOf cs 0 d a b
    let h1 : Half := { h0 with own := fs, half := 1 }
    let s2 := setCore s1 f { fs with pairPend := none }
    ∀ r, (pairRole s1 = false → TrapsWith (.mmaP k sat d a b) s s2 w { trap := .pairRole }) ∧
    (pairRole s1 = true → TilesFree s1 (tileClaims ((h0.leadTiles ++ h0.ownTiles).map (·.1)) [] (some d)) (some d) →
      tileBusy fs (tileClaims (h1.ownTiles.map (·.1)) [] (some d)) = false → (fs.flights.any fun g => g.eng == .mtx) = false →
      fs.mtx.nextIssue ≤ coreCycle s1 → clusterBusy fs d = false → mmaCheck [h0, h1] sat = some r → TrapsWith (.mmaP k sat d a b) s s2 w r))

/-! ### Memory (R148 to R150, R242 to R263, R282 to R284, R321 to R326) -/

/-- R149, R254 to R257: loads of the sequencer and of the access engine. That results are written at issue, under claims that last until retirement, is the model's choice (log entries 11, 12, 13). -/
def Obligations.LoadResults : Prop :=
  (∀ k size sx acq hint d a lit, Accesses (.lds k size sx acq hint d a lit)
    { srcs := [.reg a], sd := some (.reg d), hint := hint, acq := acq } (fun _ => True)
    fun x => { store := false, es := [⟨baseAddr x lit.toInt, 2 ^ size, 0⟩], dst := .scalar .seq (.reg d) size sx false, align := 2 ^ size }) ∧
  (∀ k size sx acq sp hint d a lit, Accesses (.lda k size sx acq sp hint d a lit)
    { srcs := [a], sd := some d, space := sp, hint := hint, acq := acq, lat := 4 } (fun _ => True)
    fun x => { store := false, es := [⟨baseAddr x lit.toInt, 2 ^ size, 0⟩], dst := .scalar .mem d size sx false, align := 2 ^ size }) ∧
  (∀ k acq sp hint d a lit, Accesses (.vld k acq sp hint d a lit)
    { srcs := [a], vd := some d, space := sp, hint := hint, acq := acq, lat := 6 } (fun _ => True)
    fun x => { store := false, es := [⟨baseAddr x lit.toInt, 512, 0⟩], dst := .vec d, align := 64 }) ∧
  (∀ k size acq sp hint d a lit, Accesses (.vlds k size acq sp hint d a lit)
    { srcs := [a], vd := some d, space := sp, hint := hint, acq := acq, lat := 6 } (fun _ => True)
    fun x => { store := false, es := strideElems x (2 ^ size) lit, dst := .vec d, align := 2 ^ size }) ∧
  (∀ k size acq sp hint d a b, Accesses (.vgath k size acq sp hint d a b)
    { srcs := [a], vidx := some b, ixn := if size = 3 then 32 else 64, vd := some d, space := sp, hint := hint, acq := acq, lat := 6 } (fun _ => True)
    fun x => { store := false, es := gatherElems x (2 ^ size), dst := .vec d, align := 2 ^ size, extra := bankExtra (gatherElems x (2 ^ size)) }) ∧
  (∀ k acq sp hint d a b, Accesses (.tld k acq sp hint d a b)
    { srcs := [a, b], tile := some (d, true), space := sp, hint := hint, acq := acq, lat := 5 } (fun x => tcCfg (tcT x.cs d) = true)
    fun x => { store := false, es := tileElems x (tcRows (tcT x.cs d)) (tcBytes (tcT x.cs d)),
               dst := .tile d (tcRows (tcT x.cs d)) (tcBytes (tcT x.cs d)), extra := tcRows (tcT x.cs d), align := 16 })

/-- R149, R254 to R257: stores of the sequencer and of the access engine. That a scratchpad store has its effect at issue and
retires later is the model's choice (log entries 12 and 13). -/
def Obligations.StoreResults : Prop :=
  (∀ k size rel hint a b lit, Accesses (.sts k size rel hint a b lit) { srcs := [.reg a, .reg b], hint := hint, rel := rel, type := size } (fun _ => True)
    fun x => { store := true, es := [⟨baseAddr x lit.toInt, 2 ^ size, 0⟩], data := (x.ss.getD 1 {}).val.toNat, align := 2 ^ size }) ∧
  (∀ k size rel sp hint a b lit, Accesses (.sta k size rel sp hint a b lit)
    { srcs := [a, b], space := sp, hint := hint, rel := rel, type := size, lat := 2 } (fun _ => True)
    fun x => { store := true, es := [⟨baseAddr x lit.toInt, 2 ^ size, 0⟩], data := (x.ss.getD 1 {}).val.toNat, align := 2 ^ size }) ∧
  (∀ k rel sp hint d a lit, Accesses (.vst k rel sp hint d a lit)
    { srcs := [a], vsrc := some d, space := sp, hint := hint, rel := rel, type := storeType 5 d, lat := 2 } (fun _ => True)
    fun x => { store := true, es := [⟨baseAddr x lit.toInt, 512, 0⟩], data := x.v.data.toNat, align := 64 }) ∧
  (∀ k size rel sp hint d a lit, Accesses (.vsts k size rel sp hint d a lit)
    { srcs := [a], vsrc := some d, w := 8 * 2 ^ size, space := sp, hint := hint, rel := rel, type := storeType size d, lat := 2 } (fun _ => True)
    fun x => { store := true, es := strideElems x (2 ^ size) lit, data := x.v.data.toNat, align := 2 ^ size }) ∧
  (∀ k size rel sp hint d a b, Accesses (.vscat k size rel sp hint d a b)
    { srcs := [a], vsrc := some d, vidx := some b, ixn := if size = 3 then 32 else 64, w := 8 * 2 ^ size, space := sp, hint := hint,
      rel := rel, type := storeType size d, lat := 2 } (fun _ => True)
    fun x => { store := true, es := gatherElems x (2 ^ size), data := x.v.data.toNat, align := 2 ^ size, extra := bankExtra (gatherElems x (2 ^ size)) }) ∧
  (∀ k rel sp hint d a b, Accesses (.tst k rel sp hint d a b)
    { srcs := [a, b], tile := some (d, false), space := sp, hint := hint, rel := rel, type := 5, lat := 1 }
    (fun x => tcCfg (tcT x.cs d) = true ∧ tileTags x.cs d (tcRows (tcT x.cs d)) = none)
    fun x => { store := true, es := tileElems x (tcRows (tcT x.cs d)) (tcBytes (tcT x.cs d)),
               data := tileData x.cs d (tcBytes (tcT x.cs d)) (tcRows (tcT x.cs d)), extra := tcRows (tcT x.cs d), align := 16 })

/-- R258 to R262, R282 to R284, R344, R345: LD.S, RSP.ST, PREF, the fences, CWB and ACQR. That the value of a
scratchpad LD.S stands in its register from the issue is the model's choice (log entries 12 and 13). Not stated here: LD.S misaligned or
poisoned, CWB and ACQR with n = 0 or past 2^64, the faults of RSP.ST, PREF of a tagged address, FENCE.REL and FENCE.SC after a failed operation. -/
def Obligations.OtherAccessResults : Prop :=
  (∀ k size sx sp hint d a lit s s1 w x cs1,
    let o : MemOp := { srcs := [a], sd := some d, space := sp, hint := hint, lat := 4 }
    let r : MemReq := { store := false, es := [⟨baseAddr x lit.toInt, 2 ^ size, 0⟩], dst := .scalar .mem d size sx true, align := 2 ^ size }
    Issues (.ldS k size sx sp hint d a lit) s s1 w → s1.focusEng = .mem → MemReady o s1 x cs1 r → misaligned r = none →
      (sp = .spm → outOfSpm r = none → GoesTo (.ldS k size sx sp hint d a lit) s w (spmDone o s1 cs1 r)) ∧
      (sp = .spm → outOfSpm r ≠ none → GoesTo (.ldS k size sx sp hint d a lit) s w
        { s := withCs s1 (putS cs1 .mem (coreCycle s1) cs1.nextId { val := 0, tag := some .speculative } (some d)).1, lat := 4
          fills := (putS cs1 .mem (coreCycle s1) cs1.nextId { val := 0, tag := some .speculative } (some d)).2, claims := claimsOf (o.reads .mem) (o.writes .mem) }) ∧
      (sp = .global → accessStalls s1 (focusCs s1) .mem false (piecesOf r.es) = false →
        GoesTo (.ldS k size sx sp hint d a lit) s w (globalDone o s1 cs1 x r))) ∧
  (∀ k hint d a b lit s s1 w x cs2 t,
    let o : MemOp := { srcs := [a, b], vsrc := some d, space := .spm, lat := 2 }
    let r : MemReq := { store := true, es := [⟨baseAddr x lit.toInt, 512, 0⟩], data := x.v.data.toNat, align := 64 }
    Issues (.rspSt k hint d a b lit) s s1 w → s1.focusEng = .mem → MemReady o s1 x cs2 r →
    rspTarget s1 (x.ss.getD 1 {}).val.toNat = some t → misaligned r = none → outOfSpm r = none →
      GoesTo (.rspSt k hint d a b lit) s w
        { s := setCore (withCs s1 cs2) t { getCore (withCs s1 cs2) t with
            rspIn := (getCore (withCs s1 cs2) t).rspIn ++ [(s1.focusCore, baseAddr x lit.toInt, x.v.data)] }
          lat := 2, claims := claimsOf (o.reads .mem) [] }) ∧
  (∀ k hint a lit s s1 w v cs1, Issues (.pref k hint a lit) s s1 w → s1.focusEng = .mem → UseReady s1 a v cs1 →
    let q : Access := { id := cs1.nextId, eng := .mem, store := false, flight := cs1.nextId, asid := asidOf s1 (focusCs s1), hint := hint,
                        issuedAt := coreCycle s1, pref := true, pieces := [{ va := lineBase (wrap64 (v.toNat + lit.toInt)), n := 128, off := 0 }] }
    GoesTo (.pref k hint a lit) s w { s := withCs s1 { cs1 with accesses := cs1.accesses ++ [q] } }) ∧
  (∀ k, Plain (.fenceAcq k) (fun _ => True) (fun s => { s := s, flow := .wait .fenceAcq })) ∧
  (∀ k, Plain (.fenceRel k) (fun s => (focusCs s).rfail = none) (fun s => { s := s, flow := .wait .fenceRel })) ∧
  (∀ k, Plain (.fenceSc k) (fun s => (focusCs s).rfail = none) (fun s => { s := s, flow := .wait .fenceSc })) ∧
  (∀ k a b s s1 w x n cs1, Issues (.cwb k a b) s s1 w → RangeReady s1 a b x n cs1 → n ≠ 0 →
    overlapping s1 cs1 .mem [{ va := x.toNat, n := n.toNat, off := 0 }] = false →
    (cs1.l1.any fun l => (l.owned &&& rangeWords l.key.va x.toNat n.toNat) != 0 && lineAsked cs1 l.key) = false →
      let r := cs1.l1.map (cwbLine cs1.nextId x.toNat n.toNat)
      GoesTo (.cwb k a b) s w
        { s := withCs s1 { cs1 with l1 := r.map (·.1), wbOut := cs1.wbOut ++ r.flatMap (·.2) }, openEnd := !(r.flatMap (·.2)).isEmpty }) ∧
  (∀ k a b s s1 w x n cs1, Issues (.acqr k a b) s s1 w → RangeReady s1 a b x n cs1 → n ≠ 0 →
    GoesTo (.acqr k a b) s w
      { s := withCs s1 { cs1 with
          l1 := (cs1.l1.map fun l => { l with valid := l.valid &&& ~~~(rangeWords l.key.va x.toNat n.toNat &&& ~~~l.owned) }).filter fun l => l.valid != 0
          accesses := cs1.accesses.map fun q =>
            if !q.store && q.pieces.any (fun p => overlaps (lineBase p.va) 128 x.toNat n.toNat) then { q with acqrs := (x.toNat, n.toNat) :: q.acqrs } else q }
        lat := (rangeLines x.toNat n.toNat + 15) / 16, busy := (rangeLines x.toNat n.toNat + 15) / 16 })

/-- R252: the alignment and range faults of loads and stores, with the address that failed. -/
def Obligations.AccessFaultChecks : Prop :=
  (∀ k size sx acq sp hint d a lit, AccessFaults (.lda k size sx acq sp hint d a lit)
    { srcs := [a], sd := some d, space := sp, hint := hint, acq := acq, lat := 4 }
    fun x => { store := false, es := [⟨baseAddr x lit.toInt, 2 ^ size, 0⟩], dst := .scalar .mem d size sx false, align := 2 ^ size }) ∧
  (∀ k size rel sp hint a b lit, AccessFaults (.sta k size rel sp hint a b lit) { srcs := [a, b], space := sp, hint := hint, rel := rel, lat := 2 }
    fun x => { store := true, es := [⟨baseAddr x lit.toInt, 2 ^ size, 0⟩], data := (x.ss.getD 1 {}).val.toNat, align := 2 ^ size }) ∧
  (∀ k acq sp hint d a lit, AccessFaults (.vld k acq sp hint d a lit)
    { srcs := [a], vd := some d, space := sp, hint := hint, acq := acq, lat := 6 }
    fun x => { store := false, es := [⟨baseAddr x lit.toInt, 512, 0⟩], dst := .vec d, align := 64 }) ∧
  (∀ k rel sp hint d a lit, AccessFaults (.vst k rel sp hint d a lit)
    { srcs := [a], vsrc := some d, space := sp, hint := hint, rel := rel, lat := 2 }
    fun x => { store := true, es := [⟨baseAddr x lit.toInt, 512, 0⟩], data := x.v.data.toNat, align := 64 })

/-- R321 to R323, R325: AMO, compare-and-swap and ACAS128. -/
def Obligations.AtomicResults : Prop :=
  (∀ k size o hint d a b, Atomic (.amoAdd k size o hint d a b) (amoOp 0x60 size 0 o hint d a b)
    fun x => [{ va := x.word 0, opnd := [x.word 1 % 2 ^ (8 * 2 ^ size)] }]) ∧
  (∀ k size o hint d a b, Atomic (.amoSub k size o hint d a b) (amoOp 0x61 size 0 o hint d a b)
    fun x => [{ va := x.word 0, opnd := [x.word 1 % 2 ^ (8 * 2 ^ size)] }]) ∧
  (∀ k size o hint d a b, Atomic (.amoMin k size o hint d a b) (amoOp 0x62 size 0 o hint d a b)
    fun x => [{ va := x.word 0, opnd := [x.word 1 % 2 ^ (8 * 2 ^ size)] }]) ∧
  (∀ k size o hint d a b, Atomic (.amoMax k size o hint d a b) (amoOp 0x63 size 0 o hint d a b)
    fun x => [{ va := x.word 0, opnd := [x.word 1 % 2 ^ (8 * 2 ^ size)] }]) ∧
  (∀ k size o hint d a b, Atomic (.amoMinu k size o hint d a b) (amoOp 0x64 size 0 o hint d a b)
    fun x => [{ va := x.word 0, opnd := [x.word 1 % 2 ^ (8 * 2 ^ size)] }]) ∧
  (∀ k size o hint d a b, Atomic (.amoMaxu k size o hint d a b) (amoOp 0x65 size 0 o hint d a b)
    fun x => [{ va := x.word 0, opnd := [x.word 1 % 2 ^ (8 * 2 ^ size)] }]) ∧
  (∀ k size o hint d a b, Atomic (.amoAnd k size o hint d a b) (amoOp 0x66 size 0 o hint d a b)
    fun x => [{ va := x.word 0, opnd := [x.word 1 % 2 ^ (8 * 2 ^ size)] }]) ∧
  (∀ k size o hint d a b, Atomic (.amoOr k size o hint d a b) (amoOp 0x67 size 0 o hint d a b)
    fun x => [{ va := x.word 0, opnd := [x.word 1 % 2 ^ (8 * 2 ^ size)] }]) ∧
  (∀ k size o hint d a b, Atomic (.amoXor k size o hint d a b) (amoOp 0x68 size 0 o hint d a b)
    fun x => [{ va := x.word 0, opnd := [x.word 1 % 2 ^ (8 * 2 ^ size)] }]) ∧
  (∀ k size o hint d a b, Atomic (.amoSwp k size o hint d a b) (amoOp 0x69 size 0 o hint d a b)
    fun x => [{ va := x.word 0, opnd := [x.word 1 % 2 ^ (8 * 2 ^ size)] }]) ∧
  (∀ k t o hint d a b, Atomic (.amoFadd k t o hint d a b) (amoOp 0x6B (amoSize t) (amoSub t) o hint d a b)
    fun x => [{ va := x.word 0, opnd := [x.word 1 % 2 ^ (8 * 2 ^ amoSize t)] }]) ∧
  (∀ k t o hint d a b, Atomic (.amoFmin k t o hint d a b) (amoOp 0x6C (amoSize t) (amoSub t) o hint d a b)
    fun x => [{ va := x.word 0, opnd := [x.word 1 % 2 ^ (8 * 2 ^ amoSize t)] }]) ∧
  (∀ k t o hint d a b, Atomic (.amoFmax k t o hint d a b) (amoOp 0x6D (amoSize t) (amoSub t) o hint d a b)
    fun x => [{ va := x.word 0, opnd := [x.word 1 % 2 ^ (8 * 2 ^ amoSize t)] }]) ∧
  (∀ k size o hint d a b, Atomic (.amoCas k size o hint d a b) (casOp size o hint d a b)
    fun x => [{ va := x.word 0, opnd := [cutTo size (x.word 2), cutTo size (x.word 1)] }]) ∧
  (∀ k o hint d a b, Atomic (.acas128 k o hint d a b) (acasOp o hint d a b)
    fun x => [{ va := x.word 0, opnd := [x.word 1 + 2 ^ 64 * x.word 2, x.word 3 + 2 ^ 64 * x.word 4] }])

/-- R321, R324, R325: RED, which has no destination and takes no entry of the pending table. -/
def Obligations.ReductionAtomicResults : Prop :=
  (∀ k size o hint a b, Atomic (.redAdd k size o hint a b) (redOp 0x70 size 0 o hint a b)
    fun x => [{ va := x.word 0, opnd := [x.word 1 % 2 ^ (8 * 2 ^ size)] }]) ∧
  (∀ k size o hint a b, Atomic (.redSub k size o hint a b) (redOp 0x71 size 0 o hint a b)
    fun x => [{ va := x.word 0, opnd := [x.word 1 % 2 ^ (8 * 2 ^ size)] }]) ∧
  (∀ k size o hint a b, Atomic (.redMin k size o hint a b) (redOp 0x72 size 0 o hint a b)
    fun x => [{ va := x.word 0, opnd := [x.word 1 % 2 ^ (8 * 2 ^ size)] }]) ∧
  (∀ k size o hint a b, Atomic (.redMax k size o hint a b) (redOp 0x73 size 0 o hint a b)
    fun x => [{ va := x.word 0, opnd := [x.word 1 % 2 ^ (8 * 2 ^ size)] }]) ∧
  (∀ k size o hint a b, Atomic (.redMinu k size o hint a b) (redOp 0x74 size 0 o hint a b)
    fun x => [{ va := x.word 0, opnd := [x.word 1 % 2 ^ (8 * 2 ^ size)] }]) ∧
  (∀ k size o hint a b, Atomic (.redMaxu k size o hint a b) (redOp 0x75 size 0 o hint a b)
    fun x => [{ va := x.word 0, opnd := [x.word 1 % 2 ^ (8 * 2 ^ size)] }]) ∧
  (∀ k size o hint a b, Atomic (.redAnd k size o hint a b) (redOp 0x76 size 0 o hint a b)
    fun x => [{ va := x.word 0, opnd := [x.word 1 % 2 ^ (8 * 2 ^ size)] }]) ∧
  (∀ k size o hint a b, Atomic (.redOr k size o hint a b) (redOp 0x77 size 0 o hint a b)
    fun x => [{ va := x.word 0, opnd := [x.word 1 % 2 ^ (8 * 2 ^ size)] }]) ∧
  (∀ k size o hint a b, Atomic (.redXor k size o hint a b) (redOp 0x78 size 0 o hint a b)
    fun x => [{ va := x.word 0, opnd := [x.word 1 % 2 ^ (8 * 2 ^ size)] }]) ∧
  (∀ k t o hint a b, Atomic (.redFadd k t o hint a b) (redOp 0x79 (amoSize t) (amoSub t) o hint a b)
    fun x => [{ va := x.word 0, opnd := [x.word 1 % 2 ^ (8 * 2 ^ amoSize t)] }]) ∧
  (∀ k t o hint a b, Atomic (.redFmin k t o hint a b) (redOp 0x7A (amoSize t) (amoSub t) o hint a b)
    fun x => [{ va := x.word 0, opnd := [x.word 1 % 2 ^ (8 * 2 ^ amoSize t)] }]) ∧
  (∀ k t o hint a b, Atomic (.redFmax k t o hint a b) (redOp 0x7B (amoSize t) (amoSub t) o hint a b)
    fun x => [{ va := x.word 0, opnd := [x.word 1 % 2 ^ (8 * 2 ^ amoSize t)] }])

/-- R326: VAMO, one operation for each distinct address. That VAMO.SWP runs is the model's reading of R321 (log entry 42). -/
def Obligations.VectorAtomicResults : Prop :=
  (∀ k size o hint d a b, Atomic (.vamoAdd k size o hint d a b) (vamoOp 0x80 size 0 o hint d a b) (laneGroups 0x80 size)) ∧
  (∀ k size o hint d a b, Atomic (.vamoSub k size o hint d a b) (vamoOp 0x81 size 0 o hint d a b) (laneGroups 0x81 size)) ∧
  (∀ k size o hint d a b, Atomic (.vamoMin k size o hint d a b) (vamoOp 0x82 size 0 o hint d a b) (laneGroups 0x82 size)) ∧
  (∀ k size o hint d a b, Atomic (.vamoMax k size o hint d a b) (vamoOp 0x83 size 0 o hint d a b) (laneGroups 0x83 size)) ∧
  (∀ k size o hint d a b, Atomic (.vamoMinu k size o hint d a b) (vamoOp 0x84 size 0 o hint d a b) (laneGroups 0x84 size)) ∧
  (∀ k size o hint d a b, Atomic (.vamoMaxu k size o hint d a b) (vamoOp 0x85 size 0 o hint d a b) (laneGroups 0x85 size)) ∧
  (∀ k size o hint d a b, Atomic (.vamoAnd k size o hint d a b) (vamoOp 0x86 size 0 o hint d a b) (laneGroups 0x86 size)) ∧
  (∀ k size o hint d a b, Atomic (.vamoOr k size o hint d a b) (vamoOp 0x87 size 0 o hint d a b) (laneGroups 0x87 size)) ∧
  (∀ k size o hint d a b, Atomic (.vamoXor k size o hint d a b) (vamoOp 0x88 size 0 o hint d a b) (laneGroups 0x88 size)) ∧
  (∀ k size o hint d a b, Atomic (.vamoSwp k size o hint d a b) (vamoOp 0x89 size 0 o hint d a b) (laneGroups 0x89 size)) ∧
  (∀ k t o hint d a b, Atomic (.vamoFadd k t o hint d a b) (vamoOp 0x8A (amoSize t) (amoSub t) o hint d a b)
    (laneGroups 0x8A (amoSize t))) ∧
  (∀ k t o hint d a b, Atomic (.vamoFmin k t o hint d a b) (vamoOp 0x8B (amoSize t) (amoSub t) o hint d a b)
    (laneGroups 0x8B (amoSize t))) ∧
  (∀ k t o hint d a b, Atomic (.vamoFmax k t o hint d a b) (vamoOp 0x8C (amoSize t) (amoSub t) o hint d a b)
    (laneGroups 0x8C (amoSize t)))

/-! ### The row column (R218 to R240) -/

/-- R223 to R236: the row instructions. The banks are those of the operands, checked by R230. That the data of
ROW.CON, ROW.CON.2 and ROW.PUT stand in their destination from the issue is the model's choice (log entries 12 and 13). -/
def Obligations.RowResults : Prop :=
  (∀ k a b s s1 w bk row cs1, Issues (.rowAct k a b) s s1 w → (focusCs s1).mem.pending.bind (·.act) = none →
    hazard s1 (focusCs s1) .mem (claimsOf (srcRes .mem a ++ srcRes .mem b) []) 1 = false →
    takeSrcs (focusCs s1) .mem [a, b] = some ([{ val := bk }, { val := row }], cs1) →
    rowRangeCheck s1 (focusCs s1) [{ val := bk }, { val := row }] [bk.toNat] row.toNat = none →
    let t := meetBanks (withCs s1 cs1) [bk.toNat]
    bankCheck (coreCycle t) (getBank (focusCs t) bk.toNat) .act = none → recentActs (focusCs t) (coreCycle t) < t.hub.window →
    (getBank (focusCs t) bk.toNat).refreshDue = none → (getBank (focusCs t) bk.toNat).refreshEnd = none →
      GoesTo (.rowAct k a b) s w { s := withCs t (actBank t (focusCs t) bk.toNat row.toNat) }) ∧
  (∀ k a b s s1 w vs bk row cs1, Issues (.rowAct k a b) s s1 w → (focusCs s1).mem.pending.bind (·.act) = some (bk, row) →
    hazard s1 (focusCs s1) .mem (claimsOf (srcRes .mem a ++ srcRes .mem b) []) 1 = false →
    takeSrcs (focusCs s1) .mem [a, b] = some (vs, cs1) →
    let t := meetBanks (withCs s1 cs1) [bk]
    recentActs (focusCs t) (coreCycle t) < t.hub.window →
    (getBank (focusCs t) bk).refreshDue = none → (getBank (focusCs t) bk).refreshEnd = none →
      GoesTo (.rowAct k a b) s w { s := withCs t (actBank t (focusCs t) bk row) }) ∧
  (∀ k d a q s s1 w bk cs1, Issues (.rowCon k d a q) s s1 w → hazard s1 (focusCs s1) .mem (quadClaims [a] d true) 2 = false →
    takeSrcs (focusCs s1) .mem [a] = some ([{ val := bk }], cs1) → rowRangeCheck s1 (focusCs s1) [{ val := bk }] [bk.toNat] 0 = none →
    quadShape (focusCs s1) d q 1 = true →
    let t := meetBanks (withCs s1 cs1) [bk.toNat]
    bankCheck (coreCycle t) (getBank (focusCs t) bk.toNat) .con = none →
      GoesTo (.rowCon k d a q) s w
        { s := withCs t (fillQuad t (focusCs t) d q bk.toNat), lat := 2, claims := quadClaims [a] d true ++ [⟨.bank bk.toNat, false⟩] }) ∧
  (∀ k d a b q s s1 w x y cs1, Issues (.rowCon2 k d a b q) s s1 w → hazard s1 (focusCs s1) .mem (quadClaims [a, b] d true) 2 = false →
    takeSrcs (focusCs s1) .mem [a, b] = some ([{ val := x }, { val := y }], cs1) →
    rowRangeCheck s1 (focusCs s1) [{ val := x }, { val := y }] [x.toNat, y.toNat] 0 = none → quadShape (focusCs s1) d q 2 = true →
    let t := meetBanks (withCs s1 cs1) [x.toNat, y.toNat]
    bankCheck (coreCycle t) (getBank (focusCs t) x.toNat) .con = none → bankCheck (coreCycle t) (getBank (focusCs t) y.toNat) .con = none →
      GoesTo (.rowCon2 k d a b q) s w
        { s := withCs t (fillQuad t (fillQuad t (focusCs t) d q x.toNat) d (q + 1) y.toNat), lat := 2
          claims := quadClaims [a, b] d true ++ [⟨.bank x.toNat, false⟩, ⟨.bank y.toNat, false⟩] }) ∧
  (∀ k d a q s s1 w bk cs1, Issues (.rowPut k d a q) s s1 w → hazard s1 (focusCs s1) .mem (quadClaims [a] d false) 2 = false →
    takeSrcs (focusCs s1) .mem [a] = some ([{ val := bk }], cs1) → rowRangeCheck s1 (focusCs s1) [{ val := bk }] [bk.toNat] 0 = none →
    quadShape (focusCs s1) d q 1 = true → quadTag (focusCs s1) d q = none →
    let t := meetBanks (withCs s1 cs1) [bk.toNat]
    bankCheck (coreCycle t) (getBank (focusCs t) bk.toNat) .put = none →
      GoesTo (.rowPut k d a q) s w
        { s := withCs t (setBank (focusCs t) bk.toNat { getBank (focusCs t) bk.toNat with put := some (quadData (focusCs s1) d q) }), lat := 2
          claims := ⟨.bank bk.toNat, true⟩ :: quadClaims [a] d false }) ∧
  (∀ k a s s1 w bk cs1, Issues (.rowPre k a) s s1 w → hazard s1 (focusCs s1) .mem (claimsOf (srcRes .mem a) []) 1 = false →
    takeSrcs (focusCs s1) .mem [a] = some ([{ val := bk }], cs1) → rowRangeCheck s1 (focusCs s1) [{ val := bk }] [bk.toNat] 0 = none →
    hazard s1 (focusCs s1) .mem [⟨.bank bk.toNat, false⟩] 1 = false →
    let t := meetBanks (withCs s1 cs1) [bk.toNat]
    bankCheck (coreCycle t) (getBank (focusCs t) bk.toNat) .pre = none →
      GoesTo (.rowPre k a) s w { s := preBank t bk.toNat }) ∧
  (∀ k d sel s s1 w cs1, Issues (.rowStat k d sel) s s1 w →
    let t := meetBanks s1 ((focusCs s1).banks.map (·.1))
    SrcsReady t [] d [] cs1 →
      GoesTo (.rowStat k d sel) s w (scalarDone t cs1 d { val := BitVec.ofNat 64 (rowStatValue t (focusCs t) sel) })) ∧
  (∀ k, Plain (.rowWait k) (fun s => rowsComplete s (focusCs s) = true) (fun s => { s := s })) ∧
  (∀ now b, isOpen b = true → bankCheck now b .act = some .rowBusy) ∧
  (∀ now b t, isOpen b = false → b.tPre = some t → (bankCheck now b .act = some .rowEarly ↔ now < t + 12)) ∧
  (∀ now b op, op = .con ∨ op = .put → b.mode = .closed → bankCheck now b op = some .rowClosed) ∧
  (∀ now b op, op = .con ∨ op = .put → b.mode = .lapsedClosed → bankCheck now b op = some .rowLapsed) ∧
  (∀ now b op, op = .con ∨ op = .put → isOpen b = true →
    (bankCheck now b op = none ↔ b.tAct + 14 ≤ now ∧ now < b.leaseEnd) ∧
    (bankCheck now b op = some .rowEarly ↔ now < b.tAct + 14) ∧
    (bankCheck now b op = some .rowLapsed ↔ b.tAct + 14 ≤ now ∧ b.leaseEnd ≤ now)) ∧
  (∀ now b, bankCheck now b .pre = (if isOpen b = true ∧ now < b.tAct + 28 then some .rowEarly else none)) ∧
  (∀ b row now lease, isOpen (openBank b row now lease) = true ∧ (openBank b row now lease).leaseEnd = now + 14 + lease)

/-! ### The sequencer's queue, team and synchronisation instructions -/

/-- R115 to R122, R152: queues, FORK, LAUNCH, WAITCH, EXIT, YIELD, RDID and HINT.REM. That LAUNCH waits for its release before it issues, that WAITCH and EXIT read a tagged operand as its value and that YIELD writes D at issue are the model's choices (log entries 16, 19, 20, 21). -/
def Obligations.TeamInstructionResults : Prop :=
  (∀ k q a, Plain (.qpush k q a)
    (fun s => hazard s (focusCs s) .seq (claimsOf [.sreg .seq a] []) 1 = false ∧ roomSq (focusCs s) (qsOfCode q) = true ∧
      freedNow s (focusCs s) (qsOfCode q) = false)
    (fun s => { s := withCs s (reserveSq (focusCs s) (qsOfCode q) (focusCs s).nextId)
                fills := [.scalar (qsOfCode q) (readReg (focusCs s).seq .seq a)] })) ∧
  (∀ k d x v t, Plain (.qpop k d)
    (fun s => hazard s (focusCs s) .seq (claimsOf [] [.sreg .seq d]) 1 = false ∧ (focusCs s).qr = x :: t ∧ x.val = some v)
    (fun s => { s := withCs s (setReg { focusCs s with qr := t } .seq d v) })) ∧
  (∀ k eng sem a slot line, Plain (.fork k eng sem a slot line)
    (fun s => hazard s (focusCs s) .seq (claimsOf [.sreg .seq a] []) 1 = false ∧ ((focusCs s).stream (engOfCode eng)).active = false ∧
      roomSq (focusCs s) (qsName (engOfCode eng)) = true)
    (fun s => { s := withCs s ((reserveSq (focusCs s) (qsName (engOfCode eng)) (focusCs s).nextId).setStream (engOfCode eng)
                  (startStream ((focusCs s).stream (engOfCode eng)) sem line slot (residence s (focusCs s))))
                fills := [.scalar (qsName (engOfCode eng)) (readReg (focusCs s).seq .seq a)] })) ∧
  (∀ k eng sem a slot line, PlainTraps (.fork k eng sem a slot line)
    (fun s => hazard s (focusCs s) .seq (claimsOf [.sreg .seq a] []) 1 = false ∧ ((focusCs s).stream (engOfCode eng)).active = true)
    { trap := .forkActive }) ∧
  (∀ k d a va, Plain (.launch k d a)
    (fun s => hazard s (focusCs s) .seq (claimsOf [.sreg .seq a] [.sreg .seq d]) 1 = false ∧ depthOf s (focusCs s) ≠ 9 ∧
      readReg (focusCs s).seq .seq a = { val := va } ∧ va.toNat % 64 = 0 ∧ (focusCs s).children.length < 256 ∧ seqReleased s s.focusCore = true)
    (fun s =>
      let p : Access := { id := (focusCs s).nextId, eng := .seq, store := false, flight := (focusCs s).nextId, asid := asidOf s (focusCs s),
                          issuedAt := coreCycle s, dst := .launch d, pieces := piecesOf [⟨va.toNat, 64, 0⟩] }
      { s := withCs s { focusCs s with accesses := (focusCs s).accesses ++ [p] }, openEnd := true
        claims := claimsOf [.sreg .seq a] [.sreg .seq d] })) ∧
  (∀ k d a, Plain (.waitch k d a)
    (fun s => hazard s (focusCs s) .seq (claimsOf [.sreg .seq a] [.sreg .seq d]) 1 = false ∧
      ((readReg (focusCs s).seq .seq a).val = 0 ∨ ∃ x ∈ (focusCs s).children, x.id = (readReg (focusCs s).seq .seq a).val.toNat))
    (fun s => { s := s, flow := .wait (.waitch d (readReg (focusCs s).seq .seq a).val.toNat) })) ∧
  (∀ k a, Plain (.exit k a)
    (fun s => hazard s (focusCs s) .seq (claimsOf [.sreg .seq a] []) 1 = false ∧ (focusCs s).mem.active = false ∧
      (focusCs s).vec.active = false ∧ (focusCs s).mtx.active = false)
    (fun s => { s := s, flow := .wait (.exit (readReg (focusCs s).seq .seq a).val) })) ∧
  (∀ k d o, Plain (.yield k d)
    (fun s => hazard s (focusCs s) .seq (claimsOf [] [.sreg .seq d]) 1 = false ∧ (focusCs s).occ = some o)
    (fun s =>
      if ((getGang s o.launch o.gang).map (·.swap)).getD false = false ∧ couldYield s ⟨o.launch, o.gang⟩ = true
      then { s := beginSwap (withCs s (setReg (focusCs s) .seq d { val := 1 })) o.launch o.gang 0 false }
      else { s := withCs s (setReg (focusCs s) .seq d { val := 0 }) })) ∧
  (∀ k d sel s s1 w cs1, Issues (.rdid k d sel) s s1 w → SrcsReady s1 [] (.reg d) [] cs1 →
    GoesTo (.rdid k d sel) s w (scalarDone s1 cs1 (.reg d) { val := BitVec.ofNat 64 (rdidValue s1 sel) })) ∧
  (∀ k a, Uses (.hintRem k a) (.reg a) (fun _ _ _ => True) (fun s cs v =>
    { s := if isPaired s cs then setEst (setEst (withCs s cs) s.focusCore v.toNat) (pairOf s.focusCore) v.toNat
           else setEst (withCs s cs) s.focusCore v.toNat }))

/-- R291 to R301, R347, R358, R359: barriers, watches and copy-queue instructions. That releases come before the issue and that WATCH translates at issue are the model's choices (log entries 16, 17, 19). -/
def Obligations.SynchronisationResults : Prop :=
  (∀ k d bar n tok, Plain (.cba k d bar n)
    (fun s => hazard s (focusCs s) .seq (claimsOf [] [.sreg .seq d]) 1 = false ∧ inBarrierGang s (focusCs s) = true ∧
      seqReleased s s.focusCore = true ∧ (arriveCb (getCb s (focusCs s) bar) n (coreCycle s)).2 = some tok)
    (fun s => { s := withCs (setCb s (focusCs s) bar (arriveCb (getCb s (focusCs s) bar) n (coreCycle s)).1)
                  (setReg (focusCs s) .seq d { val := tok }) })) ∧
  (∀ k d a bar tok, Plain (.cbw k d a bar)
    (fun s => hazard s (focusCs s) .seq (claimsOf [.sreg .seq a] [.sreg .seq d]) 1 = false ∧ inBarrierGang s (focusCs s) = true ∧
      readReg (focusCs s).seq .seq a = { val := tok })
    (fun s => if cbwReady s (focusCs s) bar (tok.getLsbD 0) (tok.getLsbD 1) then { s := withCs s (cbwEnd s (focusCs s) d bar (tok.getLsbD 1)) }
      else { s := s, flow := .wait (.cbw d bar (tok.getLsbD 0) (tok.getLsbD 1)) })) ∧
  (∀ k d o g, Plain (.gbar k d)
    (fun s => hazard s (focusCs s) .seq (claimsOf [] [.sreg .seq d]) 1 = false ∧ (focusCs s).seq.arrived = false ∧
      seqReleased s s.focusCore = true ∧ (focusCs s).occ = some o ∧ getGang s o.launch o.gang = some g)
    (fun s => { s := setGang s o.launch o.gang { g with gbar := g.gbar ++ [(o.team, o.half)] }, flow := .wait (.gbar d) })) ∧
  (∀ k a va asid x h, Plain (.watch k a)
    (fun s => hazard s (focusCs s) .seq (claimsOf [.sreg .seq a] []) 1 = false ∧ readReg (focusCs s).seq .seq a = { val := va } ∧
      va.toNat % 8 = 0 ∧ resolve s (asidOf s (focusCs s)) va.toNat .load = .ok (asid, x, h))
    (fun s => { s := armWatch (tlbAdd s asid va.toNat x) s.focusCore (asidOf s (focusCs s)) va.toNat })) ∧
  (∀ k d a t, Plain (.mwait k d a)
    (fun s => hazard s (focusCs s) .seq (claimsOf [.sreg .seq a] [.sreg .seq d]) 1 = false ∧ readReg (focusCs s).seq .seq a = { val := t } ∧
      (focusCs s).overflow = false ∧ (focusCs s).watch.isSome = true)
    (fun s => { s := withCs s { focusCs s with deadline := mwaitDeadline s (focusCs s) t.toNat }, flow := .wait (.mwait d) })) ∧
  (∀ k d a t, Plain (.mwait k d a)
    (fun s => hazard s (focusCs s) .seq (claimsOf [.sreg .seq a] [.sreg .seq d]) 1 = false ∧ readReg (focusCs s).seq .seq a = { val := t } ∧
      ((focusCs s).overflow = true ∨ (focusCs s).watch = none) ∧ loadsDone (focusCs s) .seq = true)
    (fun s => { s := withCs s (mwaitEnd (focusCs s) d (if (focusCs s).overflow then 2 else 0)) })) ∧
  (∀ k q a post va, Plain (.cqPut k q a post)
    (fun s => hazard s (focusCs s) .seq (claimsOf [.sreg .seq a] []) 1 = false ∧ readReg (focusCs s).seq .seq a = { val := va } ∧
      va.toNat % 64 = 0 ∧ seqReleased s s.focusCore = true ∧ (getCq (focusCs s) q).length < 32)
    (fun s =>
      let p : Access := { id := (focusCs s).nextId, eng := .seq, store := false, flight := (focusCs s).nextId, asid := asidOf s (focusCs s),
                          issuedAt := coreCycle s, dst := .cqDesc q false post, pieces := piecesOf [⟨va.toNat, 64, 0⟩] }
      { s := withCs s { focusCs s with accesses := (focusCs s).accesses ++ [p] }, openEnd := true, claims := claimsOf [.sreg .seq a] [] })) ∧
  (∀ k q a post va, Plain (.cqMcast k q a post)
    (fun s => hazard s (focusCs s) .seq (claimsOf [.sreg .seq a] []) 1 = false ∧ readReg (focusCs s).seq .seq a = { val := va } ∧
      va.toNat % 64 = 0 ∧ seqReleased s s.focusCore = true ∧ (getCq (focusCs s) q).length < 32)
    (fun s =>
      let p : Access := { id := (focusCs s).nextId, eng := .seq, store := false, flight := (focusCs s).nextId, asid := asidOf s (focusCs s),
                          issuedAt := coreCycle s, dst := .cqDesc q true post, pieces := piecesOf [⟨va.toNat, 64, 0⟩] }
      { s := withCs s { focusCs s with accesses := (focusCs s).accesses ++ [p] }, openEnd := true, claims := claimsOf [.sreg .seq a] [] })) ∧
  (∀ k q mask post, Plain (.cqFence k q mask post) (fun s => (getCq (focusCs s) q).length < 32)
    (fun s => { s := withCs s (appendCq (focusCs s) q { kind := .fence, seqNo := 0, post := post, waits := fenceWaits (focusCs s) mask }) }))

/-! ### Events of memory and of the registry -/

/-- R60, R159, R243, R247, R250, R259, R267, R272, R278, R411: retirement, code lines, clearing, return, fills and deliveries. It rests on the model's choices in log entries 12, 13, 25, 34, 35, 38, 67 and 70 to 72. -/
def Obligations.MemoryEventResults : Prop :=
  (∀ c e s f, let s1 := postsTo (coreCycle s - 1) s c; dueFlight s1 c e = some f → Happens (.retire c e) s (retireFlight s1 c f)) ∧
  (∀ c e s line slot x s1 s' bs, ((getCore s c).stream e).pc = .pos line slot → runnable s c e = true → mget ((getCore s c).imem e) line = none →
    (∀ n, codeLines s (getCore s c) = some n → line < n) →
    let va := ((launchOf s (getCore s c)).map (·.codeBase)).getD 0 + 64 * line
    (∀ p, vaClass s va ≠ .remote p) →
    (∀ a b, reach s (asidOf s (getCore s c)) va .fetch = .ok (s1, x, .dram a b) → codeBytes s1 c (asidOf s (getCore s c)) va x = .ok (s', bs) →
      Happens (.lineFetch c e) s (setCore s' c (putCode (getCore s' c) e line bs))) ∧
    (reach s (asidOf s (getCore s c)) va .fetch = .ok (s1, x, .host) → hostAsk s (codeAskOf ((getCore s c).stream e) va) = .here →
      Happens (.lineFetch c e) s (setCore { s1 with fresh := s1.fresh + 1 } c (putCode (getCore s1 c) e line (hostLine s1 x.pa))))) ∧
  (∀ c id s a xs, findAccess s c id = some a → a.cleared = false → a.issuedAt < coreCycle s → (getCore s c).occ.isSome = true →
    a.checked = false → a.store = false → seqFirst s c a = false → a.pieces.any (partHeld s c a) = false →
    placesOf s (getCore s c) a a.pieces = .ok xs → prefGone a xs = false →
      let r := settleAll c a (a.pieces.zip xs) s
      Happens (.accessClear c id) s (afterClear (setCore r.1 c (putAccess (getCore r.1 c) { a with checked := true, pieces := r.2 })) c id)) ∧
  (∀ c id s a xs, findAccess s c id = some a → a.cleared = false → a.issuedAt < coreCycle s → (getCore s c).occ.isSome = true →
    a.checked = false → a.store = true → a.ops = [] → seqFirst s c a = false → a.pieces.any (partHeld s c a) = false →
    placesOf s (getCore s c) a a.pieces = .ok xs → prefGone a xs = false →
      let r := settleAll c a (a.pieces.zip xs) s
      let q := awayStore r.1 c a r.2
      Happens (.accessClear c id) s (afterClear (setCore r.1 c (putAccess (getCore r.1 c) { a with checked := true, pieces := q.1, ops := q.2 })) c id)) ∧
  (∀ c id s a, findAccess s c id = some a → a.store = false → a.pref = false → a.ops = [] → a.cleared = true →
    (∀ p ∈ (getCore s c).pend, p.flight ≠ a.flight) → (∀ p ∈ a.pieces, p.st = .done) →
      Happens (.loadReturn c id) s (loadEnds (setCore s c (putAccess (getCore s c) a)) c a a.pieces)) ∧
  (∀ key s st hint pa perm, lineWaiter s key = some (st, hint, pa, perm) → getLine s key = none →
    Happens (.llcFill key) s (fillLine s key pa perm hint st)) ∧
  (∀ s, s.hub.migEnd + s.hub.migInterval.toNat * usec ≤ s.time →
    Happens .migIntervalExpiry s (migSweep { s with hub := { s.hub with
      migEnd := s.hub.migEnd + s.hub.migInterval.toNat * usec
      migRegions := s.hub.migRegions.map fun r => { r with counts := r.counts.map (· / 2) } } })) ∧
  (∀ t s from' off d rest, (getCore s t).rspIn = (from', off, d) :: rest → (getCore s t).occ.isSome = true →
    Happens (.incomingRspStWrite t) s (setCore s t (spmWrite { getCore s t with rspIn := rest } off (vecBytes d.toNat 512)))) ∧
  (∀ c id s a, findAccess s c id = some a → a.store = true → a.cleared = false → s.fw.linkUp = true →
    hostInTime s a = true → (∃ p ∈ a.pieces, (hostPart p).isSome) →
    (∀ b ∈ (getCore s c).accesses.takeWhile fun b => b.id != id, apertureBefore b = false) →
      let out := a.pieces.filterMap fun p => (hostPart p).map fun pa => (pa, p.data)
      let ps := a.pieces.map fun p => if (hostPart p).isSome then { p with st := .done } else p
      let s' := { s with fw := { s.fw with hostOut := out.reverse ++ s.fw.hostOut } }
      Happens (.apertureStoreDelivered c id) s (afterClear (setCore s' c (putAccess (getCore s c) { a with pieces := ps })) c id)) ∧
  (∀ c id s a va pa, findAccess s c id = some a → (a.pieces.findSome? fun p => (hostPart p).map fun pa => (p.va, pa)) = some (va, pa) →
    2 * a.issuedAt + 50 * msec ≤ s.time → isSpec a.dst = false →
      Happens (.slateTimeout c id) s (logHub (faultAccess s c a { trap := .busError, addr := BitVec.ofNat 64 va })
        0x0811 [(8, pa), (1, if a.store then 1 else 0)]))

/-- R338 to R342, R349, R442: the registry's requests, revocations, forwards, write-backs and answers. It rests on the model's choices in log entries 26, 28, 38 and 72. -/
def Obligations.RegistryEventResults : Prop :=
  (∀ c id part s a p s', pieceAt s c id part = some (a, p) → a.store = true → a.cleared = true → p.st = .idle → p.route = .cached →
    (p.ent = true ∨ mseGrant (getCore s c) (id, lineBase p.va) = true) → wbPending (getCore s c) (keyOf s a.asid p.va) = false →
    (∀ x ∈ a.pieces.take part, ¬(x.route = .cached ∧ x.st = .idle)) → ownsPiece (getCore s c) (keyOf s a.asid p.va) p = false →
    submitReq (setCore s c (setPiece (askEntry (getCore s c) (id, lineBase p.va)) id part fun p => { p with st := .sent, ent := true }))
      (keyOf s a.asid p.va) (.store c id part (a.hint != 3)) = some s' → Happens (.coreStoreRequest c id part) s s') ∧
  (∀ c id part s a p s', pieceAt s c id part = some (a, p) → a.store = false → a.cleared = true → p.st = .idle → p.route = .cached →
    (p.ent = true ∨ mseGrant (getCore s c) (id, lineBase p.va) = true) → wbPending (getCore s c) (keyOf s a.asid p.va) = false →
    (∀ x ∈ a.pieces.take part, ¬(x.route = .cached ∧ x.st = .idle)) →
    submitReq (setCore s c (setPiece (askEntry (getCore s c) (id, lineBase p.va)) id part fun p => { p with st := .sent, ent := true }))
      (keyOf s a.asid p.va) (.read c id part a.hint) = some s' → Happens (.coreReadRequest c id part) s s') ∧
  (∀ c k ws s x, nextMsg (getCore s c) k = some (.revoke k ws) → findL1 (dropMsg (getCore s c) (.revoke k ws)) k = some x →
    let cs := putL1 (dropMsg (getCore s c) (.revoke k ws)) { x with owned := x.owned &&& ~~~(x.owned &&& ws) }
    Happens (.revocation c k) s (setCore s c { cs with rvkOut := cs.rvkOut ++
      [{ key := k, words := x.owned &&& ws, data := x.data, poison := x.poison &&& bytesOf (x.owned &&& ws) }] })) ∧
  (∀ c k s w l, let s0 := linkWoke s c
    stackLate s (c / 48) = false → firstOut (getCore s0 c).rvkOut k = some w → getLine s0 k = some l → wbPending (getCore s0 c) k = false → answersFirst s0 l = true →
    c ∉ l.stale →
      Happens (.revocationAnswer c k) s
        (answered (setCore s0 c { getCore s0 c with rvkOut := (getCore s0 c).rvkOut.erase w }) (acceptWords l c w) c)) ∧
  (∀ c k ws s x, nextMsg (getCore s c) k = some (.forward k ws) → findL1 (dropMsg (getCore s c) (.forward k ws)) k = some x →
    let cs := dropMsg (getCore s c) (.forward k ws)
    Happens (.forwardRequest c k) s (setCore s c { cs with fwdOut := cs.fwdOut ++
      [{ key := k, words := x.owned &&& ws, data := x.data, poison := x.poison &&& bytesOf (x.owned &&& ws) }] })) ∧
  (∀ c k s w l, let s0 := linkWoke s c
    stackLate s (c / 48) = false → firstOut (getCore s0 c).fwdOut k = some w → getLine s0 k = some l → wbPending (getCore s0 c) k = false → answersFirst s0 l = true →
      Happens (.forwardAnswer c k) s
        (answered (setCore s0 c { getCore s0 c with fwdOut := (getCore s0 c).fwdOut.erase w })
          { l with fwdData := mergeData l.fwdData w.data (bytesOf w.words), fwdBad := mergeBad l.fwdBad w.poison (bytesOf w.words)
                   fwdWords := l.fwdWords ||| w.words } c)) ∧
  (∀ c k s w l, let s0 := linkWoke s c
    stackLate s (c / 48) = false → firstOut (getCore s0 c).wbOut k = some w → getLine s0 k = some l → answersFirst s0 l = true → revoking l c = none →
      let cs := { getCore s0 c with wbOut := (getCore s0 c).wbOut.map fun v => if v = w then { v with taken := true } else v }
      Happens (.writeBack c k) s (sendMsg (putLine (setCore s0 c cs) (acceptWords l c w)) c (.wbAck k w.words))) ∧
  (∀ c k s, c < 384 → stackLate s (c / 48) = true → unitState s (c / 48) ≠ .absent → unitState s (c / 48) ≠ .lost →
    Happens (.revocationAnswer c k) s (loseStack (c / 48) s) ∧ Happens (.forwardAnswer c k) s (loseStack (c / 48) s) ∧
    Happens (.writeBack c k) s (loseStack (c / 48) s)) ∧
  (∀ c k s m w, ((getCore s c).inbox.find? fun m => !m.ordered && m.key == k) = some m →
    ((getCore s c).wbOut.find? fun w => w.key == k && w.taken) = some w → w.cwb = none →
      Happens (.writeBackAck c k) s (setCore s c { dropMsg (getCore s c) m with wbOut := (getCore s c).wbOut.erase w })) ∧
  (∀ c k ws acc part d bad s a p x, nextMsg (getCore s c) k = some (.registered k ws acc part d bad true) →
    pieceAt s c acc part = some (a, p) → lineHeld s k = false →
    x = mergeLine s (dropMsg (getCore s c) (.registered k ws acc part d bad true)) k a part p →
      Happens (.registrationAnswer c k) s
        (settleTemp (setCore s c (dropDone (setPiece (putL1 (dropMsg (getCore s c) (.registered k ws acc part d bad true)) (mergeStore x ws d bad p))
          acc part fun p => { p with st := .done }))) k)) ∧
  (∀ c k ws acc part d bad s a p, nextMsg (getCore s c) k = some (.registered k ws acc part d bad false) → pieceAt s c acc part = some (a, p) →
    lineHeld s k = false →
    Happens (.registrationAnswer c k) s
      (settleTemp (setCore s c (dropDone (setPiece (dropWords (dropMsg (getCore s c) (.registered k ws acc part d bad false)) k (pieceWords p))
        acc part fun p => { p with st := .done }))) k)) ∧
  (∀ key s s', s.fw.linkUp = true → s.fw.slate = true → key.asid = 0 → key.va % 128 = 0 → vaClass s key.va = .window →
    let pa := key.va - winBase s.pkg
    isDram (paKind s pa) = true → submitReq (windowLine s key pa) key .hostShared = some s' → Happens (.hostReadShared key) s s') ∧
  (∀ key s s', s.fw.linkUp = true → s.fw.slate = true → key.asid = 0 → key.va % 128 = 0 → vaClass s key.va = .window →
    let pa := key.va - winBase s.pkg
    isDram (paKind s pa) = true → submitReq (windowLine s key pa) key .hostExclusive = some s' → Happens (.hostReadExclusive key) s s') ∧
  (∀ key d s l, getLine s key = some l → l.host ≠ .hi → l.host ≠ .hs → answersFirst s l = true → l.st = .stable →
    Happens (.hostWriteBack key d) s (wakeWatches (putLine s (hostData l d)) key (BitVec.allOnes 128))) ∧
  (∀ key s l req, getLine s key = some l → l.st = .hsi req →
    Happens (.hostSnoopAnswer key none) s (resumeReq (putLine s { l with host := .hi }) key req)) ∧
  (∀ key s l req, getLine s key = some l → l.st = .hrc req → l.since + 2 * msec ≤ s.time → l.host ≠ .hs →
    Happens (.slateRecallLost key) s
      (logHub (resumeReq (putLine s { l with host := .hi, poison := BitVec.allOnes 128 }) key req) 0x0802 [(8, l.pa), (4, 2 ^ 32 - 1)]))

/-! ### Events that end waits, and events of rows and engines -/

/-- R118, R294, R296, R300, R345: how a waiting instruction completes. -/
def Obligations.WaitCompletionResults : Prop :=
  (∀ c s d r, waitOf s c .seq = some (.mwait d) → (getCore s c).watch = some r → r.wake = true → loadsDone (getCore s c) .seq = true →
    Happens (.mwaitWake c) s (completeWait (setCore s c (mwaitEnd (getCore s c) d 0)) c .seq)) ∧
  (∀ c s d t, waitOf s c .seq = some (.mwait d) → (getCore s c).deadline = some t → t ≤ s.time →
    (∀ r, (getCore s c).watch = some r → r.wake = false) → loadsDone (getCore s c) .seq = true →
      Happens (.mwaitTimeout c) s (completeWait (setCore s c (mwaitEnd (getCore s c) d 1)) c .seq)) ∧
  (∀ c s d bar phase, waitOf s c .seq = some (.cbw d bar phase false) → loadsDone (getCore s c) .seq = true →
    let b := getCb s (getCore s c) bar
    b.phase ≠ phase → b.doneAt < coreCycle s →
      Happens (.cbwComplete c) s
        (completeWait (setCore s c (acquire (setReg (getCore s c) .seq d { val := if b.err then 1 else 0 }))) c .seq)) ∧
  (∀ c s d bar phase, waitOf s c .seq = some (.cbw d bar phase true) → loadsDone (getCore s c) .seq = true →
    Happens (.cbwComplete c) s (completeWait (setCore s c (acquire (setReg (getCore s c) .seq d { val := 1 }))) c .seq)) ∧
  (∀ l g s gang, getGang s l g = some gang → gang.gbar ≠ [] → (barParts s l g gang).all gang.gbar.contains = true →
    let rel := gang.gbarRel ++ gang.gbar
    let ready := rel.filter fun p => (gbarCore s gang p).isSome
    Happens (.gbarPhaseComplete l g) s ((ready.filterMap (gbarCore s gang)).foldl gbarDone
      (setGang s l g { gang with gbar := [], gbarRel := rel.filter fun p => !ready.contains p }))) ∧
  (∀ c s d child, waitOf s c .seq = some (.waitch d child) → (∀ x ∈ awaited (getCore s c) child, x.retired = true) →
    loadsDone (getCore s c) .seq = true →
      let cs1 := setReg (getCore s c) .seq d { val := BitVec.ofNat 64 (waitchValue (getCore s c) child) }
      let cs2 := { cs1 with children := (getCore s c).children.filter fun x => !(child == 0 || x.id == child) }
      Happens (.waitchComplete c) s (completeWait (setCore s c (acquire cs2)) c .seq)) ∧
  (∀ c s, waitOf s c .mem = some .fenceAcq → loadsDone (getCore s c) .mem = true →
    Happens (.fenceComplete c) s (completeWait (setCore s c (acquire (getCore s c))) c .mem)) ∧
  (∀ c s, waitOf s c .mem = some .fenceRel →
    performed s (getCore s c) .mem = true → rspDone s c = true → released (getCore s c) = true →
      Happens (.fenceComplete c) s (completeWait (setCore s c (getCore s c)) c .mem))

/-- R15, R59, R225 to R228, R237, R417, R419, R420, R423: rows, refresh, heat, the power manager's settings, and errors in a core's storage. The refresh phase is the model's choice, and so is
that a bank stays lapsed-closed through the refresh that follows (log entries 22 and 64). -/
def Obligations.RowAndErrorEventResults : Prop :=
  (∀ c bank s j, ((getCore s c).rowJobs.find? fun j => j.act == true && j.bank == bank && j.ends < coreCycle s) = some j →
    let cs := { getCore s c with rowJobs := (getCore s c).rowJobs.erase j }
    ((getBank cs bank).mode = .openNotReady → (getBank cs bank).tAct + 13 ≤ j.ends →
      Happens (.rowActComplete c bank) s (setCore s c (setBank cs bank { getBank cs bank with mode := .openReady }))) ∧
    ((getBank cs bank).mode ≠ .openNotReady → Happens (.rowActComplete c bank) s (setCore s c cs))) ∧
  (∀ c bank s j, ((getCore s c).rowJobs.find? fun j => j.act == false && j.bank == bank && j.ends < coreCycle s) = some j →
    Happens (.rowPreComplete c bank) s (setCore s c { getCore s c with rowJobs := (getCore s c).rowJobs.erase j })) ∧
  (∀ c bank s, let b := getBank (getCore s c) bank
    isOpen b = true → b.leaseRun = true → b.leaseEnd ≤ coreCycle s →
      let s1 := setCore s c (setBank (getCore s c) bank { b with leaseRun := false })
      Happens (.leaseExpiry c bank) s (refreshGo c bank s1) ∧ (b.refreshDue = none → refreshGo c bank s1 = s1)) ∧
  (∀ c bank s d, (getBank (getCore s c) bank).dueAt = some d → d ≤ coreCycle s →
    let b := { getBank (getCore s c) bank with dueAt := some (intervalEnd s c d) }
    (rowMode s c (bank / 8) = none → Happens (.refreshDue c bank) s (setCore s c (setBank (getCore s c) bank b))) ∧
    (rowMode s c (bank / 8) ≠ none →
      Happens (.refreshDue c bank) s (refreshGo c bank (setCore s c (setBank (getCore s c) bank { b with refreshDue := some (b.refreshDue.getD d) }))))) ∧
  (∀ c bank s d, let b := getBank (getCore s c) bank
    let t := max d ((b.tClose.map (· + 12)).getD 0)
    b.refreshDue = some d → isOpen b = false → b.refreshEnd = none → t ≤ coreCycle s →
      Happens (.refreshStart c bank) s (setCore s c (setBank (getCore s c) bank { b with refreshDue := none, refreshEnd := some (t + 176) }))) ∧
  (∀ c bank s t, (getBank (getCore s c) bank).refreshEnd = some t → t ≤ coreCycle s →
    Happens (.refreshEnd c bank) s (setCore s c (setBank (getCore s c) bank { getBank (getCore s c) bank with refreshEnd := none }))) ∧
  (∀ k s, k < 8 → (stackUnit s k).hot = false → Happens (.tempHot k) s (setStack s k { stackUnit s k with hot := true, hotLog := (coreCycle s, true) :: (stackUnit s k).hotLog })) ∧
  (∀ k s, k < 8 → (stackUnit s k).hot = true → Happens (.tempNormal k) s (setStack s k { stackUnit s k with hot := false, hotLog := (coreCycle s, false) :: (stackUnit s k).hotLog })) ∧
  (∀ w s, 1 ≤ w → w ≤ 12 → Happens (.activationWindowSet w) s { s with hub := { s.hub with window := w } }) ∧
  (∀ n s, n ≤ 255 → Happens (.matrixIssueGapSet n) s { s with hub := { s.hub with gap := n } }) ∧
  (∀ c t r s, t < 16 → r < 128 →
    let s1 := usedFresh (setCore s c (writeTile (getCore s c) t r
      { data := BitVec.ofNat 4096 (struck s 4096), tag := some .memory }))
    (mmaReads (getCore s c) t r = false → Happens (.tileEccError c (.tileRow t r)) s s1) ∧
    (mmaReads (getCore s c) t r = true → mmaEnds s1 c = false → Happens (.tileEccError c (.tileRow t r)) s (poisonAbandon s1 c))) ∧
  (∀ c a r g s, a < 3 → r < 128 → g < 64 →
    Happens (.tileEccError c (.accGran a r g)) s
      (usedFresh (setCore s c (writeV (getCore s c) (128 * a + r) (poisonGran (struck s 64) (accRow (getCore s c) a r) g))))) ∧
  (∀ c e n s, n ≤ lastScalar e → isZeroReg e n = false →
    Happens (.registerUncorrectableError c (.scalar e n)) s
      (usedFresh (setCore s c (setReg (getCore s c) e n (strikeS s (readReg ((getCore s c).stream e) e n)))))) ∧
  (∀ c r g s, r < 384 → g < 64 →
    Happens (.registerUncorrectableError c (.vgran r g)) s
      (usedFresh (setCore s c (writeV (getCore s c) r (poisonGran (struck s 64) (readV (getCore s c) r) g))))) ∧
  (∀ c n s, 1 ≤ n → n < 16 →
    Happens (.registerUncorrectableError c (.mask n)) s
      (usedFresh (setCore s c (writeMask (getCore s c) n
        { bits := BitVec.ofNat 512 (struck s 512), tag := some .memory })))) ∧
  (∀ c s, (getCore s c).occ.isSome = true → (getCore s c).run ≠ .stopped → Happens (.stateEcc c) s (teamEvent s c .seq .stateEcc))

/-! ### Events of teams -/

/-- R98, R100, R103, R104, R240, R366, R367, R369, R380, R381, R396: how a team starts, stops, is saved, is restored, and retires. It rests on the model's choices in log entries 8, 39, 40, 63, 64 and 71. -/
def Obligations.TeamEventResults : Prop :=
  (∀ c s s1 l g t x tm v, nextTeam s c = some (l, g, t) → getLaunch s l = some x → getTeam s l g t = some tm → x.var = some v →
    tm.started = false → tm.st = .placed c → (∀ y ∈ teamCores x.pkt.paired c, vacant s y = true) → inDueOrder s (c / 48) (placedDue s c) = true →
    shardInWay s x l v.bgmask (teamCores x.pkt.paired c) = false → allotTeam l v.bgmask (teamCores x.pkt.paired c) s = .ok s1 →
      let s2 := (teamCores x.pkt.paired c).foldl (fun s y => setCore s y (freshCore s y ⟨l, g, t, if y = c then 0 else 1⟩ x v)) (restoreBars (takeRun s1 c) l g)
      let s3 := (List.range (teamCores x.pkt.paired c).length).foldl (fun s h => reserveArea s ⟨l, g, t, h⟩ c v.bgmask) s2
      Happens (.teamStart c) s (teamResident s3 l g t c)) ∧
  (∀ c s l g t x tm, nextTeam s c = some (l, g, t) → getLaunch s l = some x → getTeam s l g t = some tm →
    tm.started = true → tm.st = .placed c → tm.stopped = false → (∀ y ∈ teamCores x.pkt.paired c, vacant s y = true) →
    inDueOrder s (c / 48) (placedDue s c) = true →
      let rs := teamRecords s l g t (teamCores x.pkt.paired c)
      (rs.all (fun p => p.2.any recordOk) = false → Happens (.contextRestore c) s (killLaunch s l (trapCode .ctxBad))) ∧
      (rs.all (fun p => p.2.any recordOk) = true → Happens (.contextRestore c) s
        (teamResident (restoreTeam (takeRun s c) l g t rs) l g t c))) ∧
  (∀ c s t, (getCore s c).restartAt = some t → t ≤ coreCycle s →
    Happens (.streamRestart c) s (((teamCores (isPaired s (getCore s c)) c).filter fun y => (getCore s y).restartAt.isSome).foldl
      (fun s y => setCore s y (restarted (getCore s y) (coreCycle s) (leaseNow s y))) s)) ∧
  (∀ c s t, (getCore s c).restartAt = some t → coreCycle s < t → Stays (.streamRestart c) s) ∧
  (∀ c s o x, (getCore s c).occ = some o → getGang s o.launch o.gang = some x → x.swap = true → gangRspDone s o = true →
    inDueOrder s (c / 48) (saveDue s c) = true →
    ((getCore s c).run = .stopped → Happens (.contextSave c) s (freeSaved s c o)) ∧
    ((getCore s c).run ≠ .stopped → (getCore s c).event = true → onlyPreempt s c = true → saveReady s c = true →
      Happens (.contextSave c) s (freeSaved (recordCore (cutCore s c) c o 1) c o))) ∧
  (∀ c s o, (getCore s c).occ = some o → o.half = 0 →
    let cores := teamCores (isPaired s (getCore s c)) c
    (∀ y ∈ cores, isDraining (getCore s y).run = true ∧ saveReady s y = true ∧
      ((getCore s y).event = true ∨ drained s (getCore s y) = true ∨ ∀ e, atRest s (getStream s y e) = true)) →
    (∃ y ∈ cores, onlyPreempt s y = false) →
      Happens (.teamStop c) s (updTeam (cores.foldl stopCore s) o.launch o.gang o.team fun t => { t with stopped := true })) ∧
  (∀ c s t, (getCore s c).run = .draining t → t + 4096 ≤ coreCycle s → (getCore s c).event = false →
    Happens (.trapDrainLimit c) s
      ((teamCores (isPaired s (getCore s c)) c).foldl (fun s y => setCore s y (stopEngines s (getCore s y))) s)) ∧
  (∀ c e s, (getCore s c).occ.isSome = true → (getCore s c).run ≠ .stopped →
    ((getCore s c).event = false ∨ (getCore s c).stoppedAt = some (coreCycle s)) → (getCore s c).restartAt = none → gangTogether s (getCore s c) = true →
    let st := (getCore s c).stream e
    st.active = true → watchExempt st = false → st.lastIssue + s.disp.wdog ≤ residence s (getCore s c) →
      Happens (.watchdog c e) s (teamEvent s c e .watchdog)) ∧
  (∀ l g t s x tm c v, getLaunch s l = some x → getTeam s l g t = some tm → tm.st = .resident c → x.pkt.paired = false →
    (getCore s c).exitStatus = none → (getCore s c).occ = some ⟨l, g, t, 0⟩ → exitReady s c ⟨l, g, t, 0⟩ = some v →
      let s1 := exitCore s c ⟨l, g, t, 0⟩ v
      exited s1 c ⟨l, g, t, 0⟩ = some v →
        let s2 := callRound (freeAreas s1 fun o => o.launch == l && o.gang == g && o.team == t && o != ⟨l, 0, 0, 0⟩)
        Happens (.teamRetire l g t) s (endSwap (updTeam (setCore s2 c (vacate (getCore s2 c))) l g t
          fun t => { t with st := .exited (teamStatus [v]), stopped := false }) l g)) ∧
  (∀ l g t s x tm c v, getLaunch s l = some x → getTeam s l g t = some tm → tm.st = .resident c → x.pkt.paired = true →
    (getCore s c).exitStatus = none → (getCore s c).occ = some ⟨l, g, t, 0⟩ → exitReady s c ⟨l, g, t, 0⟩ = some v → pairOf c ≠ c →
      let s1 := exitCore s c ⟨l, g, t, 0⟩ v
      exited s1 c ⟨l, g, t, 0⟩ = some v →
        ((getCore s (pairOf c)).exitStatus = none → exitReady s (pairOf c) ⟨l, g, t, 1⟩ = none →
          exited s1 (pairOf c) ⟨l, g, t, 1⟩ = none → Happens (.teamRetire l g t) s s1) ∧
        (∀ u, (getCore s (pairOf c)).exitStatus = some u → exited s1 (pairOf c) ⟨l, g, t, 1⟩ = some u →
          let s2 := callRound (freeAreas s1 fun o => o.launch == l && o.gang == g && o.team == t && o != ⟨l, 0, 0, 0⟩)
          let s3 := setCore s2 c (vacate (getCore s2 c))
          Happens (.teamRetire l g t) s (endSwap (updTeam (setCore s3 (pairOf c) (vacate (getCore s3 (pairOf c)))) l g t
            fun t => { t with st := .exited (teamStatus [v, u]), stopped := false }) l g))) ∧
  (∀ l g s x, getGang s l g = some x → x.isResident = true → x.swap = false → gangClock s x = true → retiresNow s l g x = false →
    inDueOrder s (sliceDue s l g).1 (sliceDue s l g).2 = true →
    ((∃ t, x.residentAt = some t ∧ t + s.disp.slice * usec ≤ s.time) → couldReplace s ⟨l, g⟩ = true →
      Happens (.sliceExpiry l g) s (beginSwap s l g 0 (allAsleep s l g))) ∧
    (allAsleep s l g = true → couldSleep s ⟨l, g⟩ = true → Happens (.sliceExpiry l g) s (beginSwap s l g 0 true)) ∧
    ((∃ t, x.residentAt = some t ∧ t + s.disp.slice * usec ≤ s.time) → couldReplace s ⟨l, g⟩ = false →
      (allAsleep s l g && couldSleep s ⟨l, g⟩) = false → Happens (.sliceExpiry l g) s (setGang s l g { x with residentAt := some s.time })))

/-- R105, R111, R395, R397 to R399: placement, stealing, and the failures of schedulers, workers and Quartz. It rests on the model's choices in log entries 43, 47 and 48. -/
def Obligations.SchedulerEventResults : Prop :=
  (∀ s h rest o, s.disp.quartzStopped = false → roundCalled s = true →
    let s0 := endDrains { s with disp := { s.disp with roundDue := false } }
    placementOrder s0 = h :: rest → oldest (h :: rest) = some o →
    let limit : Bool := s0.disp.agelim ≤ o.2.2.age
    let s1 := reserveAndPlace s0 h.1
    let s2 := if limit && o.1 != h.1 then reserveAndPlace s1 o.1 else s1
    let others := (h :: rest).filter fun g => !(g.1 == h.1 || (limit && g.1 == o.1) || (limit && g.2.1.prio ≤ o.2.1.prio))
    let s3 := others.foldl (fun s g => placeIfFits s g.1) (preempt s2 h.1)
    Happens .placementRound s ((h :: rest).foldl (fun s g => ageGang s g.1) ((h :: rest).foldl (fun s g => awake s g.1) s3))) ∧
  (∀ s, s.disp.quartzStopped = false → roundCalled s = true →
    let s0 := endDrains { s with disp := { s.disp with roundDue := false } }
    placementOrder s0 = [] → Happens .placementRound s s0) ∧
  (∀ s, roundCalled s = false → Stays .placementRound s) ∧
  (∀ s, s.disp.quartzStopped = true → Stays .placementRound s) ∧
  (∀ k l g s x gg cs, k < 8 → ((List.range 48).any fun i => coreInService s (48 * k + i) && !coreTaken s (48 * k + i)) = true →
    (getSched s k).runList = [] → ownsList s k = true → getLaunch s l = some x → getGang s l g = some gg → gg.left ≠ [] →
    ((stealable gg ((k + 1) % 8) = true ∧ ownsList s ((k + 1) % 8) = true) ∨
      (stealable gg ((k + 7) % 8) = true ∧ ownsList s ((k + 7) % 8) = true)) → stealFit s ⟨l, g⟩ x gg k = some cs →
      Happens (.gangSteal k l g) s (callRound (placeGang (unplace s l g) ⟨l, g⟩ cs))) ∧
  (∀ k s, k < 8 → ((getSched s k).working = true → (getSched s k).lastBeat + 100 * usec ≤ s.time) →
    Happens (.schedulerHeartbeat k) s (setSched s k { getSched s k with lastBeat := s.time, returning := !(getSched s k).working })) ∧
  (∀ k s, k < 8 → (getSched s k).working = true → (getSched s k).lastBeat + msec ≤ s.time →
    let s1 := adoptList s k
    Happens (.schedAdopt k) s (((List.range 8).filter fun j => (getSched s1 j).adopter == some k).foldl adoptList s1)) ∧
  (∀ k s, k < 8 → (getSched s k).working = false → (getSched s k).returning = true → sliceBoundary s k = true →
    Happens (.schedulerReturn k) s
      (logHub (setSched s k { getSched s k with working := true, returning := false, adopter := none }) 0x080B [(1, k), (1, 0xFF)])) ∧
  (∀ w s, w < 8 → w ∉ s.disp.workersDown →
    Happens (.workerFailover w) s { s with disp := { s.disp with workersDown := s.disp.workersDown ++ [w] } }) ∧
  (∀ pc s, s.disp.quartzStopped = false → (∀ t, s.disp.quartzLast = some t → t + 1000 * msec ≤ s.time) →
    Happens (.quartzMismatch pc) s (logHubSev { s with disp := { s.disp with quartzStopped := true, quartzLast := some s.time, quartzCount := 1 } }
      0x080C 1 [(8, pc), (1, 1)])) ∧
  (∀ s t, s.disp.quartzStopped = true → s.disp.quartzLast = some t → s.time ≤ t + msec →
    Happens .quartzRestart s { s with disp := { s.disp with quartzStopped := false } })

/-! ### Events of dispatch -/

/-- R104, R108, R386 to R391: queues, packets, children and the retirement of launches. It rests on the model's choices in log entries 44, 45, 46, 58, 60 and 72. -/
def Obligations.DispatchEventResults : Prop :=
  (∀ q v s, q < 64 → let w : Word := BitVec.ofNat 64 v
    let x := { getQ s q with wptr := v % 2 ^ 32 }
    (writeAllowed s .host (0x101010 + 0x40 * q) w = false → Happens (.dispQwptr q v) s (logHub s 0x080E [(1, 0), (4, 0x101010 + 0x40 * q), (1, 1)])) ∧
    (writeAllowed s .host (0x101010 + 0x40 * q) w = true → let s1 := noteHost s .host
      (x.fill ≤ 2 ^ x.logSize → Happens (.dispQwptr q v) s (setQ s1 q x)) ∧
      (2 ^ x.logSize < x.fill → Happens (.dispQwptr q v) s (setQ s1 q x.fail)))) ∧
  (∀ q v s, q < 64 → writeAllowed s .host (0x101008 + 0x40 * q) v = false →
    Happens (.dispQctl q v) s (logHub s 0x080E [(1, 0), (4, 0x101008 + 0x40 * q), (1, 1)])) ∧
  (∀ q v s, q < 64 → writeAllowed s .host (0x101008 + 0x40 * q) v = true → let s1 := noteHost s .host
    let x := getQ s q
    let y := { x with qctl := (v &&& qctlMask) ||| (if v.getLsbD 1 then 0 else x.qctl &&& 2)
                      tokens := if !x.en && v.getLsbD 0 then 0 else x.tokens }
    (y.en = false ∨ 4 ≤ y.logSize ∧ y.logSize ≤ 16 ∧ y.fill ≤ 2 ^ y.logSize → Happens (.dispQctl q v) s (setQ s1 q y)) ∧
    (y.en = true → y.logSize < 4 ∨ 16 < y.logSize ∨ 2 ^ y.logSize < y.fill → Happens (.dispQctl q v) s (setQ s1 q y.fail))) ∧
  (∀ s, (s.disp.ticks + 1) * msec ≤ s.time →
    Happens .tokenTick s { s with disp := { s.disp with
      ticks := s.disp.ticks + 1
      queues := s.disp.queues.map fun (p : Nat × DispQ) =>
        (p.1, if p.2.en then { p.2 with tokens := min (p.2.tokens + p.2.rate) p.2.cap } else p.2) } }) ∧
  (∀ q s s1 bs t, q < 64 → (getQ s q).en = true → (getQ s q).fill ≠ 0 → (workerOf s q).isSome = true →
    ringPacket s (getQ s q) = .ok (s1, bs) → ((packetOfBytes bs).barrier = true → queueBusy s q = false) →
    takePacketOf (setQ s1 q { getQ s q with rptr := ((getQ s q).rptr + 1) % 2 ^ 32 }) q (packetOfBytes bs) = .ok t →
      Happens (.packetCopy q) s t) ∧
  (∀ parent child s p l g t h id pl, (s.disp.children.find? fun x => x.2.1 == parent && x.2.2.2.2.2 == child) = some (p, l, g, t, h, id) →
    getLaunch s l = some pl → p.type = 1 →
      let s1 := { s with disp := { s.disp with children := s.disp.children.erase (p, l, g, t, h, id) } }
      let x := takeNumber s1
      (∀ v, checkLaunch x.1 p true 0 pl.module = .ok v →
        Happens (.childDispatch parent child) s (addLaunch x.1 x.2
          { asid := pl.asid, prio := pl.prio, depth := pl.depth + 1, module := pl.module, pkt := p, parent := some (l, g, t, h, id) } v)) ∧
      (∀ st s2, checkLaunch x.1 p true 0 pl.module = .error st →
        signalPut (reportFailure x.1 x.2 pl.asid st) x.2 pl.asid p.signal st = .ok s2 →
        Happens (.childDispatch parent child) s (childDone s2 ⟨l, g, t, h⟩ id st))) ∧
  (∀ n s l s1, getLaunch s n = some l → (∀ g ∈ l.gangs, g.left = []) → hasChildren s n = false →
    (l.killed = none ∨ discardsPending s n = false ∧ reportsWait s = false) → l.parent = none → l.node = none →
    signalPut (reclaimAll (reportKill s n l) n) n l.asid l.pkt.signal (launchStatus l) = .ok s1 →
      let s2 := { s1 with disp := { s1.disp with launches := mdel s1.disp.launches n } }
      Happens (.launchRetire n) s (if l.killed.isSome then s2 else freeAreas s2 fun o => o.launch == n)) ∧
  (∀ n s l s1 a g t h id, getLaunch s n = some l → (∀ g ∈ l.gangs, g.left = []) → hasChildren s n = false →
    (l.killed = none ∨ discardsPending s n = false ∧ reportsWait s = false) → l.parent = some (a, g, t, h, id) → l.node = none →
    signalPut (reclaimAll (reportKill s n l) n) n l.asid l.pkt.signal (launchStatus l) = .ok s1 →
      let s2 := { s1 with disp := { s1.disp with launches := mdel s1.disp.launches n } }
      Happens (.launchRetire n) s
        (childDone (if l.killed.isSome then s2 else freeAreas s2 fun o => o.launch == n) ⟨a, g, t, h⟩ id (launchStatus l))) ∧
  (∀ n s l, getLaunch s n = some l → (hasChildren s n = true ∨ ∃ g ∈ l.gangs, g.left ≠ []) → Stays (.launchRetire n) s)

/-! ### Events of remote operations -/

/-- R304 to R308, R312, R316, R317, R319: the requester's side of a stream. It rests on the model's choices in log entries 27, 30, 31, 69 and 71. -/
def Obligations.RequesterEventResults : Prop :=
  (∀ owner slot nonce h s s1, fromFabric s owner (.opened s.pkg slot nonce h .done) = some s1 →
    let x := getSlot s1 slot
    (x.st = .opening → x.owner = owner → x.nonce = nonce → Happens (.opened owner slot nonce h .done) s
      (closeIfDead (pump (setSlot s1 slot { x with st := .isOpen, handle := h, lastUse := s1.time, ctlTries := 0 }) slot) slot)) ∧
    (x.st ≠ .opening ∨ x.owner ≠ owner ∨ x.nonce ≠ nonce → Happens (.opened owner slot nonce h .done) s s1)) ∧
  (∀ owner h n st f v s s1, fromFabric s owner (.reply s.pkg h n st f v) = some s1 → outstanding s1 owner h n = none →
    Happens (.reply owner h n st f v) s s1) ∧
  (∀ owner h n f v s s1 k x o, fromFabric s owner (.reply s.pkg h n .done f v) = some s1 → outstanding s1 owner h n = some (k, x, o) →
    Happens (.reply owner h n .done f v) s (closeIfDead (pump (opOver (retireSerial s1 k n) x o (.done (v.getD 0 0))) k) k)) ∧
  (∀ owner h n f v s s1 k x o, fromFabric s owner (.reply s.pkg h n .fault f v) = some s1 → outstanding s1 owner h n = some (k, x, o) →
    Happens (.reply owner h n .fault f v) s (closeIfDead (pump (opOver (retireSerial s1 k n) x o (.failed .faultAtOwner f)) k) k)) ∧
  (∀ owner h n f v s s1 y, fromFabric s owner (.reply s.pkg h n .busy f v) = some s1 → outstanding s1 owner h n = some y →
    Happens (.reply owner h n .busy f v) s s1) ∧
  (∀ owner h n f v s s1 k x o, fromFabric s owner (.reply s.pkg h n .streamLost f v) = some s1 → outstanding s1 owner h n = some (k, x, o) →
    Happens (.reply owner h n .streamLost f v) s (failStream s1 k .streamLost)) ∧
  (∀ owner h s s1 k x y t, fromFabric s owner (.acked s.pkg h) = some s1 →
    (s1.rou.slots.find? fun p => p.2.st == .isOpen && p.2.owner == owner && p.2.handle == h) = some (k, x) → x.ackSent = y :: t →
      Happens (.acked owner h s.pkg) s (setSlot s1 k { x with acked := if serialBefore x.acked y.1 then y.1 else x.acked, ackSent := t })) ∧
  (∀ owner h s s1 k x, fromFabric s owner (.closed s.pkg h) = some s1 →
    (s1.rou.slots.find? fun p => p.2.st == .closing && p.2.owner == owner && p.2.handle == h) = some (k, x) →
      Happens (.closed owner h) s (rehand x.bound x.waitq (freeSlot s1 k))) ∧
  (∀ k s t, let x := getSlot s k
    x.st = .isOpen → x.floorAt = some t → t + 20 * usec ≤ s.time →
      Happens (.ackTimer k) s
        (sendPacket (setSlot s k { x with floorAt := none, ackSent := x.ackSent ++ [(x.floor, s.time, 0, s.time)] }) (.ack x.owner x.handle x.floor))) ∧
  (∀ k n s o, let x := getSlot s k
    (x.out.find? fun o => o.serial == n) = some o → o.sentAt + backoff o.tries ≤ s.time →
      Happens (.retransmit k n) s (sendPacket
        (setSlot s k { x with out := x.out.map fun p => if p.serial = n then { o with sentAt := s.time, tries := o.tries + 1 } else p })
        (.req x.owner (packetOf s x o)))) ∧
  (∀ k n s p t m y, let x := getSlot s k
    (x.out.find? fun o => o.serial == n) = none → controlPacket s k x = some (p, t, m, y) → t + backoff m ≤ s.time →
      Happens (.retransmit k n) s (sendPacket (setSlot s k y) p)) ∧
  (∀ s, Happens .requesterHubReset s (requesterReset s))

/-- R305, R309 to R315, R318, R363 to R365: the owner's side of a stream, loads for other packages, and the fabric. It rests on the model's choices in log entries 30, 34, 69, 71 and 72. -/
def Obligations.OwnerEventResults : Prop :=
  (∀ src slot nonce s s1, fromFabric s src (.openPkt s.pkg slot nonce) = some s1 → s1.rou.recovering = none →
    (∀ x, (s1.rou.streams.find? fun x => x.pkg == src && x.nonce == nonce) = some x →
      Happens (.openPkt src slot nonce) s (sendPacket s1 (.opened src slot nonce x.handle .done))) ∧
    ((s1.rou.streams.find? fun x => x.pkg == src && x.nonce == nonce) = none → s1.rou.nextHandle ≤ maxHandle →
      (s1.rou.streams.length < maxStreams → Happens (.openPkt src slot nonce) s (newStream s1 src slot nonce)) ∧
      (maxStreams ≤ s1.rou.streams.length → Happens (.openPkt src slot nonce) s (sendPacket s1 (.opened src slot nonce 0 .busy))))) ∧
  (∀ p s s1, fromFabric s p.src (.req s.pkg p) = some s1 → s1.rou.recovering = none → findStream s1 p.handle = none →
    Happens (.req p) s (answerWith s1 p .streamLost)) ∧
  (∀ p s s1 x y, fromFabric s p.src (.req s.pkg p) = some s1 → s1.rou.recovering = none → findStream s1 p.handle = some x → x.pkg = p.src → x.lost = false →
    let s2 := releaseHeld (retireBelow (retireBelow s1 p.handle p.ack) p.handle ((p.serial + 2 ^ 32 - 4095) % 2 ^ 32)) p.handle
    findStream s2 p.handle = some y →
      (serialBefore p.serial y.floor = true → Happens (.req p) s s2) ∧
      (serialBefore p.serial y.floor = false →
        (∀ e, findEnt s2 p.handle p.serial = some e → e.st = .done → Happens (.req p) s (answer s2 p.src e)) ∧
        (∀ e, findEnt s2 p.handle p.serial = some e → e.st ≠ .done → Happens (.req p) s s2) ∧
        (findEnt s2 p.handle p.serial = none → Happens (.req p) s (newEntry s2 y p)))) ∧
  (∀ h n s e x, findEnt s h n = some e → findStream s h = some x → e.st = .executing → e.journaled = true → s.rou.recovering = none →
    (∀ k, commitStack s h n = some k → stackLate s k = false) →
      let s0 := wokeBy s (commitStack s h n)
      (¬(e.status = .done ∧ e.commit.key = none) → Happens (.homeCommit h n) s (commitDone (applyCommit s0 e) x.pkg e)) ∧
      (∀ r, e.status = .done → e.commit.key = none → commitAway s0 x.pkg e = .ok r → Happens (.homeCommit h n) s r)) ∧
  (∀ src h f s s1, fromFabric s src (.ack s.pkg h f) = some s1 → s1.rou.recovering = none →
    (ownedBy s1 src h = true → Happens (.ack src h f) s (sendPacket (releaseHeld (retireBelow s1 h f) h) (.acked src h))) ∧
    (ownedBy s1 src h = false → Happens (.ack src h f) s s1)) ∧
  (∀ src h f s s1, fromFabric s src (.close s.pkg h f) = some s1 → s1.rou.recovering = none →
    (ownedBy s1 src h = true → streamIdle s1 h = true → Happens (.close src h f) s (sendPacket (dropStream s1 h) (.closed src h))) ∧
    (ownedBy s1 src h = false → Happens (.close src h f) s (sendPacket s1 (.closed src h)))) ∧
  (∀ src s s1, fromFabric s src (.closeAll s.pkg) = some s1 → s1.rou.recovering = none → (∀ h ∈ handlesOf s1 src, streamIdle s1 h = true) →
    Happens (.closeAll src) s ((handlesOf s1 src).foldl dropStream s1)) ∧
  (∀ src s s1, s1.rou.recovering.isSome = true →
    (∀ slot nonce, fromFabric s src (.openPkt s.pkg slot nonce) = some s1 → Happens (.openPkt src slot nonce) s s1) ∧
    (∀ p, p.src = src → fromFabric s src (.req s.pkg p) = some s1 → Happens (.req p) s s1) ∧
    (∀ h f, fromFabric s src (.ack s.pkg h f) = some s1 → Happens (.ack src h f) s s1) ∧
    (∀ h f, fromFabric s src (.close s.pkg h f) = some s1 → Happens (.close src h f) s s1) ∧
    (fromFabric s src (.closeAll s.pkg) = some s1 → Happens (.closeAll src) s s1)) ∧
  (∀ s, Happens .rouRecovery s (rouRecovery s)) ∧
  (∀ src va n s t, src ≠ s.pkg → s.fw.inDomain = true → src ∈ s.fw.domain → va % 128 + n ≤ 128 → vaClass s va = .window →
    let s0 := { s with rou := { s.rou with heard := mset s.rou.heard src s.time } }
    reach s0 0 va .load = .error t → Happens (.remoteLoad src va n) s (sendPacket s0 (.loadReply src va [] []))) ∧
  (∀ src va n s s1 x y z l d, src ≠ s.pkg → s.fw.inDomain = true → src ∈ s.fw.domain → va % 128 + n ≤ 128 → vaClass s va = .window →
    reach { s with rou := { s.rou with heard := mset s.rou.heard src s.time } } 0 va .load = .ok (s1, x, .dram y z) →
    let s2 := fillLine s1 (keyOf s1 0 va) x.pa (permBits x) 0 none
    getLine s2 (keyOf s1 0 va) = some l → homePeek s2 l = .ok d →
      Happens (.remoteLoad src va n) s (sendPacket s2 (.loadReply src va (lineBytes d.1 (va % 128) n) (lineBad d.2 (va % 128) n)))) ∧
  (∀ p s, p ≠ s.pkg → longPending s p = true → silent s p = true → (∀ h ∈ handlesOf s p, streamIdle s h = true) →
    let s1 := logHub { s with rou := { s.rou with lostPkgs := p :: s.rou.lostPkgs.filter (· != p) } } 0x0809 [(2, p)]
    let s2 := (handlesOf s1 p).foldl dropStream s1
    Happens (.fabPkgLost p) s ((slotsTo s2 p).foldl ownerLost s2)) ∧
  (∀ port n s, port < 36 → Happens (.fabAgeDrop port n) s (logGalena s (port / 18) 0x0808 [(1, port % 18), (4, n)])) ∧
  (∀ g port s, g < 2 → port < 18 → unitState s (8 + g) = .inService ∨ unitState s (8 + g) = .degraded →
    let u := galenaUnit s g
    let b : BitVec 18 := BitVec.ofNat 18 (2 ^ port)
    (u.ports.getLsbD port = true → Happens (.fabPortDown g port) s
      (regrade (logGalena (setGalena s g { u with ports := u.ports &&& ~~~b }) g 0x0804 [(1, port)]) (8 + g))) ∧
    (u.ports.getLsbD port = false → Happens (.fabPortUp g port) s
      (regrade (logGalena (setGalena s g { u with ports := u.ports ||| b }) g 0x0805 [(1, port)]) (8 + g))))

/-! ### Events of the firmware -/

/-- R113, R220 to R222, R275, R361, R367, R368, R418 to R421, R428, R429: requests that are carried out, each at its turn. It rests on the model's choices in log entries 9, 49, 50, 52, 53, 65 and 71. -/
def Obligations.MailboxEventResults : Prop :=
  (∀ j s s1, slotTurn s j 0 = true →
    let n := fieldOf s j .launch
    let c := fieldOf s j .core
    let m := fieldOf s j .mask
    m ≠ 0 → c < 384 → groupForbids s n c m = false → coreInService s c = true → allottedElse s n c m = false →
    allotGroups n c (groupsOf m) s = .ok s1 → Happens (.allot j) s (answerSlot s1 j mbxDone)) ∧
  (∀ j s, slotTurn s j 1 = true →
    let n := fieldOf s j .launch
    let c := fieldOf s j .core
    let m := fieldOf s j .mask
    m ≠ 0 → c < 384 → coreInService s c = true → allottedElse s n c m = false →
      (teamUses s n c = true → (∃ g ∈ groupsOf m, (rowMode s c g).isSome = true) → Happens (.reclaim j) s (answerSlot s j mbxBusyCode)) ∧
      (teamUses s n c = false → Happens (.reclaim j) s
        (answerSlot (((groupsOf m).filter fun g => (rowMode s c g).isSome).foldl (fun s g => reclaimGroup s c g) s) j mbxDone))) ∧
  (∀ j s tm, slotTurn s j 16 = true →
    let n := fieldOf s j .launch
    let g := fieldOf s j .gang
    let t := fieldOf s j .team
    reportHeld s n g t = false → getTeam s n g t = some tm →
      (tm.stopped = true → Happens (.resume j) s (answerSlot (resumeTeam s n g t tm) j mbxDone)) ∧
      (tm.stopped = false → Happens (.resume j) s (answerSlot s j mbxBad))) ∧
  (∀ j s l, slotTurn s j 17 = true → getLaunch s (fieldOf s j .launch) = some l → launchHeld s (fieldOf s j .launch) = false →
    Happens (.kill j) s (answerSlot (killLaunch s (fieldOf s j .launch) (trapCode .kill)) j mbxDone)) ∧
  (∀ j s, slotTurn s j 18 = true → pageWaits s (pageRange s j) = false →
    let r := pageRange s j
    Happens (.pageResume j) s (answerSlot { s with
      cores := s.cores.map fun (p : Nat × CoreSt) => (p.1, unpage s r p.2)
      fw := { s.fw with records := s.fw.records.map (unpageRecord s r) } } j mbxDone)) ∧
  (∀ j s, slotTurn s j 19 = true → pageWaits s (pageRange s j) = false →
    let r := pageRange s j
    Happens (.pageDecline j) s (answerSlot (declineRecords r ((s.cores.map (·.1)).foldl (declineCore r) s)) j mbxDone)) ∧
  (∀ j s s1 bs, slotTurn s j 24 = true →
    let t := fieldOf s j .kslot
    1 ≤ t → t ≤ 3 → fieldOf s j .len = keyRequestLen true → fwRange s (fieldOf s j .addr) (keyRequestLen true) = true →
    fwRead s (fieldOf s j .addr) (keyRequestLen true) = .ok (s1, bs) →
      let x := keyImage true bs
      x.kind = keyRequestKind → (x.body.getD 0 0).toNat = t → (x.body.drop 1).take 3 = [0, 0, 0] → x.slot ≠ t →
        (imageFault s1 x = none → Happens (.enroll j) s (answerSlot
          (setKey s1 t { ed := (x.body.drop 4).take edKeyLen, ml := x.body.drop (4 + edKeyLen), enabled := true }) j mbxDone)) ∧
        (∀ r, imageFault s1 x = some r → Happens (.enroll j) s (answerSlot (logReject s1 x.kind x.slot x.svn.toNat r) j mbxDenied))) ∧
  (∀ j s s1 bs, slotTurn s j 25 = true →
    let t := fieldOf s j .kslot
    t ≤ 3 → fieldOf s j .len = keyRequestLen false → fwRange s (fieldOf s j .addr) (keyRequestLen false) = true →
    fwRead s (fieldOf s j .addr) (keyRequestLen false) = .ok (s1, bs) →
      let x := keyImage false bs
      x.kind = keyRequestKind → (x.body.getD 0 0).toNat = t → (x.body.drop 1).take 3 = [0, 0, 0] →
        (x.slot ≠ t → imageFault s1 x = none → lastEnabled s1 t = false →
          Happens (.disable j) s (answerSlot (setKey s1 t { keySlot s1 t with enabled := false }) j mbxDone)) ∧
        (lastEnabled s1 t = true → Happens (.disable j) s (answerSlot s1 j mbxBusyCode))) ∧
  (∀ j s s1 bs, slotTurn s j 26 = true → 10 ≤ fieldOf s j .mr → fieldOf s j .mr ≤ 15 → fwRange s (fieldOf s j .addr) 48 = true →
    fwRead s (fieldOf s j .addr) 48 = .ok (s1, bs) → j < 12 →
      Happens (.extend j) s (answerSlot (mrExtend s1 (fieldOf s j .mr) (digestOf bs)) j mbxDone)) ∧
  (∀ j s, slotTurn s j 26 = true → 10 ≤ fieldOf s j .mr → fieldOf s j .mr ≤ 15 → fwRange s (fieldOf s j .addr) 48 = true → 12 ≤ j →
    Happens (.extend j) s (answerSlot s j mbxDenied))

/-- R92 to R96, R390, R407, R412 to R415, R429: modules, weight images, and units leaving and joining. It rests on the model's choices in log entries 49, 51, 52, 54, 57, 65, 68 and 71. -/
def Obligations.ImageAndUnitEventResults : Prop :=
  (∀ j s s1 bs, slotTurn s j 32 = true →
    let m := fieldOf s j .module
    let pa := fieldOf s j .addr
    let n := fieldOf s j .len
    fwRange s pa n = true → mget s.fw.modules m = none → fwRead s pa n = .ok (s1, bs) →
      (parseModule 0 pa n m bs = none → Happens (.modreg j) s (answerSlot s1 j mbxBad)) ∧
      (∀ r, parseModule 0 pa n m bs = some r → Happens (.modreg j) s (answerSlot
        { s1 with fw := { s1.fw with modules := mset s1.fw.modules m r.1, shards := s1.fw.shards ++ r.2 } } j mbxDone))) ∧
  (∀ j s x, slotTurn s j 33 = true →
    let m := fieldOf s j .module
    mget s.fw.modules m = some x → (∀ p ∈ s.disp.launches, p.2.module ≠ m) → (∀ h ∈ s.fw.shards, h.module = m → h.st = .invalid) →
      Happens (.modunreg j) s (answerSlot { s with fw := { s.fw with
        modules := mdel s.fw.modules m, shards := s.fw.shards.filter fun h => h.module != m } } j mbxDone)) ∧
  (∀ j s, slotTurn s j 10 = true →
    let m := fieldOf s j .module
    let i := fieldOf s j .image
    let tmo := fieldOf s j .tmo
    (mget s.fw.modules m).isSome = true → i < imageCount s m → tmo ≤ 3600 → paKind s (fieldOf s j .addr) = .host →
      (imageBusy s m i = true → Happens (.loadimg j) s (answerSlot s j mbxBusyCode)) ∧
      (imageBusy s m i = false →
        let r : LoadReq := { slot := j, module := m, image := i, hosttab := fieldOf s j .addr, nblk := fieldOf s j .nblk
                             deadline := s.time + (if tmo = 0 then 60 else tmo) * 1000 * msec }
        let s1 := { s with fw := { s.fw with loads := s.fw.loads ++ [r] } }
        Happens (.loadimg j) s (finishLoads
          ((s1.fw.shards.filter fun h => ofImage m i s1.pkg h && h.st != .valid).foldl (startShard (fieldOf s j .nblk)) s1)))) ∧
  (∀ j s, slotTurn s j 11 = true →
    let m := fieldOf s j .module
    let i := fieldOf s j .image
    (mget s.fw.modules m).isSome = true → i < imageCount s m → imageBusy s m i = false → imageUsed s m i = false →
      Happens (.unloadimg j) s (answerSlot (onShards s fun h => if h.module = m && h.image = i then { h with st := .invalid, chunk := 0, tries := 0 } else h)
        j mbxDone)) ∧
  (∀ m k c s h r, loadingChunk s m k c = some (h, r) → h.copied = true →
    Happens (.chunkVerify m k c) s (finishLoads (chunkChecked s h (((readBack s h).map sha384) == h.digests[c]?)))) ∧
  (∀ j s r, (s.fw.loads.find? fun r => r.slot == j) = some r → r.deadline ≤ s.time →
    Happens (.loadimgTimeout j) s
      (finishLoads ((s.fw.shards.filter fun h => ofImage r.module r.image s.pkg h && isLoading h).foldl (failShard 3) s))) ∧
  (∀ j s, slotTurn s j 8 = true →
    let u := fieldOf s j .unit
    (unitState s u = .inService ∨ unitState s u = .degraded) →
      (u = 8 ∨ u = 9 → 1 < liveGalenas s → Happens (.isolate j) s
        (answerSlot (changeUnit (setGalena s (u - 8) { galenaUnit s (u - 8) with ports := 0 }) u .isolated) j mbxDone)) ∧
      (u < 8 →
        ((stackUnit s u).leaving = false → (∀ h ∈ s.fw.shards, ¬(h.pkg = s.pkg ∧ h.core / 48 = u ∧ isLoading h = true)) →
          Happens (.isolate j) s (clearStack (setStack s u { stackUnit s u with leaving := true }) u)) ∧
        (∀ s1, (stackUnit s u).leaving = true → (∀ x ∈ allGangs s, gangOnStack u x.2.2 = false) → stackOpsOpen s u = false → drainStack s u = some s1 →
          Happens (.isolate j) s (answerSlot (changeUnit (setStack s1 u { stackUnit s1 u with leaving := false }) u .isolated) j mbxDone)))) ∧
  (∀ j caps s, slotTurn s j 9 = true →
    let u := fieldOf s j .unit
    u ≤ 9 →
      (unitState s u = .isolated → Happens (.rejoin j caps) s (answerSlot (enumUnit caps s u) j mbxDone)) ∧
      (unitState s u = .lost → u < 8 → Happens (.rejoin j caps) s (answerSlot (enumUnit caps (wipeStack s u) u) j mbxDone)) ∧
      (unitState s u = .lost → 8 ≤ u → Happens (.rejoin j caps) s (answerSlot (enumUnit caps s u) j mbxDone)) ∧
      (unitState s u ≠ .isolated → unitState s u ≠ .lost → Happens (.rejoin j caps) s (answerSlot s j mbxDone)))

/-! ### Events of the host interface, the chiplets, and boot -/

/-- R13, R276, R277, R351, R383, R404, R405, R409, R410, R425 to R427: what the host and the fabric of chiplets do to the package. It rests on the model's choices in log entries 1, 31, 36, 54, 58 to 60, 71 and 72. -/
def Obligations.PackageEventResults : Prop :=
  (∀ s, (writeAllowed s .host 0x300020 1 = false → Happens .shootdownUnmap s (logHub s 0x080E [(1, 0), (4, 0x300020), (1, 1)])) ∧
    (writeAllowed s .host 0x300020 3 = false → Happens .shootdownWrprotect s (logHub s 0x080E [(1, 0), (4, 0x300020), (1, 1)])) ∧
    (writeAllowed s .host 0x300020 5 = false → Happens .shootdownInval s (logHub s 0x080E [(1, 0), (4, 0x300020), (1, 1)]))) ∧
  (∀ s, writeAllowed s .host 0x300020 1 = true → writeAllowed s .host 0x300020 3 = true → writeAllowed s .host 0x300020 5 = true →
    let g (v : Word) (m : BitVec 2) : State := let n := noteHost s .host
      { n with hub := { n.hub with shootMode := m } }
    (s.hub.shootDone = false →
      Happens .shootdownUnmap s (g 1 0) ∧ Happens .shootdownWrprotect s (g 3 1) ∧ Happens .shootdownInval s (g 5 2)) ∧
    (s.hub.shootDone = true →
    let h (m : ShootMode) : Shoot := { mode := m, asid := s.hub.shootAsid.toNat % 65536, base := s.hub.shootBase.toNat, len := s.hub.shootLen.toNat }
    let t (n : State) (m : ShootMode) : State := { n with hub := { n.hub with
      shootDone := false
      shoot := some (h m)
      tlb := s.hub.tlb.filter fun t => !(t.asid == (h m).asid && overlaps t.base t.size (h m).base (h m).len) } }
    Happens .shootdownWrprotect s (t (g 3 1) .wrprotect) ∧ Happens .shootdownInval s (t (g 5 2) .inval) ∧
    ((∀ l ∈ s.hub.llc, inShoot (h .unmap) l.key = true → l.host = .hi) → Happens .shootdownUnmap s (t (g 1 0) .unmap)))) ∧
  (∀ s h, s.hub.shoot = some h → shootBusy s h = false →
    (∀ l ∈ s.hub.llc, inShoot h l.key = true → lineQuiet s l = true ∧ (h.mode = .unmap → l.host = .hi)) →
      let s1 := (s.hub.llc.filter fun l => inShoot h l.key).foldl (shootLine h.mode) s
      Happens .shootdownDone s
        { s1 with cores := s1.cores.map fun (c : Nat × CoreSt) => (c.1, shootL1 h c.2), hub := { s1.hub with shootDone := true, shoot := none } }) ∧
  (∀ v s, let p : BitVec 32 := BitVec.ofNat 32 v
    let w : Word := BitVec.ofNat 64 v
    let n := noteHost s .host
    (writeAllowed s .host 0x300078 w = false → Happens (.migRingRptr v) s (logHub s 0x080E [(1, 0), (4, 0x300078), (1, 1)])) ∧
    (writeAllowed s .host 0x300078 w = true →
      (2 ^ ringLog s.hub.migRingCtl < (s.hub.migWptr - p).toNat → Happens (.migRingRptr v) s n) ∧
      ((s.hub.migWptr - p).toNat ≤ 2 ^ ringLog s.hub.migRingCtl → Happens (.migRingRptr v) s { n with hub := { s.hub with migRptr := p } }))) ∧
  (∀ v s, writeAllowed s .host 0x300068 v = true → let n := noteHost s .host
    (s.hub.migRingCtl.getLsbD 8 = false → Happens (.migRingCtl v) s { n with hub := { s.hub with migRingCtl := v &&& 0xFF031F } }) ∧
    (s.hub.migRingCtl.getLsbD 8 = true → Happens (.migRingCtl v) s { n with hub := { s.hub with
      migRingCtl := (v &&& 0xFF031F) &&& ~~~(0x1F : Word) ||| (s.hub.migRingCtl &&& 0x1F) } })) ∧
  (∀ v s, writeAllowed s .host 0x300060 v = true → let n := noteHost s .host
    (s.hub.migRingCtl.getLsbD 8 = false → Happens (.migRingBase v) s { n with hub := { s.hub with migRingBase := v &&& 0xFFFFFFFFF000 } }) ∧
    (s.hub.migRingCtl.getLsbD 8 = true → Happens (.migRingBase v) s n)) ∧
  (∀ v s, (writeAllowed s .host 0x300068 v = false → Happens (.migRingCtl v) s (logHub s 0x080E [(1, 0), (4, 0x300068), (1, 1)])) ∧
    (writeAllowed s .host 0x300060 v = false → Happens (.migRingBase v) s (logHub s 0x080E [(1, 0), (4, 0x300060), (1, 1)]))) ∧
  (∀ v s, let p : BitVec 32 := BitVec.ofNat 32 v
    let w : Word := BitVec.ofNat 64 v
    let n := noteHost s .host
    let m : State := { n with fw := { n.fw with trapRptr := p } }
    (writeAllowed s .host 0x280008 w = false → Happens (.trapRptr v) s (logHub s 0x080E [(1, 0), (4, 0x280008), (1, 1)])) ∧
    (writeAllowed s .host 0x280008 w = true →
      (1024 < (s.fw.trapWptr - p).toNat → Happens (.trapRptr v) s n) ∧
      ((s.fw.trapWptr - p).toNat ≤ 1024 → Happens (.trapRptr v) s
        (drainReports s.fw.heldReports.length (freeAreas m fun o => (mget s.disp.launches o.launch).isNone && !(killUnread m o.launch)))))) ∧
  (∀ g v s, g < 2 → let off := 0xA000000 + 0x1000000 * g
    let n := noteHost s .host
    (writeAllowed s .host off v = false → Happens (.galenaFlush g v) s (logHub s 0x080E [(1, 0), (4, off), (1, 1)])) ∧
    (writeAllowed s .host off v = true →
      (v.getLsbD 0 = true → (galenaUnit s g).flushDone = true → Happens (.galenaFlush g v) s
        ((galenaUnit s g).cached.foldl (fun t w => physWrite (.packet g) t w.1 w.2)
          (setGalena n g { galenaUnit s g with flushDone := false, cached := [] }))) ∧
      (v.getLsbD 0 = false ∨ (galenaUnit s g).flushDone = false → Happens (.galenaFlush g v) s n)) ∧
    ((galenaUnit s g).flushDone = false → packetPending s g = false →
      Happens (.galenaFlushDone g) s (setGalena s g { galenaUnit s g with flushDone := true }))) ∧
  (∀ ag pa d s, ioAllowed s ag = true → d ≠ [] → pa % 128 + d.length ≤ 128 → inBar2 s ag pa d.length = true → isDram (paKind s pa) = true →
    let key := windowKey s pa
    let m := byteMask (pa % 128) d.length
    (getLine s key = none → Happens (.ioCoherentWrite ag pa d) s (wakeWatches (dramPut s pa d) key m)) ∧
    (∀ l t, getLine s key = some l → submitReq s key (.ioWrite ag 0 0 m (bytesAt (pa % 128) d) 0) = some t →
      Happens (.ioCoherentWrite ag pa d) s t)) ∧
  (∀ ag pa n s, ioAllowed s ag = true → n ≠ 0 → pa % 128 + n ≤ 128 → inBar2 s ag pa n = true → isDram (paKind s pa) = true →
    let key := windowKey s pa
    (getLine s key = none → Happens (.ioCoherentRead ag pa n) s s) ∧
    (∀ l t, getLine s key = some l → submitReq s key (.ioRead ag (byteMask (pa % 128) n)) = some t → Happens (.ioCoherentRead ag pa n) s t)) ∧
  (∀ ag pa a s, ioAllowed s ag = true → hostArea s ag pa = some a →
    (∀ d, d ≠ [] → pa % 128 + d.length ≤ 128 → inBar2 s ag pa d.length = true → Happens (.ioCoherentWrite ag pa d) s (areaPut s a pa d)) ∧
    (∀ n, n ≠ 0 → pa % 128 + n ≤ 128 → inBar2 s ag pa n = true → Happens (.ioCoherentRead ag pa n) s s)) ∧
  (∀ ag pa s, ioAllowed s ag = true → hostArea s ag pa = none → isDram (paKind s pa) = false →
    (∀ d, d ≠ [] → pa % 128 + d.length ≤ 128 → inBar2 s ag pa d.length = true → Happens (.ioCoherentWrite ag pa d) s (ioBad s ag pa)) ∧
    (∀ n, n ≠ 0 → pa % 128 + n ≤ 128 → inBar2 s ag pa n = true → Happens (.ioCoherentRead ag pa n) s (ioBad s ag pa))) ∧
  (∀ c q x xs s, getCq (getCore s c) q = x :: xs → queueRuns (getCore s c) = true → q ≤ 1 →
    (x.kind = .fence → fenceMet (getCore s c) x = true → headMay s c q x = true → Happens (.copyPiece c q 0) s (completeHead s c q)) ∧
    (x.kind ≠ .fence → x.cursor = x.dsc.total → headMay s c q x = true → Happens (.copyPiece c q x.cursor) s (completeHead s c q)) ∧
    (∀ i s1 s2 bs bad, x.kind ≠ .fence → pieceReady s c q x i = true → (heldPiece s x i).getD (readSource s c q x i (pieceLen x i)) = .bytes s1 bs bad →
      writePiece (dropAsks s1 c q i x) c q x i bs bad = some s2 → Happens (.copyPiece c q i) s s2) ∧
    (∀ i s1, x.kind ≠ .fence → pieceReady s c q x i = true → (heldPiece s x i).getD (readSource s c q x i (pieceLen x i)) = .asked s1 →
      Happens (.copyPiece c q i) s s1) ∧
    (∀ i h, x.kind ≠ .fence → pieceReady s c q x i = true → (heldPiece s x i).getD (readSource s c q x i (pieceLen x i)) = .pause h →
      Happens (.copyPiece c q i) s (pauseEntry s c q x h)) ∧
    (∀ i e, x.kind ≠ .fence → pieceReady s c q x i = true → (heldPiece s x i).getD (readSource s c q x i (pieceLen x i)) = .fail e →
      Happens (.copyPiece c q i) s (cqFault s c q x.seqNo e 0))) ∧
  (∀ a gts w s, w = 8 ∨ w = 16 ∨ w = 32 →
    Happens (.linkUp a gts w) s { s with fw := { s.fw with linkUp := true, slate := a && gts == 64 && (w == 32 || w == 16), linkWidth := w } }) ∧
  (∀ k m s t, oldestWait s k = some t → k < 8 → m < 6 → m ∉ (stackUnit s k).slowLogged → t + 20 * usec ≤ s.time →
    Happens (.linkWakeSlow k m) s (logHub (setStack s k { stackUnit s k with slowLogged := m :: (stackUnit s k).slowLogged })
      0x0801 [(1, k), (1, m), (4, (s.time - t) / usec)])) ∧
  (∀ k s, k < 8 → unitState s k ≠ .absent → unitState s k ≠ .lost → Happens (.stackLost k) s (loseStack k s)) ∧
  (∀ u m half s, u < 8 → m < 6 → unitState s u = .inService ∨ unitState s u = .degraded →
    let r := setModule (stackUnit s u).modstat (stackUnit s u).modhalf m half
    let s1 := setStack s u { stackUnit s u with modstat := r.1, modhalf := r.2 }
    (3 ≤ trainedMods s1 u → Happens (.moduleRetrain u m half) s (regrade s1 u)) ∧
    (trainedMods s1 u < 3 → Happens (.moduleRetrain u m half) s (loseStack u s1))) ∧
  (∀ c s, c < 384 → stackLive s (c / 48) = true →
    let k := c / 48
    let u := stackUnit s k
    (u.spares ≠ 0 → (getCore s c).occ = none → Happens (.coreFailure c) s
      (callRound (regrade (setStack (restartPhases (setCore (useSpare c (dropColumn s c)) c {}) c) k { u with spares := u.spares - 1 }) k))) ∧
    (u.spares = 0 ∨ (getCore s c).occ ≠ none → (getCore s c).inService = true → Happens (.coreFailure c) s
      (regrade (dropColumn (setCore s c { getCore s c with inService := false }) c) k))) ∧
  (∀ w off b v s, off < 0x10000000 → requesterUp s w = true → (w = .host ∨ hostNow s = false) →
    (pmpAllows s w off = false → Happens (.registerWrite w off b v) s s) ∧
    (pmpAllows s w off = true →
      (off % (if b then 8 else 4) ≠ 0 → Happens (.registerWrite w off b v) s (regBad s w off)) ∧
      (off % (if b then 8 else 4) = 0 →
        (writeAllowed s w off v = false → Happens (.registerWrite w off b v) s (logHub s 0x080E [(1, reqCode w), (4, off), (1, 1)])) ∧
        (writeAllowed s w off v = true →
          (b = false → off % 8 = 4 → upperReserved (off - 4) = true → Happens (.registerWrite w off b v) s s) ∧
          (b = true ∨ off % 8 ≠ 4 ∨ upperReserved (off - 4) = false →
            Happens (.registerWrite w off b v) s (writeRegister (noteHost s w) (off / 8 * 8) (regValue s off b v)))))))

/-- R418 to R422: boot and attestation. It rests on the model's choices in log entries 6, 52, 53, 54, 57, 58 and 72. -/
def Obligations.BootAndAttestationResults : Prop :=
  (∀ imgs caps s,
    let s0 := mrExtend (coldStart s) 0 Config.bootRomDigest
    (∀ s1, bootImages imgs [1, 2] s0 = .error s1 → Happens (.coldReset imgs caps) s (setBoot s1 .recovery)) ∧
    (∀ s1, bootImages imgs [1, 2] s0 = .ok s1 →
      let s2 := (List.range 10).foldl (enumUnit caps) (readHubTable caps s1)
      let s3 := reserveJournal (domainNow { s2 with fw := { s2.fw with gen := (s1.fw.gen + 2) % 2 ^ 32, genAt := some s1.time } })
      (∀ s4, bootImages imgs [3, 4, 5, 6, 7, 8] s3 = .error s4 → Happens (.coldReset imgs caps) s (setBoot s4 .recovery)) ∧
      (∀ s4, bootImages imgs [3, 4, 5, 6, 7, 8] s3 = .ok s4 →
        Happens (.coldReset imgs caps) s (setBoot (advanceSvn (releaseAll s4)) .running)))) ∧
  (∀ imgs s, 1 ∈ s.fw.released → 2 ∈ s.fw.released →
    let s0 := { s with fw := { s.fw with mrs := s.fw.mrs.filter fun p => p.1 < 3, released := [1, 2] } }
    (∀ s1, bootImages imgs [3, 4, 5, 6, 7, 8] s0 = .ok s1 →
      Happens (.warmReset imgs) s (setBoot (advanceSvn (releaseAll s1)) .running)) ∧
    (∀ s1, bootImages imgs [3, 4, 5, 6, 7, 8] s0 = .error s1 → Happens (.warmReset imgs) s (setBoot s1 .recovery))) ∧
  (∀ s, obsidianUp s = true →
    Happens .getVersion s (respond (noteVca true (spdmRequest 0x84 0 0 []) (.version 0x13) s) (.version 0x13)) ∧
    Happens .getCapabilities s
      (respond (noteVca false (spdmRequest 0xE1 0 0 []) (.capabilities true true true false) s) (.capabilities true true true false)) ∧
    (∀ r : SpdmResp, r = .digests [(0, sha384 Config.certChain)] →
      Happens .getDigests s (respond (noteCerts (spdmRequest 0x81 0 0 []) r s) r)) ∧
    (∀ r : SpdmResp, r = .certificate 0 Config.certChain →
      Happens (.getCertificate 0) s (respond (noteCerts (spdmRequest 0x82 0 0 []) r s) r)) ∧
    (∀ n, Happens (.spdmUnsupported n) s (respond s (.error spdmUnsupported))) ∧
    (∀ a, a < 2 → Happens (.negotiateAlgorithms a) s (respond (noteVca false (spdmRequest 0xE3 0 0 (leBytes 4 a)) (.algorithms 384 a)
      { s with fw := { s.fw with spdmSig := some a } }) (.algorithms 384 a)))) ∧
  (∀ s n, obsidianUp s = true → n ≠ 0 →
    Happens (.getCertificate n) s (respond s (.error spdmInvalid)) ∧ (∀ x, Happens (.challenge n x) s (respond s (.error spdmInvalid)))) ∧
  (∀ s, obsidianUp s = true → s.fw.spdmSig = none →
    (∀ x, Happens (.challenge 0 x) s (respond s (.error spdmUnexpected))) ∧
    (∀ i, i ≤ 16 → Happens (.getMeasurements i) s (respond s (.error spdmUnexpected)))) ∧
  (∀ s a, obsidianUp s = true → s.fw.spdmSig = some a →
    let sig (k : Nat) (log : List Byte) : Nat := Config.spdmSign k (s.fw.idKeys.getD k []) (sha384 log)
    let spent (t : State) : State := { t with fw := { t.fw with spdmCerts := [] } }
    (∀ n, let log := challengeLog s n
      Happens (.challenge 0 n) s (spent (respond s (.challengeAuth 0 n (sig a log) (sig (1 - a) log))))) ∧
    (∀ i, i ≤ 16 ∨ i = 0xFF → let log := measLog s i
      Happens (.getMeasurements i) s (respond s (.measurements i (measBlocks s i) (sig a log) (sig (1 - a) log)))))

/-! ### Rules of the spec, each stated whole -/

/-- R27: the sixteen FP4 E2M1 codes, in half units. -/
def Obligations.Fp4Values : Prop :=
  ∀ c < 8, ∃ m e, decodeF (fmtOf .e2m1) c = .fin false m e ∧ decodeF (fmtOf .e2m1) (c + 8) = .fin true m e ∧
    (-1 : Int) ≤ e ∧ m * 2 ^ (e + 1).toNat = [0, 1, 2, 3, 4, 6, 8, 12].getD c 0

/-- R63: each opcode of the L64 and X96 map has one length, the other length raises ILLEGAL_OPCODE, and the zero word is NOP. -/
def Obligations.OpcodeLengths : Prop :=
  (∀ e w0 ws i n v0 vs, decode e (w0 :: ws) = .ok (i, n) → v0 / 4 % 256 = w0 / 4 % 256 →
    (w0 % 4 = 1 ∧ v0 % 4 = 2) ∨ (w0 % 4 = 2 ∧ v0 % 4 = 1) → v0 % 4 ≤ vs.length → decode e (v0 :: vs) = .error .opcode) ∧
  (∀ e t, decode e (0 :: t) = .ok (.nop, 1))

/-- R78: CMP.cc takes its condition from F. -/
def Obligations.CompareConditions : Prop :=
  (∀ e f b a d, e ≠ .mtx → 10 ≤ f → f < 32 → b < 64 → a < 64 → d < 64 → decode e [r32 f b a d 0x28] = .error .opcode) ∧
  ∀ e d a b, e ≠ .mtx → okDst e d = true → okSrc e a = true → okSrc e b = true →
    ∀ f c, (f, c) ∈ [(0, CmpCond.eq), (1, .ne), (2, .lt), (3, .ge), (4, .le), (5, .gt), (6, .ltu), (7, .geu), (8, .leu), (9, .gtu)] →
      decode e [r32 f (sv e b) (sv e a) (dv e d) 0x28] = .ok (.cmp c d a b, 1)

/-- R136: RET. -/
def Obligations.RetResult : Prop :=
  (∀ e, decode e [r32 0 0 0 0 0x01] = .ok (.ret, 1)) ∧
  PlainTraps .ret (fun s => (focusSt s).rstack = []) { trap := .rstackEmpty } ∧
  (∀ p t, Plain .ret (fun s => (focusSt s).rstack = p :: t)
    (fun s => { s := withSt s (focusCs s) { focusSt s with rstack := t }, flow := .goto p })) ∧
  (∀ s cs e st w d, d.flow = .goto .fin → e ≠ .seq → (advance s cs e st w d).pc = .fin ∧ (advance s cs e st w d).ending = true)

/-- R139, R102: HALT, and the end of the sequencer's stream. -/
def Obligations.HaltResult : Prop :=
  (∀ e, decode e [r32 0 0 0 0 0x02] = .ok (.halt, 1)) ∧
  Plain .halt (fun s => s.focusEng ≠ .seq) (fun s => { s := s, flow := .fin }) ∧
  Plain .halt (fun s => s.focusEng = .seq ∧ (focusCs s).mem.active = false ∧ (focusCs s).vec.active = false ∧ (focusCs s).mtx.active = false)
    (fun s => { s := s, flow := .wait (.exit 0) }) ∧
  (∀ s, s.focusEng = .seq → runnable s s.focusCore .seq = true → mustWait s (focusCs s) .seq = false → (focusCs s).seq.pc = .fin →
    (focusCs s).mem.active = false → (focusCs s).vec.active = false → (focusCs s).mtx.active = false →
      streamStep s = .next (withCs s { focusCs s with seq := { (focusCs s).seq with waiting := some { kind := .exit 0, next := .fin } } }))

/-- R147: SEL. -/
def Obligations.SelResult : Prop :=
  (∀ e k d a b c, wellFormed e (.sel k d a b c) = true →
    decode e (l64 k (sv e a) (dv e d) 0x27 0 (sv e c) (sv e b)) = .ok (.sel k d a b c, 2)) ∧
  (∀ k d a b c, Scalar (.sel k d a b c) [a, b, c] d (three fun x y z => if z = 0 then y else x))

/-- R165: integer lanes. That VADDS, VSUBS and VMULH write their result at issue, with the latencies of R159, is the model's choice (log
entries 11, 12 and 13). -/
def Obligations.IntegerLanes : Prop :=
  ∀ (t : ElemType), t.isInt = true →
    (∀ f ∈ [laneAdd t, laneSub t, laneMul t, laneFma t, laneFms t, laneFnma t, laneMin t, laneMax t, laneAbs t, laneNeg t,
            laneSat t (· + ·), laneSat t (· - ·), laneMulh t],
      ∀ rm ftz rm' ftz' xs, (f rm ftz xs).2 = 0 ∧ f rm ftz xs = f rm' ftz' xs) ∧
    (∀ rm ftz, (laneAbs t rm ftz [2 ^ (t.width - 1)]).1 = 2 ^ (t.width - 1) ∧ (laneNeg t rm ftz [2 ^ (t.width - 1)]).1 = 2 ^ (t.width - 1)) ∧
    (∀ rm ftz x y, let v := intVal t.isSigned t.width
      (laneSat t (· + ·) rm ftz [x, y]).1 = satTo t.isSigned t.width (v x + v y) ∧
      (laneSat t (· - ·) rm ftz [x, y]).1 = satTo t.isSigned t.width (v x - v y) ∧
      (laneMulh t rm ftz [x, y]).1 = wrapTo t.width (v x * v y / (2 ^ t.width : Nat))) ∧
    (∀ n : Int, let v := intVal t.isSigned t.width (satTo t.isSigned t.width n)
      v = max (intMin t.isSigned t.width) (min (intMax t.isSigned t.width) n)) ∧
    (∀ k d a b, LaneWise (.vadds k t d a b) k t 3 d [a, b] (laneSat t (· + ·)) ∧ LaneWise (.vsubs k t d a b) k t 3 d [a, b] (laneSat t (· - ·)) ∧
      LaneWise (.vmulh k t d a b) k t 4 d [a, b] (laneMulh t))

/-- R173: VBCAST. That the result is written at issue with a latency of 2 (R159) is the model's choice (log entries 11, 12 and 13), and so
is the value 0 beside a tag (log entry 25). -/
def Obligations.VbcastResult : Prop :=
  (∀ k t d a, wellFormed .vec (.vbcast k t d a) = true →
    decode .vec (l64 k (sv .vec a) (vdv d) 0x62 0 t.code 0) = .ok (.vbcast k t d a, 2)) ∧
  sv .vec .qs = 32 ∧
  (∀ k t d a, wellFormed .vec (.vbcast k t d a) = (okLane k && t.code != 14 && okVDst d && okSrc .vec a)) ∧
  (∀ k t d a, Vector (.vbcast k t d a) { vd := some d, ss := [a], chk := [clusterVDst d], w := t.width, pred := k.pred, lat := 2 }
    fun x => laneMove t.width x fun _ => ⟨if (x.sc 0).tag.isSome then 0 else (x.sc 0).val.toNat % 2 ^ t.width, (x.sc 0).tag⟩)

/-- R184, R185: logic on masks, and KPOP. That the result of KPOP stands in its register from the issue, with a latency of 2 (R180), is the model's
choice (log entry 12). -/
def Obligations.MaskLogicResults : Prop :=
  (∀ k d a b, Vector (.kand k d a b) { md := some d, ms := [a, b], pred := k.pred, lat := 1 }
    fun x => { m := { bits := (x.km 0).bits &&& (x.km 1).bits, tag := maxTag (x.km 0).tag (x.km 1).tag } }) ∧
  (∀ k d a b, Vector (.kor k d a b) { md := some d, ms := [a, b], pred := k.pred, lat := 1 }
    fun x => { m := { bits := (x.km 0).bits ||| (x.km 1).bits, tag := maxTag (x.km 0).tag (x.km 1).tag } }) ∧
  (∀ k d a b, Vector (.kxor k d a b) { md := some d, ms := [a, b], pred := k.pred, lat := 1 }
    fun x => { m := { bits := (x.km 0).bits ^^^ (x.km 1).bits, tag := maxTag (x.km 0).tag (x.km 1).tag } }) ∧
  (∀ k d a, Vector (.knot k d a) { md := some d, ms := [a], pred := k.pred, lat := 1 }
    fun x => { m := { bits := ~~~(x.km 0).bits, tag := (x.km 0).tag } }) ∧
  (∀ k d a, Vector (.kpop k d a) { sd := some d, ms := [a], pred := k.pred, lat := 2 }
    fun x => { sc := { val := if (x.km 0).tag.isSome then 0 else BitVec.ofNat 64 (popCount 512 (x.km 0).bits.toNat), tag := (x.km 0).tag } }) ∧
  (∀ cs, readMask cs 0 = { bits := BitVec.allOnes 512 }) ∧ popCount 512 (BitVec.allOnes 512).toNat = 512 ∧
  dv .vec .qr = 33 ∧ (∀ k a, wellFormed .vec (.kpop k (.reg 32) a) = false)

/-- R212: TZERO and AZERO. That the clearing stands from the issue, with a latency of 2 (R201), is the model's choice (log entry 12). -/
def Obligations.TileClearResults : Prop :=
  (∀ k d, Matrix (.tzero k d) [] [d] none 2 (fun _ => True) fun cs => ({ cs with tiles := dropTile cs d }, 0)) ∧
  (∀ k d, Matrix (.azero k d) [] [] (some d) 2 (fun _ => True) fun cs => ({ cs with vregs := dropAcc cs d }, 0)) ∧
  (∀ (cs : CoreSt) d r, r < 128 → readTile { cs with tiles := dropTile cs d } d r = {}) ∧
  (∀ (cs : CoreSt) d t r, t ≠ d → r < 128 → readTile { cs with tiles := dropTile cs d } t r = readTile cs t r) ∧
  (∀ (cs : CoreSt) d r, r < 128 → accRow { cs with vregs := dropAcc cs d } d r = {}) ∧
  (∀ (cs : CoreSt) d n r, n ≠ d → r < 128 → accRow { cs with vregs := dropAcc cs d } n r = accRow cs n r)

/-! ### The machine as a whole -/

/-- R68, R69, R73, R101, R159, R201, R208, R247: what precedes an instruction's own effect, for every engine instruction. That an
engine waits for its earlier global accesses (log entry 15), and waits before its fields are checked (log entry 11), is the model's choice. -/
def Obligations.IssueRules : Prop :=
  ∀ i s, isEvent i = false →
    let cs := focusCs s
    let st := focusSt s
    (runnable s s.focusCore s.focusEng = false → exec i s = .fault .noStream) ∧
    (runnable s s.focusCore s.focusEng = true →
      (mustWait s cs s.focusEng = true → exec i s = .next s) ∧
      (mustWait s cs s.focusEng = false →
        (wellFormed s.focusEng i = false → exec i s = .next (raiseTrap s s.focusCore s.focusEng { trap := .illegalField } st.waitDone st.pc)) ∧
        (wellFormed s.focusEng i = true →
          (takeWait s s.focusCore s.focusEng (instrCtl i).wait = none → exec i s = .next s) ∧
          (∀ s1 w, takeWait s s.focusCore s.focusEng (instrCtl i).wait = some (s1, w) → predTrue cs s.focusEng (instrCtl i).pred = false →
            GoesTo i s w { s := s1 }))))

/-- R58, R60, R73, R158, R200, R246, R286, R293: a step runs the instruction that stands at the PC of the stream whose turn it is, unless another
engine that is ready in the same cycle goes first. A scheduled actor acts when its turn comes: the schedule is the model's own form of the order
of the agents (log entry 1). -/
def Obligations.StepRunsDecoded : Prop :=
  (∀ (s : State) line slot l i k,
    let c := s.focusCore
    let e := s.focusEng
    let st := getStream s c e
    runnable s c e = true → mustWait s (getCore s c) e = false → st.pc = .pos line slot → mget ((getCore s c).imem e) line = some l →
    linkFill (lineWord l 0) ≠ 0 → (∀ f, st.entry = some f → entryTrap e (lineWord l 0) slot f = none) →
    decode e (wordsFrom l slot) = .ok (i, k) →
      let x := setStream s c e { st with entry := none }
      (yields s c e i = false → streamStep s = mapNext (fun t => withTags s t c e) (exec i x)) ∧
      (∀ t, yields s c e i = true → exec i x = .next t → let u := withTags s t c e; streamStep s = .next (if moved s u c e then s else u))) ∧
  (∀ s t c e, (getCore s c).tagOps = [] → withTags s t c e = t) ∧
  (∀ (s : State) n c e rest, s.schedule = ⟨n, .stream c e⟩ :: rest →
    step s = streamStep { pass n { s with schedule := rest } with focusCore := c, focusEng := e }) ∧
  (∀ s : State, s.schedule = [] → dueEvent s = none → stopDue s = none → step s = mapNext (tick 2) (streamStep (pastEmpty s))) ∧
  (∀ s, atEmpty s = false → pastEmpty s = s) ∧
  (∀ (s : State) n, s.time + n < 2 * (coreCycle s + 1) ∨
    (∀ c, cbwComplete c s = none ∧ cbwComplete c { s with time := 2 * (coreCycle s + 1) } = none) → pass n s = { s with time := s.time + n }) ∧
  (∀ (s : State) n i rest, isEvent i = true → s.schedule = ⟨n, .event i⟩ :: rest →
    let s1 := pass n { s with schedule := rest }
    step s = if stopWaits s1 i then .next s1 else exec i s1) ∧
  (∀ (s : State) n x rest, s.schedule = ⟨n, .env x⟩ :: rest →
    let s1 := pass n { s with schedule := rest }
    step s = .next ((envEvent x s1).getD s1))

/-- R366, R367, R371, R379: taking a precise fault. -/
def Obligations.TrapEntry : Prop :=
  ∀ s c e r w pc,
    let t := raiseTrap s c e r w pc
    let cs := getCore s c
    getStream t c e = { cs.stream e with fault := some r, waitDone := w, pc := pc, pending := none } ∧
    (∀ e', e' ≠ e → getStream t c e' = cs.stream e') ∧ runnable t c e = false ∧
    (cs.run = .running → (getCore t c).run = .draining (coreCycle s) ∧ (getCore t c).tcode = trapCode r.trap ∧ (getCore t c).tcodeEng = e) ∧
    bareCore (getCore t c) = bareCore cs ∧ t.hub = s.hub ∧ t.rou = s.rou ∧ t.disp = s.disp ∧
    (∀ c', c' ≠ c → bareCore (getCore t c') = bareCore (getCore s c'))

/-- R100: what a team finds when it starts. -/
def Obligations.TeamStartValues : Prop :=
  ∀ s c o l v, let cs := freshCore s c o l v
    (∀ e n, readReg (cs.stream e) e n = if e = .seq ∧ n = 1 then { val := BitVec.ofNat 64 l.pkt.param } else {}) ∧
    (∀ n, readV cs n = {} ∧ (1 ≤ n → readMask cs n = {}) ∧ getSem cs n = {} ∧ mgetD 0 cs.tcT n = 0 ∧ mgetD 0 cs.tcAcc n = 0) ∧
    (∀ t r, readTile cs t r = {}) ∧ (∀ a, readByte cs.spm a = 0) ∧ cs.spmPoison = [] ∧ cs.preds = 1 ∧ cs.shadow = none ∧
    (∀ q, getSq cs q = [] ∧ getDq cs q = []) ∧ cs.cq0 = [] ∧ cs.cq1 = [] ∧
    (∀ e, (cs.stream e).fpmode = 0 ∧ (cs.stream e).fpstat = 0 ∧ (cs.stream e).rstack = [] ∧ loopCount (cs.stream e).loop = 0 ∧
      (cs.stream e).active = (e == .seq)) ∧
    cs.seq.pc = pcOfWord v.entry ∧ cs.estVal = v.remtime ∧ cs.occ = some o ∧ cs.run = .running

/-- R226, R276, R278, R279, R386, R394, R420, R424, R428, R430: reset values that the spec gives; and no core runs
anything, which is the model's choice (log entries 4 and 55). -/
def Obligations.ResetValues : Prop :=
  let r := State.reset
  r.time = 0 ∧ r.disp.agelim = 64 ∧ r.disp.slice = 2000 ∧ r.disp.drain = 262144 ∧ r.disp.wdog = 2 ^ 30 ∧
  (∀ q, (getQ r q).qctl = 0 ∧ (getQ r q).tokens = 0) ∧
  r.hub.shootDone = true ∧ r.hub.migThresh = 4096 ∧ r.hub.migMargin = 1024 ∧ r.hub.migInterval = 100 ∧ r.hub.migRingCtl = 0 ∧
  r.hub.migWptr = 0 ∧ r.hub.migRptr = 0 ∧ r.hub.window = 12 ∧
  (∀ i, mrAt r i = 0) ∧ r.fw.mbxIrq = 0 ∧ r.fw.trapIrq = 0 ∧ r.fw.onyxHub.en = true ∧ r.fw.onyxHub.frozen = false ∧
  (∀ c, (getCore r c).occ = none) ∧ (∀ c e, runnable r c e = false)

/-- The reset state's memories have the model's canonical form (log entry 2). -/
def Obligations.ResetMemoryCanonical : Prop := memOk State.reset = true

/-- Every step keeps the canonical form of every memory: stacked DRAM, scratchpads and context records (the model's own invariant, log entry 2). -/
def Obligations.StepKeepsMemoryCanonical : Prop := ∀ s t, memOk s = true → step s = .next t → memOk t = true

/-- R54 to R86: the encoder and the decoder agree on every well-formed engine instruction. -/
def Obligations.DecodeOfEncode : Prop :=
  ∀ e i rest, isEvent i = false → wellFormed e i = true → decode e (encode e i ++ rest) = .ok (i, (encode e i).length)

/-- Every word that decodes is the encoding of what it decodes to: no two words mean the same, and none is read past its fields. -/
def Obligations.EncodeOfDecode : Prop :=
  ∀ e ws i n, decode e ws = .ok (i, n) → wellFormed e i = true ∧ ws.take n = encode e i ∧ isEvent i = false

/-- R55 to R86: words written out from the encoding tables. -/
def Obligations.DecodedWords : Prop :=
  decode .seq [0x10408640] = .ok (.add (.reg 3) (.reg 1) (.reg 2) 2, 1) ∧
  decode .seq [0x1482, 0, 0x1234] = .ok (.movi {} (.reg 5) 0x1234, 3) ∧
  decode .seq [0x00A0002C] = .ok (.semw 5, 1) ∧
  decode .seq [0x480106, 0x4607, 8] = .ok (.sts {} 3 true 0 9 7 8, 3) ∧
  decode .vec [0x0C061101, 0x987] = .ok (.vadd {} .i32 (.sq 0) (.lq 0) .lane, 2) ∧
  decode .vec [0x2021A1, 0x986] = .ok (.vcmp {} .eq .i32 8 (.reg 4) .zero, 2) ∧
  decode .mtx [0x141, 0x21000001] = .ok (.mma { post := some 1 } false 0 0 1, 2) ∧
  decode .mem [0x61D0E, 0x1A00, 0] = .ok (.vst {} false .spm 0 .lane (.reg 0) 0, 3) ∧
  decode .mem [0x180949, 0x404] = .ok (.rowCon2 {} 2 (.reg 3) (.reg 4) 2, 2) ∧
  decode .mem [0x181581, 0x6604] = .ok (.amoAdd {} 3 .ar 0 (.reg 5) (.reg 3) (.reg 4), 2) ∧
  decode .vec [0x141, 0x21000001] ≠ .ok (.mma { post := some 1 } false 0 0 1, 2) ∧ decode .seq [3] = .error .length

/-- Frame of the scalar and control-flow instructions: one register of the engine at most has a new value. -/
def Obligations.ScalarFrame : Prop :=
  ∀ i d s t, scalarDst i = some d → exec i s = .next t →
    KeepsOthers s t ∧ KeepsFocus s t fun a b => ∃ n v, d = some (.reg n) ∧ b = setReg a s.focusEng n v

/-- Frame of the vector instructions: their destinations have new values, and nothing else has. -/
def Obligations.VectorFrame : Prop :=
  ∀ i d s t, vectorDst i = some d → exec i s = .next t → KeepsOthers s t ∧ KeepsFocus s t (writesV d)

/-- Frame of the stores: which bytes of the scratchpad change, at the addresses that their requests name; a global store has changed nothing
when it issues. -/
def Obligations.StoresFrame : Prop :=
  (∀ k size rel hint a b lit, StoreFrame (.sts k size rel hint a b lit) { srcs := [.reg a, .reg b], hint := hint, rel := rel, type := size }
    fun x => { store := true, es := [⟨baseAddr x lit.toInt, 2 ^ size, 0⟩], data := (x.ss.getD 1 {}).val.toNat, align := 2 ^ size }) ∧
  (∀ k size rel sp hint a b lit, StoreFrame (.sta k size rel sp hint a b lit)
    { srcs := [a, b], space := sp, hint := hint, rel := rel, type := size, lat := 2 }
    fun x => { store := true, es := [⟨baseAddr x lit.toInt, 2 ^ size, 0⟩], data := (x.ss.getD 1 {}).val.toNat, align := 2 ^ size }) ∧
  (∀ k rel sp hint d a lit, StoreFrame (.vst k rel sp hint d a lit)
    { srcs := [a], vsrc := some d, space := sp, hint := hint, rel := rel, type := storeType 5 d, lat := 2 }
    fun x => { store := true, es := [⟨baseAddr x lit.toInt, 512, 0⟩], data := x.v.data.toNat, align := 64 }) ∧
  (∀ k size rel sp hint d a lit, StoreFrame (.vsts k size rel sp hint d a lit)
    { srcs := [a], vsrc := some d, w := 8 * 2 ^ size, space := sp, hint := hint, rel := rel, type := storeType size d, lat := 2 }
    fun x => { store := true, es := strideElems x (2 ^ size) lit, data := x.v.data.toNat, align := 2 ^ size }) ∧
  (∀ k size rel sp hint d a b, StoreFrame (.vscat k size rel sp hint d a b)
    { srcs := [a], vsrc := some d, vidx := some b, ixn := if size = 3 then 32 else 64, w := 8 * 2 ^ size, space := sp, hint := hint,
      rel := rel, type := storeType size d, lat := 2 }
    fun x => { store := true, es := gatherElems x (2 ^ size), data := x.v.data.toNat, align := 2 ^ size, extra := bankExtra (gatherElems x (2 ^ size)) })

/-- R125, R132, R174, R178, R252, R372, R373, R375: a use of a poisoned value faults, with the fault that the cause names. An instruction of the vector engine whose
PRED names a tagged mask waits or faults. That the greatest cause of several names the fault of an access-engine instruction is the model's choice, and so is that the mask's does
(log entry 64). -/
def Obligations.PoisonedUseFaults : Prop :=
  (∀ a, PoisonTraps (.brReg a) a) ∧ (∀ p c a slot line, PoisonTraps (.brc p c a slot line) a) ∧ (∀ a, PoisonTraps (.callReg a) a) ∧
  (∀ k a, PoisonTraps (.loopReg k a) a) ∧ (∀ a, PoisonTraps (.chk a) a) ∧
  (∀ k t d a b m, VectorTraps (.vsel k t d a b m)
    { vd := some d, vs := [a, b], ms := [m], chk := [clusterVDst d, clusterVSrc a, clusterVSrc b], w := t.width, pred := k.pred, lat := 2 }
    fun x => (x.km 0).tag) ∧
  (∀ k t d a m, VectorTraps (.vcompress k t d a m)
    { vd := some d, vs := [a], ms := [m], chk := [clusterVDst d, clusterVSrc a], w := t.width, pred := k.pred, lat := 3 } fun x => (x.km 0).tag) ∧
  (∀ k t d a m, VectorTraps (.vexpand k t d a m)
    { vd := some (.reg d), vs := [a], ms := [m], readD := true, chk := [some (d / 128), clusterVSrc a], w := t.width, pred := k.pred, lat := 3 }
    fun x => (x.km 0).tag) ∧
  (∀ k t d a b, VectorTraps (.vrot k t d a b)
    { vd := some d, vs := [a], ss := [b], chk := [clusterVDst d, clusterVSrc a], w := t.width, pred := k.pred, lat := 2 } fun x => (x.sc 0).tag) ∧
  (∀ k t d a b, VectorTraps (.vextr k t d a b)
    { sd := some d, vs := [a], ss := [b], chk := [clusterVSrc a], w := t.width, pred := k.pred, lat := 3 } fun x => (x.sc 0).tag) ∧
  (∀ k t d a b, VectorTraps (.vins k t d a b)
    { vd := some (.reg d), ss := [a, b], readD := true, chk := [some (d / 128)], w := t.width, pred := k.pred, lat := 2 } fun x => (x.sc 1).tag) ∧
  (∀ k t d a b, MaskTraps (.vadd k t d a b) (laneOps k t 3 d [a, b])) ∧
  (∀ k t d a, MaskTraps (.vmov k t d a) { vd := some d, vs := [a], chk := [clusterVDst d], w := t.width, pred := k.pred, lat := vmovLat d a }) ∧
  (∀ k t d a b m, MaskTraps (.vsel k t d a b m)
    { vd := some d, vs := [a, b], ms := [m], chk := [clusterVDst d, clusterVSrc a, clusterVSrc b], w := t.width, pred := k.pred, lat := 2 }) ∧
  (∀ i s s1 w c, (vectorDst i).isSome = true → Issues i s s1 w → (readMask (focusCs s1) (instrCtl i).pred.idx).tag = some c →
    exec i s = .next s ∨ TrapsWith i s s1 w (poisonRec c) ∨ TrapsWith i s s1 w { trap := .vecType }) ∧
  (∀ cr a s s1 w v c cs1, Issues (.wrcr cr a) s s1 w → crBusy (focusCs s1) s1.focusEng cr = false →
    hazard s1 (focusCs s1) s1.focusEng (claimsOf (srcRes s1.focusEng a) []) 1 = false →
    takeSrcs (focusCs s1) s1.focusEng [a] = some ([{ val := v, tag := some c }], cs1) → TrapsWith (.wrcr cr a) s s1 w (poisonRec c)) ∧
  (∀ k size sx acq hint d a lit, TagTraps (.lds k size sx acq hint d a lit)
    { srcs := [.reg a], sd := some (.reg d), hint := hint, acq := acq }
    fun x => { store := false, es := [⟨baseAddr x lit.toInt, 2 ^ size, 0⟩], dst := .scalar .seq (.reg d) size sx false, align := 2 ^ size }) ∧
  (∀ k size rel hint a b lit, TagTraps (.sts k size rel hint a b lit) { srcs := [.reg a, .reg b], hint := hint, rel := rel, type := size }
    fun x => { store := true, es := [⟨baseAddr x lit.toInt, 2 ^ size, 0⟩], data := (x.ss.getD 1 {}).val.toNat, align := 2 ^ size }) ∧
  (∀ k size rel sp hint a b lit, TagTraps (.sta k size rel sp hint a b lit)
    { srcs := [a, b], space := sp, hint := hint, rel := rel, type := size, lat := 2 }
    fun x => { store := true, es := [⟨baseAddr x lit.toInt, 2 ^ size, 0⟩], data := (x.ss.getD 1 {}).val.toNat, align := 2 ^ size }) ∧
  (∀ k acq sp hint d a lit, TagTraps (.vld k acq sp hint d a lit)
    { srcs := [a], vd := some d, space := sp, hint := hint, acq := acq, lat := 6 }
    fun x => { store := false, es := [⟨baseAddr x lit.toInt, 512, 0⟩], dst := .vec d, align := 64 }) ∧
  (∀ k size sx acq sp hint d a lit, TagTraps (.lda k size sx acq sp hint d a lit)
    { srcs := [a], sd := some d, space := sp, hint := hint, acq := acq, lat := 4 }
    fun x => { store := false, es := [⟨baseAddr x lit.toInt, 2 ^ size, 0⟩], dst := .scalar .mem d size sx false, align := 2 ^ size }) ∧
  (∀ k rel sp hint d a lit, TagTraps (.vst k rel sp hint d a lit)
    { srcs := [a], vsrc := some d, space := sp, hint := hint, rel := rel, lat := 2 }
    fun x => { store := true, es := [⟨baseAddr x lit.toInt, 512, 0⟩], data := x.v.data.toNat, align := 64 })

/-! ### The environment -/

/-- R3, R211, R238, R243, R308, R316, R318, R349, R363 to R365, R368, R374, R376, R394, R425, R428: reads of register space and what they return after a
write, the runtime's writes of context records, errors that ECC corrects or finds, packets that the fabric drops, and packet cores. That these are
actors without a row of the opcode table is the model's choice (log entry 65; see also log entries 1, 51, 58, 60, 70 and 72). -/
def Obligations.EnvironmentResults : Prop :=
  (∀ w off b s, off < 0x10000000 → requesterUp s w = true → pmpAllows s w off = true →
    let v : Nat := if b then readRegister s off else readRegister s (off / 8 * 8) >>> (8 * (off % 8)) % 2 ^ 32
    let t (x : Nat) : State := { s with fw := { s.fw with regRead := some (w, off, BitVec.ofNat 64 x) } }
    (off % (if b then 8 else 4) ≠ 0 → envEvent (.registerRead w off b) s = some (regBad s w off)) ∧
    (off % (if b then 8 else 4) = 0 → readAllowed s w off = true → envEvent (.registerRead w off b) s = some (t v)) ∧
    (off % (if b then 8 else 4) = 0 → readAllowed s w off = false →
      envEvent (.registerRead w off b) s = some (logHub (t 0) 0x080E [(1, reqCode w), (4, off), (1, 0)]))) ∧
  (∀ s v, readRegister (writeRegister s 0x100000 v) 0x100000 = (if 1 ≤ v.toNat ∧ v.toNat ≤ 65535 then v.toNat else s.disp.agelim) ∧
    readRegister (writeRegister s 0x100008 v) 0x100008 = (if 1 ≤ v.toNat ∧ v.toNat ≤ 1000000 then v.toNat else s.disp.slice) ∧
    readRegister (writeRegister s 0x100010 v) 0x100010 = v.toNat ∧ readRegister (writeRegister s 0x100018 v) 0x100018 = v.toNat ∧
    readRegister s 0x200000 = 0 ∧ readRegister (writeRegister s 0xC00000 v) 0xC00000 = s.rou.journalBase ∧
    readRegister (writeRegister s 0x200008 v) 0x200008 = (s.fw.mbxDone &&& ~~~(v.setWidth 16)).toNat ∧
    readRegister (writeRegister s 0x200010 v) 0x200010 = (v &&& 0x1FF).toNat ∧
    readRegister (writeRegister s 0x300008 v) 0x300008 = v.toNat % 2 ^ 16 ∧ readRegister (writeRegister s 0x300010 v) 0x300010 = v.toNat) ∧
  (∀ s v k j, k < 512 → j < 512 → readRegister (writeRegister s (0x201000 + 8 * k) v) (0x201000 + 8 * j) =
    if j = k then v.toNat else readRegister s (0x201000 + 8 * j)) ∧
  (∀ l g t h off bs s r, findRecord s ⟨l, g, t, h⟩ = some r → s.fw.linkUp = true → off + bs.length ≤ 0x364000 →
    envEvent (.recordWrite l g t h off bs) s = some (putRecord s { r with bytes := writeBytes r.bytes off bs })) ∧
  (∀ k n c a s, (n ≤ 4 → k < 8 → stackLive s k = true → envEvent (.corrected k n c a) s = some (logCorrected s k n c a)) ∧
    (n = 5 ∨ n = 6 → envEvent (.corrected k n c a) s = some (logHub s 0x0813 [(1, n), (2, c), (8, a)]))) ∧
  (∀ c g s, c < 384 → 8 * g < spmSize →
    envEvent (.spmError c g) s = some (setCore s c { getCore s c with spmPoison := mset (getCore s c).spmPoison g () })) ∧
  (∀ a c s, a < 2 ^ 40 → paCore a = some c → coreInService s c = true → envEvent (.dramError a) s = some (setMark s a true)) ∧
  (∀ p n s, p < 36 → envEvent (.checkDrop p n) s = some (logGalena s (p / 18) 0x0806 [(1, p % 18), (4, n)])) ∧
  (∀ src k n s, 8 < k → k < 16 → s.fw.inDomain = true → src ∈ s.fw.domain →
    envEvent (.kindDrop src k n) s = some (logHub (hear s src) 0x0807 [(2, src), (1, k), (4, n)])) ∧
  (∀ c i j s a p q, pieceAt s c i j = some (a, p) → p.route = .remote q → a.store = false → a.ops = [] → p.st ≠ .done →
    p.sentAt + backoff p.tries ≤ s.time →
      envEvent (.loadAgain c i j) s = some (setCore (sendPacket s (.load q p.va p.n)) c
        (setPiece (getCore s c) i j fun x => { x with sentAt := s.time, tries := x.tries + 1 }))) ∧
  (∀ s, (envEvent .rouRestart s).map (·.rou.recovering) = some (some (s.rou.recovering.getD s.time))) ∧
  (∀ g a bs s, g < 2 → bs ≠ [] → requesterUp s .packetCore = true →
    (pmpCovers s .packetCore a bs.length = false → envEvent (.packetWrite g a bs) s = some s) ∧
    (pmpCovers s .packetCore a bs.length = true → envEvent (.packetWrite g a bs) s = some (setGalena s g { galenaUnit s g with cached := (galenaUnit s g).cached ++ [(a, bs)] }))) ∧
  (∀ m k c s h r, loadingChunk s m k c = some (h, r) → h.copied = false →
    (∀ t, hostTry s 6 (m * 2 ^ 32 + k) r.hosttab false = .ok (t, false) →
      envEvent (.chunkCopy m k c) s = some (finishLoads (chunkChecked t h false))) ∧
    (∀ t, hostTry s 6 (m * 2 ^ 32 + k) r.hosttab false = .ok (t, true) → chunkBytes s r h = none →
      envEvent (.chunkCopy m k c) s = some (finishLoads (chunkChecked { t with fresh := t.fresh + 1 } h false))) ∧
    (∀ t bs u, hostTry s 6 (m * 2 ^ 32 + k) r.hosttab false = .ok (t, true) → chunkBytes s r h = some bs →
      copyChunk { t with fresh := t.fresh + 1 } h bs = .ok u →
        envEvent (.chunkCopy m k c) s = some (onShards u fun x => if x = h then { x with copied := true } else x))) ∧
  (∀ w off n s, off < 0x10000000 → requesterUp s w = true → pmpAllows s w off = true → n ≠ 0 → n ≠ 4 → n ≠ 8 →
    envEvent (.registerWidth w off n) s = some (regBad s w off)) ∧
  (∀ n s, 30 ≤ n → n ≤ 40 → envEvent (.bar2Resize n) s = some { s with fw := { s.fw with bar2 := 2 ^ n } })
end

