-- ==== Sys2Proof/Laws/Issue.lean ====
section
/-! SUPPORT. What the issue of an instruction answers: one lemma for each shared shape of a meaning. -/

namespace Sys2Proof.Machine

/-- An instruction whose conditions hold and whose body has an effect issues with it. -/
theorem issue_goes {i : Instr} {s s1 : State} {w : Bool} {body : State → Verdict} {d : Done}
    (h : Issues i s s1 w) (hb : body s1 = .done d) :
    issue i s body = .next (finish s.focusCore s.focusEng (instrWords i) (instrCtl i).post w d) := by
  obtain ⟨h1, h2, h3, h4, h5⟩ := h
  simp only [focusCs] at *
  simp [issue, h1, h2, h3, h4, h5, hb]

/-- An instruction whose conditions hold and whose body faults takes the fault. -/
theorem issue_traps {i : Instr} {s s1 : State} {w : Bool} {body : State → Verdict} {r : FaultRec}
    (h : Issues i s s1 w) (hb : body s1 = .trap r) :
    issue i s body = .next (raiseTrap s1 s.focusCore s.focusEng r w ((focusCs s).stream s.focusEng).pc) := by
  obtain ⟨h1, h2, h3, h4, h5⟩ := h
  simp only [focusCs] at *
  simp [issue, h1, h2, h3, h4, h5, hb]

/-- An instruction whose conditions hold and whose body faults in another state takes the fault there. -/
theorem issue_traps_in {i : Instr} {s s1 s2 : State} {w : Bool} {body : State → Verdict} {r : FaultRec}
    (h : Issues i s s1 w) (hb : body s1 = .trapIn s2 r) :
    issue i s body = .next (raiseTrap s2 s.focusCore s.focusEng r w ((focusCs s).stream s.focusEng).pc) := by
  obtain ⟨h1, h2, h3, h4, h5⟩ := h
  simp only [focusCs] at *
  simp [issue, h1, h2, h3, h4, h5, hb]

/-- An instruction whose conditions hold and whose body stalls changes nothing. -/
theorem issue_stalls {i : Instr} {s s1 : State} {w : Bool} {body : State → Verdict} (h : Issues i s s1 w) (hb : body s1 = .stall) :
    issue i s body = .next s := by
  obtain ⟨h1, h2, h3, h4, h5⟩ := h
  simp only [focusCs] at *
  simp [issue, h1, h2, h3, h4, h5, hb]

/-- Scalar sources and destination. -/
theorem scalar_of {i : Instr} {srcs : List SSrc} {d : SDst} {f : List SVal → SVal} {g : List SVal → Except Verdict SVal}
    (he : ∀ s, exec i s = issue i s (scalarBody srcs d 1 g)) (hg : ∀ vs, g vs = .ok (f vs)) : Scalar i srcs d f := by
  intro s s1 w vs cs1 hi ⟨h1, h2, h3⟩
  rw [GoesTo, he]
  apply issue_goes hi
  cases d <;> simp_all [scalarBody, scalarDone]

theorem unary_one {f g : Word → Word} (h : ∀ x, f x = g x) (vs : List SVal) : unary f vs = .ok (one g vs) := by
  simp [unary, one, h]

theorem binary_two {f g : Word → Word → Word} (h : ∀ x y, f x y = g x y) (vs : List SVal) : binary f vs = .ok (two g vs) := by
  simp [binary, two, h]

theorem ternary_three {f g : Word → Word → Word → Word} (h : ∀ x y z, f x y z = g x y z) (vs : List SVal) :
    ternary f vs = .ok (three g vs) := by
  simp [ternary, three, h]

/-- One scalar source that is used. -/
theorem uses_of {i : Instr} {a : SSrc} {ok : State → CoreSt → Word → Prop} {f : State → CoreSt → Word → Done} {g : State → CoreSt → Word → Verdict}
    (he : ∀ s, exec i s = issue i s fun s => useBody a (fun cs v => g s cs v) s) (hg : ∀ s cs v, ok s cs v → g s cs v = .done (f s cs v)) :
    Uses i a ok f := by
  intro s s1 w v cs1 hi ⟨h1, h2⟩ hok
  rw [GoesTo, he]
  apply issue_goes hi
  simp [useBody, h1, h2, hg s1 cs1 v hok]

theorem useTraps_of {i : Instr} {a : SSrc} {bad : State → CoreSt → Word → Prop} {r : FaultRec} {g : State → CoreSt → Word → Verdict}
    (he : ∀ s, exec i s = issue i s fun s => useBody a (fun cs v => g s cs v) s) (hg : ∀ s cs v, bad s cs v → g s cs v = .trap r) :
    UseTraps i a bad r := by
  intro s s1 w v cs1 hi ⟨h1, h2⟩ hb
  rw [TrapsWith, he]
  apply issue_traps hi
  simp [useBody, h1, h2, hg s1 cs1 v hb]

/-- No source. -/
theorem plain_of {i : Instr} {ok : State → Prop} {f : State → Done} {g : State → Verdict}
    (he : ∀ s, exec i s = issue i s g) (hg : ∀ s, ok s → g s = .done (f s)) : Plain i ok f := by
  intro s s1 w hi hok
  rw [GoesTo, he]
  exact issue_goes hi (hg s1 hok)

theorem plainTraps_of {i : Instr} {bad : State → Prop} {r : FaultRec} {g : State → Verdict}
    (he : ∀ s, exec i s = issue i s g) (hg : ∀ s, bad s → g s = .trap r) : PlainTraps i bad r := by
  intro s s1 w hi hb
  rw [TrapsWith, he]
  exact issue_traps hi (hg s1 hb)

/-- Vector sources and destinations. -/
theorem vector_of {i : Instr} {o : VOps} {ok : VIn → Prop} {f : VIn → VOut} {g : VIn → Except Verdict VOut}
    (he : ∀ s, exec i s = issue i s (vecBody o g)) (hg : ∀ x, ok x → g x = .ok (f x)) : VectorWhen i o ok f := by
  intro s s1 w ss vs cs2 hi ⟨h1, h2, h3, ⟨cs1, h4, h5⟩, h6, h7⟩ hok
  rw [GoesTo, he]
  apply issue_goes hi
  unfold vecBody vecDone
  simp [h1, h2, h3, h4, h5, h6, h7, hg _ hok]

/-- A used source with a tag. -/
theorem poison_of {i : Instr} {a : SSrc} {g : State → CoreSt → Word → Verdict}
    (he : ∀ s, exec i s = issue i s fun s => useBody a (fun cs v => g s cs v) s) : PoisonTraps i a := by
  intro s s1 w v c cs1 hi h1 h2
  rw [TrapsWith, he]
  apply issue_traps hi
  simp [useBody, h1, h2, poisonTrap, poisonRec]

/-- A vector instruction that finds a tag where none may be. -/
theorem vtraps_of {i : Instr} {o : VOps} {bad : VIn → Option Cause} {g : VIn → Except Verdict VOut}
    (he : ∀ s, exec i s = issue i s (vecBody o g)) (hg : ∀ x c, bad x = some c → g x = .error (poisonTrap c)) : VectorTraps i o bad := by
  intro s s1 w ss vs cs2 c hi ⟨h1, h2, h3, ⟨cs1, h4, h5⟩, h6, h7⟩ hb
  rw [TrapsWith, he]
  apply issue_traps hi
  unfold vecBody
  simp [h1, h2, h3, h4, h5, h6, h7, hg _ _ hb, poisonTrap, poisonRec]

end Sys2Proof.Machine
end

