-- ==== Sys2Proof/Laws/Access.lean ====
section
/-! SUPPORT. What the shared shapes of memory, atomic and matrix instructions answer. -/

namespace Sys2Proof.Machine

/-- A memory instruction in either space. -/
theorem accesses_of {i : Instr} {o : MemOp} {ok : MemIn → Prop} {f : MemIn → MemReq} {g : MemIn → Except Verdict MemReq}
    (he : ∀ s, exec i s = issue i s (memBody o g)) (hg : ∀ x, ok x → g x = .ok (f x)) : Accesses i o ok f := by
  intro s s1 w x cs2 hi hm hok hmis
  obtain ⟨⟨cs1, ss, v, h1, h2, hx⟩, h3, h4, h5, h6⟩ := hm
  rw [GoesTo, GoesTo, he]
  constructor
  · intro hs ho
    apply issue_goes hi
    subst hx
    simp only [memBody, h1, h2, hg _ hok]
    simp [h3, h4, h5, h6, hs, hmis, ho, memAccess, spmAccess, spmDone, reserved]
    split <;> rfl
  · intro hs ha hr
    apply issue_goes hi
    subst hx
    simp only [memBody, h1, h2, hg _ hok]
    simp only [reserved] at hr
    simp [h3, h4, h5, h6, hs, hmis, ha, hr, memAccess, startAccess, globalDone, reserved]

/-- A memory instruction whose elements fail checks 4 or 5 of R252. -/
theorem accessFaults_of {i : Instr} {o : MemOp} {f : MemIn → MemReq} {g : MemIn → Except Verdict MemReq}
    (he : ∀ s, exec i s = issue i s (memBody o g)) (hg : ∀ x, g x = .ok (f x)) : AccessFaults i o f := by
  intro s s1 w x cs2 hi hm hst
  obtain ⟨⟨cs1, ss, v, h1, h2, hx⟩, h3, h4, h5, h6⟩ := hm
  subst hx
  constructor
  · intro va hmis
    rw [TrapsWith, he]
    apply issue_traps hi
    simp only [memBody, h1, h2, hg]
    cases hs : o.space <;> simp [h3, h4, h5, h6, hmis, memAccess, addrTrap, addrFault] <;> simp [hst hs]
  · intro va hmis hs ho
    rw [TrapsWith, he]
    apply issue_traps hi
    simp only [memBody, h1, h2, hg]
    simp [h3, h4, h5, h6, hmis, hs, ho, memAccess, addrTrap, addrFault]

/-- An atomic instruction. -/
theorem atomic_of {i : Instr} {o : AtomOp} {f : AtomIn → List AtomGroup}
    (he : ∀ s, exec i s = issue i s (atomBody o f)) : Atomic i o f := by
  intro s s1 w x cs1 hi hm
  obtain ⟨⟨ss, h1, hx⟩, h3, h4, h5, h6, h7, h8, h9, h10, h11⟩ := hm
  rw [GoesTo, he]
  apply issue_goes hi
  subst hx
  have h6' : (!isRed o.code && decide (64 ≤ (focusCs s1).pend.length)) = false := by
    rcases h6 with h | h
    · simp [h]
    · simp; omega
  have ha : (f (atomIn (focusCs s1) o ss)).find?
      (fun g => g.va % 2 ^ o.size != 0) = none := by
    rw [List.find?_eq_none]; intro g hg; simp [(h10 g hg).1]
  have hb : badAddress s1 (f (atomIn (focusCs s1) o ss)) = none := by
    simp only [badAddress]; rw [List.find?_eq_none.2]; rfl
    intro g hg; simp [(h10 g hg).2]
  have hr : (if isRelease o.ord then (focusCs s1).rfail else none) = none := by
    split
    · rename_i h; exact h11 h
    · rfl
  simp only [atomBody, h1, ha, hb, hr]
  simp [h3, h4, h5, h6', h7, h8, h9, startAtom, atomDone]

/-- A matrix instruction. -/
theorem matrix_of {i : Instr} {reads writes : List Nat} {acc : Option Nat} {lat : Nat} {ok : CoreSt → Prop} {f : CoreSt → CoreSt × Flags}
    {chk : CoreSt → Option Trap} (he : ∀ s, exec i s = issue i s (mtxBody reads writes acc lat chk f)) (hl : 1 < lat)
    (hc : ∀ cs, ok cs → chk cs = none) : Matrix i reads writes acc lat ok f := by
  intro s s1 w hi ht hok
  rw [GoesTo, he]
  apply issue_goes hi
  obtain ⟨h1, h2⟩ := ht
  cases acc with
  | none => simp [mtxBody, h1, hc _ hok, hl]
  | some n => simp [mtxBody, h1, h2 n rfl, hc _ hok, hl]

/-- A memory instruction with a tagged operand. -/
theorem ttraps_of {i : Instr} {o : MemOp} {f : MemIn → MemReq} {g : MemIn → Except Verdict MemReq}
    (he : ∀ s, exec i s = issue i s (memBody o g)) (hg : ∀ x, g x = .ok (f x)) : TagTraps i o f := by
  intro s s1 w ss v cs1 cs2 c hi h1 h2 h3 h4 h5 h6
  rw [TrapsWith, he]
  apply issue_traps hi
  simp only [memBody, h1, h2, hg]
  simp [h3, h4, h5, h6, poisonTrap, poisonRec]

end Sys2Proof.Machine
end

