-- ==== Sys2Proof/Laws/Store.lean ====
section
/-! SUPPORT. Finite maps and byte memory: what a read finds after a write, and that every write keeps the canonical form. -/

namespace Sys2Proof.Machine

/-! ### Reads after writes -/

@[simp] theorem mget_mset_same {α : Type} (m : NMap α) (k : Nat) (v : α) : mget (mset m k v) k = some v := by
  induction m with
  | nil => simp [mset, mget]
  | cons p t ih => obtain ⟨j, w⟩ := p; simp only [mset]; split <;> (try split) <;> simp_all [mget]

theorem mget_mset_ne {α : Type} (m : NMap α) {k j : Nat} (v : α) (h : j ≠ k) : mget (mset m k v) j = mget m j := by
  induction m with
  | nil => simp [mset, mget, h]
  | cons p t ih => obtain ⟨i, w⟩ := p; simp only [mset]; split <;> (try split) <;> simp_all [mget]

theorem mget_mset {α : Type} (m : NMap α) (k j : Nat) (v : α) : mget (mset m k v) j = if j = k then some v else mget m j := by
  split
  · subst_vars; simp
  · exact mget_mset_ne m v ‹_›

theorem mget_mdel {α : Type} (m : NMap α) (k j : Nat) : mget (mdel m k) j = if j = k then none else mget m j := by
  induction m with
  | nil => simp [mdel, mget]
  | cons p t ih =>
    obtain ⟨i, w⟩ := p
    simp only [mdel, List.filter_cons] at *
    by_cases h : i = k <;> by_cases h' : j = i <;> simp_all [mget]

@[simp] theorem mgetD_mset {α : Type} (d : α) (m : NMap α) (k j : Nat) (v : α) :
    mgetD d (mset m k v) j = if j = k then v else mgetD d m j := by
  simp only [mgetD, mget_mset]; split <;> simp

@[simp] theorem mgetD_mputD {α : Type} [DecidableEq α] (d : α) (m : NMap α) (k j : Nat) (v : α) :
    mgetD d (mputD d m k v) j = if j = k then v else mgetD d m j := by
  simp only [mputD]
  split
  · simp only [mgetD, mget_mdel]; split <;> simp_all
  · simp

/-- A byte written is read back, and every other byte stays. -/
@[simp] theorem readByte_writeByte (m : List Host.Cell) (a x : Nat) (b : Byte) :
    readByte (writeByte m a b) x = if x = a then b else readByte m x := by
  simp [readByte, writeByte]

/-- Bytes outside a written range stay. -/
theorem readByte_writeBytes_out (bs : List Byte) : ∀ (m : List Host.Cell) (a x : Nat), x < a ∨ a + bs.length ≤ x →
    readByte (writeBytes m a bs) x = readByte m x := by
  induction bs with
  | nil => intro m a x _; rfl
  | cons b t ih =>
    intro m a x h
    simp only [List.length_cons] at h
    rw [writeBytes, ih _ _ _ (by omega), readByte_writeByte, if_neg (by omega)]

/-- Bytes of a written range are those written. -/
theorem readByte_writeBytes_in (bs : List Byte) : ∀ (m : List Host.Cell) (a i : Nat) (h : i < bs.length),
    readByte (writeBytes m a bs) (a + i) = bs[i] := by
  induction bs with
  | nil => intro m a i h; simp at h
  | cons b t ih =>
    intro m a i h
    cases i with
    | zero => rw [writeBytes, readByte_writeBytes_out _ _ _ _ (by omega)]; simp
    | succ i =>
      have := ih (writeByte m a b) (a + 1) i (by simpa using h)
      rw [writeBytes, show a + (i + 1) = a + 1 + i by omega, this]; simp

/-! ### The canonical form -/

theorem mset_all {α : Type} (q : Nat × α → Bool) (m : NMap α) (k : Nat) (v : α) (h : m.all q = true) (hq : q (k, v) = true) :
    (mset m k v).all q = true := by
  induction m with
  | nil => simp [mset, hq]
  | cons p t ih =>
    obtain ⟨j, w⟩ := p
    simp only [List.all_cons, Bool.and_eq_true] at h
    simp only [mset]; split <;> (try split) <;> simp_all

theorem mdel_all {α : Type} (q : Nat × α → Bool) (m : NMap α) (k : Nat) (h : m.all q = true) : (mdel m k).all q = true := by
  simp only [mdel, List.all_eq_true, List.mem_filter] at *
  exact fun x hx => h x hx.1

theorem mwf_mset {α : Type} (m : NMap α) (k : Nat) (v : α) (h : mwf m = true) : mwf (mset m k v) = true := by
  induction m with
  | nil => simp [mset, mwf]
  | cons p t ih =>
    obtain ⟨j, w⟩ := p
    simp only [mwf, Bool.and_eq_true] at h
    simp only [mset]
    split
    · rename_i hk
      simp only [mwf, List.all_cons, Bool.and_eq_true, List.all_eq_true, decide_eq_true_eq] at *
      exact ⟨⟨hk, fun x hx => Nat.lt_trans hk (h.1 x hx)⟩, h⟩
    · split
      · subst_vars; simpa [mwf] using h
      · simp only [mwf, Bool.and_eq_true]
        exact ⟨mset_all _ t k v h.1 (by simp; omega), ih h.2⟩

theorem mwf_filter {α : Type} (f : Nat × α → Bool) (m : NMap α) (h : mwf m = true) : mwf (m.filter f) = true := by
  induction m with
  | nil => rfl
  | cons p t ih =>
    obtain ⟨j, w⟩ := p
    simp only [mwf, Bool.and_eq_true] at h
    rw [List.filter_cons]
    split
    · simp only [mwf, Bool.and_eq_true, ih h.2, and_true, List.all_eq_true, List.mem_filter] at *
      exact fun x hx => h.1 x hx.1
    · exact ih h.2

theorem mwf_mdel {α : Type} (m : NMap α) (k : Nat) (h : mwf m = true) : mwf (mdel m k) = true := mwf_filter _ m h

@[simp] theorem Memory.wf_nil : Memory.wf [] = true := rfl

/-- Writing a byte keeps the canonical form. -/
theorem Memory.wf_writeByte (m : List Host.Cell) (a : Nat) (b : Byte) (h : Memory.wf m = true) : Memory.wf (writeByte m a b) = true := by
  simp only [Memory.wf, Bool.and_eq_true] at *
  simp only [writeByte, mputD]
  split
  · exact ⟨mwf_mdel m a h.1, mdel_all _ m a h.2⟩
  · exact ⟨mwf_mset m a b h.1, mset_all _ m a b h.2 (by simpa using ‹_›)⟩

/-- Writing bytes keeps the canonical form. -/
theorem Memory.wf_writeBytes (bs : List Byte) : ∀ (m : List Host.Cell) (a : Nat), Memory.wf m = true → Memory.wf (writeBytes m a bs) = true := by
  induction bs with
  | nil => intro m a h; exact h
  | cons b t ih => intro m a h; exact ih _ _ (Memory.wf_writeByte m a b h)

/-- Dropping bytes keeps the canonical form. -/
theorem Memory.wf_filter (f : Host.Cell → Bool) (m : List Host.Cell) (h : Memory.wf m = true) : Memory.wf (m.filter f) = true := by
  simp only [Memory.wf, Bool.and_eq_true] at *
  refine ⟨mwf_filter f m h.1, ?_⟩
  simp only [List.all_eq_true, List.mem_filter] at *
  exact fun x hx => h.2 x hx.1

end Sys2Proof.Machine
end

