-- ==== Sys2Proof/Laws/State.lean ====
section
/-! SUPPORT. What each update of the state leaves in each field. -/

namespace Sys2Proof.Machine

/-! ### The package -/

@[simp] theorem setCore_time (s : State) (c : Nat) (cs : CoreSt) : (setCore s c cs).time = s.time := rfl
@[simp] theorem setCore_fresh (s : State) (c : Nat) (cs : CoreSt) : (setCore s c cs).fresh = s.fresh := rfl
@[simp] theorem setCore_schedule (s : State) (c : Nat) (cs : CoreSt) : (setCore s c cs).schedule = s.schedule := rfl
@[simp] theorem setCore_focusCore (s : State) (c : Nat) (cs : CoreSt) : (setCore s c cs).focusCore = s.focusCore := rfl
@[simp] theorem setCore_focusEng (s : State) (c : Nat) (cs : CoreSt) : (setCore s c cs).focusEng = s.focusEng := rfl
@[simp] theorem setCore_pkg (s : State) (c : Nat) (cs : CoreSt) : (setCore s c cs).pkg = s.pkg := rfl
@[simp] theorem setCore_hub (s : State) (c : Nat) (cs : CoreSt) : (setCore s c cs).hub = s.hub := rfl
@[simp] theorem setCore_rou (s : State) (c : Nat) (cs : CoreSt) : (setCore s c cs).rou = s.rou := rfl
@[simp] theorem setCore_disp (s : State) (c : Nat) (cs : CoreSt) : (setCore s c cs).disp = s.disp := rfl
@[simp] theorem setCore_fw (s : State) (c : Nat) (cs : CoreSt) : (setCore s c cs).fw = s.fw := rfl

@[simp] theorem withCs_time (s : State) (cs : CoreSt) : (withCs s cs).time = s.time := rfl
@[simp] theorem withCs_fresh (s : State) (cs : CoreSt) : (withCs s cs).fresh = s.fresh := rfl
@[simp] theorem withCs_schedule (s : State) (cs : CoreSt) : (withCs s cs).schedule = s.schedule := rfl
@[simp] theorem withCs_focusCore (s : State) (cs : CoreSt) : (withCs s cs).focusCore = s.focusCore := rfl
@[simp] theorem withCs_focusEng (s : State) (cs : CoreSt) : (withCs s cs).focusEng = s.focusEng := rfl
@[simp] theorem withCs_pkg (s : State) (cs : CoreSt) : (withCs s cs).pkg = s.pkg := rfl
@[simp] theorem withCs_hub (s : State) (cs : CoreSt) : (withCs s cs).hub = s.hub := rfl
@[simp] theorem withCs_rou (s : State) (cs : CoreSt) : (withCs s cs).rou = s.rou := rfl
@[simp] theorem withCs_disp (s : State) (cs : CoreSt) : (withCs s cs).disp = s.disp := rfl
@[simp] theorem withCs_fw (s : State) (cs : CoreSt) : (withCs s cs).fw = s.fw := rfl

@[simp] theorem setStream_time (s : State) (c : Nat) (e : Engine) (x : Stream) : (setStream s c e x).time = s.time := rfl
@[simp] theorem setStream_fresh (s : State) (c : Nat) (e : Engine) (x : Stream) : (setStream s c e x).fresh = s.fresh := rfl
@[simp] theorem setStream_schedule (s : State) (c : Nat) (e : Engine) (x : Stream) : (setStream s c e x).schedule = s.schedule := rfl
@[simp] theorem setStream_focusCore (s : State) (c : Nat) (e : Engine) (x : Stream) : (setStream s c e x).focusCore = s.focusCore := rfl
@[simp] theorem setStream_focusEng (s : State) (c : Nat) (e : Engine) (x : Stream) : (setStream s c e x).focusEng = s.focusEng := rfl
@[simp] theorem setStream_pkg (s : State) (c : Nat) (e : Engine) (x : Stream) : (setStream s c e x).pkg = s.pkg := rfl
@[simp] theorem setStream_hub (s : State) (c : Nat) (e : Engine) (x : Stream) : (setStream s c e x).hub = s.hub := rfl
@[simp] theorem setStream_rou (s : State) (c : Nat) (e : Engine) (x : Stream) : (setStream s c e x).rou = s.rou := rfl
@[simp] theorem setStream_disp (s : State) (c : Nat) (e : Engine) (x : Stream) : (setStream s c e x).disp = s.disp := rfl
@[simp] theorem setStream_fw (s : State) (c : Nat) (e : Engine) (x : Stream) : (setStream s c e x).fw = s.fw := rfl

@[simp] theorem tick_fresh (n : Nat) (s : State) : (tick n s).fresh = s.fresh := rfl
@[simp] theorem tick_schedule (n : Nat) (s : State) : (tick n s).schedule = s.schedule := rfl
@[simp] theorem tick_focusCore (n : Nat) (s : State) : (tick n s).focusCore = s.focusCore := rfl
@[simp] theorem tick_focusEng (n : Nat) (s : State) : (tick n s).focusEng = s.focusEng := rfl
@[simp] theorem tick_pkg (n : Nat) (s : State) : (tick n s).pkg = s.pkg := rfl
@[simp] theorem tick_cores (n : Nat) (s : State) : (tick n s).cores = s.cores := rfl
@[simp] theorem tick_hub (n : Nat) (s : State) : (tick n s).hub = s.hub := rfl
@[simp] theorem tick_rou (n : Nat) (s : State) : (tick n s).rou = s.rou := rfl
@[simp] theorem tick_disp (n : Nat) (s : State) : (tick n s).disp = s.disp := rfl
@[simp] theorem tick_fw (n : Nat) (s : State) : (tick n s).fw = s.fw := rfl

@[simp] theorem writeDram_time (s : State) (a : Nat) (l : List Byte) : (writeDram s a l).time = s.time := rfl
@[simp] theorem writeDram_fresh (s : State) (a : Nat) (l : List Byte) : (writeDram s a l).fresh = s.fresh := rfl
@[simp] theorem writeDram_schedule (s : State) (a : Nat) (l : List Byte) : (writeDram s a l).schedule = s.schedule := rfl
@[simp] theorem writeDram_focusCore (s : State) (a : Nat) (l : List Byte) : (writeDram s a l).focusCore = s.focusCore := rfl
@[simp] theorem writeDram_focusEng (s : State) (a : Nat) (l : List Byte) : (writeDram s a l).focusEng = s.focusEng := rfl
@[simp] theorem writeDram_pkg (s : State) (a : Nat) (l : List Byte) : (writeDram s a l).pkg = s.pkg := rfl
@[simp] theorem writeDram_cores (s : State) (a : Nat) (l : List Byte) : (writeDram s a l).cores = s.cores := rfl
@[simp] theorem writeDram_rou (s : State) (a : Nat) (l : List Byte) : (writeDram s a l).rou = s.rou := rfl
@[simp] theorem writeDram_disp (s : State) (a : Nat) (l : List Byte) : (writeDram s a l).disp = s.disp := rfl
@[simp] theorem writeDram_fw (s : State) (a : Nat) (l : List Byte) : (writeDram s a l).fw = s.fw := rfl

@[simp] theorem setMark_time (s : State) (a : Nat) (b : Bool) : (setMark s a b).time = s.time := rfl
@[simp] theorem setMark_fresh (s : State) (a : Nat) (b : Bool) : (setMark s a b).fresh = s.fresh := rfl
@[simp] theorem setMark_schedule (s : State) (a : Nat) (b : Bool) : (setMark s a b).schedule = s.schedule := rfl
@[simp] theorem setMark_focusCore (s : State) (a : Nat) (b : Bool) : (setMark s a b).focusCore = s.focusCore := rfl
@[simp] theorem setMark_focusEng (s : State) (a : Nat) (b : Bool) : (setMark s a b).focusEng = s.focusEng := rfl
@[simp] theorem setMark_pkg (s : State) (a : Nat) (b : Bool) : (setMark s a b).pkg = s.pkg := rfl
@[simp] theorem setMark_cores (s : State) (a : Nat) (b : Bool) : (setMark s a b).cores = s.cores := rfl
@[simp] theorem setMark_rou (s : State) (a : Nat) (b : Bool) : (setMark s a b).rou = s.rou := rfl
@[simp] theorem setMark_disp (s : State) (a : Nat) (b : Bool) : (setMark s a b).disp = s.disp := rfl
@[simp] theorem setMark_fw (s : State) (a : Nat) (b : Bool) : (setMark s a b).fw = s.fw := rfl

@[simp] theorem dropLine_time (s : State) (k : LineKey) : (dropLine s k).time = s.time := rfl
@[simp] theorem dropLine_fresh (s : State) (k : LineKey) : (dropLine s k).fresh = s.fresh := rfl
@[simp] theorem dropLine_schedule (s : State) (k : LineKey) : (dropLine s k).schedule = s.schedule := rfl
@[simp] theorem dropLine_focusCore (s : State) (k : LineKey) : (dropLine s k).focusCore = s.focusCore := rfl
@[simp] theorem dropLine_focusEng (s : State) (k : LineKey) : (dropLine s k).focusEng = s.focusEng := rfl
@[simp] theorem dropLine_pkg (s : State) (k : LineKey) : (dropLine s k).pkg = s.pkg := rfl
@[simp] theorem dropLine_cores (s : State) (k : LineKey) : (dropLine s k).cores = s.cores := rfl
@[simp] theorem dropLine_rou (s : State) (k : LineKey) : (dropLine s k).rou = s.rou := rfl
@[simp] theorem dropLine_disp (s : State) (k : LineKey) : (dropLine s k).disp = s.disp := rfl
@[simp] theorem dropLine_fw (s : State) (k : LineKey) : (dropLine s k).fw = s.fw := rfl

@[simp] theorem logStack_time (s : State) (k code : Nat) (p : List (Nat × Nat)) : (logStack s k code p).time = s.time := rfl
@[simp] theorem logStack_fresh (s : State) (k code : Nat) (p : List (Nat × Nat)) : (logStack s k code p).fresh = s.fresh := rfl
@[simp] theorem logStack_schedule (s : State) (k code : Nat) (p : List (Nat × Nat)) : (logStack s k code p).schedule = s.schedule := rfl
@[simp] theorem logStack_focusCore (s : State) (k code : Nat) (p : List (Nat × Nat)) : (logStack s k code p).focusCore = s.focusCore := rfl
@[simp] theorem logStack_focusEng (s : State) (k code : Nat) (p : List (Nat × Nat)) : (logStack s k code p).focusEng = s.focusEng := rfl
@[simp] theorem logStack_pkg (s : State) (k code : Nat) (p : List (Nat × Nat)) : (logStack s k code p).pkg = s.pkg := rfl
@[simp] theorem logStack_cores (s : State) (k code : Nat) (p : List (Nat × Nat)) : (logStack s k code p).cores = s.cores := rfl
@[simp] theorem logStack_hub (s : State) (k code : Nat) (p : List (Nat × Nat)) : (logStack s k code p).hub = s.hub := rfl
@[simp] theorem logStack_rou (s : State) (k code : Nat) (p : List (Nat × Nat)) : (logStack s k code p).rou = s.rou := rfl
@[simp] theorem logStack_disp (s : State) (k code : Nat) (p : List (Nat × Nat)) : (logStack s k code p).disp = s.disp := rfl

@[simp] theorem logTrap_time (s : State) (c e code pc : Nat) (a : Word) : (logTrap s c e code pc a).time = s.time := rfl
@[simp] theorem logTrap_fresh (s : State) (c e code pc : Nat) (a : Word) : (logTrap s c e code pc a).fresh = s.fresh := rfl
@[simp] theorem logTrap_schedule (s : State) (c e code pc : Nat) (a : Word) : (logTrap s c e code pc a).schedule = s.schedule := rfl
@[simp] theorem logTrap_focusCore (s : State) (c e code pc : Nat) (a : Word) : (logTrap s c e code pc a).focusCore = s.focusCore := rfl
@[simp] theorem logTrap_focusEng (s : State) (c e code pc : Nat) (a : Word) : (logTrap s c e code pc a).focusEng = s.focusEng := rfl
@[simp] theorem logTrap_pkg (s : State) (c e code pc : Nat) (a : Word) : (logTrap s c e code pc a).pkg = s.pkg := rfl
@[simp] theorem logTrap_cores (s : State) (c e code pc : Nat) (a : Word) : (logTrap s c e code pc a).cores = s.cores := rfl
@[simp] theorem logTrap_hub (s : State) (c e code pc : Nat) (a : Word) : (logTrap s c e code pc a).hub = s.hub := rfl
@[simp] theorem logTrap_rou (s : State) (c e code pc : Nat) (a : Word) : (logTrap s c e code pc a).rou = s.rou := rfl
@[simp] theorem logTrap_disp (s : State) (c e code pc : Nat) (a : Word) : (logTrap s c e code pc a).disp = s.disp := rfl

@[simp] theorem sendMsix_time (s : State) (v : Nat) : (sendMsix s v).time = s.time := rfl
@[simp] theorem sendMsix_fresh (s : State) (v : Nat) : (sendMsix s v).fresh = s.fresh := rfl
@[simp] theorem sendMsix_schedule (s : State) (v : Nat) : (sendMsix s v).schedule = s.schedule := rfl
@[simp] theorem sendMsix_focusCore (s : State) (v : Nat) : (sendMsix s v).focusCore = s.focusCore := rfl
@[simp] theorem sendMsix_focusEng (s : State) (v : Nat) : (sendMsix s v).focusEng = s.focusEng := rfl
@[simp] theorem sendMsix_pkg (s : State) (v : Nat) : (sendMsix s v).pkg = s.pkg := rfl
@[simp] theorem sendMsix_cores (s : State) (v : Nat) : (sendMsix s v).cores = s.cores := rfl
@[simp] theorem sendMsix_hub (s : State) (v : Nat) : (sendMsix s v).hub = s.hub := rfl
@[simp] theorem sendMsix_rou (s : State) (v : Nat) : (sendMsix s v).rou = s.rou := rfl
@[simp] theorem sendMsix_disp (s : State) (v : Nat) : (sendMsix s v).disp = s.disp := rfl

/-! ### One core -/

@[simp] theorem setSem_inService (cs : CoreSt) (n : Nat) (v : Sem) : (setSem cs n v).inService = cs.inService := rfl
@[simp] theorem setSem_occ (cs : CoreSt) (n : Nat) (v : Sem) : (setSem cs n v).occ = cs.occ := rfl
@[simp] theorem setSem_run (cs : CoreSt) (n : Nat) (v : Sem) : (setSem cs n v).run = cs.run := rfl
@[simp] theorem setSem_seq (cs : CoreSt) (n : Nat) (v : Sem) : (setSem cs n v).seq = cs.seq := rfl
@[simp] theorem setSem_mem (cs : CoreSt) (n : Nat) (v : Sem) : (setSem cs n v).mem = cs.mem := rfl
@[simp] theorem setSem_vec (cs : CoreSt) (n : Nat) (v : Sem) : (setSem cs n v).vec = cs.vec := rfl
@[simp] theorem setSem_mtx (cs : CoreSt) (n : Nat) (v : Sem) : (setSem cs n v).mtx = cs.mtx := rfl
@[simp] theorem setSem_preds (cs : CoreSt) (n : Nat) (v : Sem) : (setSem cs n v).preds = cs.preds := rfl
@[simp] theorem setSem_resBase (cs : CoreSt) (n : Nat) (v : Sem) : (setSem cs n v).resBase = cs.resBase := rfl
@[simp] theorem setSem_resStart (cs : CoreSt) (n : Nat) (v : Sem) : (setSem cs n v).resStart = cs.resStart := rfl
@[simp] theorem setSem_stoppedAt (cs : CoreSt) (n : Nat) (v : Sem) : (setSem cs n v).stoppedAt = cs.stoppedAt := rfl
@[simp] theorem setSem_restartAt (cs : CoreSt) (n : Nat) (v : Sem) : (setSem cs n v).restartAt = cs.restartAt := rfl
@[simp] theorem setSem_estVal (cs : CoreSt) (n : Nat) (v : Sem) : (setSem cs n v).estVal = cs.estVal := rfl
@[simp] theorem setSem_estAt (cs : CoreSt) (n : Nat) (v : Sem) : (setSem cs n v).estAt = cs.estAt := rfl
@[simp] theorem setSem_masks (cs : CoreSt) (n : Nat) (v : Sem) : (setSem cs n v).masks = cs.masks := rfl
@[simp] theorem setSem_bps (cs : CoreSt) (n : Nat) (v : Sem) : (setSem cs n v).bps = cs.bps := rfl
@[simp] theorem setSem_vregs (cs : CoreSt) (n : Nat) (v : Sem) : (setSem cs n v).vregs = cs.vregs := rfl
@[simp] theorem setSem_tiles (cs : CoreSt) (n : Nat) (v : Sem) : (setSem cs n v).tiles = cs.tiles := rfl
@[simp] theorem setSem_tcT (cs : CoreSt) (n : Nat) (v : Sem) : (setSem cs n v).tcT = cs.tcT := rfl
@[simp] theorem setSem_tcAcc (cs : CoreSt) (n : Nat) (v : Sem) : (setSem cs n v).tcAcc = cs.tcAcc := rfl
@[simp] theorem setSem_shadow (cs : CoreSt) (n : Nat) (v : Sem) : (setSem cs n v).shadow = cs.shadow := rfl
@[simp] theorem setSem_held (cs : CoreSt) (n : Nat) (v : Sem) : (setSem cs n v).held = cs.held := rfl
@[simp] theorem setSem_heldTo (cs : CoreSt) (n : Nat) (v : Sem) : (setSem cs n v).heldTo = cs.heldTo := rfl
@[simp] theorem setSem_pairPend (cs : CoreSt) (n : Nat) (v : Sem) : (setSem cs n v).pairPend = cs.pairPend := rfl
@[simp] theorem setSem_spm (cs : CoreSt) (n : Nat) (v : Sem) : (setSem cs n v).spm = cs.spm := rfl
@[simp] theorem setSem_spmPoison (cs : CoreSt) (n : Nat) (v : Sem) : (setSem cs n v).spmPoison = cs.spmPoison := rfl
@[simp] theorem setSem_semLog (cs : CoreSt) (n : Nat) (v : Sem) : (setSem cs n v).semLog = cs.semLog := rfl
@[simp] theorem setSem_qsMem (cs : CoreSt) (n : Nat) (v : Sem) : (setSem cs n v).qsMem = cs.qsMem := rfl
@[simp] theorem setSem_qsVec (cs : CoreSt) (n : Nat) (v : Sem) : (setSem cs n v).qsVec = cs.qsVec := rfl
@[simp] theorem setSem_qsMtx (cs : CoreSt) (n : Nat) (v : Sem) : (setSem cs n v).qsMtx = cs.qsMtx := rfl
@[simp] theorem setSem_qr (cs : CoreSt) (n : Nat) (v : Sem) : (setSem cs n v).qr = cs.qr := rfl
@[simp] theorem setSem_freed (cs : CoreSt) (n : Nat) (v : Sem) : (setSem cs n v).freed = cs.freed := rfl
@[simp] theorem setSem_dqs (cs : CoreSt) (n : Nat) (v : Sem) : (setSem cs n v).dqs = cs.dqs := rfl
@[simp] theorem setSem_flights (cs : CoreSt) (n : Nat) (v : Sem) : (setSem cs n v).flights = cs.flights := rfl
@[simp] theorem setSem_nextId (cs : CoreSt) (n : Nat) (v : Sem) : (setSem cs n v).nextId = cs.nextId := rfl
@[simp] theorem setSem_accesses (cs : CoreSt) (n : Nat) (v : Sem) : (setSem cs n v).accesses = cs.accesses := rfl
@[simp] theorem setSem_mseWait (cs : CoreSt) (n : Nat) (v : Sem) : (setSem cs n v).mseWait = cs.mseWait := rfl
@[simp] theorem setSem_l1 (cs : CoreSt) (n : Nat) (v : Sem) : (setSem cs n v).l1 = cs.l1 := rfl
@[simp] theorem setSem_inbox (cs : CoreSt) (n : Nat) (v : Sem) : (setSem cs n v).inbox = cs.inbox := rfl
@[simp] theorem setSem_wbOut (cs : CoreSt) (n : Nat) (v : Sem) : (setSem cs n v).wbOut = cs.wbOut := rfl
@[simp] theorem setSem_rvkOut (cs : CoreSt) (n : Nat) (v : Sem) : (setSem cs n v).rvkOut = cs.rvkOut := rfl
@[simp] theorem setSem_fwdOut (cs : CoreSt) (n : Nat) (v : Sem) : (setSem cs n v).fwdOut = cs.fwdOut := rfl
@[simp] theorem setSem_imemSeq (cs : CoreSt) (n : Nat) (v : Sem) : (setSem cs n v).imemSeq = cs.imemSeq := rfl
@[simp] theorem setSem_imemMem (cs : CoreSt) (n : Nat) (v : Sem) : (setSem cs n v).imemMem = cs.imemMem := rfl
@[simp] theorem setSem_imemVec (cs : CoreSt) (n : Nat) (v : Sem) : (setSem cs n v).imemVec = cs.imemVec := rfl
@[simp] theorem setSem_imemMtx (cs : CoreSt) (n : Nat) (v : Sem) : (setSem cs n v).imemMtx = cs.imemMtx := rfl
@[simp] theorem setSem_banks (cs : CoreSt) (n : Nat) (v : Sem) : (setSem cs n v).banks = cs.banks := rfl
@[simp] theorem setSem_rowJobs (cs : CoreSt) (n : Nat) (v : Sem) : (setSem cs n v).rowJobs = cs.rowJobs := rfl
@[simp] theorem setSem_actCount (cs : CoreSt) (n : Nat) (v : Sem) : (setSem cs n v).actCount = cs.actCount := rfl
@[simp] theorem setSem_actTimes (cs : CoreSt) (n : Nat) (v : Sem) : (setSem cs n v).actTimes = cs.actTimes := rfl
@[simp] theorem setSem_cq0 (cs : CoreSt) (n : Nat) (v : Sem) : (setSem cs n v).cq0 = cs.cq0 := rfl
@[simp] theorem setSem_cq1 (cs : CoreSt) (n : Nat) (v : Sem) : (setSem cs n v).cq1 = cs.cq1 := rfl
@[simp] theorem setSem_cqSeq (cs : CoreSt) (n : Nat) (v : Sem) : (setSem cs n v).cqSeq = cs.cqSeq := rfl
@[simp] theorem setSem_pend (cs : CoreSt) (n : Nat) (v : Sem) : (setSem cs n v).pend = cs.pend := rfl
@[simp] theorem setSem_bindCore (cs : CoreSt) (n : Nat) (v : Sem) : (setSem cs n v).bindCore = cs.bindCore := rfl
@[simp] theorem setSem_bindCq0 (cs : CoreSt) (n : Nat) (v : Sem) : (setSem cs n v).bindCq0 = cs.bindCq0 := rfl
@[simp] theorem setSem_bindCq1 (cs : CoreSt) (n : Nat) (v : Sem) : (setSem cs n v).bindCq1 = cs.bindCq1 := rfl
@[simp] theorem setSem_rfail (cs : CoreSt) (n : Nat) (v : Sem) : (setSem cs n v).rfail = cs.rfail := rfl
@[simp] theorem setSem_tagOps (cs : CoreSt) (n : Nat) (v : Sem) : (setSem cs n v).tagOps = cs.tagOps := rfl
@[simp] theorem setSem_children (cs : CoreSt) (n : Nat) (v : Sem) : (setSem cs n v).children = cs.children := rfl
@[simp] theorem setSem_childId (cs : CoreSt) (n : Nat) (v : Sem) : (setSem cs n v).childId = cs.childId := rfl
@[simp] theorem setSem_watch (cs : CoreSt) (n : Nat) (v : Sem) : (setSem cs n v).watch = cs.watch := rfl
@[simp] theorem setSem_overflow (cs : CoreSt) (n : Nat) (v : Sem) : (setSem cs n v).overflow = cs.overflow := rfl
@[simp] theorem setSem_deadline (cs : CoreSt) (n : Nat) (v : Sem) : (setSem cs n v).deadline = cs.deadline := rfl
@[simp] theorem setSem_acqPending (cs : CoreSt) (n : Nat) (v : Sem) : (setSem cs n v).acqPending = cs.acqPending := rfl
@[simp] theorem setSem_exitStatus (cs : CoreSt) (n : Nat) (v : Sem) : (setSem cs n v).exitStatus = cs.exitStatus := rfl
@[simp] theorem setSem_rspIn (cs : CoreSt) (n : Nat) (v : Sem) : (setSem cs n v).rspIn = cs.rspIn := rfl
@[simp] theorem setSem_tcode (cs : CoreSt) (n : Nat) (v : Sem) : (setSem cs n v).tcode = cs.tcode := rfl
@[simp] theorem setSem_tcodePrio (cs : CoreSt) (n : Nat) (v : Sem) : (setSem cs n v).tcodePrio = cs.tcodePrio := rfl
@[simp] theorem setSem_tcodeEng (cs : CoreSt) (n : Nat) (v : Sem) : (setSem cs n v).tcodeEng = cs.tcodeEng := rfl
@[simp] theorem setSem_tileTrap (cs : CoreSt) (n : Nat) (v : Sem) : (setSem cs n v).tileTrap = cs.tileTrap := rfl
@[simp] theorem setSem_bkptArg (cs : CoreSt) (n : Nat) (v : Sem) : (setSem cs n v).bkptArg = cs.bkptArg := rfl
@[simp] theorem setSem_cqArg (cs : CoreSt) (n : Nat) (v : Sem) : (setSem cs n v).cqArg = cs.cqArg := rfl
@[simp] theorem setSem_event (cs : CoreSt) (n : Nat) (v : Sem) : (setSem cs n v).event = cs.event := rfl
@[simp] theorem setSem_grace (cs : CoreSt) (n : Nat) (v : Sem) : (setSem cs n v).grace = cs.grace := rfl

@[simp] theorem decSem_inService (cs : CoreSt) (n : Nat) : (decSem cs n).inService = cs.inService := rfl
@[simp] theorem decSem_occ (cs : CoreSt) (n : Nat) : (decSem cs n).occ = cs.occ := rfl
@[simp] theorem decSem_run (cs : CoreSt) (n : Nat) : (decSem cs n).run = cs.run := rfl
@[simp] theorem decSem_seq (cs : CoreSt) (n : Nat) : (decSem cs n).seq = cs.seq := rfl
@[simp] theorem decSem_mem (cs : CoreSt) (n : Nat) : (decSem cs n).mem = cs.mem := rfl
@[simp] theorem decSem_vec (cs : CoreSt) (n : Nat) : (decSem cs n).vec = cs.vec := rfl
@[simp] theorem decSem_mtx (cs : CoreSt) (n : Nat) : (decSem cs n).mtx = cs.mtx := rfl
@[simp] theorem decSem_preds (cs : CoreSt) (n : Nat) : (decSem cs n).preds = cs.preds := rfl
@[simp] theorem decSem_resBase (cs : CoreSt) (n : Nat) : (decSem cs n).resBase = cs.resBase := rfl
@[simp] theorem decSem_resStart (cs : CoreSt) (n : Nat) : (decSem cs n).resStart = cs.resStart := rfl
@[simp] theorem decSem_stoppedAt (cs : CoreSt) (n : Nat) : (decSem cs n).stoppedAt = cs.stoppedAt := rfl
@[simp] theorem decSem_restartAt (cs : CoreSt) (n : Nat) : (decSem cs n).restartAt = cs.restartAt := rfl
@[simp] theorem decSem_estVal (cs : CoreSt) (n : Nat) : (decSem cs n).estVal = cs.estVal := rfl
@[simp] theorem decSem_estAt (cs : CoreSt) (n : Nat) : (decSem cs n).estAt = cs.estAt := rfl
@[simp] theorem decSem_masks (cs : CoreSt) (n : Nat) : (decSem cs n).masks = cs.masks := rfl
@[simp] theorem decSem_bps (cs : CoreSt) (n : Nat) : (decSem cs n).bps = cs.bps := rfl
@[simp] theorem decSem_vregs (cs : CoreSt) (n : Nat) : (decSem cs n).vregs = cs.vregs := rfl
@[simp] theorem decSem_tiles (cs : CoreSt) (n : Nat) : (decSem cs n).tiles = cs.tiles := rfl
@[simp] theorem decSem_tcT (cs : CoreSt) (n : Nat) : (decSem cs n).tcT = cs.tcT := rfl
@[simp] theorem decSem_tcAcc (cs : CoreSt) (n : Nat) : (decSem cs n).tcAcc = cs.tcAcc := rfl
@[simp] theorem decSem_shadow (cs : CoreSt) (n : Nat) : (decSem cs n).shadow = cs.shadow := rfl
@[simp] theorem decSem_held (cs : CoreSt) (n : Nat) : (decSem cs n).held = cs.held := rfl
@[simp] theorem decSem_heldTo (cs : CoreSt) (n : Nat) : (decSem cs n).heldTo = cs.heldTo := rfl
@[simp] theorem decSem_pairPend (cs : CoreSt) (n : Nat) : (decSem cs n).pairPend = cs.pairPend := rfl
@[simp] theorem decSem_spm (cs : CoreSt) (n : Nat) : (decSem cs n).spm = cs.spm := rfl
@[simp] theorem decSem_spmPoison (cs : CoreSt) (n : Nat) : (decSem cs n).spmPoison = cs.spmPoison := rfl
@[simp] theorem decSem_semLog (cs : CoreSt) (n : Nat) : (decSem cs n).semLog = cs.semLog := rfl
@[simp] theorem decSem_qsMem (cs : CoreSt) (n : Nat) : (decSem cs n).qsMem = cs.qsMem := rfl
@[simp] theorem decSem_qsVec (cs : CoreSt) (n : Nat) : (decSem cs n).qsVec = cs.qsVec := rfl
@[simp] theorem decSem_qsMtx (cs : CoreSt) (n : Nat) : (decSem cs n).qsMtx = cs.qsMtx := rfl
@[simp] theorem decSem_qr (cs : CoreSt) (n : Nat) : (decSem cs n).qr = cs.qr := rfl
@[simp] theorem decSem_freed (cs : CoreSt) (n : Nat) : (decSem cs n).freed = cs.freed := rfl
@[simp] theorem decSem_dqs (cs : CoreSt) (n : Nat) : (decSem cs n).dqs = cs.dqs := rfl
@[simp] theorem decSem_flights (cs : CoreSt) (n : Nat) : (decSem cs n).flights = cs.flights := rfl
@[simp] theorem decSem_nextId (cs : CoreSt) (n : Nat) : (decSem cs n).nextId = cs.nextId := rfl
@[simp] theorem decSem_accesses (cs : CoreSt) (n : Nat) : (decSem cs n).accesses = cs.accesses := rfl
@[simp] theorem decSem_mseWait (cs : CoreSt) (n : Nat) : (decSem cs n).mseWait = cs.mseWait := rfl
@[simp] theorem decSem_l1 (cs : CoreSt) (n : Nat) : (decSem cs n).l1 = cs.l1 := rfl
@[simp] theorem decSem_inbox (cs : CoreSt) (n : Nat) : (decSem cs n).inbox = cs.inbox := rfl
@[simp] theorem decSem_wbOut (cs : CoreSt) (n : Nat) : (decSem cs n).wbOut = cs.wbOut := rfl
@[simp] theorem decSem_rvkOut (cs : CoreSt) (n : Nat) : (decSem cs n).rvkOut = cs.rvkOut := rfl
@[simp] theorem decSem_fwdOut (cs : CoreSt) (n : Nat) : (decSem cs n).fwdOut = cs.fwdOut := rfl
@[simp] theorem decSem_imemSeq (cs : CoreSt) (n : Nat) : (decSem cs n).imemSeq = cs.imemSeq := rfl
@[simp] theorem decSem_imemMem (cs : CoreSt) (n : Nat) : (decSem cs n).imemMem = cs.imemMem := rfl
@[simp] theorem decSem_imemVec (cs : CoreSt) (n : Nat) : (decSem cs n).imemVec = cs.imemVec := rfl
@[simp] theorem decSem_imemMtx (cs : CoreSt) (n : Nat) : (decSem cs n).imemMtx = cs.imemMtx := rfl
@[simp] theorem decSem_banks (cs : CoreSt) (n : Nat) : (decSem cs n).banks = cs.banks := rfl
@[simp] theorem decSem_rowJobs (cs : CoreSt) (n : Nat) : (decSem cs n).rowJobs = cs.rowJobs := rfl
@[simp] theorem decSem_actCount (cs : CoreSt) (n : Nat) : (decSem cs n).actCount = cs.actCount := rfl
@[simp] theorem decSem_actTimes (cs : CoreSt) (n : Nat) : (decSem cs n).actTimes = cs.actTimes := rfl
@[simp] theorem decSem_cq0 (cs : CoreSt) (n : Nat) : (decSem cs n).cq0 = cs.cq0 := rfl
@[simp] theorem decSem_cq1 (cs : CoreSt) (n : Nat) : (decSem cs n).cq1 = cs.cq1 := rfl
@[simp] theorem decSem_cqSeq (cs : CoreSt) (n : Nat) : (decSem cs n).cqSeq = cs.cqSeq := rfl
@[simp] theorem decSem_pend (cs : CoreSt) (n : Nat) : (decSem cs n).pend = cs.pend := rfl
@[simp] theorem decSem_bindCore (cs : CoreSt) (n : Nat) : (decSem cs n).bindCore = cs.bindCore := rfl
@[simp] theorem decSem_bindCq0 (cs : CoreSt) (n : Nat) : (decSem cs n).bindCq0 = cs.bindCq0 := rfl
@[simp] theorem decSem_bindCq1 (cs : CoreSt) (n : Nat) : (decSem cs n).bindCq1 = cs.bindCq1 := rfl
@[simp] theorem decSem_rfail (cs : CoreSt) (n : Nat) : (decSem cs n).rfail = cs.rfail := rfl
@[simp] theorem decSem_tagOps (cs : CoreSt) (n : Nat) : (decSem cs n).tagOps = cs.tagOps := rfl
@[simp] theorem decSem_children (cs : CoreSt) (n : Nat) : (decSem cs n).children = cs.children := rfl
@[simp] theorem decSem_childId (cs : CoreSt) (n : Nat) : (decSem cs n).childId = cs.childId := rfl
@[simp] theorem decSem_watch (cs : CoreSt) (n : Nat) : (decSem cs n).watch = cs.watch := rfl
@[simp] theorem decSem_overflow (cs : CoreSt) (n : Nat) : (decSem cs n).overflow = cs.overflow := rfl
@[simp] theorem decSem_deadline (cs : CoreSt) (n : Nat) : (decSem cs n).deadline = cs.deadline := rfl
@[simp] theorem decSem_acqPending (cs : CoreSt) (n : Nat) : (decSem cs n).acqPending = cs.acqPending := rfl
@[simp] theorem decSem_exitStatus (cs : CoreSt) (n : Nat) : (decSem cs n).exitStatus = cs.exitStatus := rfl
@[simp] theorem decSem_rspIn (cs : CoreSt) (n : Nat) : (decSem cs n).rspIn = cs.rspIn := rfl
@[simp] theorem decSem_tcode (cs : CoreSt) (n : Nat) : (decSem cs n).tcode = cs.tcode := rfl
@[simp] theorem decSem_tcodePrio (cs : CoreSt) (n : Nat) : (decSem cs n).tcodePrio = cs.tcodePrio := rfl
@[simp] theorem decSem_tcodeEng (cs : CoreSt) (n : Nat) : (decSem cs n).tcodeEng = cs.tcodeEng := rfl
@[simp] theorem decSem_tileTrap (cs : CoreSt) (n : Nat) : (decSem cs n).tileTrap = cs.tileTrap := rfl
@[simp] theorem decSem_bkptArg (cs : CoreSt) (n : Nat) : (decSem cs n).bkptArg = cs.bkptArg := rfl
@[simp] theorem decSem_cqArg (cs : CoreSt) (n : Nat) : (decSem cs n).cqArg = cs.cqArg := rfl
@[simp] theorem decSem_event (cs : CoreSt) (n : Nat) : (decSem cs n).event = cs.event := rfl
@[simp] theorem decSem_grace (cs : CoreSt) (n : Nat) : (decSem cs n).grace = cs.grace := rfl

@[simp] theorem grantWait_inService (t : Nat) (cs : CoreSt) (n : Nat) : (grantWait t cs n).inService = cs.inService := rfl
@[simp] theorem grantWait_occ (t : Nat) (cs : CoreSt) (n : Nat) : (grantWait t cs n).occ = cs.occ := rfl
@[simp] theorem grantWait_run (t : Nat) (cs : CoreSt) (n : Nat) : (grantWait t cs n).run = cs.run := rfl
@[simp] theorem grantWait_seq (t : Nat) (cs : CoreSt) (n : Nat) : (grantWait t cs n).seq = cs.seq := rfl
@[simp] theorem grantWait_mem (t : Nat) (cs : CoreSt) (n : Nat) : (grantWait t cs n).mem = cs.mem := rfl
@[simp] theorem grantWait_vec (t : Nat) (cs : CoreSt) (n : Nat) : (grantWait t cs n).vec = cs.vec := rfl
@[simp] theorem grantWait_mtx (t : Nat) (cs : CoreSt) (n : Nat) : (grantWait t cs n).mtx = cs.mtx := rfl
@[simp] theorem grantWait_preds (t : Nat) (cs : CoreSt) (n : Nat) : (grantWait t cs n).preds = cs.preds := rfl
@[simp] theorem grantWait_resBase (t : Nat) (cs : CoreSt) (n : Nat) : (grantWait t cs n).resBase = cs.resBase := rfl
@[simp] theorem grantWait_resStart (t : Nat) (cs : CoreSt) (n : Nat) : (grantWait t cs n).resStart = cs.resStart := rfl
@[simp] theorem grantWait_stoppedAt (t : Nat) (cs : CoreSt) (n : Nat) : (grantWait t cs n).stoppedAt = cs.stoppedAt := rfl
@[simp] theorem grantWait_restartAt (t : Nat) (cs : CoreSt) (n : Nat) : (grantWait t cs n).restartAt = cs.restartAt := rfl
@[simp] theorem grantWait_estVal (t : Nat) (cs : CoreSt) (n : Nat) : (grantWait t cs n).estVal = cs.estVal := rfl
@[simp] theorem grantWait_estAt (t : Nat) (cs : CoreSt) (n : Nat) : (grantWait t cs n).estAt = cs.estAt := rfl
@[simp] theorem grantWait_masks (t : Nat) (cs : CoreSt) (n : Nat) : (grantWait t cs n).masks = cs.masks := rfl
@[simp] theorem grantWait_bps (t : Nat) (cs : CoreSt) (n : Nat) : (grantWait t cs n).bps = cs.bps := rfl
@[simp] theorem grantWait_vregs (t : Nat) (cs : CoreSt) (n : Nat) : (grantWait t cs n).vregs = cs.vregs := rfl
@[simp] theorem grantWait_tiles (t : Nat) (cs : CoreSt) (n : Nat) : (grantWait t cs n).tiles = cs.tiles := rfl
@[simp] theorem grantWait_tcT (t : Nat) (cs : CoreSt) (n : Nat) : (grantWait t cs n).tcT = cs.tcT := rfl
@[simp] theorem grantWait_tcAcc (t : Nat) (cs : CoreSt) (n : Nat) : (grantWait t cs n).tcAcc = cs.tcAcc := rfl
@[simp] theorem grantWait_shadow (t : Nat) (cs : CoreSt) (n : Nat) : (grantWait t cs n).shadow = cs.shadow := rfl
@[simp] theorem grantWait_held (t : Nat) (cs : CoreSt) (n : Nat) : (grantWait t cs n).held = cs.held := rfl
@[simp] theorem grantWait_heldTo (t : Nat) (cs : CoreSt) (n : Nat) : (grantWait t cs n).heldTo = cs.heldTo := rfl
@[simp] theorem grantWait_pairPend (t : Nat) (cs : CoreSt) (n : Nat) : (grantWait t cs n).pairPend = cs.pairPend := rfl
@[simp] theorem grantWait_spm (t : Nat) (cs : CoreSt) (n : Nat) : (grantWait t cs n).spm = cs.spm := rfl
@[simp] theorem grantWait_spmPoison (t : Nat) (cs : CoreSt) (n : Nat) : (grantWait t cs n).spmPoison = cs.spmPoison := rfl
@[simp] theorem grantWait_qsMem (t : Nat) (cs : CoreSt) (n : Nat) : (grantWait t cs n).qsMem = cs.qsMem := rfl
@[simp] theorem grantWait_qsVec (t : Nat) (cs : CoreSt) (n : Nat) : (grantWait t cs n).qsVec = cs.qsVec := rfl
@[simp] theorem grantWait_qsMtx (t : Nat) (cs : CoreSt) (n : Nat) : (grantWait t cs n).qsMtx = cs.qsMtx := rfl
@[simp] theorem grantWait_qr (t : Nat) (cs : CoreSt) (n : Nat) : (grantWait t cs n).qr = cs.qr := rfl
@[simp] theorem grantWait_freed (t : Nat) (cs : CoreSt) (n : Nat) : (grantWait t cs n).freed = cs.freed := rfl
@[simp] theorem grantWait_dqs (t : Nat) (cs : CoreSt) (n : Nat) : (grantWait t cs n).dqs = cs.dqs := rfl
@[simp] theorem grantWait_flights (t : Nat) (cs : CoreSt) (n : Nat) : (grantWait t cs n).flights = cs.flights := rfl
@[simp] theorem grantWait_nextId (t : Nat) (cs : CoreSt) (n : Nat) : (grantWait t cs n).nextId = cs.nextId := rfl
@[simp] theorem grantWait_accesses (t : Nat) (cs : CoreSt) (n : Nat) : (grantWait t cs n).accesses = cs.accesses := rfl
@[simp] theorem grantWait_mseWait (t : Nat) (cs : CoreSt) (n : Nat) : (grantWait t cs n).mseWait = cs.mseWait := rfl
@[simp] theorem grantWait_l1 (t : Nat) (cs : CoreSt) (n : Nat) : (grantWait t cs n).l1 = cs.l1 := rfl
@[simp] theorem grantWait_inbox (t : Nat) (cs : CoreSt) (n : Nat) : (grantWait t cs n).inbox = cs.inbox := rfl
@[simp] theorem grantWait_wbOut (t : Nat) (cs : CoreSt) (n : Nat) : (grantWait t cs n).wbOut = cs.wbOut := rfl
@[simp] theorem grantWait_rvkOut (t : Nat) (cs : CoreSt) (n : Nat) : (grantWait t cs n).rvkOut = cs.rvkOut := rfl
@[simp] theorem grantWait_fwdOut (t : Nat) (cs : CoreSt) (n : Nat) : (grantWait t cs n).fwdOut = cs.fwdOut := rfl
@[simp] theorem grantWait_imemSeq (t : Nat) (cs : CoreSt) (n : Nat) : (grantWait t cs n).imemSeq = cs.imemSeq := rfl
@[simp] theorem grantWait_imemMem (t : Nat) (cs : CoreSt) (n : Nat) : (grantWait t cs n).imemMem = cs.imemMem := rfl
@[simp] theorem grantWait_imemVec (t : Nat) (cs : CoreSt) (n : Nat) : (grantWait t cs n).imemVec = cs.imemVec := rfl
@[simp] theorem grantWait_imemMtx (t : Nat) (cs : CoreSt) (n : Nat) : (grantWait t cs n).imemMtx = cs.imemMtx := rfl
@[simp] theorem grantWait_banks (t : Nat) (cs : CoreSt) (n : Nat) : (grantWait t cs n).banks = cs.banks := rfl
@[simp] theorem grantWait_rowJobs (t : Nat) (cs : CoreSt) (n : Nat) : (grantWait t cs n).rowJobs = cs.rowJobs := rfl
@[simp] theorem grantWait_actCount (t : Nat) (cs : CoreSt) (n : Nat) : (grantWait t cs n).actCount = cs.actCount := rfl
@[simp] theorem grantWait_actTimes (t : Nat) (cs : CoreSt) (n : Nat) : (grantWait t cs n).actTimes = cs.actTimes := rfl
@[simp] theorem grantWait_cq0 (t : Nat) (cs : CoreSt) (n : Nat) : (grantWait t cs n).cq0 = cs.cq0 := rfl
@[simp] theorem grantWait_cq1 (t : Nat) (cs : CoreSt) (n : Nat) : (grantWait t cs n).cq1 = cs.cq1 := rfl
@[simp] theorem grantWait_cqSeq (t : Nat) (cs : CoreSt) (n : Nat) : (grantWait t cs n).cqSeq = cs.cqSeq := rfl
@[simp] theorem grantWait_pend (t : Nat) (cs : CoreSt) (n : Nat) : (grantWait t cs n).pend = cs.pend := rfl
@[simp] theorem grantWait_bindCore (t : Nat) (cs : CoreSt) (n : Nat) : (grantWait t cs n).bindCore = cs.bindCore := rfl
@[simp] theorem grantWait_bindCq0 (t : Nat) (cs : CoreSt) (n : Nat) : (grantWait t cs n).bindCq0 = cs.bindCq0 := rfl
@[simp] theorem grantWait_bindCq1 (t : Nat) (cs : CoreSt) (n : Nat) : (grantWait t cs n).bindCq1 = cs.bindCq1 := rfl
@[simp] theorem grantWait_rfail (t : Nat) (cs : CoreSt) (n : Nat) : (grantWait t cs n).rfail = cs.rfail := rfl
@[simp] theorem grantWait_tagOps (t : Nat) (cs : CoreSt) (n : Nat) : (grantWait t cs n).tagOps = cs.tagOps := rfl
@[simp] theorem grantWait_children (t : Nat) (cs : CoreSt) (n : Nat) : (grantWait t cs n).children = cs.children := rfl
@[simp] theorem grantWait_childId (t : Nat) (cs : CoreSt) (n : Nat) : (grantWait t cs n).childId = cs.childId := rfl
@[simp] theorem grantWait_watch (t : Nat) (cs : CoreSt) (n : Nat) : (grantWait t cs n).watch = cs.watch := rfl
@[simp] theorem grantWait_overflow (t : Nat) (cs : CoreSt) (n : Nat) : (grantWait t cs n).overflow = cs.overflow := rfl
@[simp] theorem grantWait_deadline (t : Nat) (cs : CoreSt) (n : Nat) : (grantWait t cs n).deadline = cs.deadline := rfl
@[simp] theorem grantWait_acqPending (t : Nat) (cs : CoreSt) (n : Nat) : (grantWait t cs n).acqPending = cs.acqPending := rfl
@[simp] theorem grantWait_exitStatus (t : Nat) (cs : CoreSt) (n : Nat) : (grantWait t cs n).exitStatus = cs.exitStatus := rfl
@[simp] theorem grantWait_rspIn (t : Nat) (cs : CoreSt) (n : Nat) : (grantWait t cs n).rspIn = cs.rspIn := rfl
@[simp] theorem grantWait_tcode (t : Nat) (cs : CoreSt) (n : Nat) : (grantWait t cs n).tcode = cs.tcode := rfl
@[simp] theorem grantWait_tcodePrio (t : Nat) (cs : CoreSt) (n : Nat) : (grantWait t cs n).tcodePrio = cs.tcodePrio := rfl
@[simp] theorem grantWait_tcodeEng (t : Nat) (cs : CoreSt) (n : Nat) : (grantWait t cs n).tcodeEng = cs.tcodeEng := rfl
@[simp] theorem grantWait_tileTrap (t : Nat) (cs : CoreSt) (n : Nat) : (grantWait t cs n).tileTrap = cs.tileTrap := rfl
@[simp] theorem grantWait_bkptArg (t : Nat) (cs : CoreSt) (n : Nat) : (grantWait t cs n).bkptArg = cs.bkptArg := rfl
@[simp] theorem grantWait_cqArg (t : Nat) (cs : CoreSt) (n : Nat) : (grantWait t cs n).cqArg = cs.cqArg := rfl
@[simp] theorem grantWait_event (t : Nat) (cs : CoreSt) (n : Nat) : (grantWait t cs n).event = cs.event := rfl
@[simp] theorem grantWait_grace (t : Nat) (cs : CoreSt) (n : Nat) : (grantWait t cs n).grace = cs.grace := rfl

@[simp] theorem applyPost_inService (t : Nat) (cs : CoreSt) (r n : Nat) : (applyPost t cs r n).inService = cs.inService := rfl
@[simp] theorem applyPost_occ (t : Nat) (cs : CoreSt) (r n : Nat) : (applyPost t cs r n).occ = cs.occ := rfl
@[simp] theorem applyPost_run (t : Nat) (cs : CoreSt) (r n : Nat) : (applyPost t cs r n).run = cs.run := rfl
@[simp] theorem applyPost_seq (t : Nat) (cs : CoreSt) (r n : Nat) : (applyPost t cs r n).seq = cs.seq := rfl
@[simp] theorem applyPost_mem (t : Nat) (cs : CoreSt) (r n : Nat) : (applyPost t cs r n).mem = cs.mem := rfl
@[simp] theorem applyPost_vec (t : Nat) (cs : CoreSt) (r n : Nat) : (applyPost t cs r n).vec = cs.vec := rfl
@[simp] theorem applyPost_mtx (t : Nat) (cs : CoreSt) (r n : Nat) : (applyPost t cs r n).mtx = cs.mtx := rfl
@[simp] theorem applyPost_preds (t : Nat) (cs : CoreSt) (r n : Nat) : (applyPost t cs r n).preds = cs.preds := rfl
@[simp] theorem applyPost_resBase (t : Nat) (cs : CoreSt) (r n : Nat) : (applyPost t cs r n).resBase = cs.resBase := rfl
@[simp] theorem applyPost_resStart (t : Nat) (cs : CoreSt) (r n : Nat) : (applyPost t cs r n).resStart = cs.resStart := rfl
@[simp] theorem applyPost_stoppedAt (t : Nat) (cs : CoreSt) (r n : Nat) : (applyPost t cs r n).stoppedAt = cs.stoppedAt := rfl
@[simp] theorem applyPost_restartAt (t : Nat) (cs : CoreSt) (r n : Nat) : (applyPost t cs r n).restartAt = cs.restartAt := rfl
@[simp] theorem applyPost_estVal (t : Nat) (cs : CoreSt) (r n : Nat) : (applyPost t cs r n).estVal = cs.estVal := rfl
@[simp] theorem applyPost_estAt (t : Nat) (cs : CoreSt) (r n : Nat) : (applyPost t cs r n).estAt = cs.estAt := rfl
@[simp] theorem applyPost_masks (t : Nat) (cs : CoreSt) (r n : Nat) : (applyPost t cs r n).masks = cs.masks := rfl
@[simp] theorem applyPost_bps (t : Nat) (cs : CoreSt) (r n : Nat) : (applyPost t cs r n).bps = cs.bps := rfl
@[simp] theorem applyPost_vregs (t : Nat) (cs : CoreSt) (r n : Nat) : (applyPost t cs r n).vregs = cs.vregs := rfl
@[simp] theorem applyPost_tiles (t : Nat) (cs : CoreSt) (r n : Nat) : (applyPost t cs r n).tiles = cs.tiles := rfl
@[simp] theorem applyPost_tcT (t : Nat) (cs : CoreSt) (r n : Nat) : (applyPost t cs r n).tcT = cs.tcT := rfl
@[simp] theorem applyPost_tcAcc (t : Nat) (cs : CoreSt) (r n : Nat) : (applyPost t cs r n).tcAcc = cs.tcAcc := rfl
@[simp] theorem applyPost_shadow (t : Nat) (cs : CoreSt) (r n : Nat) : (applyPost t cs r n).shadow = cs.shadow := rfl
@[simp] theorem applyPost_held (t : Nat) (cs : CoreSt) (r n : Nat) : (applyPost t cs r n).held = cs.held := rfl
@[simp] theorem applyPost_heldTo (t : Nat) (cs : CoreSt) (r n : Nat) : (applyPost t cs r n).heldTo = cs.heldTo := rfl
@[simp] theorem applyPost_pairPend (t : Nat) (cs : CoreSt) (r n : Nat) : (applyPost t cs r n).pairPend = cs.pairPend := rfl
@[simp] theorem applyPost_spm (t : Nat) (cs : CoreSt) (r n : Nat) : (applyPost t cs r n).spm = cs.spm := rfl
@[simp] theorem applyPost_spmPoison (t : Nat) (cs : CoreSt) (r n : Nat) : (applyPost t cs r n).spmPoison = cs.spmPoison := rfl
@[simp] theorem applyPost_qsMem (t : Nat) (cs : CoreSt) (r n : Nat) : (applyPost t cs r n).qsMem = cs.qsMem := rfl
@[simp] theorem applyPost_qsVec (t : Nat) (cs : CoreSt) (r n : Nat) : (applyPost t cs r n).qsVec = cs.qsVec := rfl
@[simp] theorem applyPost_qsMtx (t : Nat) (cs : CoreSt) (r n : Nat) : (applyPost t cs r n).qsMtx = cs.qsMtx := rfl
@[simp] theorem applyPost_qr (t : Nat) (cs : CoreSt) (r n : Nat) : (applyPost t cs r n).qr = cs.qr := rfl
@[simp] theorem applyPost_freed (t : Nat) (cs : CoreSt) (r n : Nat) : (applyPost t cs r n).freed = cs.freed := rfl
@[simp] theorem applyPost_dqs (t : Nat) (cs : CoreSt) (r n : Nat) : (applyPost t cs r n).dqs = cs.dqs := rfl
@[simp] theorem applyPost_flights (t : Nat) (cs : CoreSt) (r n : Nat) : (applyPost t cs r n).flights = cs.flights := rfl
@[simp] theorem applyPost_nextId (t : Nat) (cs : CoreSt) (r n : Nat) : (applyPost t cs r n).nextId = cs.nextId := rfl
@[simp] theorem applyPost_accesses (t : Nat) (cs : CoreSt) (r n : Nat) : (applyPost t cs r n).accesses = cs.accesses := rfl
@[simp] theorem applyPost_mseWait (t : Nat) (cs : CoreSt) (r n : Nat) : (applyPost t cs r n).mseWait = cs.mseWait := rfl
@[simp] theorem applyPost_l1 (t : Nat) (cs : CoreSt) (r n : Nat) : (applyPost t cs r n).l1 = cs.l1 := rfl
@[simp] theorem applyPost_inbox (t : Nat) (cs : CoreSt) (r n : Nat) : (applyPost t cs r n).inbox = cs.inbox := rfl
@[simp] theorem applyPost_wbOut (t : Nat) (cs : CoreSt) (r n : Nat) : (applyPost t cs r n).wbOut = cs.wbOut := rfl
@[simp] theorem applyPost_rvkOut (t : Nat) (cs : CoreSt) (r n : Nat) : (applyPost t cs r n).rvkOut = cs.rvkOut := rfl
@[simp] theorem applyPost_fwdOut (t : Nat) (cs : CoreSt) (r n : Nat) : (applyPost t cs r n).fwdOut = cs.fwdOut := rfl
@[simp] theorem applyPost_imemSeq (t : Nat) (cs : CoreSt) (r n : Nat) : (applyPost t cs r n).imemSeq = cs.imemSeq := rfl
@[simp] theorem applyPost_imemMem (t : Nat) (cs : CoreSt) (r n : Nat) : (applyPost t cs r n).imemMem = cs.imemMem := rfl
@[simp] theorem applyPost_imemVec (t : Nat) (cs : CoreSt) (r n : Nat) : (applyPost t cs r n).imemVec = cs.imemVec := rfl
@[simp] theorem applyPost_imemMtx (t : Nat) (cs : CoreSt) (r n : Nat) : (applyPost t cs r n).imemMtx = cs.imemMtx := rfl
@[simp] theorem applyPost_banks (t : Nat) (cs : CoreSt) (r n : Nat) : (applyPost t cs r n).banks = cs.banks := rfl
@[simp] theorem applyPost_rowJobs (t : Nat) (cs : CoreSt) (r n : Nat) : (applyPost t cs r n).rowJobs = cs.rowJobs := rfl
@[simp] theorem applyPost_actCount (t : Nat) (cs : CoreSt) (r n : Nat) : (applyPost t cs r n).actCount = cs.actCount := rfl
@[simp] theorem applyPost_actTimes (t : Nat) (cs : CoreSt) (r n : Nat) : (applyPost t cs r n).actTimes = cs.actTimes := rfl
@[simp] theorem applyPost_cq0 (t : Nat) (cs : CoreSt) (r n : Nat) : (applyPost t cs r n).cq0 = cs.cq0 := rfl
@[simp] theorem applyPost_cq1 (t : Nat) (cs : CoreSt) (r n : Nat) : (applyPost t cs r n).cq1 = cs.cq1 := rfl
@[simp] theorem applyPost_cqSeq (t : Nat) (cs : CoreSt) (r n : Nat) : (applyPost t cs r n).cqSeq = cs.cqSeq := rfl
@[simp] theorem applyPost_pend (t : Nat) (cs : CoreSt) (r n : Nat) : (applyPost t cs r n).pend = cs.pend := rfl
@[simp] theorem applyPost_bindCore (t : Nat) (cs : CoreSt) (r n : Nat) : (applyPost t cs r n).bindCore = cs.bindCore := rfl
@[simp] theorem applyPost_bindCq0 (t : Nat) (cs : CoreSt) (r n : Nat) : (applyPost t cs r n).bindCq0 = cs.bindCq0 := rfl
@[simp] theorem applyPost_bindCq1 (t : Nat) (cs : CoreSt) (r n : Nat) : (applyPost t cs r n).bindCq1 = cs.bindCq1 := rfl
@[simp] theorem applyPost_rfail (t : Nat) (cs : CoreSt) (r n : Nat) : (applyPost t cs r n).rfail = cs.rfail := rfl
@[simp] theorem applyPost_tagOps (t : Nat) (cs : CoreSt) (r n : Nat) : (applyPost t cs r n).tagOps = cs.tagOps := rfl
@[simp] theorem applyPost_children (t : Nat) (cs : CoreSt) (r n : Nat) : (applyPost t cs r n).children = cs.children := rfl
@[simp] theorem applyPost_childId (t : Nat) (cs : CoreSt) (r n : Nat) : (applyPost t cs r n).childId = cs.childId := rfl
@[simp] theorem applyPost_watch (t : Nat) (cs : CoreSt) (r n : Nat) : (applyPost t cs r n).watch = cs.watch := rfl
@[simp] theorem applyPost_overflow (t : Nat) (cs : CoreSt) (r n : Nat) : (applyPost t cs r n).overflow = cs.overflow := rfl
@[simp] theorem applyPost_deadline (t : Nat) (cs : CoreSt) (r n : Nat) : (applyPost t cs r n).deadline = cs.deadline := rfl
@[simp] theorem applyPost_acqPending (t : Nat) (cs : CoreSt) (r n : Nat) : (applyPost t cs r n).acqPending = cs.acqPending := rfl
@[simp] theorem applyPost_exitStatus (t : Nat) (cs : CoreSt) (r n : Nat) : (applyPost t cs r n).exitStatus = cs.exitStatus := rfl
@[simp] theorem applyPost_rspIn (t : Nat) (cs : CoreSt) (r n : Nat) : (applyPost t cs r n).rspIn = cs.rspIn := rfl
@[simp] theorem applyPost_tcode (t : Nat) (cs : CoreSt) (r n : Nat) : (applyPost t cs r n).tcode = cs.tcode := rfl
@[simp] theorem applyPost_tcodePrio (t : Nat) (cs : CoreSt) (r n : Nat) : (applyPost t cs r n).tcodePrio = cs.tcodePrio := rfl
@[simp] theorem applyPost_tcodeEng (t : Nat) (cs : CoreSt) (r n : Nat) : (applyPost t cs r n).tcodeEng = cs.tcodeEng := rfl
@[simp] theorem applyPost_tileTrap (t : Nat) (cs : CoreSt) (r n : Nat) : (applyPost t cs r n).tileTrap = cs.tileTrap := rfl
@[simp] theorem applyPost_bkptArg (t : Nat) (cs : CoreSt) (r n : Nat) : (applyPost t cs r n).bkptArg = cs.bkptArg := rfl
@[simp] theorem applyPost_cqArg (t : Nat) (cs : CoreSt) (r n : Nat) : (applyPost t cs r n).cqArg = cs.cqArg := rfl
@[simp] theorem applyPost_event (t : Nat) (cs : CoreSt) (r n : Nat) : (applyPost t cs r n).event = cs.event := rfl
@[simp] theorem applyPost_grace (t : Nat) (cs : CoreSt) (r n : Nat) : (applyPost t cs r n).grace = cs.grace := rfl

@[simp] theorem setDq_inService (cs : CoreSt) (q : QName) (l : List DSlot) : (setDq cs q l).inService = cs.inService := rfl
@[simp] theorem setDq_occ (cs : CoreSt) (q : QName) (l : List DSlot) : (setDq cs q l).occ = cs.occ := rfl
@[simp] theorem setDq_run (cs : CoreSt) (q : QName) (l : List DSlot) : (setDq cs q l).run = cs.run := rfl
@[simp] theorem setDq_seq (cs : CoreSt) (q : QName) (l : List DSlot) : (setDq cs q l).seq = cs.seq := rfl
@[simp] theorem setDq_mem (cs : CoreSt) (q : QName) (l : List DSlot) : (setDq cs q l).mem = cs.mem := rfl
@[simp] theorem setDq_vec (cs : CoreSt) (q : QName) (l : List DSlot) : (setDq cs q l).vec = cs.vec := rfl
@[simp] theorem setDq_mtx (cs : CoreSt) (q : QName) (l : List DSlot) : (setDq cs q l).mtx = cs.mtx := rfl
@[simp] theorem setDq_preds (cs : CoreSt) (q : QName) (l : List DSlot) : (setDq cs q l).preds = cs.preds := rfl
@[simp] theorem setDq_resBase (cs : CoreSt) (q : QName) (l : List DSlot) : (setDq cs q l).resBase = cs.resBase := rfl
@[simp] theorem setDq_resStart (cs : CoreSt) (q : QName) (l : List DSlot) : (setDq cs q l).resStart = cs.resStart := rfl
@[simp] theorem setDq_stoppedAt (cs : CoreSt) (q : QName) (l : List DSlot) : (setDq cs q l).stoppedAt = cs.stoppedAt := rfl
@[simp] theorem setDq_restartAt (cs : CoreSt) (q : QName) (l : List DSlot) : (setDq cs q l).restartAt = cs.restartAt := rfl
@[simp] theorem setDq_estVal (cs : CoreSt) (q : QName) (l : List DSlot) : (setDq cs q l).estVal = cs.estVal := rfl
@[simp] theorem setDq_estAt (cs : CoreSt) (q : QName) (l : List DSlot) : (setDq cs q l).estAt = cs.estAt := rfl
@[simp] theorem setDq_masks (cs : CoreSt) (q : QName) (l : List DSlot) : (setDq cs q l).masks = cs.masks := rfl
@[simp] theorem setDq_bps (cs : CoreSt) (q : QName) (l : List DSlot) : (setDq cs q l).bps = cs.bps := rfl
@[simp] theorem setDq_vregs (cs : CoreSt) (q : QName) (l : List DSlot) : (setDq cs q l).vregs = cs.vregs := rfl
@[simp] theorem setDq_tiles (cs : CoreSt) (q : QName) (l : List DSlot) : (setDq cs q l).tiles = cs.tiles := rfl
@[simp] theorem setDq_tcT (cs : CoreSt) (q : QName) (l : List DSlot) : (setDq cs q l).tcT = cs.tcT := rfl
@[simp] theorem setDq_tcAcc (cs : CoreSt) (q : QName) (l : List DSlot) : (setDq cs q l).tcAcc = cs.tcAcc := rfl
@[simp] theorem setDq_shadow (cs : CoreSt) (q : QName) (l : List DSlot) : (setDq cs q l).shadow = cs.shadow := rfl
@[simp] theorem setDq_held (cs : CoreSt) (q : QName) (l : List DSlot) : (setDq cs q l).held = cs.held := rfl
@[simp] theorem setDq_heldTo (cs : CoreSt) (q : QName) (l : List DSlot) : (setDq cs q l).heldTo = cs.heldTo := rfl
@[simp] theorem setDq_pairPend (cs : CoreSt) (q : QName) (l : List DSlot) : (setDq cs q l).pairPend = cs.pairPend := rfl
@[simp] theorem setDq_spm (cs : CoreSt) (q : QName) (l : List DSlot) : (setDq cs q l).spm = cs.spm := rfl
@[simp] theorem setDq_spmPoison (cs : CoreSt) (q : QName) (l : List DSlot) : (setDq cs q l).spmPoison = cs.spmPoison := rfl
@[simp] theorem setDq_sems (cs : CoreSt) (q : QName) (l : List DSlot) : (setDq cs q l).sems = cs.sems := rfl
@[simp] theorem setDq_semLog (cs : CoreSt) (q : QName) (l : List DSlot) : (setDq cs q l).semLog = cs.semLog := rfl
@[simp] theorem setDq_qsMem (cs : CoreSt) (q : QName) (l : List DSlot) : (setDq cs q l).qsMem = cs.qsMem := rfl
@[simp] theorem setDq_qsVec (cs : CoreSt) (q : QName) (l : List DSlot) : (setDq cs q l).qsVec = cs.qsVec := rfl
@[simp] theorem setDq_qsMtx (cs : CoreSt) (q : QName) (l : List DSlot) : (setDq cs q l).qsMtx = cs.qsMtx := rfl
@[simp] theorem setDq_qr (cs : CoreSt) (q : QName) (l : List DSlot) : (setDq cs q l).qr = cs.qr := rfl
@[simp] theorem setDq_freed (cs : CoreSt) (q : QName) (l : List DSlot) : (setDq cs q l).freed = cs.freed := rfl
@[simp] theorem setDq_flights (cs : CoreSt) (q : QName) (l : List DSlot) : (setDq cs q l).flights = cs.flights := rfl
@[simp] theorem setDq_nextId (cs : CoreSt) (q : QName) (l : List DSlot) : (setDq cs q l).nextId = cs.nextId := rfl
@[simp] theorem setDq_accesses (cs : CoreSt) (q : QName) (l : List DSlot) : (setDq cs q l).accesses = cs.accesses := rfl
@[simp] theorem setDq_mseWait (cs : CoreSt) (q : QName) (l : List DSlot) : (setDq cs q l).mseWait = cs.mseWait := rfl
@[simp] theorem setDq_l1 (cs : CoreSt) (q : QName) (l : List DSlot) : (setDq cs q l).l1 = cs.l1 := rfl
@[simp] theorem setDq_inbox (cs : CoreSt) (q : QName) (l : List DSlot) : (setDq cs q l).inbox = cs.inbox := rfl
@[simp] theorem setDq_wbOut (cs : CoreSt) (q : QName) (l : List DSlot) : (setDq cs q l).wbOut = cs.wbOut := rfl
@[simp] theorem setDq_rvkOut (cs : CoreSt) (q : QName) (l : List DSlot) : (setDq cs q l).rvkOut = cs.rvkOut := rfl
@[simp] theorem setDq_fwdOut (cs : CoreSt) (q : QName) (l : List DSlot) : (setDq cs q l).fwdOut = cs.fwdOut := rfl
@[simp] theorem setDq_imemSeq (cs : CoreSt) (q : QName) (l : List DSlot) : (setDq cs q l).imemSeq = cs.imemSeq := rfl
@[simp] theorem setDq_imemMem (cs : CoreSt) (q : QName) (l : List DSlot) : (setDq cs q l).imemMem = cs.imemMem := rfl
@[simp] theorem setDq_imemVec (cs : CoreSt) (q : QName) (l : List DSlot) : (setDq cs q l).imemVec = cs.imemVec := rfl
@[simp] theorem setDq_imemMtx (cs : CoreSt) (q : QName) (l : List DSlot) : (setDq cs q l).imemMtx = cs.imemMtx := rfl
@[simp] theorem setDq_banks (cs : CoreSt) (q : QName) (l : List DSlot) : (setDq cs q l).banks = cs.banks := rfl
@[simp] theorem setDq_rowJobs (cs : CoreSt) (q : QName) (l : List DSlot) : (setDq cs q l).rowJobs = cs.rowJobs := rfl
@[simp] theorem setDq_actCount (cs : CoreSt) (q : QName) (l : List DSlot) : (setDq cs q l).actCount = cs.actCount := rfl
@[simp] theorem setDq_actTimes (cs : CoreSt) (q : QName) (l : List DSlot) : (setDq cs q l).actTimes = cs.actTimes := rfl
@[simp] theorem setDq_cq0 (cs : CoreSt) (q : QName) (l : List DSlot) : (setDq cs q l).cq0 = cs.cq0 := rfl
@[simp] theorem setDq_cq1 (cs : CoreSt) (q : QName) (l : List DSlot) : (setDq cs q l).cq1 = cs.cq1 := rfl
@[simp] theorem setDq_cqSeq (cs : CoreSt) (q : QName) (l : List DSlot) : (setDq cs q l).cqSeq = cs.cqSeq := rfl
@[simp] theorem setDq_pend (cs : CoreSt) (q : QName) (l : List DSlot) : (setDq cs q l).pend = cs.pend := rfl
@[simp] theorem setDq_bindCore (cs : CoreSt) (q : QName) (l : List DSlot) : (setDq cs q l).bindCore = cs.bindCore := rfl
@[simp] theorem setDq_bindCq0 (cs : CoreSt) (q : QName) (l : List DSlot) : (setDq cs q l).bindCq0 = cs.bindCq0 := rfl
@[simp] theorem setDq_bindCq1 (cs : CoreSt) (q : QName) (l : List DSlot) : (setDq cs q l).bindCq1 = cs.bindCq1 := rfl
@[simp] theorem setDq_rfail (cs : CoreSt) (q : QName) (l : List DSlot) : (setDq cs q l).rfail = cs.rfail := rfl
@[simp] theorem setDq_tagOps (cs : CoreSt) (q : QName) (l : List DSlot) : (setDq cs q l).tagOps = cs.tagOps := rfl
@[simp] theorem setDq_children (cs : CoreSt) (q : QName) (l : List DSlot) : (setDq cs q l).children = cs.children := rfl
@[simp] theorem setDq_childId (cs : CoreSt) (q : QName) (l : List DSlot) : (setDq cs q l).childId = cs.childId := rfl
@[simp] theorem setDq_watch (cs : CoreSt) (q : QName) (l : List DSlot) : (setDq cs q l).watch = cs.watch := rfl
@[simp] theorem setDq_overflow (cs : CoreSt) (q : QName) (l : List DSlot) : (setDq cs q l).overflow = cs.overflow := rfl
@[simp] theorem setDq_deadline (cs : CoreSt) (q : QName) (l : List DSlot) : (setDq cs q l).deadline = cs.deadline := rfl
@[simp] theorem setDq_acqPending (cs : CoreSt) (q : QName) (l : List DSlot) : (setDq cs q l).acqPending = cs.acqPending := rfl
@[simp] theorem setDq_exitStatus (cs : CoreSt) (q : QName) (l : List DSlot) : (setDq cs q l).exitStatus = cs.exitStatus := rfl
@[simp] theorem setDq_rspIn (cs : CoreSt) (q : QName) (l : List DSlot) : (setDq cs q l).rspIn = cs.rspIn := rfl
@[simp] theorem setDq_tcode (cs : CoreSt) (q : QName) (l : List DSlot) : (setDq cs q l).tcode = cs.tcode := rfl
@[simp] theorem setDq_tcodePrio (cs : CoreSt) (q : QName) (l : List DSlot) : (setDq cs q l).tcodePrio = cs.tcodePrio := rfl
@[simp] theorem setDq_tcodeEng (cs : CoreSt) (q : QName) (l : List DSlot) : (setDq cs q l).tcodeEng = cs.tcodeEng := rfl
@[simp] theorem setDq_tileTrap (cs : CoreSt) (q : QName) (l : List DSlot) : (setDq cs q l).tileTrap = cs.tileTrap := rfl
@[simp] theorem setDq_bkptArg (cs : CoreSt) (q : QName) (l : List DSlot) : (setDq cs q l).bkptArg = cs.bkptArg := rfl
@[simp] theorem setDq_cqArg (cs : CoreSt) (q : QName) (l : List DSlot) : (setDq cs q l).cqArg = cs.cqArg := rfl
@[simp] theorem setDq_event (cs : CoreSt) (q : QName) (l : List DSlot) : (setDq cs q l).event = cs.event := rfl
@[simp] theorem setDq_grace (cs : CoreSt) (q : QName) (l : List DSlot) : (setDq cs q l).grace = cs.grace := rfl

@[simp] theorem reserveDq_inService (cs : CoreSt) (q : QName) (n : Nat) : (reserveDq cs q n).inService = cs.inService := rfl
@[simp] theorem reserveDq_occ (cs : CoreSt) (q : QName) (n : Nat) : (reserveDq cs q n).occ = cs.occ := rfl
@[simp] theorem reserveDq_run (cs : CoreSt) (q : QName) (n : Nat) : (reserveDq cs q n).run = cs.run := rfl
@[simp] theorem reserveDq_seq (cs : CoreSt) (q : QName) (n : Nat) : (reserveDq cs q n).seq = cs.seq := rfl
@[simp] theorem reserveDq_mem (cs : CoreSt) (q : QName) (n : Nat) : (reserveDq cs q n).mem = cs.mem := rfl
@[simp] theorem reserveDq_vec (cs : CoreSt) (q : QName) (n : Nat) : (reserveDq cs q n).vec = cs.vec := rfl
@[simp] theorem reserveDq_mtx (cs : CoreSt) (q : QName) (n : Nat) : (reserveDq cs q n).mtx = cs.mtx := rfl
@[simp] theorem reserveDq_preds (cs : CoreSt) (q : QName) (n : Nat) : (reserveDq cs q n).preds = cs.preds := rfl
@[simp] theorem reserveDq_resBase (cs : CoreSt) (q : QName) (n : Nat) : (reserveDq cs q n).resBase = cs.resBase := rfl
@[simp] theorem reserveDq_resStart (cs : CoreSt) (q : QName) (n : Nat) : (reserveDq cs q n).resStart = cs.resStart := rfl
@[simp] theorem reserveDq_stoppedAt (cs : CoreSt) (q : QName) (n : Nat) : (reserveDq cs q n).stoppedAt = cs.stoppedAt := rfl
@[simp] theorem reserveDq_restartAt (cs : CoreSt) (q : QName) (n : Nat) : (reserveDq cs q n).restartAt = cs.restartAt := rfl
@[simp] theorem reserveDq_estVal (cs : CoreSt) (q : QName) (n : Nat) : (reserveDq cs q n).estVal = cs.estVal := rfl
@[simp] theorem reserveDq_estAt (cs : CoreSt) (q : QName) (n : Nat) : (reserveDq cs q n).estAt = cs.estAt := rfl
@[simp] theorem reserveDq_masks (cs : CoreSt) (q : QName) (n : Nat) : (reserveDq cs q n).masks = cs.masks := rfl
@[simp] theorem reserveDq_bps (cs : CoreSt) (q : QName) (n : Nat) : (reserveDq cs q n).bps = cs.bps := rfl
@[simp] theorem reserveDq_vregs (cs : CoreSt) (q : QName) (n : Nat) : (reserveDq cs q n).vregs = cs.vregs := rfl
@[simp] theorem reserveDq_tiles (cs : CoreSt) (q : QName) (n : Nat) : (reserveDq cs q n).tiles = cs.tiles := rfl
@[simp] theorem reserveDq_tcT (cs : CoreSt) (q : QName) (n : Nat) : (reserveDq cs q n).tcT = cs.tcT := rfl
@[simp] theorem reserveDq_tcAcc (cs : CoreSt) (q : QName) (n : Nat) : (reserveDq cs q n).tcAcc = cs.tcAcc := rfl
@[simp] theorem reserveDq_shadow (cs : CoreSt) (q : QName) (n : Nat) : (reserveDq cs q n).shadow = cs.shadow := rfl
@[simp] theorem reserveDq_held (cs : CoreSt) (q : QName) (n : Nat) : (reserveDq cs q n).held = cs.held := rfl
@[simp] theorem reserveDq_heldTo (cs : CoreSt) (q : QName) (n : Nat) : (reserveDq cs q n).heldTo = cs.heldTo := rfl
@[simp] theorem reserveDq_pairPend (cs : CoreSt) (q : QName) (n : Nat) : (reserveDq cs q n).pairPend = cs.pairPend := rfl
@[simp] theorem reserveDq_spm (cs : CoreSt) (q : QName) (n : Nat) : (reserveDq cs q n).spm = cs.spm := rfl
@[simp] theorem reserveDq_spmPoison (cs : CoreSt) (q : QName) (n : Nat) : (reserveDq cs q n).spmPoison = cs.spmPoison := rfl
@[simp] theorem reserveDq_sems (cs : CoreSt) (q : QName) (n : Nat) : (reserveDq cs q n).sems = cs.sems := rfl
@[simp] theorem reserveDq_semLog (cs : CoreSt) (q : QName) (n : Nat) : (reserveDq cs q n).semLog = cs.semLog := rfl
@[simp] theorem reserveDq_qsMem (cs : CoreSt) (q : QName) (n : Nat) : (reserveDq cs q n).qsMem = cs.qsMem := rfl
@[simp] theorem reserveDq_qsVec (cs : CoreSt) (q : QName) (n : Nat) : (reserveDq cs q n).qsVec = cs.qsVec := rfl
@[simp] theorem reserveDq_qsMtx (cs : CoreSt) (q : QName) (n : Nat) : (reserveDq cs q n).qsMtx = cs.qsMtx := rfl
@[simp] theorem reserveDq_qr (cs : CoreSt) (q : QName) (n : Nat) : (reserveDq cs q n).qr = cs.qr := rfl
@[simp] theorem reserveDq_freed (cs : CoreSt) (q : QName) (n : Nat) : (reserveDq cs q n).freed = cs.freed := rfl
@[simp] theorem reserveDq_flights (cs : CoreSt) (q : QName) (n : Nat) : (reserveDq cs q n).flights = cs.flights := rfl
@[simp] theorem reserveDq_nextId (cs : CoreSt) (q : QName) (n : Nat) : (reserveDq cs q n).nextId = cs.nextId := rfl
@[simp] theorem reserveDq_accesses (cs : CoreSt) (q : QName) (n : Nat) : (reserveDq cs q n).accesses = cs.accesses := rfl
@[simp] theorem reserveDq_mseWait (cs : CoreSt) (q : QName) (n : Nat) : (reserveDq cs q n).mseWait = cs.mseWait := rfl
@[simp] theorem reserveDq_l1 (cs : CoreSt) (q : QName) (n : Nat) : (reserveDq cs q n).l1 = cs.l1 := rfl
@[simp] theorem reserveDq_inbox (cs : CoreSt) (q : QName) (n : Nat) : (reserveDq cs q n).inbox = cs.inbox := rfl
@[simp] theorem reserveDq_wbOut (cs : CoreSt) (q : QName) (n : Nat) : (reserveDq cs q n).wbOut = cs.wbOut := rfl
@[simp] theorem reserveDq_rvkOut (cs : CoreSt) (q : QName) (n : Nat) : (reserveDq cs q n).rvkOut = cs.rvkOut := rfl
@[simp] theorem reserveDq_fwdOut (cs : CoreSt) (q : QName) (n : Nat) : (reserveDq cs q n).fwdOut = cs.fwdOut := rfl
@[simp] theorem reserveDq_imemSeq (cs : CoreSt) (q : QName) (n : Nat) : (reserveDq cs q n).imemSeq = cs.imemSeq := rfl
@[simp] theorem reserveDq_imemMem (cs : CoreSt) (q : QName) (n : Nat) : (reserveDq cs q n).imemMem = cs.imemMem := rfl
@[simp] theorem reserveDq_imemVec (cs : CoreSt) (q : QName) (n : Nat) : (reserveDq cs q n).imemVec = cs.imemVec := rfl
@[simp] theorem reserveDq_imemMtx (cs : CoreSt) (q : QName) (n : Nat) : (reserveDq cs q n).imemMtx = cs.imemMtx := rfl
@[simp] theorem reserveDq_banks (cs : CoreSt) (q : QName) (n : Nat) : (reserveDq cs q n).banks = cs.banks := rfl
@[simp] theorem reserveDq_rowJobs (cs : CoreSt) (q : QName) (n : Nat) : (reserveDq cs q n).rowJobs = cs.rowJobs := rfl
@[simp] theorem reserveDq_actCount (cs : CoreSt) (q : QName) (n : Nat) : (reserveDq cs q n).actCount = cs.actCount := rfl
@[simp] theorem reserveDq_actTimes (cs : CoreSt) (q : QName) (n : Nat) : (reserveDq cs q n).actTimes = cs.actTimes := rfl
@[simp] theorem reserveDq_cq0 (cs : CoreSt) (q : QName) (n : Nat) : (reserveDq cs q n).cq0 = cs.cq0 := rfl
@[simp] theorem reserveDq_cq1 (cs : CoreSt) (q : QName) (n : Nat) : (reserveDq cs q n).cq1 = cs.cq1 := rfl
@[simp] theorem reserveDq_cqSeq (cs : CoreSt) (q : QName) (n : Nat) : (reserveDq cs q n).cqSeq = cs.cqSeq := rfl
@[simp] theorem reserveDq_pend (cs : CoreSt) (q : QName) (n : Nat) : (reserveDq cs q n).pend = cs.pend := rfl
@[simp] theorem reserveDq_bindCore (cs : CoreSt) (q : QName) (n : Nat) : (reserveDq cs q n).bindCore = cs.bindCore := rfl
@[simp] theorem reserveDq_bindCq0 (cs : CoreSt) (q : QName) (n : Nat) : (reserveDq cs q n).bindCq0 = cs.bindCq0 := rfl
@[simp] theorem reserveDq_bindCq1 (cs : CoreSt) (q : QName) (n : Nat) : (reserveDq cs q n).bindCq1 = cs.bindCq1 := rfl
@[simp] theorem reserveDq_rfail (cs : CoreSt) (q : QName) (n : Nat) : (reserveDq cs q n).rfail = cs.rfail := rfl
@[simp] theorem reserveDq_tagOps (cs : CoreSt) (q : QName) (n : Nat) : (reserveDq cs q n).tagOps = cs.tagOps := rfl
@[simp] theorem reserveDq_children (cs : CoreSt) (q : QName) (n : Nat) : (reserveDq cs q n).children = cs.children := rfl
@[simp] theorem reserveDq_childId (cs : CoreSt) (q : QName) (n : Nat) : (reserveDq cs q n).childId = cs.childId := rfl
@[simp] theorem reserveDq_watch (cs : CoreSt) (q : QName) (n : Nat) : (reserveDq cs q n).watch = cs.watch := rfl
@[simp] theorem reserveDq_overflow (cs : CoreSt) (q : QName) (n : Nat) : (reserveDq cs q n).overflow = cs.overflow := rfl
@[simp] theorem reserveDq_deadline (cs : CoreSt) (q : QName) (n : Nat) : (reserveDq cs q n).deadline = cs.deadline := rfl
@[simp] theorem reserveDq_acqPending (cs : CoreSt) (q : QName) (n : Nat) : (reserveDq cs q n).acqPending = cs.acqPending := rfl
@[simp] theorem reserveDq_exitStatus (cs : CoreSt) (q : QName) (n : Nat) : (reserveDq cs q n).exitStatus = cs.exitStatus := rfl
@[simp] theorem reserveDq_rspIn (cs : CoreSt) (q : QName) (n : Nat) : (reserveDq cs q n).rspIn = cs.rspIn := rfl
@[simp] theorem reserveDq_tcode (cs : CoreSt) (q : QName) (n : Nat) : (reserveDq cs q n).tcode = cs.tcode := rfl
@[simp] theorem reserveDq_tcodePrio (cs : CoreSt) (q : QName) (n : Nat) : (reserveDq cs q n).tcodePrio = cs.tcodePrio := rfl
@[simp] theorem reserveDq_tcodeEng (cs : CoreSt) (q : QName) (n : Nat) : (reserveDq cs q n).tcodeEng = cs.tcodeEng := rfl
@[simp] theorem reserveDq_tileTrap (cs : CoreSt) (q : QName) (n : Nat) : (reserveDq cs q n).tileTrap = cs.tileTrap := rfl
@[simp] theorem reserveDq_bkptArg (cs : CoreSt) (q : QName) (n : Nat) : (reserveDq cs q n).bkptArg = cs.bkptArg := rfl
@[simp] theorem reserveDq_cqArg (cs : CoreSt) (q : QName) (n : Nat) : (reserveDq cs q n).cqArg = cs.cqArg := rfl
@[simp] theorem reserveDq_event (cs : CoreSt) (q : QName) (n : Nat) : (reserveDq cs q n).event = cs.event := rfl
@[simp] theorem reserveDq_grace (cs : CoreSt) (q : QName) (n : Nat) : (reserveDq cs q n).grace = cs.grace := rfl

@[simp] theorem acquire_inService (cs : CoreSt) : (acquire cs).inService = cs.inService := rfl
@[simp] theorem acquire_occ (cs : CoreSt) : (acquire cs).occ = cs.occ := rfl
@[simp] theorem acquire_run (cs : CoreSt) : (acquire cs).run = cs.run := rfl
@[simp] theorem acquire_seq (cs : CoreSt) : (acquire cs).seq = cs.seq := rfl
@[simp] theorem acquire_mem (cs : CoreSt) : (acquire cs).mem = cs.mem := rfl
@[simp] theorem acquire_vec (cs : CoreSt) : (acquire cs).vec = cs.vec := rfl
@[simp] theorem acquire_mtx (cs : CoreSt) : (acquire cs).mtx = cs.mtx := rfl
@[simp] theorem acquire_preds (cs : CoreSt) : (acquire cs).preds = cs.preds := rfl
@[simp] theorem acquire_resBase (cs : CoreSt) : (acquire cs).resBase = cs.resBase := rfl
@[simp] theorem acquire_resStart (cs : CoreSt) : (acquire cs).resStart = cs.resStart := rfl
@[simp] theorem acquire_stoppedAt (cs : CoreSt) : (acquire cs).stoppedAt = cs.stoppedAt := rfl
@[simp] theorem acquire_restartAt (cs : CoreSt) : (acquire cs).restartAt = cs.restartAt := rfl
@[simp] theorem acquire_estVal (cs : CoreSt) : (acquire cs).estVal = cs.estVal := rfl
@[simp] theorem acquire_estAt (cs : CoreSt) : (acquire cs).estAt = cs.estAt := rfl
@[simp] theorem acquire_masks (cs : CoreSt) : (acquire cs).masks = cs.masks := rfl
@[simp] theorem acquire_bps (cs : CoreSt) : (acquire cs).bps = cs.bps := rfl
@[simp] theorem acquire_vregs (cs : CoreSt) : (acquire cs).vregs = cs.vregs := rfl
@[simp] theorem acquire_tiles (cs : CoreSt) : (acquire cs).tiles = cs.tiles := rfl
@[simp] theorem acquire_tcT (cs : CoreSt) : (acquire cs).tcT = cs.tcT := rfl
@[simp] theorem acquire_tcAcc (cs : CoreSt) : (acquire cs).tcAcc = cs.tcAcc := rfl
@[simp] theorem acquire_shadow (cs : CoreSt) : (acquire cs).shadow = cs.shadow := rfl
@[simp] theorem acquire_held (cs : CoreSt) : (acquire cs).held = cs.held := rfl
@[simp] theorem acquire_heldTo (cs : CoreSt) : (acquire cs).heldTo = cs.heldTo := rfl
@[simp] theorem acquire_pairPend (cs : CoreSt) : (acquire cs).pairPend = cs.pairPend := rfl
@[simp] theorem acquire_spm (cs : CoreSt) : (acquire cs).spm = cs.spm := rfl
@[simp] theorem acquire_spmPoison (cs : CoreSt) : (acquire cs).spmPoison = cs.spmPoison := rfl
@[simp] theorem acquire_sems (cs : CoreSt) : (acquire cs).sems = cs.sems := rfl
@[simp] theorem acquire_semLog (cs : CoreSt) : (acquire cs).semLog = cs.semLog := rfl
@[simp] theorem acquire_qsMem (cs : CoreSt) : (acquire cs).qsMem = cs.qsMem := rfl
@[simp] theorem acquire_qsVec (cs : CoreSt) : (acquire cs).qsVec = cs.qsVec := rfl
@[simp] theorem acquire_qsMtx (cs : CoreSt) : (acquire cs).qsMtx = cs.qsMtx := rfl
@[simp] theorem acquire_qr (cs : CoreSt) : (acquire cs).qr = cs.qr := rfl
@[simp] theorem acquire_freed (cs : CoreSt) : (acquire cs).freed = cs.freed := rfl
@[simp] theorem acquire_dqs (cs : CoreSt) : (acquire cs).dqs = cs.dqs := rfl
@[simp] theorem acquire_flights (cs : CoreSt) : (acquire cs).flights = cs.flights := rfl
@[simp] theorem acquire_nextId (cs : CoreSt) : (acquire cs).nextId = cs.nextId := rfl
@[simp] theorem acquire_mseWait (cs : CoreSt) : (acquire cs).mseWait = cs.mseWait := rfl
@[simp] theorem acquire_inbox (cs : CoreSt) : (acquire cs).inbox = cs.inbox := rfl
@[simp] theorem acquire_wbOut (cs : CoreSt) : (acquire cs).wbOut = cs.wbOut := rfl
@[simp] theorem acquire_rvkOut (cs : CoreSt) : (acquire cs).rvkOut = cs.rvkOut := rfl
@[simp] theorem acquire_fwdOut (cs : CoreSt) : (acquire cs).fwdOut = cs.fwdOut := rfl
@[simp] theorem acquire_imemSeq (cs : CoreSt) : (acquire cs).imemSeq = cs.imemSeq := rfl
@[simp] theorem acquire_imemMem (cs : CoreSt) : (acquire cs).imemMem = cs.imemMem := rfl
@[simp] theorem acquire_imemVec (cs : CoreSt) : (acquire cs).imemVec = cs.imemVec := rfl
@[simp] theorem acquire_imemMtx (cs : CoreSt) : (acquire cs).imemMtx = cs.imemMtx := rfl
@[simp] theorem acquire_banks (cs : CoreSt) : (acquire cs).banks = cs.banks := rfl
@[simp] theorem acquire_rowJobs (cs : CoreSt) : (acquire cs).rowJobs = cs.rowJobs := rfl
@[simp] theorem acquire_actCount (cs : CoreSt) : (acquire cs).actCount = cs.actCount := rfl
@[simp] theorem acquire_actTimes (cs : CoreSt) : (acquire cs).actTimes = cs.actTimes := rfl
@[simp] theorem acquire_cq0 (cs : CoreSt) : (acquire cs).cq0 = cs.cq0 := rfl
@[simp] theorem acquire_cq1 (cs : CoreSt) : (acquire cs).cq1 = cs.cq1 := rfl
@[simp] theorem acquire_cqSeq (cs : CoreSt) : (acquire cs).cqSeq = cs.cqSeq := rfl
@[simp] theorem acquire_pend (cs : CoreSt) : (acquire cs).pend = cs.pend := rfl
@[simp] theorem acquire_bindCore (cs : CoreSt) : (acquire cs).bindCore = cs.bindCore := rfl
@[simp] theorem acquire_bindCq0 (cs : CoreSt) : (acquire cs).bindCq0 = cs.bindCq0 := rfl
@[simp] theorem acquire_bindCq1 (cs : CoreSt) : (acquire cs).bindCq1 = cs.bindCq1 := rfl
@[simp] theorem acquire_rfail (cs : CoreSt) : (acquire cs).rfail = cs.rfail := rfl
@[simp] theorem acquire_tagOps (cs : CoreSt) : (acquire cs).tagOps = cs.tagOps := rfl
@[simp] theorem acquire_children (cs : CoreSt) : (acquire cs).children = cs.children := rfl
@[simp] theorem acquire_childId (cs : CoreSt) : (acquire cs).childId = cs.childId := rfl
@[simp] theorem acquire_watch (cs : CoreSt) : (acquire cs).watch = cs.watch := rfl
@[simp] theorem acquire_overflow (cs : CoreSt) : (acquire cs).overflow = cs.overflow := rfl
@[simp] theorem acquire_deadline (cs : CoreSt) : (acquire cs).deadline = cs.deadline := rfl
@[simp] theorem acquire_acqPending (cs : CoreSt) : (acquire cs).acqPending = cs.acqPending := rfl
@[simp] theorem acquire_exitStatus (cs : CoreSt) : (acquire cs).exitStatus = cs.exitStatus := rfl
@[simp] theorem acquire_rspIn (cs : CoreSt) : (acquire cs).rspIn = cs.rspIn := rfl
@[simp] theorem acquire_tcode (cs : CoreSt) : (acquire cs).tcode = cs.tcode := rfl
@[simp] theorem acquire_tcodePrio (cs : CoreSt) : (acquire cs).tcodePrio = cs.tcodePrio := rfl
@[simp] theorem acquire_tcodeEng (cs : CoreSt) : (acquire cs).tcodeEng = cs.tcodeEng := rfl
@[simp] theorem acquire_tileTrap (cs : CoreSt) : (acquire cs).tileTrap = cs.tileTrap := rfl
@[simp] theorem acquire_bkptArg (cs : CoreSt) : (acquire cs).bkptArg = cs.bkptArg := rfl
@[simp] theorem acquire_cqArg (cs : CoreSt) : (acquire cs).cqArg = cs.cqArg := rfl
@[simp] theorem acquire_event (cs : CoreSt) : (acquire cs).event = cs.event := rfl
@[simp] theorem acquire_grace (cs : CoreSt) : (acquire cs).grace = cs.grace := rfl

@[simp] theorem writeTile_inService (cs : CoreSt) (t r : Nat) (v : TileRow) : (writeTile cs t r v).inService = cs.inService := rfl
@[simp] theorem writeTile_occ (cs : CoreSt) (t r : Nat) (v : TileRow) : (writeTile cs t r v).occ = cs.occ := rfl
@[simp] theorem writeTile_run (cs : CoreSt) (t r : Nat) (v : TileRow) : (writeTile cs t r v).run = cs.run := rfl
@[simp] theorem writeTile_seq (cs : CoreSt) (t r : Nat) (v : TileRow) : (writeTile cs t r v).seq = cs.seq := rfl
@[simp] theorem writeTile_mem (cs : CoreSt) (t r : Nat) (v : TileRow) : (writeTile cs t r v).mem = cs.mem := rfl
@[simp] theorem writeTile_vec (cs : CoreSt) (t r : Nat) (v : TileRow) : (writeTile cs t r v).vec = cs.vec := rfl
@[simp] theorem writeTile_mtx (cs : CoreSt) (t r : Nat) (v : TileRow) : (writeTile cs t r v).mtx = cs.mtx := rfl
@[simp] theorem writeTile_preds (cs : CoreSt) (t r : Nat) (v : TileRow) : (writeTile cs t r v).preds = cs.preds := rfl
@[simp] theorem writeTile_resBase (cs : CoreSt) (t r : Nat) (v : TileRow) : (writeTile cs t r v).resBase = cs.resBase := rfl
@[simp] theorem writeTile_resStart (cs : CoreSt) (t r : Nat) (v : TileRow) : (writeTile cs t r v).resStart = cs.resStart := rfl
@[simp] theorem writeTile_stoppedAt (cs : CoreSt) (t r : Nat) (v : TileRow) : (writeTile cs t r v).stoppedAt = cs.stoppedAt := rfl
@[simp] theorem writeTile_restartAt (cs : CoreSt) (t r : Nat) (v : TileRow) : (writeTile cs t r v).restartAt = cs.restartAt := rfl
@[simp] theorem writeTile_estVal (cs : CoreSt) (t r : Nat) (v : TileRow) : (writeTile cs t r v).estVal = cs.estVal := rfl
@[simp] theorem writeTile_estAt (cs : CoreSt) (t r : Nat) (v : TileRow) : (writeTile cs t r v).estAt = cs.estAt := rfl
@[simp] theorem writeTile_masks (cs : CoreSt) (t r : Nat) (v : TileRow) : (writeTile cs t r v).masks = cs.masks := rfl
@[simp] theorem writeTile_bps (cs : CoreSt) (t r : Nat) (v : TileRow) : (writeTile cs t r v).bps = cs.bps := rfl
@[simp] theorem writeTile_vregs (cs : CoreSt) (t r : Nat) (v : TileRow) : (writeTile cs t r v).vregs = cs.vregs := rfl
@[simp] theorem writeTile_tcT (cs : CoreSt) (t r : Nat) (v : TileRow) : (writeTile cs t r v).tcT = cs.tcT := rfl
@[simp] theorem writeTile_tcAcc (cs : CoreSt) (t r : Nat) (v : TileRow) : (writeTile cs t r v).tcAcc = cs.tcAcc := rfl
@[simp] theorem writeTile_shadow (cs : CoreSt) (t r : Nat) (v : TileRow) : (writeTile cs t r v).shadow = cs.shadow := rfl
@[simp] theorem writeTile_held (cs : CoreSt) (t r : Nat) (v : TileRow) : (writeTile cs t r v).held = cs.held := rfl
@[simp] theorem writeTile_heldTo (cs : CoreSt) (t r : Nat) (v : TileRow) : (writeTile cs t r v).heldTo = cs.heldTo := rfl
@[simp] theorem writeTile_pairPend (cs : CoreSt) (t r : Nat) (v : TileRow) : (writeTile cs t r v).pairPend = cs.pairPend := rfl
@[simp] theorem writeTile_spm (cs : CoreSt) (t r : Nat) (v : TileRow) : (writeTile cs t r v).spm = cs.spm := rfl
@[simp] theorem writeTile_spmPoison (cs : CoreSt) (t r : Nat) (v : TileRow) : (writeTile cs t r v).spmPoison = cs.spmPoison := rfl
@[simp] theorem writeTile_sems (cs : CoreSt) (t r : Nat) (v : TileRow) : (writeTile cs t r v).sems = cs.sems := rfl
@[simp] theorem writeTile_semLog (cs : CoreSt) (t r : Nat) (v : TileRow) : (writeTile cs t r v).semLog = cs.semLog := rfl
@[simp] theorem writeTile_qsMem (cs : CoreSt) (t r : Nat) (v : TileRow) : (writeTile cs t r v).qsMem = cs.qsMem := rfl
@[simp] theorem writeTile_qsVec (cs : CoreSt) (t r : Nat) (v : TileRow) : (writeTile cs t r v).qsVec = cs.qsVec := rfl
@[simp] theorem writeTile_qsMtx (cs : CoreSt) (t r : Nat) (v : TileRow) : (writeTile cs t r v).qsMtx = cs.qsMtx := rfl
@[simp] theorem writeTile_qr (cs : CoreSt) (t r : Nat) (v : TileRow) : (writeTile cs t r v).qr = cs.qr := rfl
@[simp] theorem writeTile_freed (cs : CoreSt) (t r : Nat) (v : TileRow) : (writeTile cs t r v).freed = cs.freed := rfl
@[simp] theorem writeTile_dqs (cs : CoreSt) (t r : Nat) (v : TileRow) : (writeTile cs t r v).dqs = cs.dqs := rfl
@[simp] theorem writeTile_flights (cs : CoreSt) (t r : Nat) (v : TileRow) : (writeTile cs t r v).flights = cs.flights := rfl
@[simp] theorem writeTile_nextId (cs : CoreSt) (t r : Nat) (v : TileRow) : (writeTile cs t r v).nextId = cs.nextId := rfl
@[simp] theorem writeTile_accesses (cs : CoreSt) (t r : Nat) (v : TileRow) : (writeTile cs t r v).accesses = cs.accesses := rfl
@[simp] theorem writeTile_mseWait (cs : CoreSt) (t r : Nat) (v : TileRow) : (writeTile cs t r v).mseWait = cs.mseWait := rfl
@[simp] theorem writeTile_l1 (cs : CoreSt) (t r : Nat) (v : TileRow) : (writeTile cs t r v).l1 = cs.l1 := rfl
@[simp] theorem writeTile_inbox (cs : CoreSt) (t r : Nat) (v : TileRow) : (writeTile cs t r v).inbox = cs.inbox := rfl
@[simp] theorem writeTile_wbOut (cs : CoreSt) (t r : Nat) (v : TileRow) : (writeTile cs t r v).wbOut = cs.wbOut := rfl
@[simp] theorem writeTile_rvkOut (cs : CoreSt) (t r : Nat) (v : TileRow) : (writeTile cs t r v).rvkOut = cs.rvkOut := rfl
@[simp] theorem writeTile_fwdOut (cs : CoreSt) (t r : Nat) (v : TileRow) : (writeTile cs t r v).fwdOut = cs.fwdOut := rfl
@[simp] theorem writeTile_imemSeq (cs : CoreSt) (t r : Nat) (v : TileRow) : (writeTile cs t r v).imemSeq = cs.imemSeq := rfl
@[simp] theorem writeTile_imemMem (cs : CoreSt) (t r : Nat) (v : TileRow) : (writeTile cs t r v).imemMem = cs.imemMem := rfl
@[simp] theorem writeTile_imemVec (cs : CoreSt) (t r : Nat) (v : TileRow) : (writeTile cs t r v).imemVec = cs.imemVec := rfl
@[simp] theorem writeTile_imemMtx (cs : CoreSt) (t r : Nat) (v : TileRow) : (writeTile cs t r v).imemMtx = cs.imemMtx := rfl
@[simp] theorem writeTile_banks (cs : CoreSt) (t r : Nat) (v : TileRow) : (writeTile cs t r v).banks = cs.banks := rfl
@[simp] theorem writeTile_rowJobs (cs : CoreSt) (t r : Nat) (v : TileRow) : (writeTile cs t r v).rowJobs = cs.rowJobs := rfl
@[simp] theorem writeTile_actCount (cs : CoreSt) (t r : Nat) (v : TileRow) : (writeTile cs t r v).actCount = cs.actCount := rfl
@[simp] theorem writeTile_actTimes (cs : CoreSt) (t r : Nat) (v : TileRow) : (writeTile cs t r v).actTimes = cs.actTimes := rfl
@[simp] theorem writeTile_cq0 (cs : CoreSt) (t r : Nat) (v : TileRow) : (writeTile cs t r v).cq0 = cs.cq0 := rfl
@[simp] theorem writeTile_cq1 (cs : CoreSt) (t r : Nat) (v : TileRow) : (writeTile cs t r v).cq1 = cs.cq1 := rfl
@[simp] theorem writeTile_cqSeq (cs : CoreSt) (t r : Nat) (v : TileRow) : (writeTile cs t r v).cqSeq = cs.cqSeq := rfl
@[simp] theorem writeTile_pend (cs : CoreSt) (t r : Nat) (v : TileRow) : (writeTile cs t r v).pend = cs.pend := rfl
@[simp] theorem writeTile_bindCore (cs : CoreSt) (t r : Nat) (v : TileRow) : (writeTile cs t r v).bindCore = cs.bindCore := rfl
@[simp] theorem writeTile_bindCq0 (cs : CoreSt) (t r : Nat) (v : TileRow) : (writeTile cs t r v).bindCq0 = cs.bindCq0 := rfl
@[simp] theorem writeTile_bindCq1 (cs : CoreSt) (t r : Nat) (v : TileRow) : (writeTile cs t r v).bindCq1 = cs.bindCq1 := rfl
@[simp] theorem writeTile_rfail (cs : CoreSt) (t r : Nat) (v : TileRow) : (writeTile cs t r v).rfail = cs.rfail := rfl
@[simp] theorem writeTile_tagOps (cs : CoreSt) (t r : Nat) (v : TileRow) : (writeTile cs t r v).tagOps = cs.tagOps := rfl
@[simp] theorem writeTile_children (cs : CoreSt) (t r : Nat) (v : TileRow) : (writeTile cs t r v).children = cs.children := rfl
@[simp] theorem writeTile_childId (cs : CoreSt) (t r : Nat) (v : TileRow) : (writeTile cs t r v).childId = cs.childId := rfl
@[simp] theorem writeTile_watch (cs : CoreSt) (t r : Nat) (v : TileRow) : (writeTile cs t r v).watch = cs.watch := rfl
@[simp] theorem writeTile_overflow (cs : CoreSt) (t r : Nat) (v : TileRow) : (writeTile cs t r v).overflow = cs.overflow := rfl
@[simp] theorem writeTile_deadline (cs : CoreSt) (t r : Nat) (v : TileRow) : (writeTile cs t r v).deadline = cs.deadline := rfl
@[simp] theorem writeTile_acqPending (cs : CoreSt) (t r : Nat) (v : TileRow) : (writeTile cs t r v).acqPending = cs.acqPending := rfl
@[simp] theorem writeTile_exitStatus (cs : CoreSt) (t r : Nat) (v : TileRow) : (writeTile cs t r v).exitStatus = cs.exitStatus := rfl
@[simp] theorem writeTile_rspIn (cs : CoreSt) (t r : Nat) (v : TileRow) : (writeTile cs t r v).rspIn = cs.rspIn := rfl
@[simp] theorem writeTile_tcode (cs : CoreSt) (t r : Nat) (v : TileRow) : (writeTile cs t r v).tcode = cs.tcode := rfl
@[simp] theorem writeTile_tcodePrio (cs : CoreSt) (t r : Nat) (v : TileRow) : (writeTile cs t r v).tcodePrio = cs.tcodePrio := rfl
@[simp] theorem writeTile_tcodeEng (cs : CoreSt) (t r : Nat) (v : TileRow) : (writeTile cs t r v).tcodeEng = cs.tcodeEng := rfl
@[simp] theorem writeTile_tileTrap (cs : CoreSt) (t r : Nat) (v : TileRow) : (writeTile cs t r v).tileTrap = cs.tileTrap := rfl
@[simp] theorem writeTile_bkptArg (cs : CoreSt) (t r : Nat) (v : TileRow) : (writeTile cs t r v).bkptArg = cs.bkptArg := rfl
@[simp] theorem writeTile_cqArg (cs : CoreSt) (t r : Nat) (v : TileRow) : (writeTile cs t r v).cqArg = cs.cqArg := rfl
@[simp] theorem writeTile_event (cs : CoreSt) (t r : Nat) (v : TileRow) : (writeTile cs t r v).event = cs.event := rfl
@[simp] theorem writeTile_grace (cs : CoreSt) (t r : Nat) (v : TileRow) : (writeTile cs t r v).grace = cs.grace := rfl

/-! Updates that an engine or a queue selects. -/

@[simp] theorem CoreSt.setStream_inService (cs : CoreSt) (e : Engine) (x : Stream) : (cs.setStream e x).inService = cs.inService := by cases e <;> rfl
@[simp] theorem CoreSt.setStream_occ (cs : CoreSt) (e : Engine) (x : Stream) : (cs.setStream e x).occ = cs.occ := by cases e <;> rfl
@[simp] theorem CoreSt.setStream_run (cs : CoreSt) (e : Engine) (x : Stream) : (cs.setStream e x).run = cs.run := by cases e <;> rfl
@[simp] theorem CoreSt.setStream_preds (cs : CoreSt) (e : Engine) (x : Stream) : (cs.setStream e x).preds = cs.preds := by cases e <;> rfl
@[simp] theorem CoreSt.setStream_resBase (cs : CoreSt) (e : Engine) (x : Stream) : (cs.setStream e x).resBase = cs.resBase := by cases e <;> rfl
@[simp] theorem CoreSt.setStream_resStart (cs : CoreSt) (e : Engine) (x : Stream) : (cs.setStream e x).resStart = cs.resStart := by cases e <;> rfl
@[simp] theorem CoreSt.setStream_stoppedAt (cs : CoreSt) (e : Engine) (x : Stream) : (cs.setStream e x).stoppedAt = cs.stoppedAt := by cases e <;> rfl
@[simp] theorem CoreSt.setStream_restartAt (cs : CoreSt) (e : Engine) (x : Stream) : (cs.setStream e x).restartAt = cs.restartAt := by cases e <;> rfl
@[simp] theorem CoreSt.setStream_estVal (cs : CoreSt) (e : Engine) (x : Stream) : (cs.setStream e x).estVal = cs.estVal := by cases e <;> rfl
@[simp] theorem CoreSt.setStream_estAt (cs : CoreSt) (e : Engine) (x : Stream) : (cs.setStream e x).estAt = cs.estAt := by cases e <;> rfl
@[simp] theorem CoreSt.setStream_masks (cs : CoreSt) (e : Engine) (x : Stream) : (cs.setStream e x).masks = cs.masks := by cases e <;> rfl
@[simp] theorem CoreSt.setStream_bps (cs : CoreSt) (e : Engine) (x : Stream) : (cs.setStream e x).bps = cs.bps := by cases e <;> rfl
@[simp] theorem CoreSt.setStream_vregs (cs : CoreSt) (e : Engine) (x : Stream) : (cs.setStream e x).vregs = cs.vregs := by cases e <;> rfl
@[simp] theorem CoreSt.setStream_tiles (cs : CoreSt) (e : Engine) (x : Stream) : (cs.setStream e x).tiles = cs.tiles := by cases e <;> rfl
@[simp] theorem CoreSt.setStream_tcT (cs : CoreSt) (e : Engine) (x : Stream) : (cs.setStream e x).tcT = cs.tcT := by cases e <;> rfl
@[simp] theorem CoreSt.setStream_tcAcc (cs : CoreSt) (e : Engine) (x : Stream) : (cs.setStream e x).tcAcc = cs.tcAcc := by cases e <;> rfl
@[simp] theorem CoreSt.setStream_shadow (cs : CoreSt) (e : Engine) (x : Stream) : (cs.setStream e x).shadow = cs.shadow := by cases e <;> rfl
@[simp] theorem CoreSt.setStream_held (cs : CoreSt) (e : Engine) (x : Stream) : (cs.setStream e x).held = cs.held := by cases e <;> rfl
@[simp] theorem CoreSt.setStream_heldTo (cs : CoreSt) (e : Engine) (x : Stream) : (cs.setStream e x).heldTo = cs.heldTo := by cases e <;> rfl
@[simp] theorem CoreSt.setStream_pairPend (cs : CoreSt) (e : Engine) (x : Stream) : (cs.setStream e x).pairPend = cs.pairPend := by cases e <;> rfl
@[simp] theorem CoreSt.setStream_spm (cs : CoreSt) (e : Engine) (x : Stream) : (cs.setStream e x).spm = cs.spm := by cases e <;> rfl
@[simp] theorem CoreSt.setStream_spmPoison (cs : CoreSt) (e : Engine) (x : Stream) : (cs.setStream e x).spmPoison = cs.spmPoison := by cases e <;> rfl
@[simp] theorem CoreSt.setStream_sems (cs : CoreSt) (e : Engine) (x : Stream) : (cs.setStream e x).sems = cs.sems := by cases e <;> rfl
@[simp] theorem CoreSt.setStream_semLog (cs : CoreSt) (e : Engine) (x : Stream) : (cs.setStream e x).semLog = cs.semLog := by cases e <;> rfl
@[simp] theorem CoreSt.setStream_qsMem (cs : CoreSt) (e : Engine) (x : Stream) : (cs.setStream e x).qsMem = cs.qsMem := by cases e <;> rfl
@[simp] theorem CoreSt.setStream_qsVec (cs : CoreSt) (e : Engine) (x : Stream) : (cs.setStream e x).qsVec = cs.qsVec := by cases e <;> rfl
@[simp] theorem CoreSt.setStream_qsMtx (cs : CoreSt) (e : Engine) (x : Stream) : (cs.setStream e x).qsMtx = cs.qsMtx := by cases e <;> rfl
@[simp] theorem CoreSt.setStream_qr (cs : CoreSt) (e : Engine) (x : Stream) : (cs.setStream e x).qr = cs.qr := by cases e <;> rfl
@[simp] theorem CoreSt.setStream_freed (cs : CoreSt) (e : Engine) (x : Stream) : (cs.setStream e x).freed = cs.freed := by cases e <;> rfl
@[simp] theorem CoreSt.setStream_dqs (cs : CoreSt) (e : Engine) (x : Stream) : (cs.setStream e x).dqs = cs.dqs := by cases e <;> rfl
@[simp] theorem CoreSt.setStream_flights (cs : CoreSt) (e : Engine) (x : Stream) : (cs.setStream e x).flights = cs.flights := by cases e <;> rfl
@[simp] theorem CoreSt.setStream_nextId (cs : CoreSt) (e : Engine) (x : Stream) : (cs.setStream e x).nextId = cs.nextId := by cases e <;> rfl
@[simp] theorem CoreSt.setStream_accesses (cs : CoreSt) (e : Engine) (x : Stream) : (cs.setStream e x).accesses = cs.accesses := by cases e <;> rfl
@[simp] theorem CoreSt.setStream_mseWait (cs : CoreSt) (e : Engine) (x : Stream) : (cs.setStream e x).mseWait = cs.mseWait := by cases e <;> rfl
@[simp] theorem CoreSt.setStream_l1 (cs : CoreSt) (e : Engine) (x : Stream) : (cs.setStream e x).l1 = cs.l1 := by cases e <;> rfl
@[simp] theorem CoreSt.setStream_inbox (cs : CoreSt) (e : Engine) (x : Stream) : (cs.setStream e x).inbox = cs.inbox := by cases e <;> rfl
@[simp] theorem CoreSt.setStream_wbOut (cs : CoreSt) (e : Engine) (x : Stream) : (cs.setStream e x).wbOut = cs.wbOut := by cases e <;> rfl
@[simp] theorem CoreSt.setStream_rvkOut (cs : CoreSt) (e : Engine) (x : Stream) : (cs.setStream e x).rvkOut = cs.rvkOut := by cases e <;> rfl
@[simp] theorem CoreSt.setStream_fwdOut (cs : CoreSt) (e : Engine) (x : Stream) : (cs.setStream e x).fwdOut = cs.fwdOut := by cases e <;> rfl
@[simp] theorem CoreSt.setStream_imemSeq (cs : CoreSt) (e : Engine) (x : Stream) : (cs.setStream e x).imemSeq = cs.imemSeq := by cases e <;> rfl
@[simp] theorem CoreSt.setStream_imemMem (cs : CoreSt) (e : Engine) (x : Stream) : (cs.setStream e x).imemMem = cs.imemMem := by cases e <;> rfl
@[simp] theorem CoreSt.setStream_imemVec (cs : CoreSt) (e : Engine) (x : Stream) : (cs.setStream e x).imemVec = cs.imemVec := by cases e <;> rfl
@[simp] theorem CoreSt.setStream_imemMtx (cs : CoreSt) (e : Engine) (x : Stream) : (cs.setStream e x).imemMtx = cs.imemMtx := by cases e <;> rfl
@[simp] theorem CoreSt.setStream_banks (cs : CoreSt) (e : Engine) (x : Stream) : (cs.setStream e x).banks = cs.banks := by cases e <;> rfl
@[simp] theorem CoreSt.setStream_rowJobs (cs : CoreSt) (e : Engine) (x : Stream) : (cs.setStream e x).rowJobs = cs.rowJobs := by cases e <;> rfl
@[simp] theorem CoreSt.setStream_actCount (cs : CoreSt) (e : Engine) (x : Stream) : (cs.setStream e x).actCount = cs.actCount := by cases e <;> rfl
@[simp] theorem CoreSt.setStream_actTimes (cs : CoreSt) (e : Engine) (x : Stream) : (cs.setStream e x).actTimes = cs.actTimes := by cases e <;> rfl
@[simp] theorem CoreSt.setStream_cq0 (cs : CoreSt) (e : Engine) (x : Stream) : (cs.setStream e x).cq0 = cs.cq0 := by cases e <;> rfl
@[simp] theorem CoreSt.setStream_cq1 (cs : CoreSt) (e : Engine) (x : Stream) : (cs.setStream e x).cq1 = cs.cq1 := by cases e <;> rfl
@[simp] theorem CoreSt.setStream_cqSeq (cs : CoreSt) (e : Engine) (x : Stream) : (cs.setStream e x).cqSeq = cs.cqSeq := by cases e <;> rfl
@[simp] theorem CoreSt.setStream_pend (cs : CoreSt) (e : Engine) (x : Stream) : (cs.setStream e x).pend = cs.pend := by cases e <;> rfl
@[simp] theorem CoreSt.setStream_bindCore (cs : CoreSt) (e : Engine) (x : Stream) : (cs.setStream e x).bindCore = cs.bindCore := by cases e <;> rfl
@[simp] theorem CoreSt.setStream_bindCq0 (cs : CoreSt) (e : Engine) (x : Stream) : (cs.setStream e x).bindCq0 = cs.bindCq0 := by cases e <;> rfl
@[simp] theorem CoreSt.setStream_bindCq1 (cs : CoreSt) (e : Engine) (x : Stream) : (cs.setStream e x).bindCq1 = cs.bindCq1 := by cases e <;> rfl
@[simp] theorem CoreSt.setStream_rfail (cs : CoreSt) (e : Engine) (x : Stream) : (cs.setStream e x).rfail = cs.rfail := by cases e <;> rfl
@[simp] theorem CoreSt.setStream_tagOps (cs : CoreSt) (e : Engine) (x : Stream) : (cs.setStream e x).tagOps = cs.tagOps := by cases e <;> rfl
@[simp] theorem CoreSt.setStream_children (cs : CoreSt) (e : Engine) (x : Stream) : (cs.setStream e x).children = cs.children := by cases e <;> rfl
@[simp] theorem CoreSt.setStream_childId (cs : CoreSt) (e : Engine) (x : Stream) : (cs.setStream e x).childId = cs.childId := by cases e <;> rfl
@[simp] theorem CoreSt.setStream_watch (cs : CoreSt) (e : Engine) (x : Stream) : (cs.setStream e x).watch = cs.watch := by cases e <;> rfl
@[simp] theorem CoreSt.setStream_overflow (cs : CoreSt) (e : Engine) (x : Stream) : (cs.setStream e x).overflow = cs.overflow := by cases e <;> rfl
@[simp] theorem CoreSt.setStream_deadline (cs : CoreSt) (e : Engine) (x : Stream) : (cs.setStream e x).deadline = cs.deadline := by cases e <;> rfl
@[simp] theorem CoreSt.setStream_acqPending (cs : CoreSt) (e : Engine) (x : Stream) : (cs.setStream e x).acqPending = cs.acqPending := by cases e <;> rfl
@[simp] theorem CoreSt.setStream_exitStatus (cs : CoreSt) (e : Engine) (x : Stream) : (cs.setStream e x).exitStatus = cs.exitStatus := by cases e <;> rfl
@[simp] theorem CoreSt.setStream_rspIn (cs : CoreSt) (e : Engine) (x : Stream) : (cs.setStream e x).rspIn = cs.rspIn := by cases e <;> rfl
@[simp] theorem CoreSt.setStream_tcode (cs : CoreSt) (e : Engine) (x : Stream) : (cs.setStream e x).tcode = cs.tcode := by cases e <;> rfl
@[simp] theorem CoreSt.setStream_tcodePrio (cs : CoreSt) (e : Engine) (x : Stream) : (cs.setStream e x).tcodePrio = cs.tcodePrio := by cases e <;> rfl
@[simp] theorem CoreSt.setStream_tcodeEng (cs : CoreSt) (e : Engine) (x : Stream) : (cs.setStream e x).tcodeEng = cs.tcodeEng := by cases e <;> rfl
@[simp] theorem CoreSt.setStream_tileTrap (cs : CoreSt) (e : Engine) (x : Stream) : (cs.setStream e x).tileTrap = cs.tileTrap := by cases e <;> rfl
@[simp] theorem CoreSt.setStream_bkptArg (cs : CoreSt) (e : Engine) (x : Stream) : (cs.setStream e x).bkptArg = cs.bkptArg := by cases e <;> rfl
@[simp] theorem CoreSt.setStream_cqArg (cs : CoreSt) (e : Engine) (x : Stream) : (cs.setStream e x).cqArg = cs.cqArg := by cases e <;> rfl
@[simp] theorem CoreSt.setStream_event (cs : CoreSt) (e : Engine) (x : Stream) : (cs.setStream e x).event = cs.event := by cases e <;> rfl
@[simp] theorem CoreSt.setStream_grace (cs : CoreSt) (e : Engine) (x : Stream) : (cs.setStream e x).grace = cs.grace := by cases e <;> rfl
@[simp] theorem setReg_inService (cs : CoreSt) (e : Engine) (n : Nat) (v : SVal) : (setReg cs e n v).inService = cs.inService := by cases e <;> rfl
@[simp] theorem setReg_occ (cs : CoreSt) (e : Engine) (n : Nat) (v : SVal) : (setReg cs e n v).occ = cs.occ := by cases e <;> rfl
@[simp] theorem setReg_run (cs : CoreSt) (e : Engine) (n : Nat) (v : SVal) : (setReg cs e n v).run = cs.run := by cases e <;> rfl
@[simp] theorem setReg_preds (cs : CoreSt) (e : Engine) (n : Nat) (v : SVal) : (setReg cs e n v).preds = cs.preds := by cases e <;> rfl
@[simp] theorem setReg_resBase (cs : CoreSt) (e : Engine) (n : Nat) (v : SVal) : (setReg cs e n v).resBase = cs.resBase := by cases e <;> rfl
@[simp] theorem setReg_resStart (cs : CoreSt) (e : Engine) (n : Nat) (v : SVal) : (setReg cs e n v).resStart = cs.resStart := by cases e <;> rfl
@[simp] theorem setReg_stoppedAt (cs : CoreSt) (e : Engine) (n : Nat) (v : SVal) : (setReg cs e n v).stoppedAt = cs.stoppedAt := by cases e <;> rfl
@[simp] theorem setReg_restartAt (cs : CoreSt) (e : Engine) (n : Nat) (v : SVal) : (setReg cs e n v).restartAt = cs.restartAt := by cases e <;> rfl
@[simp] theorem setReg_estVal (cs : CoreSt) (e : Engine) (n : Nat) (v : SVal) : (setReg cs e n v).estVal = cs.estVal := by cases e <;> rfl
@[simp] theorem setReg_estAt (cs : CoreSt) (e : Engine) (n : Nat) (v : SVal) : (setReg cs e n v).estAt = cs.estAt := by cases e <;> rfl
@[simp] theorem setReg_masks (cs : CoreSt) (e : Engine) (n : Nat) (v : SVal) : (setReg cs e n v).masks = cs.masks := by cases e <;> rfl
@[simp] theorem setReg_bps (cs : CoreSt) (e : Engine) (n : Nat) (v : SVal) : (setReg cs e n v).bps = cs.bps := by cases e <;> rfl
@[simp] theorem setReg_vregs (cs : CoreSt) (e : Engine) (n : Nat) (v : SVal) : (setReg cs e n v).vregs = cs.vregs := by cases e <;> rfl
@[simp] theorem setReg_tiles (cs : CoreSt) (e : Engine) (n : Nat) (v : SVal) : (setReg cs e n v).tiles = cs.tiles := by cases e <;> rfl
@[simp] theorem setReg_tcT (cs : CoreSt) (e : Engine) (n : Nat) (v : SVal) : (setReg cs e n v).tcT = cs.tcT := by cases e <;> rfl
@[simp] theorem setReg_tcAcc (cs : CoreSt) (e : Engine) (n : Nat) (v : SVal) : (setReg cs e n v).tcAcc = cs.tcAcc := by cases e <;> rfl
@[simp] theorem setReg_shadow (cs : CoreSt) (e : Engine) (n : Nat) (v : SVal) : (setReg cs e n v).shadow = cs.shadow := by cases e <;> rfl
@[simp] theorem setReg_held (cs : CoreSt) (e : Engine) (n : Nat) (v : SVal) : (setReg cs e n v).held = cs.held := by cases e <;> rfl
@[simp] theorem setReg_heldTo (cs : CoreSt) (e : Engine) (n : Nat) (v : SVal) : (setReg cs e n v).heldTo = cs.heldTo := by cases e <;> rfl
@[simp] theorem setReg_pairPend (cs : CoreSt) (e : Engine) (n : Nat) (v : SVal) : (setReg cs e n v).pairPend = cs.pairPend := by cases e <;> rfl
@[simp] theorem setReg_spm (cs : CoreSt) (e : Engine) (n : Nat) (v : SVal) : (setReg cs e n v).spm = cs.spm := by cases e <;> rfl
@[simp] theorem setReg_spmPoison (cs : CoreSt) (e : Engine) (n : Nat) (v : SVal) : (setReg cs e n v).spmPoison = cs.spmPoison := by cases e <;> rfl
@[simp] theorem setReg_sems (cs : CoreSt) (e : Engine) (n : Nat) (v : SVal) : (setReg cs e n v).sems = cs.sems := by cases e <;> rfl
@[simp] theorem setReg_semLog (cs : CoreSt) (e : Engine) (n : Nat) (v : SVal) : (setReg cs e n v).semLog = cs.semLog := by cases e <;> rfl
@[simp] theorem setReg_qsMem (cs : CoreSt) (e : Engine) (n : Nat) (v : SVal) : (setReg cs e n v).qsMem = cs.qsMem := by cases e <;> rfl
@[simp] theorem setReg_qsVec (cs : CoreSt) (e : Engine) (n : Nat) (v : SVal) : (setReg cs e n v).qsVec = cs.qsVec := by cases e <;> rfl
@[simp] theorem setReg_qsMtx (cs : CoreSt) (e : Engine) (n : Nat) (v : SVal) : (setReg cs e n v).qsMtx = cs.qsMtx := by cases e <;> rfl
@[simp] theorem setReg_qr (cs : CoreSt) (e : Engine) (n : Nat) (v : SVal) : (setReg cs e n v).qr = cs.qr := by cases e <;> rfl
@[simp] theorem setReg_freed (cs : CoreSt) (e : Engine) (n : Nat) (v : SVal) : (setReg cs e n v).freed = cs.freed := by cases e <;> rfl
@[simp] theorem setReg_dqs (cs : CoreSt) (e : Engine) (n : Nat) (v : SVal) : (setReg cs e n v).dqs = cs.dqs := by cases e <;> rfl
@[simp] theorem setReg_flights (cs : CoreSt) (e : Engine) (n : Nat) (v : SVal) : (setReg cs e n v).flights = cs.flights := by cases e <;> rfl
@[simp] theorem setReg_nextId (cs : CoreSt) (e : Engine) (n : Nat) (v : SVal) : (setReg cs e n v).nextId = cs.nextId := by cases e <;> rfl
@[simp] theorem setReg_accesses (cs : CoreSt) (e : Engine) (n : Nat) (v : SVal) : (setReg cs e n v).accesses = cs.accesses := by cases e <;> rfl
@[simp] theorem setReg_mseWait (cs : CoreSt) (e : Engine) (n : Nat) (v : SVal) : (setReg cs e n v).mseWait = cs.mseWait := by cases e <;> rfl
@[simp] theorem setReg_l1 (cs : CoreSt) (e : Engine) (n : Nat) (v : SVal) : (setReg cs e n v).l1 = cs.l1 := by cases e <;> rfl
@[simp] theorem setReg_inbox (cs : CoreSt) (e : Engine) (n : Nat) (v : SVal) : (setReg cs e n v).inbox = cs.inbox := by cases e <;> rfl
@[simp] theorem setReg_wbOut (cs : CoreSt) (e : Engine) (n : Nat) (v : SVal) : (setReg cs e n v).wbOut = cs.wbOut := by cases e <;> rfl
@[simp] theorem setReg_rvkOut (cs : CoreSt) (e : Engine) (n : Nat) (v : SVal) : (setReg cs e n v).rvkOut = cs.rvkOut := by cases e <;> rfl
@[simp] theorem setReg_fwdOut (cs : CoreSt) (e : Engine) (n : Nat) (v : SVal) : (setReg cs e n v).fwdOut = cs.fwdOut := by cases e <;> rfl
@[simp] theorem setReg_imemSeq (cs : CoreSt) (e : Engine) (n : Nat) (v : SVal) : (setReg cs e n v).imemSeq = cs.imemSeq := by cases e <;> rfl
@[simp] theorem setReg_imemMem (cs : CoreSt) (e : Engine) (n : Nat) (v : SVal) : (setReg cs e n v).imemMem = cs.imemMem := by cases e <;> rfl
@[simp] theorem setReg_imemVec (cs : CoreSt) (e : Engine) (n : Nat) (v : SVal) : (setReg cs e n v).imemVec = cs.imemVec := by cases e <;> rfl
@[simp] theorem setReg_imemMtx (cs : CoreSt) (e : Engine) (n : Nat) (v : SVal) : (setReg cs e n v).imemMtx = cs.imemMtx := by cases e <;> rfl
@[simp] theorem setReg_banks (cs : CoreSt) (e : Engine) (n : Nat) (v : SVal) : (setReg cs e n v).banks = cs.banks := by cases e <;> rfl
@[simp] theorem setReg_rowJobs (cs : CoreSt) (e : Engine) (n : Nat) (v : SVal) : (setReg cs e n v).rowJobs = cs.rowJobs := by cases e <;> rfl
@[simp] theorem setReg_actCount (cs : CoreSt) (e : Engine) (n : Nat) (v : SVal) : (setReg cs e n v).actCount = cs.actCount := by cases e <;> rfl
@[simp] theorem setReg_actTimes (cs : CoreSt) (e : Engine) (n : Nat) (v : SVal) : (setReg cs e n v).actTimes = cs.actTimes := by cases e <;> rfl
@[simp] theorem setReg_cq0 (cs : CoreSt) (e : Engine) (n : Nat) (v : SVal) : (setReg cs e n v).cq0 = cs.cq0 := by cases e <;> rfl
@[simp] theorem setReg_cq1 (cs : CoreSt) (e : Engine) (n : Nat) (v : SVal) : (setReg cs e n v).cq1 = cs.cq1 := by cases e <;> rfl
@[simp] theorem setReg_cqSeq (cs : CoreSt) (e : Engine) (n : Nat) (v : SVal) : (setReg cs e n v).cqSeq = cs.cqSeq := by cases e <;> rfl
@[simp] theorem setReg_pend (cs : CoreSt) (e : Engine) (n : Nat) (v : SVal) : (setReg cs e n v).pend = cs.pend := by cases e <;> rfl
@[simp] theorem setReg_bindCore (cs : CoreSt) (e : Engine) (n : Nat) (v : SVal) : (setReg cs e n v).bindCore = cs.bindCore := by cases e <;> rfl
@[simp] theorem setReg_bindCq0 (cs : CoreSt) (e : Engine) (n : Nat) (v : SVal) : (setReg cs e n v).bindCq0 = cs.bindCq0 := by cases e <;> rfl
@[simp] theorem setReg_bindCq1 (cs : CoreSt) (e : Engine) (n : Nat) (v : SVal) : (setReg cs e n v).bindCq1 = cs.bindCq1 := by cases e <;> rfl
@[simp] theorem setReg_rfail (cs : CoreSt) (e : Engine) (n : Nat) (v : SVal) : (setReg cs e n v).rfail = cs.rfail := by cases e <;> rfl
@[simp] theorem setReg_tagOps (cs : CoreSt) (e : Engine) (n : Nat) (v : SVal) : (setReg cs e n v).tagOps = cs.tagOps := by cases e <;> rfl
@[simp] theorem setReg_children (cs : CoreSt) (e : Engine) (n : Nat) (v : SVal) : (setReg cs e n v).children = cs.children := by cases e <;> rfl
@[simp] theorem setReg_childId (cs : CoreSt) (e : Engine) (n : Nat) (v : SVal) : (setReg cs e n v).childId = cs.childId := by cases e <;> rfl
@[simp] theorem setReg_watch (cs : CoreSt) (e : Engine) (n : Nat) (v : SVal) : (setReg cs e n v).watch = cs.watch := by cases e <;> rfl
@[simp] theorem setReg_overflow (cs : CoreSt) (e : Engine) (n : Nat) (v : SVal) : (setReg cs e n v).overflow = cs.overflow := by cases e <;> rfl
@[simp] theorem setReg_deadline (cs : CoreSt) (e : Engine) (n : Nat) (v : SVal) : (setReg cs e n v).deadline = cs.deadline := by cases e <;> rfl
@[simp] theorem setReg_acqPending (cs : CoreSt) (e : Engine) (n : Nat) (v : SVal) : (setReg cs e n v).acqPending = cs.acqPending := by cases e <;> rfl
@[simp] theorem setReg_exitStatus (cs : CoreSt) (e : Engine) (n : Nat) (v : SVal) : (setReg cs e n v).exitStatus = cs.exitStatus := by cases e <;> rfl
@[simp] theorem setReg_rspIn (cs : CoreSt) (e : Engine) (n : Nat) (v : SVal) : (setReg cs e n v).rspIn = cs.rspIn := by cases e <;> rfl
@[simp] theorem setReg_tcode (cs : CoreSt) (e : Engine) (n : Nat) (v : SVal) : (setReg cs e n v).tcode = cs.tcode := by cases e <;> rfl
@[simp] theorem setReg_tcodePrio (cs : CoreSt) (e : Engine) (n : Nat) (v : SVal) : (setReg cs e n v).tcodePrio = cs.tcodePrio := by cases e <;> rfl
@[simp] theorem setReg_tcodeEng (cs : CoreSt) (e : Engine) (n : Nat) (v : SVal) : (setReg cs e n v).tcodeEng = cs.tcodeEng := by cases e <;> rfl
@[simp] theorem setReg_tileTrap (cs : CoreSt) (e : Engine) (n : Nat) (v : SVal) : (setReg cs e n v).tileTrap = cs.tileTrap := by cases e <;> rfl
@[simp] theorem setReg_bkptArg (cs : CoreSt) (e : Engine) (n : Nat) (v : SVal) : (setReg cs e n v).bkptArg = cs.bkptArg := by cases e <;> rfl
@[simp] theorem setReg_cqArg (cs : CoreSt) (e : Engine) (n : Nat) (v : SVal) : (setReg cs e n v).cqArg = cs.cqArg := by cases e <;> rfl
@[simp] theorem setReg_event (cs : CoreSt) (e : Engine) (n : Nat) (v : SVal) : (setReg cs e n v).event = cs.event := by cases e <;> rfl
@[simp] theorem setReg_grace (cs : CoreSt) (e : Engine) (n : Nat) (v : SVal) : (setReg cs e n v).grace = cs.grace := by cases e <;> rfl
@[simp] theorem setSq_inService (cs : CoreSt) (q : QName) (l : List SSlot) : (setSq cs q l).inService = cs.inService := by cases q <;> rfl
@[simp] theorem setSq_occ (cs : CoreSt) (q : QName) (l : List SSlot) : (setSq cs q l).occ = cs.occ := by cases q <;> rfl
@[simp] theorem setSq_run (cs : CoreSt) (q : QName) (l : List SSlot) : (setSq cs q l).run = cs.run := by cases q <;> rfl
@[simp] theorem setSq_seq (cs : CoreSt) (q : QName) (l : List SSlot) : (setSq cs q l).seq = cs.seq := by cases q <;> rfl
@[simp] theorem setSq_mem (cs : CoreSt) (q : QName) (l : List SSlot) : (setSq cs q l).mem = cs.mem := by cases q <;> rfl
@[simp] theorem setSq_vec (cs : CoreSt) (q : QName) (l : List SSlot) : (setSq cs q l).vec = cs.vec := by cases q <;> rfl
@[simp] theorem setSq_mtx (cs : CoreSt) (q : QName) (l : List SSlot) : (setSq cs q l).mtx = cs.mtx := by cases q <;> rfl
@[simp] theorem setSq_preds (cs : CoreSt) (q : QName) (l : List SSlot) : (setSq cs q l).preds = cs.preds := by cases q <;> rfl
@[simp] theorem setSq_resBase (cs : CoreSt) (q : QName) (l : List SSlot) : (setSq cs q l).resBase = cs.resBase := by cases q <;> rfl
@[simp] theorem setSq_resStart (cs : CoreSt) (q : QName) (l : List SSlot) : (setSq cs q l).resStart = cs.resStart := by cases q <;> rfl
@[simp] theorem setSq_stoppedAt (cs : CoreSt) (q : QName) (l : List SSlot) : (setSq cs q l).stoppedAt = cs.stoppedAt := by cases q <;> rfl
@[simp] theorem setSq_restartAt (cs : CoreSt) (q : QName) (l : List SSlot) : (setSq cs q l).restartAt = cs.restartAt := by cases q <;> rfl
@[simp] theorem setSq_estVal (cs : CoreSt) (q : QName) (l : List SSlot) : (setSq cs q l).estVal = cs.estVal := by cases q <;> rfl
@[simp] theorem setSq_estAt (cs : CoreSt) (q : QName) (l : List SSlot) : (setSq cs q l).estAt = cs.estAt := by cases q <;> rfl
@[simp] theorem setSq_masks (cs : CoreSt) (q : QName) (l : List SSlot) : (setSq cs q l).masks = cs.masks := by cases q <;> rfl
@[simp] theorem setSq_bps (cs : CoreSt) (q : QName) (l : List SSlot) : (setSq cs q l).bps = cs.bps := by cases q <;> rfl
@[simp] theorem setSq_vregs (cs : CoreSt) (q : QName) (l : List SSlot) : (setSq cs q l).vregs = cs.vregs := by cases q <;> rfl
@[simp] theorem setSq_tiles (cs : CoreSt) (q : QName) (l : List SSlot) : (setSq cs q l).tiles = cs.tiles := by cases q <;> rfl
@[simp] theorem setSq_tcT (cs : CoreSt) (q : QName) (l : List SSlot) : (setSq cs q l).tcT = cs.tcT := by cases q <;> rfl
@[simp] theorem setSq_tcAcc (cs : CoreSt) (q : QName) (l : List SSlot) : (setSq cs q l).tcAcc = cs.tcAcc := by cases q <;> rfl
@[simp] theorem setSq_shadow (cs : CoreSt) (q : QName) (l : List SSlot) : (setSq cs q l).shadow = cs.shadow := by cases q <;> rfl
@[simp] theorem setSq_held (cs : CoreSt) (q : QName) (l : List SSlot) : (setSq cs q l).held = cs.held := by cases q <;> rfl
@[simp] theorem setSq_heldTo (cs : CoreSt) (q : QName) (l : List SSlot) : (setSq cs q l).heldTo = cs.heldTo := by cases q <;> rfl
@[simp] theorem setSq_pairPend (cs : CoreSt) (q : QName) (l : List SSlot) : (setSq cs q l).pairPend = cs.pairPend := by cases q <;> rfl
@[simp] theorem setSq_spm (cs : CoreSt) (q : QName) (l : List SSlot) : (setSq cs q l).spm = cs.spm := by cases q <;> rfl
@[simp] theorem setSq_spmPoison (cs : CoreSt) (q : QName) (l : List SSlot) : (setSq cs q l).spmPoison = cs.spmPoison := by cases q <;> rfl
@[simp] theorem setSq_sems (cs : CoreSt) (q : QName) (l : List SSlot) : (setSq cs q l).sems = cs.sems := by cases q <;> rfl
@[simp] theorem setSq_semLog (cs : CoreSt) (q : QName) (l : List SSlot) : (setSq cs q l).semLog = cs.semLog := by cases q <;> rfl
@[simp] theorem setSq_freed (cs : CoreSt) (q : QName) (l : List SSlot) : (setSq cs q l).freed = cs.freed := by cases q <;> rfl
@[simp] theorem setSq_dqs (cs : CoreSt) (q : QName) (l : List SSlot) : (setSq cs q l).dqs = cs.dqs := by cases q <;> rfl
@[simp] theorem setSq_flights (cs : CoreSt) (q : QName) (l : List SSlot) : (setSq cs q l).flights = cs.flights := by cases q <;> rfl
@[simp] theorem setSq_nextId (cs : CoreSt) (q : QName) (l : List SSlot) : (setSq cs q l).nextId = cs.nextId := by cases q <;> rfl
@[simp] theorem setSq_accesses (cs : CoreSt) (q : QName) (l : List SSlot) : (setSq cs q l).accesses = cs.accesses := by cases q <;> rfl
@[simp] theorem setSq_mseWait (cs : CoreSt) (q : QName) (l : List SSlot) : (setSq cs q l).mseWait = cs.mseWait := by cases q <;> rfl
@[simp] theorem setSq_l1 (cs : CoreSt) (q : QName) (l : List SSlot) : (setSq cs q l).l1 = cs.l1 := by cases q <;> rfl
@[simp] theorem setSq_inbox (cs : CoreSt) (q : QName) (l : List SSlot) : (setSq cs q l).inbox = cs.inbox := by cases q <;> rfl
@[simp] theorem setSq_wbOut (cs : CoreSt) (q : QName) (l : List SSlot) : (setSq cs q l).wbOut = cs.wbOut := by cases q <;> rfl
@[simp] theorem setSq_rvkOut (cs : CoreSt) (q : QName) (l : List SSlot) : (setSq cs q l).rvkOut = cs.rvkOut := by cases q <;> rfl
@[simp] theorem setSq_fwdOut (cs : CoreSt) (q : QName) (l : List SSlot) : (setSq cs q l).fwdOut = cs.fwdOut := by cases q <;> rfl
@[simp] theorem setSq_imemSeq (cs : CoreSt) (q : QName) (l : List SSlot) : (setSq cs q l).imemSeq = cs.imemSeq := by cases q <;> rfl
@[simp] theorem setSq_imemMem (cs : CoreSt) (q : QName) (l : List SSlot) : (setSq cs q l).imemMem = cs.imemMem := by cases q <;> rfl
@[simp] theorem setSq_imemVec (cs : CoreSt) (q : QName) (l : List SSlot) : (setSq cs q l).imemVec = cs.imemVec := by cases q <;> rfl
@[simp] theorem setSq_imemMtx (cs : CoreSt) (q : QName) (l : List SSlot) : (setSq cs q l).imemMtx = cs.imemMtx := by cases q <;> rfl
@[simp] theorem setSq_banks (cs : CoreSt) (q : QName) (l : List SSlot) : (setSq cs q l).banks = cs.banks := by cases q <;> rfl
@[simp] theorem setSq_rowJobs (cs : CoreSt) (q : QName) (l : List SSlot) : (setSq cs q l).rowJobs = cs.rowJobs := by cases q <;> rfl
@[simp] theorem setSq_actCount (cs : CoreSt) (q : QName) (l : List SSlot) : (setSq cs q l).actCount = cs.actCount := by cases q <;> rfl
@[simp] theorem setSq_actTimes (cs : CoreSt) (q : QName) (l : List SSlot) : (setSq cs q l).actTimes = cs.actTimes := by cases q <;> rfl
@[simp] theorem setSq_cq0 (cs : CoreSt) (q : QName) (l : List SSlot) : (setSq cs q l).cq0 = cs.cq0 := by cases q <;> rfl
@[simp] theorem setSq_cq1 (cs : CoreSt) (q : QName) (l : List SSlot) : (setSq cs q l).cq1 = cs.cq1 := by cases q <;> rfl
@[simp] theorem setSq_cqSeq (cs : CoreSt) (q : QName) (l : List SSlot) : (setSq cs q l).cqSeq = cs.cqSeq := by cases q <;> rfl
@[simp] theorem setSq_pend (cs : CoreSt) (q : QName) (l : List SSlot) : (setSq cs q l).pend = cs.pend := by cases q <;> rfl
@[simp] theorem setSq_bindCore (cs : CoreSt) (q : QName) (l : List SSlot) : (setSq cs q l).bindCore = cs.bindCore := by cases q <;> rfl
@[simp] theorem setSq_bindCq0 (cs : CoreSt) (q : QName) (l : List SSlot) : (setSq cs q l).bindCq0 = cs.bindCq0 := by cases q <;> rfl
@[simp] theorem setSq_bindCq1 (cs : CoreSt) (q : QName) (l : List SSlot) : (setSq cs q l).bindCq1 = cs.bindCq1 := by cases q <;> rfl
@[simp] theorem setSq_rfail (cs : CoreSt) (q : QName) (l : List SSlot) : (setSq cs q l).rfail = cs.rfail := by cases q <;> rfl
@[simp] theorem setSq_tagOps (cs : CoreSt) (q : QName) (l : List SSlot) : (setSq cs q l).tagOps = cs.tagOps := by cases q <;> rfl
@[simp] theorem setSq_children (cs : CoreSt) (q : QName) (l : List SSlot) : (setSq cs q l).children = cs.children := by cases q <;> rfl
@[simp] theorem setSq_childId (cs : CoreSt) (q : QName) (l : List SSlot) : (setSq cs q l).childId = cs.childId := by cases q <;> rfl
@[simp] theorem setSq_watch (cs : CoreSt) (q : QName) (l : List SSlot) : (setSq cs q l).watch = cs.watch := by cases q <;> rfl
@[simp] theorem setSq_overflow (cs : CoreSt) (q : QName) (l : List SSlot) : (setSq cs q l).overflow = cs.overflow := by cases q <;> rfl
@[simp] theorem setSq_deadline (cs : CoreSt) (q : QName) (l : List SSlot) : (setSq cs q l).deadline = cs.deadline := by cases q <;> rfl
@[simp] theorem setSq_acqPending (cs : CoreSt) (q : QName) (l : List SSlot) : (setSq cs q l).acqPending = cs.acqPending := by cases q <;> rfl
@[simp] theorem setSq_exitStatus (cs : CoreSt) (q : QName) (l : List SSlot) : (setSq cs q l).exitStatus = cs.exitStatus := by cases q <;> rfl
@[simp] theorem setSq_rspIn (cs : CoreSt) (q : QName) (l : List SSlot) : (setSq cs q l).rspIn = cs.rspIn := by cases q <;> rfl
@[simp] theorem setSq_tcode (cs : CoreSt) (q : QName) (l : List SSlot) : (setSq cs q l).tcode = cs.tcode := by cases q <;> rfl
@[simp] theorem setSq_tcodePrio (cs : CoreSt) (q : QName) (l : List SSlot) : (setSq cs q l).tcodePrio = cs.tcodePrio := by cases q <;> rfl
@[simp] theorem setSq_tcodeEng (cs : CoreSt) (q : QName) (l : List SSlot) : (setSq cs q l).tcodeEng = cs.tcodeEng := by cases q <;> rfl
@[simp] theorem setSq_tileTrap (cs : CoreSt) (q : QName) (l : List SSlot) : (setSq cs q l).tileTrap = cs.tileTrap := by cases q <;> rfl
@[simp] theorem setSq_bkptArg (cs : CoreSt) (q : QName) (l : List SSlot) : (setSq cs q l).bkptArg = cs.bkptArg := by cases q <;> rfl
@[simp] theorem setSq_cqArg (cs : CoreSt) (q : QName) (l : List SSlot) : (setSq cs q l).cqArg = cs.cqArg := by cases q <;> rfl
@[simp] theorem setSq_event (cs : CoreSt) (q : QName) (l : List SSlot) : (setSq cs q l).event = cs.event := by cases q <;> rfl
@[simp] theorem setSq_grace (cs : CoreSt) (q : QName) (l : List SSlot) : (setSq cs q l).grace = cs.grace := by cases q <;> rfl
@[simp] theorem CoreSt.setImem_inService (cs : CoreSt) (e : Engine) (m : NMap (BitVec 512)) : (cs.setImem e m).inService = cs.inService := by cases e <;> rfl
@[simp] theorem CoreSt.setImem_occ (cs : CoreSt) (e : Engine) (m : NMap (BitVec 512)) : (cs.setImem e m).occ = cs.occ := by cases e <;> rfl
@[simp] theorem CoreSt.setImem_run (cs : CoreSt) (e : Engine) (m : NMap (BitVec 512)) : (cs.setImem e m).run = cs.run := by cases e <;> rfl
@[simp] theorem CoreSt.setImem_seq (cs : CoreSt) (e : Engine) (m : NMap (BitVec 512)) : (cs.setImem e m).seq = cs.seq := by cases e <;> rfl
@[simp] theorem CoreSt.setImem_mem (cs : CoreSt) (e : Engine) (m : NMap (BitVec 512)) : (cs.setImem e m).mem = cs.mem := by cases e <;> rfl
@[simp] theorem CoreSt.setImem_vec (cs : CoreSt) (e : Engine) (m : NMap (BitVec 512)) : (cs.setImem e m).vec = cs.vec := by cases e <;> rfl
@[simp] theorem CoreSt.setImem_mtx (cs : CoreSt) (e : Engine) (m : NMap (BitVec 512)) : (cs.setImem e m).mtx = cs.mtx := by cases e <;> rfl
@[simp] theorem CoreSt.setImem_preds (cs : CoreSt) (e : Engine) (m : NMap (BitVec 512)) : (cs.setImem e m).preds = cs.preds := by cases e <;> rfl
@[simp] theorem CoreSt.setImem_resBase (cs : CoreSt) (e : Engine) (m : NMap (BitVec 512)) : (cs.setImem e m).resBase = cs.resBase := by cases e <;> rfl
@[simp] theorem CoreSt.setImem_resStart (cs : CoreSt) (e : Engine) (m : NMap (BitVec 512)) : (cs.setImem e m).resStart = cs.resStart := by cases e <;> rfl
@[simp] theorem CoreSt.setImem_stoppedAt (cs : CoreSt) (e : Engine) (m : NMap (BitVec 512)) : (cs.setImem e m).stoppedAt = cs.stoppedAt := by cases e <;> rfl
@[simp] theorem CoreSt.setImem_restartAt (cs : CoreSt) (e : Engine) (m : NMap (BitVec 512)) : (cs.setImem e m).restartAt = cs.restartAt := by cases e <;> rfl
@[simp] theorem CoreSt.setImem_estVal (cs : CoreSt) (e : Engine) (m : NMap (BitVec 512)) : (cs.setImem e m).estVal = cs.estVal := by cases e <;> rfl
@[simp] theorem CoreSt.setImem_estAt (cs : CoreSt) (e : Engine) (m : NMap (BitVec 512)) : (cs.setImem e m).estAt = cs.estAt := by cases e <;> rfl
@[simp] theorem CoreSt.setImem_masks (cs : CoreSt) (e : Engine) (m : NMap (BitVec 512)) : (cs.setImem e m).masks = cs.masks := by cases e <;> rfl
@[simp] theorem CoreSt.setImem_bps (cs : CoreSt) (e : Engine) (m : NMap (BitVec 512)) : (cs.setImem e m).bps = cs.bps := by cases e <;> rfl
@[simp] theorem CoreSt.setImem_vregs (cs : CoreSt) (e : Engine) (m : NMap (BitVec 512)) : (cs.setImem e m).vregs = cs.vregs := by cases e <;> rfl
@[simp] theorem CoreSt.setImem_tiles (cs : CoreSt) (e : Engine) (m : NMap (BitVec 512)) : (cs.setImem e m).tiles = cs.tiles := by cases e <;> rfl
@[simp] theorem CoreSt.setImem_tcT (cs : CoreSt) (e : Engine) (m : NMap (BitVec 512)) : (cs.setImem e m).tcT = cs.tcT := by cases e <;> rfl
@[simp] theorem CoreSt.setImem_tcAcc (cs : CoreSt) (e : Engine) (m : NMap (BitVec 512)) : (cs.setImem e m).tcAcc = cs.tcAcc := by cases e <;> rfl
@[simp] theorem CoreSt.setImem_shadow (cs : CoreSt) (e : Engine) (m : NMap (BitVec 512)) : (cs.setImem e m).shadow = cs.shadow := by cases e <;> rfl
@[simp] theorem CoreSt.setImem_held (cs : CoreSt) (e : Engine) (m : NMap (BitVec 512)) : (cs.setImem e m).held = cs.held := by cases e <;> rfl
@[simp] theorem CoreSt.setImem_heldTo (cs : CoreSt) (e : Engine) (m : NMap (BitVec 512)) : (cs.setImem e m).heldTo = cs.heldTo := by cases e <;> rfl
@[simp] theorem CoreSt.setImem_pairPend (cs : CoreSt) (e : Engine) (m : NMap (BitVec 512)) : (cs.setImem e m).pairPend = cs.pairPend := by cases e <;> rfl
@[simp] theorem CoreSt.setImem_spm (cs : CoreSt) (e : Engine) (m : NMap (BitVec 512)) : (cs.setImem e m).spm = cs.spm := by cases e <;> rfl
@[simp] theorem CoreSt.setImem_spmPoison (cs : CoreSt) (e : Engine) (m : NMap (BitVec 512)) : (cs.setImem e m).spmPoison = cs.spmPoison := by cases e <;> rfl
@[simp] theorem CoreSt.setImem_sems (cs : CoreSt) (e : Engine) (m : NMap (BitVec 512)) : (cs.setImem e m).sems = cs.sems := by cases e <;> rfl
@[simp] theorem CoreSt.setImem_semLog (cs : CoreSt) (e : Engine) (m : NMap (BitVec 512)) : (cs.setImem e m).semLog = cs.semLog := by cases e <;> rfl
@[simp] theorem CoreSt.setImem_qsMem (cs : CoreSt) (e : Engine) (m : NMap (BitVec 512)) : (cs.setImem e m).qsMem = cs.qsMem := by cases e <;> rfl
@[simp] theorem CoreSt.setImem_qsVec (cs : CoreSt) (e : Engine) (m : NMap (BitVec 512)) : (cs.setImem e m).qsVec = cs.qsVec := by cases e <;> rfl
@[simp] theorem CoreSt.setImem_qsMtx (cs : CoreSt) (e : Engine) (m : NMap (BitVec 512)) : (cs.setImem e m).qsMtx = cs.qsMtx := by cases e <;> rfl
@[simp] theorem CoreSt.setImem_qr (cs : CoreSt) (e : Engine) (m : NMap (BitVec 512)) : (cs.setImem e m).qr = cs.qr := by cases e <;> rfl
@[simp] theorem CoreSt.setImem_freed (cs : CoreSt) (e : Engine) (m : NMap (BitVec 512)) : (cs.setImem e m).freed = cs.freed := by cases e <;> rfl
@[simp] theorem CoreSt.setImem_dqs (cs : CoreSt) (e : Engine) (m : NMap (BitVec 512)) : (cs.setImem e m).dqs = cs.dqs := by cases e <;> rfl
@[simp] theorem CoreSt.setImem_flights (cs : CoreSt) (e : Engine) (m : NMap (BitVec 512)) : (cs.setImem e m).flights = cs.flights := by cases e <;> rfl
@[simp] theorem CoreSt.setImem_nextId (cs : CoreSt) (e : Engine) (m : NMap (BitVec 512)) : (cs.setImem e m).nextId = cs.nextId := by cases e <;> rfl
@[simp] theorem CoreSt.setImem_accesses (cs : CoreSt) (e : Engine) (m : NMap (BitVec 512)) : (cs.setImem e m).accesses = cs.accesses := by cases e <;> rfl
@[simp] theorem CoreSt.setImem_mseWait (cs : CoreSt) (e : Engine) (m : NMap (BitVec 512)) : (cs.setImem e m).mseWait = cs.mseWait := by cases e <;> rfl
@[simp] theorem CoreSt.setImem_l1 (cs : CoreSt) (e : Engine) (m : NMap (BitVec 512)) : (cs.setImem e m).l1 = cs.l1 := by cases e <;> rfl
@[simp] theorem CoreSt.setImem_inbox (cs : CoreSt) (e : Engine) (m : NMap (BitVec 512)) : (cs.setImem e m).inbox = cs.inbox := by cases e <;> rfl
@[simp] theorem CoreSt.setImem_wbOut (cs : CoreSt) (e : Engine) (m : NMap (BitVec 512)) : (cs.setImem e m).wbOut = cs.wbOut := by cases e <;> rfl
@[simp] theorem CoreSt.setImem_rvkOut (cs : CoreSt) (e : Engine) (m : NMap (BitVec 512)) : (cs.setImem e m).rvkOut = cs.rvkOut := by cases e <;> rfl
@[simp] theorem CoreSt.setImem_fwdOut (cs : CoreSt) (e : Engine) (m : NMap (BitVec 512)) : (cs.setImem e m).fwdOut = cs.fwdOut := by cases e <;> rfl
@[simp] theorem CoreSt.setImem_banks (cs : CoreSt) (e : Engine) (m : NMap (BitVec 512)) : (cs.setImem e m).banks = cs.banks := by cases e <;> rfl
@[simp] theorem CoreSt.setImem_rowJobs (cs : CoreSt) (e : Engine) (m : NMap (BitVec 512)) : (cs.setImem e m).rowJobs = cs.rowJobs := by cases e <;> rfl
@[simp] theorem CoreSt.setImem_actCount (cs : CoreSt) (e : Engine) (m : NMap (BitVec 512)) : (cs.setImem e m).actCount = cs.actCount := by cases e <;> rfl
@[simp] theorem CoreSt.setImem_actTimes (cs : CoreSt) (e : Engine) (m : NMap (BitVec 512)) : (cs.setImem e m).actTimes = cs.actTimes := by cases e <;> rfl
@[simp] theorem CoreSt.setImem_cq0 (cs : CoreSt) (e : Engine) (m : NMap (BitVec 512)) : (cs.setImem e m).cq0 = cs.cq0 := by cases e <;> rfl
@[simp] theorem CoreSt.setImem_cq1 (cs : CoreSt) (e : Engine) (m : NMap (BitVec 512)) : (cs.setImem e m).cq1 = cs.cq1 := by cases e <;> rfl
@[simp] theorem CoreSt.setImem_cqSeq (cs : CoreSt) (e : Engine) (m : NMap (BitVec 512)) : (cs.setImem e m).cqSeq = cs.cqSeq := by cases e <;> rfl
@[simp] theorem CoreSt.setImem_pend (cs : CoreSt) (e : Engine) (m : NMap (BitVec 512)) : (cs.setImem e m).pend = cs.pend := by cases e <;> rfl
@[simp] theorem CoreSt.setImem_bindCore (cs : CoreSt) (e : Engine) (m : NMap (BitVec 512)) : (cs.setImem e m).bindCore = cs.bindCore := by cases e <;> rfl
@[simp] theorem CoreSt.setImem_bindCq0 (cs : CoreSt) (e : Engine) (m : NMap (BitVec 512)) : (cs.setImem e m).bindCq0 = cs.bindCq0 := by cases e <;> rfl
@[simp] theorem CoreSt.setImem_bindCq1 (cs : CoreSt) (e : Engine) (m : NMap (BitVec 512)) : (cs.setImem e m).bindCq1 = cs.bindCq1 := by cases e <;> rfl
@[simp] theorem CoreSt.setImem_rfail (cs : CoreSt) (e : Engine) (m : NMap (BitVec 512)) : (cs.setImem e m).rfail = cs.rfail := by cases e <;> rfl
@[simp] theorem CoreSt.setImem_tagOps (cs : CoreSt) (e : Engine) (m : NMap (BitVec 512)) : (cs.setImem e m).tagOps = cs.tagOps := by cases e <;> rfl
@[simp] theorem CoreSt.setImem_children (cs : CoreSt) (e : Engine) (m : NMap (BitVec 512)) : (cs.setImem e m).children = cs.children := by cases e <;> rfl
@[simp] theorem CoreSt.setImem_childId (cs : CoreSt) (e : Engine) (m : NMap (BitVec 512)) : (cs.setImem e m).childId = cs.childId := by cases e <;> rfl
@[simp] theorem CoreSt.setImem_watch (cs : CoreSt) (e : Engine) (m : NMap (BitVec 512)) : (cs.setImem e m).watch = cs.watch := by cases e <;> rfl
@[simp] theorem CoreSt.setImem_overflow (cs : CoreSt) (e : Engine) (m : NMap (BitVec 512)) : (cs.setImem e m).overflow = cs.overflow := by cases e <;> rfl
@[simp] theorem CoreSt.setImem_deadline (cs : CoreSt) (e : Engine) (m : NMap (BitVec 512)) : (cs.setImem e m).deadline = cs.deadline := by cases e <;> rfl
@[simp] theorem CoreSt.setImem_acqPending (cs : CoreSt) (e : Engine) (m : NMap (BitVec 512)) : (cs.setImem e m).acqPending = cs.acqPending := by cases e <;> rfl
@[simp] theorem CoreSt.setImem_exitStatus (cs : CoreSt) (e : Engine) (m : NMap (BitVec 512)) : (cs.setImem e m).exitStatus = cs.exitStatus := by cases e <;> rfl
@[simp] theorem CoreSt.setImem_rspIn (cs : CoreSt) (e : Engine) (m : NMap (BitVec 512)) : (cs.setImem e m).rspIn = cs.rspIn := by cases e <;> rfl
@[simp] theorem CoreSt.setImem_tcode (cs : CoreSt) (e : Engine) (m : NMap (BitVec 512)) : (cs.setImem e m).tcode = cs.tcode := by cases e <;> rfl
@[simp] theorem CoreSt.setImem_tcodePrio (cs : CoreSt) (e : Engine) (m : NMap (BitVec 512)) : (cs.setImem e m).tcodePrio = cs.tcodePrio := by cases e <;> rfl
@[simp] theorem CoreSt.setImem_tcodeEng (cs : CoreSt) (e : Engine) (m : NMap (BitVec 512)) : (cs.setImem e m).tcodeEng = cs.tcodeEng := by cases e <;> rfl
@[simp] theorem CoreSt.setImem_tileTrap (cs : CoreSt) (e : Engine) (m : NMap (BitVec 512)) : (cs.setImem e m).tileTrap = cs.tileTrap := by cases e <;> rfl
@[simp] theorem CoreSt.setImem_bkptArg (cs : CoreSt) (e : Engine) (m : NMap (BitVec 512)) : (cs.setImem e m).bkptArg = cs.bkptArg := by cases e <;> rfl
@[simp] theorem CoreSt.setImem_cqArg (cs : CoreSt) (e : Engine) (m : NMap (BitVec 512)) : (cs.setImem e m).cqArg = cs.cqArg := by cases e <;> rfl
@[simp] theorem CoreSt.setImem_event (cs : CoreSt) (e : Engine) (m : NMap (BitVec 512)) : (cs.setImem e m).event = cs.event := by cases e <;> rfl
@[simp] theorem CoreSt.setImem_grace (cs : CoreSt) (e : Engine) (m : NMap (BitVec 512)) : (cs.setImem e m).grace = cs.grace := by cases e <;> rfl

/-! ### What is read after an update -/

@[simp] theorem getCore_setCore (s : State) (c d : Nat) (cs : CoreSt) : getCore (setCore s c cs) d = if d = c then cs else getCore s d := by
  simp [getCore, setCore]

@[simp] theorem CoreSt.stream_setStream (cs : CoreSt) (e f : Engine) (x : Stream) :
    (cs.setStream e x).stream f = if f = e then x else cs.stream f := by
  cases e <;> cases f <;> rfl

@[simp] theorem CoreSt.imem_setImem (cs : CoreSt) (e f : Engine) (m : NMap (BitVec 512)) :
    (cs.setImem e m).imem f = if f = e then m else cs.imem f := by
  cases e <;> cases f <;> rfl

@[simp] theorem getStream_setStream (s : State) (c d : Nat) (e f : Engine) (x : Stream) :
    getStream (setStream s c e x) d f = if d = c ∧ f = e then x else getStream s d f := by
  simp only [getStream, setStream, getCore_setCore]
  by_cases h : d = c <;> by_cases h' : f = e <;> simp [h, h']

@[simp] theorem focusCs_withCs (s : State) (cs : CoreSt) : focusCs (withCs s cs) = cs := by
  simp [focusCs, withCs]

/-- A register reads what was written last, but the zero register (R71, R123). -/
@[simp] theorem readReg_writeReg (st : Stream) (e : Engine) (n m : Nat) (v : SVal) :
    readReg (writeReg st e n v) e m = if m = n ∧ isZeroReg e n = false then v else readReg st e m := by
  unfold readReg writeReg
  by_cases h : isZeroReg e m = true <;> by_cases h' : isZeroReg e n = true <;> by_cases h'' : m = n <;> simp_all

@[simp] theorem getSem_setSem (cs : CoreSt) (n m : Nat) (v : Sem) : getSem (setSem cs n v) m = if m = n then v else getSem cs m := by
  simp [getSem, setSem]

@[simp] theorem readTile_writeTile (cs : CoreSt) (t r u q : Nat) (v : TileRow) :
    readTile (writeTile cs t r v) u q = if 128 * u + q = 128 * t + r then v else readTile cs u q := by
  simp [readTile, writeTile]

end Sys2Proof.Machine
end

