-- ==== Sys2Proof/Laws/Frame.lean ====
section
/-! SUPPORT. What the issue of an instruction leaves as it was: the package outside the cores, other cores, and in the core in focus all that
the instruction's own effect does not write. -/

namespace Sys2Proof.Machine

/-- Nothing that bareCore shows has changed in any core, and nothing outside the cores but firmware's records. -/
def SameBare (s t : State) : Prop :=
  t.hub = s.hub ∧ t.rou = s.rou ∧ t.disp = s.disp ∧ t.time = s.time ∧ t.focusCore = s.focusCore ∧ t.focusEng = s.focusEng ∧
  ∀ c, bareCore (getCore t c) = bareCore (getCore s c)

theorem SameBare.refl (s : State) : SameBare s s := ⟨rfl, rfl, rfl, rfl, rfl, rfl, fun _ => rfl⟩

theorem SameBare.trans {s t u : State} (h : SameBare s t) (h' : SameBare t u) : SameBare s u := by
  obtain ⟨a, b, c, d, e, f, g⟩ := h
  obtain ⟨a', b', c', d', e', f', g'⟩ := h'
  exact ⟨a'.trans a, b'.trans b, c'.trans c, d'.trans d, e'.trans e, f'.trans f, fun x => (g' x).trans (g x)⟩

theorem sameBare_setCore {s : State} {c : Nat} {cs : CoreSt} (h : bareCore cs = bareCore (getCore s c)) : SameBare s (setCore s c cs) := by
  refine ⟨rfl, rfl, rfl, rfl, rfl, rfl, fun d => ?_⟩
  rw [getCore_setCore]; split
  · subst_vars; exact h
  · rfl

/-! ### One core -/

@[simp] theorem bareCore_setSq (cs : CoreSt) (q : QName) (l : List SSlot) : bareCore (setSq cs q l) = bareCore cs := by cases q <;> rfl
@[simp] theorem bareCore_setDq (cs : CoreSt) (q : QName) (l : List DSlot) : bareCore (setDq cs q l) = bareCore cs := rfl
@[simp] theorem bareCore_reserveSq (cs : CoreSt) (q : QName) (n : Nat) : bareCore (reserveSq cs q n) = bareCore cs := bareCore_setSq _ _ _
@[simp] theorem bareCore_reserveQr (cs : CoreSt) (e : Engine) (t n : Nat) : bareCore (reserveQr cs e t n) = bareCore cs := rfl
@[simp] theorem bareCore_reserveDq (cs : CoreSt) (q : QName) (n : Nat) : bareCore (reserveDq cs q n) = bareCore cs := rfl
@[simp] theorem bareCore_setSem (cs : CoreSt) (n : Nat) (v : Sem) : bareCore (setSem cs n v) = bareCore cs := rfl
@[simp] theorem bareCore_decSem (cs : CoreSt) (n : Nat) : bareCore (decSem cs n) = bareCore cs := rfl
@[simp] theorem bareCore_acquire (cs : CoreSt) : bareCore (acquire cs) = bareCore cs := rfl

@[simp] theorem bareCore_grantWait (now : Nat) (cs : CoreSt) (n : Nat) : bareCore (grantWait now cs n) = bareCore cs := rfl
@[simp] theorem bareCore_applyPost (now : Nat) (cs : CoreSt) (r n : Nat) : bareCore (applyPost now cs r n) = bareCore cs := rfl

/-- A post changes a semaphore and the notes of the cycle. -/
@[simp] theorem bareCore_postAt (now : Nat) (cs : CoreSt) (r n : Nat) : bareCore (postAt now cs r n).1 = bareCore cs := by
  unfold postAt; split <;> rfl

@[simp] theorem bareCore_applyFill (cs : CoreSt) (n : Nat) (x : Fill) : bareCore (applyFill cs n x) = bareCore cs := by
  cases x <;> simp [applyFill]

@[simp] theorem bareCore_fills (l : List Fill) (n : Nat) : ∀ cs : CoreSt, bareCore (l.foldl (fun cs x => applyFill cs n x) cs) = bareCore cs := by
  induction l with
  | nil => intro cs; rfl
  | cons x t ih => intro cs; rw [List.foldl_cons, ih]; simp

@[simp] theorem bareCore_noteTrap (s : State) (cs : CoreSt) (e : Engine) (code prio : Nat) : bareCore (noteTrap s cs e code prio) = bareCore cs := by
  unfold noteTrap; split <;> (try split) <;> rfl

/-- A stream replaced by one of equal registers and FPMODE. -/
theorem bareCore_setStream {cs : CoreSt} {e : Engine} {x : Stream} (h : bareStream x = bareStream (cs.stream e)) :
    bareCore (cs.setStream e x) = bareCore cs := by
  cases e <;> simp_all [bareCore, CoreSt.setStream, CoreSt.stream]

theorem bareCore_parts {a b : CoreSt} (h : bareCore a = bareCore b) :
    (∀ e, bareStream (a.stream e) = bareStream (b.stream e)) ∧ a.vregs = b.vregs ∧ a.masks = b.masks ∧ a.bps = b.bps ∧ a.spm = b.spm ∧
    a.spmPoison = b.spmPoison := by
  simp only [bareCore, CoreSt.mk.injEq] at h
  refine ⟨fun e => ?_, ?_⟩
  · cases e <;> simp_all [CoreSt.stream]
  · simp_all

theorem bareCore_setStream_congr {a b : CoreSt} {e : Engine} {x y : Stream} (h : bareCore a = bareCore b) (h' : bareStream x = bareStream y) :
    bareCore (a.setStream e x) = bareCore (b.setStream e y) := by
  simp only [bareCore, CoreSt.mk.injEq] at h
  cases e <;> simp_all [bareCore, CoreSt.setStream]

/-- The same, on a core that agrees with another. -/
theorem bareCore_setStream_to {a b : CoreSt} {e : Engine} {x : Stream} (h : bareCore a = bareCore b) (h' : bareStream x = bareStream (b.stream e)) :
    bareCore (a.setStream e x) = bareCore b :=
  (bareCore_setStream_congr h h').trans (bareCore_setStream rfl)

theorem bareStream_writeReg {x y : Stream} (e : Engine) (n : Nat) (v : SVal) (h : bareStream x = bareStream y) :
    bareStream (writeReg x e n v) = bareStream (writeReg y e n v) := by
  simp only [bareStream, Stream.mk.injEq] at h
  unfold writeReg; split <;> simp_all [bareStream]

/-- A register written to two cores that agree. -/
theorem bareCore_setReg {a b : CoreSt} (e : Engine) (n : Nat) (v : SVal) (h : bareCore a = bareCore b) :
    bareCore (setReg a e n v) = bareCore (setReg b e n v) :=
  bareCore_setStream_congr h (bareStream_writeReg e n v ((bareCore_parts h).1 e))

@[simp] theorem bareCore_noteFull (cs : CoreSt) (q : QName) : bareCore (noteFull cs q) = bareCore cs := by
  unfold noteFull; split <;> first | rfl | (split <;> rfl)

theorem bareCore_popSq {cs cs' : CoreSt} {q : QName} {v : SVal} (h : popSq cs q = some (v, cs')) : bareCore cs' = bareCore cs := by
  unfold popSq at h; split at h <;> simp at h; obtain ⟨_, rfl⟩ := h; simp

theorem bareCore_popDq {cs cs' : CoreSt} {q : QName} {v : VVal} (h : popDq cs q = some (v, cs')) : bareCore cs' = bareCore cs := by
  unfold popDq at h; split at h <;> simp at h; obtain ⟨_, rfl⟩ := h; simp

/-- Reading sources pops queues and nothing else. -/
theorem bareCore_takeSrcs (e : Engine) (l : List SSrc) : ∀ {cs cs' : CoreSt} {vs : List SVal}, takeSrcs cs e l = some (vs, cs') →
    bareCore cs' = bareCore cs := by
  induction l with
  | nil => intro cs cs' vs h; simp [takeSrcs] at h; rw [h.2]
  | cons a t ih =>
    intro cs cs' vs h
    cases a with
    | reg n => simp only [takeSrcs, Option.map_eq_some_iff] at h; obtain ⟨⟨x, y⟩, h1, h2⟩ := h; cases h2; exact ih h1
    | qs =>
      simp only [takeSrcs] at h
      split at h
      · cases h
      · rename_i v c1 hp
        simp only [Option.map_eq_some_iff] at h
        obtain ⟨⟨x, y⟩, h1, h2⟩ := h; cases h2
        exact (ih h1).trans (bareCore_popSq hp)

theorem bareCore_takeVSrcs (w : Nat) (l : List VSrc) : ∀ {cs cs' : CoreSt} {vs : List VVal}, takeVSrcs cs w l = some (vs, cs') →
    bareCore cs' = bareCore cs := by
  induction l with
  | nil => intro cs cs' vs h; simp [takeVSrcs] at h; rw [h.2]
  | cons a t ih =>
    intro cs cs' vs h
    simp only [takeVSrcs] at h
    split at h
    · cases h
    · rename_i x c1 hp
      simp only [Option.map_eq_some_iff] at h
      obtain ⟨⟨p, q⟩, h1, h2⟩ := h; cases h2
      refine (ih h1).trans ?_
      cases a with
      | lq n => exact bareCore_popDq (q := .lq n) hp
      | reg n => simp [takeVSrc] at hp; rw [hp.2]
      | zero => simp [takeVSrc] at hp; rw [hp.2]
      | lane => simp [takeVSrc] at hp; rw [hp.2]

/-! ### The machine -/

theorem sameBare_cores {s t : State} (h1 : t.hub = s.hub) (h2 : t.rou = s.rou) (h3 : t.disp = s.disp) (h4 : t.time = s.time)
    (h5 : t.focusCore = s.focusCore) (h6 : t.focusEng = s.focusEng) (h7 : t.cores = s.cores) : SameBare s t :=
  ⟨h1, h2, h3, h4, h5, h6, fun c => by simp [getCore, h7]⟩

theorem sameBare_logTrap (s : State) (c e code pc : Nat) (a : Word) : SameBare s (logTrap s c e code pc a) :=
  sameBare_cores rfl rfl rfl rfl rfl rfl rfl

theorem sameBare_postReport (s : State) (r : Report) : SameBare s (postReport s r) := by
  unfold postReport; split
  · exact sameBare_cores rfl rfl rfl rfl rfl rfl rfl
  · unfold writeReport; dsimp only; split <;> exact sameBare_cores rfl rfl rfl rfl rfl rfl rfl

theorem sameBare_drainPair (s : State) (c : Nat) : SameBare s (drainPair s c) := by
  unfold drainPair
  split
  · dsimp only; split
    · exact sameBare_setCore rfl
    · exact SameBare.refl s
  · exact SameBare.refl s

/-- Taking a fault. -/
theorem sameBare_raiseTrap (s : State) (c : Nat) (e : Engine) (r : FaultRec) (w : Bool) (pc : Pc) : SameBare s (raiseTrap s c e r w pc) := by
  unfold raiseTrap
  dsimp only
  have h : SameBare s (setCore s c (noteTrap s ((getCore s c).setStream e
      { (getCore s c).stream e with fault := some r, waitDone := w, pc := pc, pending := none }) e (trapCode r.trap) (trapPrio (trapCode r.trap)))) := by
    apply sameBare_setCore
    rw [bareCore_noteTrap]
    exact bareCore_setStream rfl
  exact (h.trans (sameBare_drainPair _ c)).trans (sameBare_logTrap _ _ _ _ _ _)

/-- A resumable halt. -/
theorem sameBare_haltStream (s : State) (c : Nat) (e : Engine) (h : HaltRec) (w : Bool) (pc : Pc) : SameBare s (haltStream s c e h w pc) := by
  unfold haltStream
  dsimp only
  have k : SameBare s (setCore s c ((getCore s c).setStream e
      { (getCore s c).stream e with halted := some h, waitDone := w, pc := pc, pending := none })) := sameBare_setCore (bareCore_setStream rfl)
  exact (k.trans (sameBare_logTrap _ _ _ _ _ _)).trans (sameBare_postReport _ _)

theorem sameBare_semOverflow (s : State) (c : Nat) (e : Engine) : SameBare s (semOverflow s c e) := by
  unfold semOverflow; dsimp only
  split
  · exact SameBare.refl s
  · exact sameBare_raiseTrap _ _ _ _ _ _

theorem sameBare_foldl {α : Type} {f : State → α → State} (h : ∀ s x, SameBare s (f s x)) (l : List α) : ∀ s, SameBare s (l.foldl f s) := by
  induction l with
  | nil => exact SameBare.refl
  | cons x t ih => intro s; exact (h s x).trans (ih _)

theorem sameBare_postSemAt (t : Nat) (s : State) (c : Nat) (e : Engine) (n : Nat) : SameBare s (postSemAt t s c e n) := by
  have h : SameBare s (setCore s c (postAt t (getCore s c) (engRank e) n).1) := sameBare_setCore (bareCore_postAt _ _ _ _)
  unfold postSemAt; dsimp only
  split
  · exact h
  · exact h.trans (sameBare_semOverflow _ _ _)

theorem sameBare_postFlight (t c : Nat) (s : State) (f : Flight) : SameBare s (postFlight t c s f) := by
  unfold postFlight; split
  · exact SameBare.refl s
  · exact SameBare.trans (t := setCore s c { getCore s c with flights := (getCore s c).flights.map fun g =>
      if g.id = f.id then { g with post := none, posted := true } else g }) (sameBare_setCore rfl) (sameBare_postSemAt _ _ _ _ _)

theorem sameBare_postEngine (t c : Nat) (s : State) (e : Engine) : SameBare s (postEngine t c s e) := by
  have h := sameBare_foldl (sameBare_postFlight t c) ((getCore s c).flights.filter fun f => f.eng == e && dueBy t f) s
  unfold postEngine; dsimp only
  generalize ((getCore s c).flights.filter fun f => f.eng == e && dueBy t f).foldl (postFlight t c) s = u at h
  split
  · refine (h.trans ?_).trans (sameBare_postSemAt _ _ _ _ _)
    exact sameBare_setCore (bareCore_setStream rfl)
  · exact h

theorem sameBare_postsTo (t : Nat) (s : State) (c : Nat) : SameBare s (postsTo t s c) :=
  sameBare_foldl (fun s u => sameBare_foldl (sameBare_postEngine u c) _ s) _ s

theorem sameBare_postSem (s : State) (c : Nat) (e : Engine) (n : Nat) : SameBare s (postSem s c e n) :=
  (sameBare_postsTo _ _ _).trans (sameBare_postSemAt _ _ _ _ _)

theorem sameBare_postOpt (s : State) (c : Nat) (e : Engine) (n : Option Nat) : SameBare s (postOpt s c e n) := by
  cases n
  · exact SameBare.refl s
  · exact sameBare_postSem _ _ _ _

theorem sameBare_endStream (s : State) (c : Nat) (e : Engine) : SameBare s (endStream s c e) := by
  unfold endStream
  dsimp only
  split
  · have h : SameBare s (setCore s c ((getCore s c).setStream e
        { (getCore s c).stream e with active := false, ending := false, endPosted := false, pc := .fin, entry := none, rstack := [],
                                      loop := 0x8000000000000000, waitDone := false })) := by
      apply sameBare_setCore
      apply bareCore_setStream
      rfl
    split
    · exact h
    · exact h.trans (sameBare_postSem _ _ _ _)
  · exact SameBare.refl s

theorem sameBare_releaseFollower (s : State) (p : Nat) : SameBare s (releaseFollower s p) := sameBare_setCore rfl

/-- Retirement. -/
theorem sameBare_retireFlight (s : State) (c : Nat) (f : Flight) : SameBare s (retireFlight s c f) := by
  unfold retireFlight
  dsimp only
  refine SameBare.trans ?_ (sameBare_endStream _ _ _)
  refine SameBare.trans ?_ (sameBare_postOpt _ _ _ _)
  refine SameBare.trans ?_ (sameBare_postOpt _ _ _ _)
  generalize hx : (f.fills.foldl (fun cs x => applyFill cs f.id x) (getCore s c)) = x
  have h1 : bareCore x = bareCore (getCore s c) := by rw [← hx]; exact bareCore_fills _ _ _
  have h2 : bareCore (x.setStream f.eng { x.stream f.eng with fpstat := stickyFlags (x.stream f.eng).fpstat f.flags }) = bareCore (getCore s c) :=
    by refine (bareCore_setStream ?_).trans h1; rfl
  generalize x.setStream f.eng { x.stream f.eng with fpstat := stickyFlags (x.stream f.eng).fpstat f.flags } = y at h2
  have h3 : SameBare s (setCore s c (if f.mma.isSome = true then { y with flights := y.flights.filter (fun g => g.id != f.id), shadow := none }
      else { y with flights := y.flights.filter fun g => g.id != f.id })) := by
    apply sameBare_setCore
    split <;> exact h2
  split
  · exact h3
  · exact h3.trans (sameBare_releaseFollower _ _)

/-- Step 1 of a semaphore's cycle. -/
theorem sameBare_settlePosts (s : State) (c : Nat) : SameBare s (settlePosts s c) := sameBare_postsTo _ _ _

@[simp] theorem bareCore_takeSem (now : Nat) (cs : CoreSt) (n : Nat) : bareCore (takeSem now cs n) = bareCore cs := by
  unfold takeSem; rw [bareCore_grantWait]; split <;> simp

/-- The wait of a sync field. -/
theorem sameBare_takeWait {s s1 : State} {c : Nat} {e : Engine} {n : Option Nat} {w : Bool} (h : takeWait s c e n = some (s1, w)) :
    SameBare s s1 := by
  have k := sameBare_settlePosts s c
  unfold takeWait at h
  dsimp only at h
  generalize settlePosts s c = u at h k
  split at h
  · cases h
  · split at h
    · cases h; exact k
    · split at h
      · cases h; exact k
      · split at h
        · cases h; exact k.trans (sameBare_setCore (bareCore_takeSem _ _ _))
        · cases h

/-- The wait of a sync field leaves the focus and the time as they are. -/
theorem takeWait_focus {s s1 : State} {c : Nat} {e : Engine} {n : Option Nat} {w : Bool} (h : takeWait s c e n = some (s1, w)) :
    s1.focusCore = s.focusCore ∧ s1.focusEng = s.focusEng ∧ s1.time = s.time :=
  let k := sameBare_takeWait h
  ⟨k.2.2.2.2.1, k.2.2.2.2.2.1, k.2.2.2.1⟩

theorem issues_focus {i : Instr} {s s1 : State} {w : Bool} (h : Issues i s s1 w) :
    s1.focusCore = s.focusCore ∧ s1.focusEng = s.focusEng ∧ s1.time = s.time := takeWait_focus h.2.2.2.1

theorem sameBare_markPending (s : State) (c : Nat) (p : Pending) (o : Option Nat) : SameBare s (markPending s c p o) := by
  unfold markPending; dsimp only
  have h : SameBare s (setCore s c (if p.act.isSome then { getCore s c with mem := { (getCore s c).mem with pending := some p } }
      else { getCore s c with mtx := { (getCore s c).mtx with pending := some p } })) := sameBare_setCore (by split <;> rfl)
  split
  · exact h
  · exact h.trans (sameBare_setCore rfl)

theorem bareStream_advance (s : State) (cs : CoreSt) (e : Engine) (st : Stream) (w : Nat) (d : Done) :
    bareStream (advance s cs e st w d) = bareStream st := by
  unfold advance; dsimp only; split <;> rfl

/-- Completing the issue changes nothing that the effect has not changed. -/
theorem sameBare_finish (c : Nat) (e : Engine) (w : Nat) (p : Option Nat) (b : Bool) (d : Done) : SameBare d.s (finish c e w p b d) := by
  unfold finish
  dsimp only
  generalize hx : advance d.s (getCore d.s c) e ((getCore d.s c).stream e) w d = x
  have h1 : bareStream x = bareStream ((getCore d.s c).stream e) := by rw [← hx]; exact bareStream_advance ..
  have h2 : bareCore ((getCore d.s c).setStream e x) = bareCore (getCore d.s c) := bareCore_setStream h1
  generalize hy : (getCore d.s c).setStream e x = y at h2
  split
  · apply sameBare_setCore
    refine bareCore_setStream_to (a := { y with nextId := _, freed := _ }) h2 ?_
    exact h1
  · have h3 (fr : NMap (Option Nat)) (fl : List Flight) :
        SameBare d.s (setCore d.s c { y with nextId := (getCore d.s c).nextId + 1, freed := fr, flights := fl }) := sameBare_setCore h2
    have h4 (fr : NMap (Option Nat)) : SameBare d.s (setCore d.s c { y with nextId := (getCore d.s c).nextId + 1, freed := fr }) := sameBare_setCore h2
    split
    · refine SameBare.trans ?_ (sameBare_endStream _ _ _)
      split
      · exact h3 _ _
      · exact (h4 _).trans (sameBare_retireFlight _ _ _)
    · refine SameBare.trans ?_ (sameBare_raiseTrap _ _ _ _ _ _)
      split
      · exact h3 _ _
      · exact (h4 _).trans (sameBare_retireFlight _ _ _)

/-! ### Instructions -/

/-- Issue: where the body answers an effect, what follows keeps what the effect keeps; where it answers no effect, everything is kept. -/
theorem issue_keeps {i : Instr} {s t : State} {body : State → Verdict} {R : State → State → Prop} (h : issue i s body = .next t)
    (hr : ∀ u, SameBare s u → R s u) (ht : ∀ s1 u x, SameBare s s1 → body s1 = .trapIn u x → ∀ v, SameBare u v → R s v)
    (hd : ∀ s1 d, SameBare s s1 → body s1 = .done d → ∀ v, SameBare d.s v → R s v) : R s t := by
  unfold issue at h
  dsimp only at h
  split at h
  · cases h
  · split at h
    · cases h; exact hr _ (SameBare.refl s)
    · split at h
      · cases h; exact hr _ (sameBare_raiseTrap _ _ _ _ _ _)
      · split at h
        · cases h; exact hr _ (SameBare.refl s)
        · rename_i s1 w hw
          have hs := sameBare_takeWait hw
          split at h
          · cases h; exact hr _ (hs.trans (sameBare_finish s.focusCore s.focusEng _ _ w { s := s1 }))
          · split at h <;> cases h
            · exact hr _ (SameBare.refl s)
            · exact hr _ (sameBare_markPending _ _ _ _)
            · exact hr _ (hs.trans (sameBare_raiseTrap _ _ _ _ _ _))
            · rename_i hb; exact ht _ _ _ hs hb _ (sameBare_raiseTrap _ _ _ _ _ _)
            · exact hr _ (hs.trans (sameBare_haltStream _ _ _ _ _ _))
            · rename_i d hb; exact hd _ _ hs hb _ (sameBare_finish s.focusCore s.focusEng _ _ w d)

theorem keepsOthers_of {s t : State} (h : SameBare s t) : KeepsOthers s t :=
  ⟨h.1, h.2.1, h.2.2.1, h.2.2.2.1, fun c _ => h.2.2.2.2.2.2 c⟩

/-- An effect that replaces the core in focus, seen after the issue. -/
theorem keeps_withCs {s s1 v : State} {cs : CoreSt} (hs : SameBare s s1) (hv : SameBare (withCs s1 cs) v) :
    KeepsOthers s v ∧ bareCore (getCore v s.focusCore) = bareCore cs := by
  obtain ⟨a, b, c, d, e, f, g⟩ := hs
  obtain ⟨a', b', c', d', e', f', g'⟩ := hv
  refine ⟨⟨a'.trans a, b'.trans b, c'.trans c, d'.trans d, fun x hx => (g' x).trans ?_⟩, ?_⟩
  · rw [withCs, getCore_setCore, if_neg (by rw [e]; exact hx)]; exact g x
  · rw [g', withCs, getCore_setCore, if_pos e.symm]

/-- Scalar sources and destination: the frame. -/
theorem scalar_frame {i : Instr} {srcs : List SSrc} {d : SDst} {n : Nat} {g : List SVal → Except Verdict SVal} {s t : State}
    (he : exec i s = issue i s (scalarBody srcs d n g)) (hg : ∀ vs v, g vs = .error v → ∃ r, v = .trap r) (h : exec i s = .next t) :
    KeepsOthers s t ∧ KeepsFocus s t fun a b => ∃ n v, some d = some (.reg n) ∧ b = setReg a s.focusEng n v := by
  rw [he] at h
  refine issue_keeps (R := fun s t => KeepsOthers s t ∧ KeepsFocus s t fun a b => ∃ n v, some d = some (.reg n) ∧ b = setReg a s.focusEng n v)
    h (fun u hu => ⟨keepsOthers_of hu, .inl (hu.2.2.2.2.2.2 _)⟩) ?_ ?_
  · intro s1 u x hs hb
    simp only [scalarBody] at hb
    split at hb
    · cases hb
    · split at hb
      · cases hb
      · split at hb
        · cases hb
        · split at hb
          · rename_i hv; obtain ⟨r, rfl⟩ := hg _ _ hv; cases hb
          · split at hb <;> cases hb
  · intro s1 x hs hb v hv
    simp only [scalarBody] at hb
    split at hb
    · cases hb
    · split at hb
      · cases hb
      · rename_i vs cs1 ht
        have h1 := (bareCore_takeSrcs _ _ ht).trans (hs.2.2.2.2.2.2 _)
        rw [show getCore s s1.focusCore = focusCs s by rw [focusCs, hs.2.2.2.2.1]] at h1
        split at hb
        · cases hb
        · split at hb
          · rename_i hv; obtain ⟨r, rfl⟩ := hg _ _ hv; cases hb
          · rename_i y hy
            split at hb <;> cases hb
            · rename_i _ k _ _
              obtain ⟨ho, hf⟩ := keeps_withCs hs hv
              refine ⟨ho, .inr ⟨setReg (focusCs s) s.focusEng k y, ⟨k, y, rfl, rfl⟩, hf.trans ?_⟩⟩
              rw [hs.2.2.2.2.2.1]; exact bareCore_setReg _ _ _ h1
            · obtain ⟨ho, hf⟩ := keeps_withCs hs hv
              exact ⟨ho, .inl (hf.trans (by simp [h1]))⟩

/-- Vector sources and destinations: the frame. -/
theorem vector_frame {i : Instr} {o : VOps} {g : VIn → Except Verdict VOut} {s t : State}
    (he : exec i s = issue i s (vecBody o g)) (hg : ∀ x v, g x = .error v → ∃ r, v = .trap r) (h : exec i s = .next t) :
    KeepsOthers s t ∧ KeepsFocus s t (writesV { vd := o.vd, sd := o.sd, md := o.md, bpd := o.bpd }) := by
  rw [he] at h
  refine issue_keeps (R := fun s t => KeepsOthers s t ∧ KeepsFocus s t (writesV { vd := o.vd, sd := o.sd, md := o.md, bpd := o.bpd }))
    h (fun u hu => ⟨keepsOthers_of hu, .inl (hu.2.2.2.2.2.2 _)⟩) ?_ ?_
  · intro s1 u x hs hb
    simp only [vecBody, poisonTrap] at hb
    repeat' (first | cases hb; done | split at hb)
    rename_i hv; obtain ⟨r, rfl⟩ := hg _ _ hv; cases hb
  · intro s1 x hs hb v hv
    simp only [vecBody, poisonTrap] at hb
    split at hb
    · cases hb
    · split at hb
      · cases hb
      · split at hb
        · cases hb
        · split at hb
          · cases hb
          · split at hb
            · cases hb
            · split at hb
              · rename_i hv; obtain ⟨r, rfl⟩ := hg _ _ hv; cases hb
              · rename_i ss cs1 h1 _ vs cs2 h2 _ _ _ _ y hy
                cases hb
                have h3 := ((bareCore_takeVSrcs _ _ h2).trans (bareCore_takeSrcs _ _ h1)).trans (hs.2.2.2.2.2.2 _)
                rw [show getCore s s1.focusCore = focusCs s by rw [focusCs, hs.2.2.2.2.1]] at h3
                obtain ⟨ho, hf⟩ := keeps_withCs hs hv
                refine ⟨ho, .inr ⟨_, ⟨y.v, y.sc, y.m, y.b, rfl⟩, hf.trans ?_⟩⟩
                simp only [putOut]
                have hV : bareCore (putV cs2 cs2.nextId y.v o.vd).1 = bareCore (putV (focusCs s) 0 y.v o.vd).1 := by
                  rcases o.vd with _ | _ | _
                  · exact h3
                  · simp only [putV, writeV, bareCore, CoreSt.mk.injEq] at h3 ⊢; simp_all
                  · simpa [putV] using h3
                generalize (putV cs2 cs2.nextId y.v o.vd).1 = a at hV ⊢
                generalize (putV (focusCs s) 0 y.v o.vd).1 = b at hV ⊢
                have hS : bareCore (putS a .vec (coreCycle s1) cs2.nextId y.sc o.sd).1 = bareCore (putS b .vec 0 0 y.sc o.sd).1 := by
                  rcases o.sd with _ | _ | _
                  · exact hV
                  · exact bareCore_setReg _ _ _ hV
                  · simpa [putS] using hV
                generalize (putS a .vec (coreCycle s1) cs2.nextId y.sc o.sd).1 = a' at hS ⊢
                generalize (putS b .vec 0 0 y.sc o.sd).1 = b' at hS ⊢
                simp only [bareCore, CoreSt.mk.injEq] at hS
                rcases o.md with _ | _ <;> rcases o.bpd with _ | _ <;> simp_all [putM, putB, writeMask, bareCore]

end Sys2Proof.Machine
end

