-- ==== Sys2Proof/Laws/Memory.lean ====
section
/-! SUPPORT. The canonical form of every byte memory (memOk) under the updates of the state. -/

namespace Sys2Proof.Machine

theorem memOk_iff (s : State) : memOk s = true ↔ Memory.wf s.hub.dram = true ∧ (s.cores.all fun p => Memory.wf p.2.spm) = true ∧
    (s.fw.records.all fun r => Memory.wf r.bytes) = true := by
  simp [memOk, and_assoc]

/-- An update that leaves DRAM, the cores and the records alone. -/
theorem memOk_of_same {s t : State} (h : memOk s = true) (h1 : t.hub.dram = s.hub.dram) (h2 : t.cores = s.cores)
    (h3 : t.fw.records = s.fw.records) : memOk t = true := by
  rw [memOk_iff] at *; rw [h1, h2, h3]; exact h

theorem mget_all {α : Type} {q : α → Bool} {m : NMap α} {k : Nat} {v : α} (h : (m.all fun p => q p.2) = true) (hv : mget m k = some v) : q v = true := by
  induction m with
  | nil => cases hv
  | cons p t ih =>
    obtain ⟨j, w⟩ := p
    simp only [List.all_cons, Bool.and_eq_true] at h
    simp only [mget] at hv
    split at hv
    · cases hv; exact h.1
    · exact ih h.2 hv

/-- Each core's scratchpad is canonical. -/
theorem wf_spm {s : State} (h : memOk s = true) (c : Nat) : Memory.wf (getCore s c).spm = true := by
  rw [memOk_iff] at h
  unfold getCore mgetD
  cases hc : mget s.cores c with
  | none => rfl
  | some v => exact mget_all (q := fun cs : CoreSt => Memory.wf cs.spm) h.2.1 hc

/-- A core replaced by one whose scratchpad is canonical. -/
theorem memOk_setCore {s : State} (h : memOk s = true) (c : Nat) {cs : CoreSt} (hc : Memory.wf cs.spm = true) : memOk (setCore s c cs) = true := by
  rw [memOk_iff] at *
  exact ⟨h.1, mset_all (fun p : Nat × CoreSt => Memory.wf p.2.spm) s.cores c cs h.2.1 hc, h.2.2⟩

/-- A core replaced by one with the same scratchpad. -/
theorem memOk_setCore_same {s : State} (h : memOk s = true) (c : Nat) {cs : CoreSt} (hc : cs.spm = (getCore s c).spm) :
    memOk (setCore s c cs) = true := memOk_setCore h c (by rw [hc]; exact wf_spm h c)

theorem memOk_withCs {s : State} (h : memOk s = true) {cs : CoreSt} (hc : Memory.wf cs.spm = true) : memOk (withCs s cs) = true :=
  memOk_setCore h _ hc

theorem memOk_setStream {s : State} (h : memOk s = true) (c : Nat) (e : Engine) (x : Stream) : memOk (setStream s c e x) = true :=
  memOk_setCore_same h c (by simp)

/-- Every core changed by a function that keeps scratchpads. -/
theorem memOk_mapCores {s : State} (h : memOk s = true) (f : Nat × CoreSt → CoreSt) (hf : ∀ p, (f p).spm = p.2.spm) :
    memOk { s with cores := s.cores.map fun p => (p.1, f p) } = true := by
  rw [memOk_iff] at *
  refine ⟨h.1, ?_, h.2.2⟩
  simp only [List.all_map, List.all_eq_true, Function.comp_apply, hf] at *
  exact h.2.1

/-- Writes of DRAM. -/
theorem memOk_writeDram {s : State} (h : memOk s = true) (pa : Nat) (bs : List Byte) : memOk (writeDram s pa bs) = true := by
  rw [memOk_iff] at *
  exact ⟨Memory.wf_writeBytes bs _ _ h.1, h.2⟩

theorem memOk_setMark {s : State} (h : memOk s = true) (pa : Nat) (b : Bool) : memOk (setMark s pa b) = true := memOk_of_same h rfl rfl rfl

theorem memOk_storeLine {s : State} (h : memOk s = true) (pa : Nat) (d : LineData) (p : BitVec 128) : memOk (storeLine s pa d p) = true :=
  memOk_setMark (memOk_setMark (memOk_writeDram h _ _) _ _) _ _

theorem memOk_putLine {s : State} (h : memOk s = true) (l : LlcLine) : memOk (putLine s l) = true := by
  unfold putLine; split <;> exact memOk_of_same h rfl rfl rfl

theorem memOk_dropLine {s : State} (h : memOk s = true) (k : LineKey) : memOk (dropLine s k) = true := memOk_of_same h rfl rfl rfl

/-- Every record changed by a function that keeps its bytes canonical. -/
theorem memOk_mapRecords {s : State} (h : memOk s = true) (f : Record → Record) (hf : ∀ r, Memory.wf r.bytes = true → Memory.wf (f r).bytes = true) :
    memOk { s with fw := { s.fw with records := s.fw.records.map f } } = true := by
  rw [memOk_iff] at *
  refine ⟨h.1, h.2.1, ?_⟩
  simp only [List.all_map, List.all_eq_true, Function.comp_apply] at *
  exact fun r hr => hf r (h.2.2 r hr)

theorem wf_recPut {r : Record} (h : Memory.wf r.bytes = true) (off n v : Nat) : Memory.wf (recPut r off n v).bytes = true :=
  Memory.wf_writeBytes _ _ _ h

theorem wf_wakeRecord {r : Record} (h : Memory.wf r.bytes = true) (own shown : Bool) : Memory.wf (wakeRecord own shown r).bytes = true := by
  unfold wakeRecord
  cases own <;> cases shown <;> simp only [Bool.false_eq_true, if_true, if_false] <;> first | exact wf_recPut h _ _ _ | exact h

theorem memOk_wakeWatches {s : State} (h : memOk s = true) (k : LineKey) (m : BitVec 128) : memOk (wakeWatches s k m) = true := by
  rw [memOk_iff] at *
  refine ⟨h.1, ?_, ?_⟩
  · simpa [wakeWatches, Function.comp_def] using h.2.1
  · simp only [wakeWatches, List.all_map, List.all_eq_true, Function.comp_apply] at *
    exact fun r hr => wf_wakeRecord (h.2.2 r hr) _ _

theorem memOk_writeLine {s : State} (h : memOk s = true) (l : LlcLine) (d : LineData) (bad m : BitVec 128) : memOk (writeLine s l d bad m) = true :=
  memOk_wakeWatches (memOk_putLine h _) _ _

/-! ### Issue -/

theorem memOk_logTrap {s : State} (h : memOk s = true) (c e code pc : Nat) (a : Word) : memOk (logTrap s c e code pc a) = true :=
  memOk_of_same h rfl rfl rfl

theorem noteTrap_spm (s : State) (cs : CoreSt) (e : Engine) (code prio : Nat) : (noteTrap s cs e code prio).spm = cs.spm := by
  unfold noteTrap; split <;> (try split) <;> rfl

theorem memOk_drainPair {s : State} (h : memOk s = true) (c : Nat) : memOk (drainPair s c) = true := by
  unfold drainPair
  split
  · dsimp only; split
    · exact memOk_setCore_same h _ rfl
    · exact h
  · exact h

/-- Taking a fault keeps memories canonical. -/
theorem memOk_raiseTrap {s : State} (h : memOk s = true) (c : Nat) (e : Engine) (r : FaultRec) (w : Bool) (pc : Pc) :
    memOk (raiseTrap s c e r w pc) = true := by
  unfold raiseTrap
  dsimp only
  refine memOk_logTrap (memOk_drainPair (memOk_setCore_same h c ?_) c) ..
  rw [noteTrap_spm]; simp

theorem memOk_spmWrite {cs : CoreSt} (h : Memory.wf cs.spm = true) (a : Nat) (bs : List Byte) : Memory.wf (spmWrite cs a bs).spm = true :=
  Memory.wf_writeBytes bs _ _ h

/-- Stores to the scratchpad. -/
theorem wf_spmStore (data : Nat) (l : List Elem) : ∀ {cs : CoreSt}, Memory.wf cs.spm = true → Memory.wf (spmStore cs data l).spm = true := by
  induction l with
  | nil => intro cs h; exact h
  | cons x t ih => intro cs h; exact ih (memOk_spmWrite h _ _)

end Sys2Proof.Machine
end

