-- ==== Sys2Proof/Laws/PerInstr.lean ====
section
/-! SUPPORT. Per-instruction laws: the length of an instruction does not depend on the engine, and is at most three words (R62); a device event has no words. -/

namespace Sys2Proof.Laws

/-- In every engine's map the instruction takes its number of words, at most three. -/
def Encodable.Statement (i : Instr) : Prop := ∃ n ≤ 3, ∀ e, (encode e i).length = n

theorem Encodable.nop : Encodable.Statement (.nop) := ⟨1, by decide, fun _ => rfl⟩
theorem Encodable.ret : Encodable.Statement (.ret) := ⟨1, by decide, fun _ => rfl⟩
theorem Encodable.halt : Encodable.Statement (.halt) := ⟨1, by decide, fun _ => rfl⟩
theorem Encodable.endl : Encodable.Statement (.endl) := ⟨1, by decide, fun _ => rfl⟩
theorem Encodable.brReg a0 : Encodable.Statement (.brReg a0) := ⟨1, by decide, fun _ => rfl⟩
theorem Encodable.callReg a0 : Encodable.Statement (.callReg a0) := ⟨1, by decide, fun _ => rfl⟩
theorem Encodable.chk a0 : Encodable.Statement (.chk a0) := ⟨1, by decide, fun _ => rfl⟩
theorem Encodable.trap a0 : Encodable.Statement (.trap a0) := ⟨1, by decide, fun _ => rfl⟩
theorem Encodable.bkpt a0 : Encodable.Statement (.bkpt a0) := ⟨1, by decide, fun _ => rfl⟩
theorem Encodable.rdcr a0 a1 : Encodable.Statement (.rdcr a0 a1) := ⟨1, by decide, fun _ => rfl⟩
theorem Encodable.wrcr a0 a1 : Encodable.Statement (.wrcr a0 a1) := ⟨1, by decide, fun _ => rfl⟩
theorem Encodable.semw a0 : Encodable.Statement (.semw a0) := ⟨1, by decide, fun _ => rfl⟩
theorem Encodable.semp a0 : Encodable.Statement (.semp a0) := ⟨1, by decide, fun _ => rfl⟩
theorem Encodable.br a0 a1 a2 : Encodable.Statement (.br a0 a1 a2) := ⟨2, by decide, fun _ => rfl⟩
theorem Encodable.brc a0 a1 a2 a3 a4 : Encodable.Statement (.brc a0 a1 a2 a3 a4) := ⟨2, by decide, fun _ => rfl⟩
theorem Encodable.call a0 a1 a2 : Encodable.Statement (.call a0 a1 a2) := ⟨2, by decide, fun _ => rfl⟩
theorem Encodable.loopReg a0 a1 : Encodable.Statement (.loopReg a0 a1) := ⟨2, by decide, fun _ => rfl⟩
theorem Encodable.loopImm a0 a1 : Encodable.Statement (.loopImm a0 a1) := ⟨3, by decide, fun _ => rfl⟩
theorem Encodable.semwL64 a0 a1 : Encodable.Statement (.semwL64 a0 a1) := ⟨2, by decide, fun _ => rfl⟩
theorem Encodable.sempL64 a0 a1 : Encodable.Statement (.sempL64 a0 a1) := ⟨2, by decide, fun _ => rfl⟩
theorem Encodable.nopL64 a0 : Encodable.Statement (.nopL64 a0) := ⟨2, by decide, fun _ => rfl⟩
theorem Encodable.add a0 a1 a2 a3 : Encodable.Statement (.add a0 a1 a2 a3) := ⟨1, by decide, fun _ => rfl⟩
theorem Encodable.sub a0 a1 a2 a3 : Encodable.Statement (.sub a0 a1 a2 a3) := ⟨1, by decide, fun _ => rfl⟩
theorem Encodable.mul a0 a1 a2 : Encodable.Statement (.mul a0 a1 a2) := ⟨1, by decide, fun _ => rfl⟩
theorem Encodable.mulh a0 a1 a2 : Encodable.Statement (.mulh a0 a1 a2) := ⟨1, by decide, fun _ => rfl⟩
theorem Encodable.mulhu a0 a1 a2 : Encodable.Statement (.mulhu a0 a1 a2) := ⟨1, by decide, fun _ => rfl⟩
theorem Encodable.div a0 a1 a2 : Encodable.Statement (.div a0 a1 a2) := ⟨1, by decide, fun _ => rfl⟩
theorem Encodable.divu a0 a1 a2 : Encodable.Statement (.divu a0 a1 a2) := ⟨1, by decide, fun _ => rfl⟩
theorem Encodable.rem a0 a1 a2 : Encodable.Statement (.rem a0 a1 a2) := ⟨1, by decide, fun _ => rfl⟩
theorem Encodable.remu a0 a1 a2 : Encodable.Statement (.remu a0 a1 a2) := ⟨1, by decide, fun _ => rfl⟩
theorem Encodable.and a0 a1 a2 : Encodable.Statement (.and a0 a1 a2) := ⟨1, by decide, fun _ => rfl⟩
theorem Encodable.or a0 a1 a2 : Encodable.Statement (.or a0 a1 a2) := ⟨1, by decide, fun _ => rfl⟩
theorem Encodable.xor a0 a1 a2 : Encodable.Statement (.xor a0 a1 a2) := ⟨1, by decide, fun _ => rfl⟩
theorem Encodable.andn a0 a1 a2 : Encodable.Statement (.andn a0 a1 a2) := ⟨1, by decide, fun _ => rfl⟩
theorem Encodable.shl a0 a1 a2 : Encodable.Statement (.shl a0 a1 a2) := ⟨1, by decide, fun _ => rfl⟩
theorem Encodable.shr a0 a1 a2 : Encodable.Statement (.shr a0 a1 a2) := ⟨1, by decide, fun _ => rfl⟩
theorem Encodable.sar a0 a1 a2 : Encodable.Statement (.sar a0 a1 a2) := ⟨1, by decide, fun _ => rfl⟩
theorem Encodable.rotr a0 a1 a2 : Encodable.Statement (.rotr a0 a1 a2) := ⟨1, by decide, fun _ => rfl⟩
theorem Encodable.min a0 a1 a2 : Encodable.Statement (.min a0 a1 a2) := ⟨1, by decide, fun _ => rfl⟩
theorem Encodable.minu a0 a1 a2 : Encodable.Statement (.minu a0 a1 a2) := ⟨1, by decide, fun _ => rfl⟩
theorem Encodable.max a0 a1 a2 : Encodable.Statement (.max a0 a1 a2) := ⟨1, by decide, fun _ => rfl⟩
theorem Encodable.maxu a0 a1 a2 : Encodable.Statement (.maxu a0 a1 a2) := ⟨1, by decide, fun _ => rfl⟩
theorem Encodable.clz a0 a1 : Encodable.Statement (.clz a0 a1) := ⟨1, by decide, fun _ => rfl⟩
theorem Encodable.ctz a0 a1 : Encodable.Statement (.ctz a0 a1) := ⟨1, by decide, fun _ => rfl⟩
theorem Encodable.popc a0 a1 : Encodable.Statement (.popc a0 a1) := ⟨1, by decide, fun _ => rfl⟩
theorem Encodable.cmp a0 a1 a2 a3 : Encodable.Statement (.cmp a0 a1 a2 a3) := ⟨1, by decide, fun _ => rfl⟩
theorem Encodable.mov a0 a1 : Encodable.Statement (.mov a0 a1) := ⟨1, by decide, fun _ => rfl⟩
theorem Encodable.addi a0 a1 a2 : Encodable.Statement (.addi a0 a1 a2) := ⟨1, by decide, fun _ => rfl⟩
theorem Encodable.andi a0 a1 a2 : Encodable.Statement (.andi a0 a1 a2) := ⟨1, by decide, fun _ => rfl⟩
theorem Encodable.ori a0 a1 a2 : Encodable.Statement (.ori a0 a1 a2) := ⟨1, by decide, fun _ => rfl⟩
theorem Encodable.xori a0 a1 a2 : Encodable.Statement (.xori a0 a1 a2) := ⟨1, by decide, fun _ => rfl⟩
theorem Encodable.shlImm a0 a1 a2 : Encodable.Statement (.shlImm a0 a1 a2) := ⟨1, by decide, fun _ => rfl⟩
theorem Encodable.shrImm a0 a1 a2 : Encodable.Statement (.shrImm a0 a1 a2) := ⟨1, by decide, fun _ => rfl⟩
theorem Encodable.sarImm a0 a1 a2 : Encodable.Statement (.sarImm a0 a1 a2) := ⟨1, by decide, fun _ => rfl⟩
theorem Encodable.rotrImm a0 a1 a2 : Encodable.Statement (.rotrImm a0 a1 a2) := ⟨1, by decide, fun _ => rfl⟩
theorem Encodable.movi a0 a1 a2 : Encodable.Statement (.movi a0 a1 a2) := ⟨3, by decide, fun _ => rfl⟩
theorem Encodable.moviHi a0 a1 a2 : Encodable.Statement (.moviHi a0 a1 a2) := ⟨3, by decide, fun _ => rfl⟩
theorem Encodable.addiX96 a0 a1 a2 a3 : Encodable.Statement (.addiX96 a0 a1 a2 a3) := ⟨3, by decide, fun _ => rfl⟩
theorem Encodable.andiX96 a0 a1 a2 a3 : Encodable.Statement (.andiX96 a0 a1 a2 a3) := ⟨3, by decide, fun _ => rfl⟩
theorem Encodable.oriX96 a0 a1 a2 a3 : Encodable.Statement (.oriX96 a0 a1 a2 a3) := ⟨3, by decide, fun _ => rfl⟩
theorem Encodable.xoriX96 a0 a1 a2 a3 : Encodable.Statement (.xoriX96 a0 a1 a2 a3) := ⟨3, by decide, fun _ => rfl⟩
theorem Encodable.ext a0 a1 a2 a3 a4 a5 : Encodable.Statement (.ext a0 a1 a2 a3 a4 a5) := ⟨2, by decide, fun _ => rfl⟩
theorem Encodable.ins a0 a1 a2 a3 a4 : Encodable.Statement (.ins a0 a1 a2 a3 a4) := ⟨2, by decide, fun _ => rfl⟩
theorem Encodable.sel a0 a1 a2 a3 a4 : Encodable.Statement (.sel a0 a1 a2 a3 a4) := ⟨2, by decide, fun _ => rfl⟩
theorem Encodable.lds a0 a1 a2 a3 a4 a5 a6 a7 : Encodable.Statement (.lds a0 a1 a2 a3 a4 a5 a6 a7) := ⟨3, by decide, fun _ => rfl⟩
theorem Encodable.sts a0 a1 a2 a3 a4 a5 a6 : Encodable.Statement (.sts a0 a1 a2 a3 a4 a5 a6) := ⟨3, by decide, fun _ => rfl⟩
theorem Encodable.qpush a0 a1 a2 : Encodable.Statement (.qpush a0 a1 a2) := ⟨2, by decide, fun _ => rfl⟩
theorem Encodable.qpop a0 a1 : Encodable.Statement (.qpop a0 a1) := ⟨2, by decide, fun _ => rfl⟩
theorem Encodable.fork a0 a1 a2 a3 a4 a5 : Encodable.Statement (.fork a0 a1 a2 a3 a4 a5) := ⟨3, by decide, fun _ => rfl⟩
theorem Encodable.launch a0 a1 a2 : Encodable.Statement (.launch a0 a1 a2) := ⟨2, by decide, fun _ => rfl⟩
theorem Encodable.waitch a0 a1 a2 : Encodable.Statement (.waitch a0 a1 a2) := ⟨2, by decide, fun _ => rfl⟩
theorem Encodable.exit a0 a1 : Encodable.Statement (.exit a0 a1) := ⟨2, by decide, fun _ => rfl⟩
theorem Encodable.yield a0 a1 : Encodable.Statement (.yield a0 a1) := ⟨2, by decide, fun _ => rfl⟩
theorem Encodable.rdid a0 a1 a2 : Encodable.Statement (.rdid a0 a1 a2) := ⟨2, by decide, fun _ => rfl⟩
theorem Encodable.hintRem a0 a1 : Encodable.Statement (.hintRem a0 a1) := ⟨2, by decide, fun _ => rfl⟩
theorem Encodable.cba a0 a1 a2 a3 : Encodable.Statement (.cba a0 a1 a2 a3) := ⟨2, by decide, fun _ => rfl⟩
theorem Encodable.cbw a0 a1 a2 a3 : Encodable.Statement (.cbw a0 a1 a2 a3) := ⟨2, by decide, fun _ => rfl⟩
theorem Encodable.gbar a0 a1 : Encodable.Statement (.gbar a0 a1) := ⟨2, by decide, fun _ => rfl⟩
theorem Encodable.watch a0 a1 : Encodable.Statement (.watch a0 a1) := ⟨2, by decide, fun _ => rfl⟩
theorem Encodable.mwait a0 a1 a2 : Encodable.Statement (.mwait a0 a1 a2) := ⟨2, by decide, fun _ => rfl⟩
theorem Encodable.cqPut a0 a1 a2 a3 : Encodable.Statement (.cqPut a0 a1 a2 a3) := ⟨2, by decide, fun _ => rfl⟩
theorem Encodable.cqMcast a0 a1 a2 a3 : Encodable.Statement (.cqMcast a0 a1 a2 a3) := ⟨2, by decide, fun _ => rfl⟩
theorem Encodable.cqFence a0 a1 a2 a3 : Encodable.Statement (.cqFence a0 a1 a2 a3) := ⟨2, by decide, fun _ => rfl⟩
theorem Encodable.lda a0 a1 a2 a3 a4 a5 a6 a7 a8 : Encodable.Statement (.lda a0 a1 a2 a3 a4 a5 a6 a7 a8) := ⟨3, by decide, fun _ => rfl⟩
theorem Encodable.sta a0 a1 a2 a3 a4 a5 a6 a7 : Encodable.Statement (.sta a0 a1 a2 a3 a4 a5 a6 a7) := ⟨3, by decide, fun _ => rfl⟩
theorem Encodable.vld a0 a1 a2 a3 a4 a5 a6 : Encodable.Statement (.vld a0 a1 a2 a3 a4 a5 a6) := ⟨3, by decide, fun _ => rfl⟩
theorem Encodable.vst a0 a1 a2 a3 a4 a5 a6 : Encodable.Statement (.vst a0 a1 a2 a3 a4 a5 a6) := ⟨3, by decide, fun _ => rfl⟩
theorem Encodable.vlds a0 a1 a2 a3 a4 a5 a6 a7 : Encodable.Statement (.vlds a0 a1 a2 a3 a4 a5 a6 a7) := ⟨3, by decide, fun _ => rfl⟩
theorem Encodable.vsts a0 a1 a2 a3 a4 a5 a6 a7 : Encodable.Statement (.vsts a0 a1 a2 a3 a4 a5 a6 a7) := ⟨3, by decide, fun _ => rfl⟩
theorem Encodable.vgath a0 a1 a2 a3 a4 a5 a6 a7 : Encodable.Statement (.vgath a0 a1 a2 a3 a4 a5 a6 a7) := ⟨2, by decide, fun _ => rfl⟩
theorem Encodable.vscat a0 a1 a2 a3 a4 a5 a6 a7 : Encodable.Statement (.vscat a0 a1 a2 a3 a4 a5 a6 a7) := ⟨2, by decide, fun _ => rfl⟩
theorem Encodable.tld a0 a1 a2 a3 a4 a5 a6 : Encodable.Statement (.tld a0 a1 a2 a3 a4 a5 a6) := ⟨2, by decide, fun _ => rfl⟩
theorem Encodable.tst a0 a1 a2 a3 a4 a5 a6 : Encodable.Statement (.tst a0 a1 a2 a3 a4 a5 a6) := ⟨2, by decide, fun _ => rfl⟩
theorem Encodable.ldS a0 a1 a2 a3 a4 a5 a6 a7 : Encodable.Statement (.ldS a0 a1 a2 a3 a4 a5 a6 a7) := ⟨3, by decide, fun _ => rfl⟩
theorem Encodable.rspSt a0 a1 a2 a3 a4 a5 : Encodable.Statement (.rspSt a0 a1 a2 a3 a4 a5) := ⟨3, by decide, fun _ => rfl⟩
theorem Encodable.pref a0 a1 a2 a3 : Encodable.Statement (.pref a0 a1 a2 a3) := ⟨3, by decide, fun _ => rfl⟩
theorem Encodable.fenceAcq a0 : Encodable.Statement (.fenceAcq a0) := ⟨2, by decide, fun _ => rfl⟩
theorem Encodable.fenceRel a0 : Encodable.Statement (.fenceRel a0) := ⟨2, by decide, fun _ => rfl⟩
theorem Encodable.fenceSc a0 : Encodable.Statement (.fenceSc a0) := ⟨2, by decide, fun _ => rfl⟩
theorem Encodable.acqr a0 a1 a2 : Encodable.Statement (.acqr a0 a1 a2) := ⟨2, by decide, fun _ => rfl⟩
theorem Encodable.cwb a0 a1 a2 : Encodable.Statement (.cwb a0 a1 a2) := ⟨2, by decide, fun _ => rfl⟩
theorem Encodable.rowAct a0 a1 a2 : Encodable.Statement (.rowAct a0 a1 a2) := ⟨2, by decide, fun _ => rfl⟩
theorem Encodable.rowCon a0 a1 a2 a3 : Encodable.Statement (.rowCon a0 a1 a2 a3) := ⟨2, by decide, fun _ => rfl⟩
theorem Encodable.rowCon2 a0 a1 a2 a3 a4 : Encodable.Statement (.rowCon2 a0 a1 a2 a3 a4) := ⟨2, by decide, fun _ => rfl⟩
theorem Encodable.rowPut a0 a1 a2 a3 : Encodable.Statement (.rowPut a0 a1 a2 a3) := ⟨2, by decide, fun _ => rfl⟩
theorem Encodable.rowPre a0 a1 : Encodable.Statement (.rowPre a0 a1) := ⟨2, by decide, fun _ => rfl⟩
theorem Encodable.rowStat a0 a1 a2 : Encodable.Statement (.rowStat a0 a1 a2) := ⟨2, by decide, fun _ => rfl⟩
theorem Encodable.rowWait a0 : Encodable.Statement (.rowWait a0) := ⟨2, by decide, fun _ => rfl⟩
theorem Encodable.amoAdd a0 a1 a2 a3 a4 a5 a6 : Encodable.Statement (.amoAdd a0 a1 a2 a3 a4 a5 a6) := ⟨2, by decide, fun _ => rfl⟩
theorem Encodable.amoSub a0 a1 a2 a3 a4 a5 a6 : Encodable.Statement (.amoSub a0 a1 a2 a3 a4 a5 a6) := ⟨2, by decide, fun _ => rfl⟩
theorem Encodable.amoMin a0 a1 a2 a3 a4 a5 a6 : Encodable.Statement (.amoMin a0 a1 a2 a3 a4 a5 a6) := ⟨2, by decide, fun _ => rfl⟩
theorem Encodable.amoMax a0 a1 a2 a3 a4 a5 a6 : Encodable.Statement (.amoMax a0 a1 a2 a3 a4 a5 a6) := ⟨2, by decide, fun _ => rfl⟩
theorem Encodable.amoMinu a0 a1 a2 a3 a4 a5 a6 : Encodable.Statement (.amoMinu a0 a1 a2 a3 a4 a5 a6) := ⟨2, by decide, fun _ => rfl⟩
theorem Encodable.amoMaxu a0 a1 a2 a3 a4 a5 a6 : Encodable.Statement (.amoMaxu a0 a1 a2 a3 a4 a5 a6) := ⟨2, by decide, fun _ => rfl⟩
theorem Encodable.amoAnd a0 a1 a2 a3 a4 a5 a6 : Encodable.Statement (.amoAnd a0 a1 a2 a3 a4 a5 a6) := ⟨2, by decide, fun _ => rfl⟩
theorem Encodable.amoOr a0 a1 a2 a3 a4 a5 a6 : Encodable.Statement (.amoOr a0 a1 a2 a3 a4 a5 a6) := ⟨2, by decide, fun _ => rfl⟩
theorem Encodable.amoXor a0 a1 a2 a3 a4 a5 a6 : Encodable.Statement (.amoXor a0 a1 a2 a3 a4 a5 a6) := ⟨2, by decide, fun _ => rfl⟩
theorem Encodable.amoSwp a0 a1 a2 a3 a4 a5 a6 : Encodable.Statement (.amoSwp a0 a1 a2 a3 a4 a5 a6) := ⟨2, by decide, fun _ => rfl⟩
theorem Encodable.amoCas a0 a1 a2 a3 a4 a5 a6 : Encodable.Statement (.amoCas a0 a1 a2 a3 a4 a5 a6) := ⟨2, by decide, fun _ => rfl⟩
theorem Encodable.amoFadd a0 a1 a2 a3 a4 a5 a6 : Encodable.Statement (.amoFadd a0 a1 a2 a3 a4 a5 a6) := ⟨2, by decide, fun _ => rfl⟩
theorem Encodable.amoFmin a0 a1 a2 a3 a4 a5 a6 : Encodable.Statement (.amoFmin a0 a1 a2 a3 a4 a5 a6) := ⟨2, by decide, fun _ => rfl⟩
theorem Encodable.amoFmax a0 a1 a2 a3 a4 a5 a6 : Encodable.Statement (.amoFmax a0 a1 a2 a3 a4 a5 a6) := ⟨2, by decide, fun _ => rfl⟩
theorem Encodable.acas128 a0 a1 a2 a3 a4 a5 : Encodable.Statement (.acas128 a0 a1 a2 a3 a4 a5) := ⟨2, by decide, fun _ => rfl⟩
theorem Encodable.redAdd a0 a1 a2 a3 a4 a5 : Encodable.Statement (.redAdd a0 a1 a2 a3 a4 a5) := ⟨2, by decide, fun _ => rfl⟩
theorem Encodable.redSub a0 a1 a2 a3 a4 a5 : Encodable.Statement (.redSub a0 a1 a2 a3 a4 a5) := ⟨2, by decide, fun _ => rfl⟩
theorem Encodable.redMin a0 a1 a2 a3 a4 a5 : Encodable.Statement (.redMin a0 a1 a2 a3 a4 a5) := ⟨2, by decide, fun _ => rfl⟩
theorem Encodable.redMax a0 a1 a2 a3 a4 a5 : Encodable.Statement (.redMax a0 a1 a2 a3 a4 a5) := ⟨2, by decide, fun _ => rfl⟩
theorem Encodable.redMinu a0 a1 a2 a3 a4 a5 : Encodable.Statement (.redMinu a0 a1 a2 a3 a4 a5) := ⟨2, by decide, fun _ => rfl⟩
theorem Encodable.redMaxu a0 a1 a2 a3 a4 a5 : Encodable.Statement (.redMaxu a0 a1 a2 a3 a4 a5) := ⟨2, by decide, fun _ => rfl⟩
theorem Encodable.redAnd a0 a1 a2 a3 a4 a5 : Encodable.Statement (.redAnd a0 a1 a2 a3 a4 a5) := ⟨2, by decide, fun _ => rfl⟩
theorem Encodable.redOr a0 a1 a2 a3 a4 a5 : Encodable.Statement (.redOr a0 a1 a2 a3 a4 a5) := ⟨2, by decide, fun _ => rfl⟩
theorem Encodable.redXor a0 a1 a2 a3 a4 a5 : Encodable.Statement (.redXor a0 a1 a2 a3 a4 a5) := ⟨2, by decide, fun _ => rfl⟩
theorem Encodable.redFadd a0 a1 a2 a3 a4 a5 : Encodable.Statement (.redFadd a0 a1 a2 a3 a4 a5) := ⟨2, by decide, fun _ => rfl⟩
theorem Encodable.redFmin a0 a1 a2 a3 a4 a5 : Encodable.Statement (.redFmin a0 a1 a2 a3 a4 a5) := ⟨2, by decide, fun _ => rfl⟩
theorem Encodable.redFmax a0 a1 a2 a3 a4 a5 : Encodable.Statement (.redFmax a0 a1 a2 a3 a4 a5) := ⟨2, by decide, fun _ => rfl⟩
theorem Encodable.vamoAdd a0 a1 a2 a3 a4 a5 a6 : Encodable.Statement (.vamoAdd a0 a1 a2 a3 a4 a5 a6) := ⟨2, by decide, fun _ => rfl⟩
theorem Encodable.vamoSub a0 a1 a2 a3 a4 a5 a6 : Encodable.Statement (.vamoSub a0 a1 a2 a3 a4 a5 a6) := ⟨2, by decide, fun _ => rfl⟩
theorem Encodable.vamoMin a0 a1 a2 a3 a4 a5 a6 : Encodable.Statement (.vamoMin a0 a1 a2 a3 a4 a5 a6) := ⟨2, by decide, fun _ => rfl⟩
theorem Encodable.vamoMax a0 a1 a2 a3 a4 a5 a6 : Encodable.Statement (.vamoMax a0 a1 a2 a3 a4 a5 a6) := ⟨2, by decide, fun _ => rfl⟩
theorem Encodable.vamoMinu a0 a1 a2 a3 a4 a5 a6 : Encodable.Statement (.vamoMinu a0 a1 a2 a3 a4 a5 a6) := ⟨2, by decide, fun _ => rfl⟩
theorem Encodable.vamoMaxu a0 a1 a2 a3 a4 a5 a6 : Encodable.Statement (.vamoMaxu a0 a1 a2 a3 a4 a5 a6) := ⟨2, by decide, fun _ => rfl⟩
theorem Encodable.vamoAnd a0 a1 a2 a3 a4 a5 a6 : Encodable.Statement (.vamoAnd a0 a1 a2 a3 a4 a5 a6) := ⟨2, by decide, fun _ => rfl⟩
theorem Encodable.vamoOr a0 a1 a2 a3 a4 a5 a6 : Encodable.Statement (.vamoOr a0 a1 a2 a3 a4 a5 a6) := ⟨2, by decide, fun _ => rfl⟩
theorem Encodable.vamoXor a0 a1 a2 a3 a4 a5 a6 : Encodable.Statement (.vamoXor a0 a1 a2 a3 a4 a5 a6) := ⟨2, by decide, fun _ => rfl⟩
theorem Encodable.vamoSwp a0 a1 a2 a3 a4 a5 a6 : Encodable.Statement (.vamoSwp a0 a1 a2 a3 a4 a5 a6) := ⟨2, by decide, fun _ => rfl⟩
theorem Encodable.vamoFadd a0 a1 a2 a3 a4 a5 a6 : Encodable.Statement (.vamoFadd a0 a1 a2 a3 a4 a5 a6) := ⟨2, by decide, fun _ => rfl⟩
theorem Encodable.vamoFmin a0 a1 a2 a3 a4 a5 a6 : Encodable.Statement (.vamoFmin a0 a1 a2 a3 a4 a5 a6) := ⟨2, by decide, fun _ => rfl⟩
theorem Encodable.vamoFmax a0 a1 a2 a3 a4 a5 a6 : Encodable.Statement (.vamoFmax a0 a1 a2 a3 a4 a5 a6) := ⟨2, by decide, fun _ => rfl⟩
theorem Encodable.vadd a0 a1 a2 a3 a4 : Encodable.Statement (.vadd a0 a1 a2 a3 a4) := ⟨2, by decide, fun _ => rfl⟩
theorem Encodable.vsub a0 a1 a2 a3 a4 : Encodable.Statement (.vsub a0 a1 a2 a3 a4) := ⟨2, by decide, fun _ => rfl⟩
theorem Encodable.vmul a0 a1 a2 a3 a4 : Encodable.Statement (.vmul a0 a1 a2 a3 a4) := ⟨2, by decide, fun _ => rfl⟩
theorem Encodable.vfma a0 a1 a2 a3 a4 : Encodable.Statement (.vfma a0 a1 a2 a3 a4) := ⟨2, by decide, fun _ => rfl⟩
theorem Encodable.vfms a0 a1 a2 a3 a4 : Encodable.Statement (.vfms a0 a1 a2 a3 a4) := ⟨2, by decide, fun _ => rfl⟩
theorem Encodable.vfnma a0 a1 a2 a3 a4 : Encodable.Statement (.vfnma a0 a1 a2 a3 a4) := ⟨2, by decide, fun _ => rfl⟩
theorem Encodable.vmin a0 a1 a2 a3 a4 : Encodable.Statement (.vmin a0 a1 a2 a3 a4) := ⟨2, by decide, fun _ => rfl⟩
theorem Encodable.vmax a0 a1 a2 a3 a4 : Encodable.Statement (.vmax a0 a1 a2 a3 a4) := ⟨2, by decide, fun _ => rfl⟩
theorem Encodable.vabs a0 a1 a2 a3 : Encodable.Statement (.vabs a0 a1 a2 a3) := ⟨2, by decide, fun _ => rfl⟩
theorem Encodable.vneg a0 a1 a2 a3 : Encodable.Statement (.vneg a0 a1 a2 a3) := ⟨2, by decide, fun _ => rfl⟩
theorem Encodable.vadds a0 a1 a2 a3 a4 : Encodable.Statement (.vadds a0 a1 a2 a3 a4) := ⟨2, by decide, fun _ => rfl⟩
theorem Encodable.vsubs a0 a1 a2 a3 a4 : Encodable.Statement (.vsubs a0 a1 a2 a3 a4) := ⟨2, by decide, fun _ => rfl⟩
theorem Encodable.vmulh a0 a1 a2 a3 a4 : Encodable.Statement (.vmulh a0 a1 a2 a3 a4) := ⟨2, by decide, fun _ => rfl⟩
theorem Encodable.vdiv a0 a1 a2 a3 a4 : Encodable.Statement (.vdiv a0 a1 a2 a3 a4) := ⟨2, by decide, fun _ => rfl⟩
theorem Encodable.vsqrt a0 a1 a2 a3 : Encodable.Statement (.vsqrt a0 a1 a2 a3) := ⟨2, by decide, fun _ => rfl⟩
theorem Encodable.vrcp a0 a1 a2 a3 : Encodable.Statement (.vrcp a0 a1 a2 a3) := ⟨2, by decide, fun _ => rfl⟩
theorem Encodable.vrsq a0 a1 a2 a3 : Encodable.Statement (.vrsq a0 a1 a2 a3) := ⟨2, by decide, fun _ => rfl⟩
theorem Encodable.vexp2 a0 a1 a2 a3 : Encodable.Statement (.vexp2 a0 a1 a2 a3) := ⟨2, by decide, fun _ => rfl⟩
theorem Encodable.vlog2 a0 a1 a2 a3 : Encodable.Statement (.vlog2 a0 a1 a2 a3) := ⟨2, by decide, fun _ => rfl⟩
theorem Encodable.vsinp a0 a1 a2 a3 : Encodable.Statement (.vsinp a0 a1 a2 a3) := ⟨2, by decide, fun _ => rfl⟩
theorem Encodable.vcosp a0 a1 a2 a3 : Encodable.Statement (.vcosp a0 a1 a2 a3) := ⟨2, by decide, fun _ => rfl⟩
theorem Encodable.vcvt a0 a1 a2 a3 a4 a5 : Encodable.Statement (.vcvt a0 a1 a2 a3 a4 a5) := ⟨2, by decide, fun _ => rfl⟩
theorem Encodable.vqnt a0 a1 a2 a3 a4 a5 a6 : Encodable.Statement (.vqnt a0 a1 a2 a3 a4 a5 a6) := ⟨2, by decide, fun _ => rfl⟩
theorem Encodable.vdqnt a0 a1 a2 a3 a4 a5 a6 : Encodable.Statement (.vdqnt a0 a1 a2 a3 a4 a5 a6) := ⟨2, by decide, fun _ => rfl⟩
theorem Encodable.vand a0 a1 a2 a3 a4 : Encodable.Statement (.vand a0 a1 a2 a3 a4) := ⟨2, by decide, fun _ => rfl⟩
theorem Encodable.vor a0 a1 a2 a3 a4 : Encodable.Statement (.vor a0 a1 a2 a3 a4) := ⟨2, by decide, fun _ => rfl⟩
theorem Encodable.vxor a0 a1 a2 a3 a4 : Encodable.Statement (.vxor a0 a1 a2 a3 a4) := ⟨2, by decide, fun _ => rfl⟩
theorem Encodable.vnot a0 a1 a2 a3 : Encodable.Statement (.vnot a0 a1 a2 a3) := ⟨2, by decide, fun _ => rfl⟩
theorem Encodable.vshl a0 a1 a2 a3 a4 : Encodable.Statement (.vshl a0 a1 a2 a3 a4) := ⟨2, by decide, fun _ => rfl⟩
theorem Encodable.vshr a0 a1 a2 a3 a4 : Encodable.Statement (.vshr a0 a1 a2 a3 a4) := ⟨2, by decide, fun _ => rfl⟩
theorem Encodable.vsar a0 a1 a2 a3 a4 : Encodable.Statement (.vsar a0 a1 a2 a3 a4) := ⟨2, by decide, fun _ => rfl⟩
theorem Encodable.vclz a0 a1 a2 a3 : Encodable.Statement (.vclz a0 a1 a2 a3) := ⟨2, by decide, fun _ => rfl⟩
theorem Encodable.vpopc a0 a1 a2 a3 : Encodable.Statement (.vpopc a0 a1 a2 a3) := ⟨2, by decide, fun _ => rfl⟩
theorem Encodable.vmov a0 a1 a2 a3 : Encodable.Statement (.vmov a0 a1 a2 a3) := ⟨2, by decide, fun _ => rfl⟩
theorem Encodable.vbcast a0 a1 a2 a3 : Encodable.Statement (.vbcast a0 a1 a2 a3) := ⟨2, by decide, fun _ => rfl⟩
theorem Encodable.vextr a0 a1 a2 a3 a4 : Encodable.Statement (.vextr a0 a1 a2 a3 a4) := ⟨2, by decide, fun _ => rfl⟩
theorem Encodable.vins a0 a1 a2 a3 a4 : Encodable.Statement (.vins a0 a1 a2 a3 a4) := ⟨2, by decide, fun _ => rfl⟩
theorem Encodable.vcmp a0 a1 a2 a3 a4 a5 : Encodable.Statement (.vcmp a0 a1 a2 a3 a4 a5) := ⟨2, by decide, fun _ => rfl⟩
theorem Encodable.vsel a0 a1 a2 a3 a4 a5 : Encodable.Statement (.vsel a0 a1 a2 a3 a4 a5) := ⟨2, by decide, fun _ => rfl⟩
theorem Encodable.kand a0 a1 a2 a3 : Encodable.Statement (.kand a0 a1 a2 a3) := ⟨2, by decide, fun _ => rfl⟩
theorem Encodable.kor a0 a1 a2 a3 : Encodable.Statement (.kor a0 a1 a2 a3) := ⟨2, by decide, fun _ => rfl⟩
theorem Encodable.kxor a0 a1 a2 a3 : Encodable.Statement (.kxor a0 a1 a2 a3) := ⟨2, by decide, fun _ => rfl⟩
theorem Encodable.knot a0 a1 a2 : Encodable.Statement (.knot a0 a1 a2) := ⟨2, by decide, fun _ => rfl⟩
theorem Encodable.kpop a0 a1 a2 : Encodable.Statement (.kpop a0 a1 a2) := ⟨2, by decide, fun _ => rfl⟩
theorem Encodable.kmovMask a0 a1 a2 : Encodable.Statement (.kmovMask a0 a1 a2) := ⟨2, by decide, fun _ => rfl⟩
theorem Encodable.kmovFromVector a0 a1 a2 : Encodable.Statement (.kmovFromVector a0 a1 a2) := ⟨2, by decide, fun _ => rfl⟩
theorem Encodable.kmovToVector a0 a1 a2 : Encodable.Statement (.kmovToVector a0 a1 a2) := ⟨2, by decide, fun _ => rfl⟩
theorem Encodable.vshuf a0 a1 a2 a3 a4 a5 : Encodable.Statement (.vshuf a0 a1 a2 a3 a4 a5) := ⟨2, by decide, fun _ => rfl⟩
theorem Encodable.vxswp a0 a1 a2 a3 a4 : Encodable.Statement (.vxswp a0 a1 a2 a3 a4) := ⟨2, by decide, fun _ => rfl⟩
theorem Encodable.vrot a0 a1 a2 a3 a4 : Encodable.Statement (.vrot a0 a1 a2 a3 a4) := ⟨2, by decide, fun _ => rfl⟩
theorem Encodable.vredsum a0 a1 a2 a3 : Encodable.Statement (.vredsum a0 a1 a2 a3) := ⟨2, by decide, fun _ => rfl⟩
theorem Encodable.vredmax a0 a1 a2 a3 : Encodable.Statement (.vredmax a0 a1 a2 a3) := ⟨2, by decide, fun _ => rfl⟩
theorem Encodable.vredmin a0 a1 a2 a3 : Encodable.Statement (.vredmin a0 a1 a2 a3) := ⟨2, by decide, fun _ => rfl⟩
theorem Encodable.vscan a0 a1 a2 a3 : Encodable.Statement (.vscan a0 a1 a2 a3) := ⟨2, by decide, fun _ => rfl⟩
theorem Encodable.vvoteAny a0 a1 a2 a3 : Encodable.Statement (.vvoteAny a0 a1 a2 a3) := ⟨2, by decide, fun _ => rfl⟩
theorem Encodable.vvoteAll a0 a1 a2 a3 : Encodable.Statement (.vvoteAll a0 a1 a2 a3) := ⟨2, by decide, fun _ => rfl⟩
theorem Encodable.vvoteBallot a0 a1 a2 a3 : Encodable.Statement (.vvoteBallot a0 a1 a2 a3) := ⟨2, by decide, fun _ => rfl⟩
theorem Encodable.vcompress a0 a1 a2 a3 a4 : Encodable.Statement (.vcompress a0 a1 a2 a3 a4) := ⟨2, by decide, fun _ => rfl⟩
theorem Encodable.vexpand a0 a1 a2 a3 a4 : Encodable.Statement (.vexpand a0 a1 a2 a3 a4) := ⟨2, by decide, fun _ => rfl⟩
theorem Encodable.vbperm a0 a1 a2 a3 : Encodable.Statement (.vbperm a0 a1 a2 a3) := ⟨2, by decide, fun _ => rfl⟩
theorem Encodable.vbpload a0 a1 a2 a3 : Encodable.Statement (.vbpload a0 a1 a2 a3) := ⟨2, by decide, fun _ => rfl⟩
theorem Encodable.tset a0 a1 a2 a3 : Encodable.Statement (.tset a0 a1 a2 a3) := ⟨2, by decide, fun _ => rfl⟩
theorem Encodable.tget a0 a1 a2 a3 : Encodable.Statement (.tget a0 a1 a2 a3) := ⟨2, by decide, fun _ => rfl⟩
theorem Encodable.tzero a0 a1 : Encodable.Statement (.tzero a0 a1) := ⟨2, by decide, fun _ => rfl⟩
theorem Encodable.azero a0 a1 : Encodable.Statement (.azero a0 a1) := ⟨2, by decide, fun _ => rfl⟩
theorem Encodable.tmov a0 a1 a2 : Encodable.Statement (.tmov a0 a1 a2) := ⟨2, by decide, fun _ => rfl⟩
theorem Encodable.ttr a0 a1 a2 : Encodable.Statement (.ttr a0 a1 a2) := ⟨2, by decide, fun _ => rfl⟩
theorem Encodable.tcvt a0 a1 a2 : Encodable.Statement (.tcvt a0 a1 a2) := ⟨2, by decide, fun _ => rfl⟩
theorem Encodable.tacc a0 a1 a2 : Encodable.Statement (.tacc a0 a1 a2) := ⟨2, by decide, fun _ => rfl⟩
theorem Encodable.atile a0 a1 a2 : Encodable.Statement (.atile a0 a1 a2) := ⟨2, by decide, fun _ => rfl⟩
theorem Encodable.mma a0 a1 a2 a3 a4 : Encodable.Statement (.mma a0 a1 a2 a3 a4) := ⟨2, by decide, fun _ => rfl⟩
theorem Encodable.mmaP a0 a1 a2 a3 a4 : Encodable.Statement (.mmaP a0 a1 a2 a3 a4) := ⟨2, by decide, fun _ => rfl⟩
theorem Encodable.mmaSp a0 a1 a2 a3 a4 a5 : Encodable.Statement (.mmaSp a0 a1 a2 a3 a4 a5) := ⟨2, by decide, fun _ => rfl⟩
theorem Encodable.mfence a0 : Encodable.Statement (.mfence a0) := ⟨2, by decide, fun _ => rfl⟩
theorem Encodable.retire a0 a1 : Encodable.Statement (.retire a0 a1) := ⟨0, by decide, fun _ => rfl⟩
theorem Encodable.lineFetch a0 a1 : Encodable.Statement (.lineFetch a0 a1) := ⟨0, by decide, fun _ => rfl⟩
theorem Encodable.accessClear a0 a1 : Encodable.Statement (.accessClear a0 a1) := ⟨0, by decide, fun _ => rfl⟩
theorem Encodable.loadReturn a0 a1 : Encodable.Statement (.loadReturn a0 a1) := ⟨0, by decide, fun _ => rfl⟩
theorem Encodable.llcFill a0 : Encodable.Statement (.llcFill a0) := ⟨0, by decide, fun _ => rfl⟩
theorem Encodable.migIntervalExpiry : Encodable.Statement (.migIntervalExpiry) := ⟨0, by decide, fun _ => rfl⟩
theorem Encodable.coreStoreRequest a0 a1 a2 : Encodable.Statement (.coreStoreRequest a0 a1 a2) := ⟨0, by decide, fun _ => rfl⟩
theorem Encodable.coreReadRequest a0 a1 a2 : Encodable.Statement (.coreReadRequest a0 a1 a2) := ⟨0, by decide, fun _ => rfl⟩
theorem Encodable.ioCoherentWrite a0 a1 a2 : Encodable.Statement (.ioCoherentWrite a0 a1 a2) := ⟨0, by decide, fun _ => rfl⟩
theorem Encodable.ioCoherentRead a0 a1 a2 : Encodable.Statement (.ioCoherentRead a0 a1 a2) := ⟨0, by decide, fun _ => rfl⟩
theorem Encodable.revocation a0 a1 : Encodable.Statement (.revocation a0 a1) := ⟨0, by decide, fun _ => rfl⟩
theorem Encodable.revocationAnswer a0 a1 : Encodable.Statement (.revocationAnswer a0 a1) := ⟨0, by decide, fun _ => rfl⟩
theorem Encodable.forwardRequest a0 a1 : Encodable.Statement (.forwardRequest a0 a1) := ⟨0, by decide, fun _ => rfl⟩
theorem Encodable.forwardAnswer a0 a1 : Encodable.Statement (.forwardAnswer a0 a1) := ⟨0, by decide, fun _ => rfl⟩
theorem Encodable.writeBack a0 a1 : Encodable.Statement (.writeBack a0 a1) := ⟨0, by decide, fun _ => rfl⟩
theorem Encodable.registrationAnswer a0 a1 : Encodable.Statement (.registrationAnswer a0 a1) := ⟨0, by decide, fun _ => rfl⟩
theorem Encodable.writeBackAck a0 a1 : Encodable.Statement (.writeBackAck a0 a1) := ⟨0, by decide, fun _ => rfl⟩
theorem Encodable.mwaitWake a0 : Encodable.Statement (.mwaitWake a0) := ⟨0, by decide, fun _ => rfl⟩
theorem Encodable.mwaitTimeout a0 : Encodable.Statement (.mwaitTimeout a0) := ⟨0, by decide, fun _ => rfl⟩
theorem Encodable.cbwComplete a0 : Encodable.Statement (.cbwComplete a0) := ⟨0, by decide, fun _ => rfl⟩
theorem Encodable.gbarPhaseComplete a0 a1 : Encodable.Statement (.gbarPhaseComplete a0 a1) := ⟨0, by decide, fun _ => rfl⟩
theorem Encodable.waitchComplete a0 : Encodable.Statement (.waitchComplete a0) := ⟨0, by decide, fun _ => rfl⟩
theorem Encodable.fenceComplete a0 : Encodable.Statement (.fenceComplete a0) := ⟨0, by decide, fun _ => rfl⟩
theorem Encodable.rowActComplete a0 a1 : Encodable.Statement (.rowActComplete a0 a1) := ⟨0, by decide, fun _ => rfl⟩
theorem Encodable.rowPreComplete a0 a1 : Encodable.Statement (.rowPreComplete a0 a1) := ⟨0, by decide, fun _ => rfl⟩
theorem Encodable.leaseExpiry a0 a1 : Encodable.Statement (.leaseExpiry a0 a1) := ⟨0, by decide, fun _ => rfl⟩
theorem Encodable.refreshDue a0 a1 : Encodable.Statement (.refreshDue a0 a1) := ⟨0, by decide, fun _ => rfl⟩
theorem Encodable.refreshEnd a0 a1 : Encodable.Statement (.refreshEnd a0 a1) := ⟨0, by decide, fun _ => rfl⟩
theorem Encodable.tempHot a0 : Encodable.Statement (.tempHot a0) := ⟨0, by decide, fun _ => rfl⟩
theorem Encodable.tempNormal a0 : Encodable.Statement (.tempNormal a0) := ⟨0, by decide, fun _ => rfl⟩
theorem Encodable.activationWindowSet a0 : Encodable.Statement (.activationWindowSet a0) := ⟨0, by decide, fun _ => rfl⟩
theorem Encodable.matrixIssueGapSet a0 : Encodable.Statement (.matrixIssueGapSet a0) := ⟨0, by decide, fun _ => rfl⟩
theorem Encodable.tileEccError a0 a1 : Encodable.Statement (.tileEccError a0 a1) := ⟨0, by decide, fun _ => rfl⟩
theorem Encodable.stateEcc a0 : Encodable.Statement (.stateEcc a0) := ⟨0, by decide, fun _ => rfl⟩
theorem Encodable.teamStart a0 : Encodable.Statement (.teamStart a0) := ⟨0, by decide, fun _ => rfl⟩
theorem Encodable.contextRestore a0 : Encodable.Statement (.contextRestore a0) := ⟨0, by decide, fun _ => rfl⟩
theorem Encodable.streamRestart a0 : Encodable.Statement (.streamRestart a0) := ⟨0, by decide, fun _ => rfl⟩
theorem Encodable.contextSave a0 : Encodable.Statement (.contextSave a0) := ⟨0, by decide, fun _ => rfl⟩
theorem Encodable.teamRetire a0 a1 a2 : Encodable.Statement (.teamRetire a0 a1 a2) := ⟨0, by decide, fun _ => rfl⟩
theorem Encodable.launchRetire a0 : Encodable.Statement (.launchRetire a0) := ⟨0, by decide, fun _ => rfl⟩
theorem Encodable.teamStop a0 : Encodable.Statement (.teamStop a0) := ⟨0, by decide, fun _ => rfl⟩
theorem Encodable.trapDrainLimit a0 : Encodable.Statement (.trapDrainLimit a0) := ⟨0, by decide, fun _ => rfl⟩
theorem Encodable.watchdog a0 a1 : Encodable.Statement (.watchdog a0 a1) := ⟨0, by decide, fun _ => rfl⟩
theorem Encodable.sliceExpiry a0 a1 : Encodable.Statement (.sliceExpiry a0 a1) := ⟨0, by decide, fun _ => rfl⟩
theorem Encodable.placementRound : Encodable.Statement (.placementRound) := ⟨0, by decide, fun _ => rfl⟩
theorem Encodable.gangSteal a0 a1 a2 : Encodable.Statement (.gangSteal a0 a1 a2) := ⟨0, by decide, fun _ => rfl⟩
theorem Encodable.schedulerHeartbeat a0 : Encodable.Statement (.schedulerHeartbeat a0) := ⟨0, by decide, fun _ => rfl⟩
theorem Encodable.schedAdopt a0 : Encodable.Statement (.schedAdopt a0) := ⟨0, by decide, fun _ => rfl⟩
theorem Encodable.schedulerReturn a0 : Encodable.Statement (.schedulerReturn a0) := ⟨0, by decide, fun _ => rfl⟩
theorem Encodable.workerFailover a0 : Encodable.Statement (.workerFailover a0) := ⟨0, by decide, fun _ => rfl⟩
theorem Encodable.quartzMismatch a0 : Encodable.Statement (.quartzMismatch a0) := ⟨0, by decide, fun _ => rfl⟩
theorem Encodable.quartzRestart : Encodable.Statement (.quartzRestart) := ⟨0, by decide, fun _ => rfl⟩
theorem Encodable.dispQwptr a0 a1 : Encodable.Statement (.dispQwptr a0 a1) := ⟨0, by decide, fun _ => rfl⟩
theorem Encodable.dispQctl a0 a1 : Encodable.Statement (.dispQctl a0 a1) := ⟨0, by decide, fun _ => rfl⟩
theorem Encodable.packetCopy a0 : Encodable.Statement (.packetCopy a0) := ⟨0, by decide, fun _ => rfl⟩
theorem Encodable.childDispatch a0 a1 : Encodable.Statement (.childDispatch a0 a1) := ⟨0, by decide, fun _ => rfl⟩
theorem Encodable.tokenTick : Encodable.Statement (.tokenTick) := ⟨0, by decide, fun _ => rfl⟩
theorem Encodable.openPkt a0 a1 a2 : Encodable.Statement (.openPkt a0 a1 a2) := ⟨0, by decide, fun _ => rfl⟩
theorem Encodable.opened a0 a1 a2 a3 a4 : Encodable.Statement (.opened a0 a1 a2 a3 a4) := ⟨0, by decide, fun _ => rfl⟩
theorem Encodable.req a0 : Encodable.Statement (.req a0) := ⟨0, by decide, fun _ => rfl⟩
theorem Encodable.homeCommit a0 a1 : Encodable.Statement (.homeCommit a0 a1) := ⟨0, by decide, fun _ => rfl⟩
theorem Encodable.reply a0 a1 a2 a3 a4 a5 : Encodable.Statement (.reply a0 a1 a2 a3 a4 a5) := ⟨0, by decide, fun _ => rfl⟩
theorem Encodable.ack a0 a1 a2 : Encodable.Statement (.ack a0 a1 a2) := ⟨0, by decide, fun _ => rfl⟩
theorem Encodable.acked a0 a1 a2 : Encodable.Statement (.acked a0 a1 a2) := ⟨0, by decide, fun _ => rfl⟩
theorem Encodable.close a0 a1 a2 : Encodable.Statement (.close a0 a1 a2) := ⟨0, by decide, fun _ => rfl⟩
theorem Encodable.closed a0 a1 : Encodable.Statement (.closed a0 a1) := ⟨0, by decide, fun _ => rfl⟩
theorem Encodable.closeAll a0 : Encodable.Statement (.closeAll a0) := ⟨0, by decide, fun _ => rfl⟩
theorem Encodable.ackTimer a0 : Encodable.Statement (.ackTimer a0) := ⟨0, by decide, fun _ => rfl⟩
theorem Encodable.retransmit a0 a1 : Encodable.Statement (.retransmit a0 a1) := ⟨0, by decide, fun _ => rfl⟩
theorem Encodable.rouRecovery : Encodable.Statement (.rouRecovery) := ⟨0, by decide, fun _ => rfl⟩
theorem Encodable.requesterHubReset : Encodable.Statement (.requesterHubReset) := ⟨0, by decide, fun _ => rfl⟩
theorem Encodable.remoteLoad a0 a1 a2 : Encodable.Statement (.remoteLoad a0 a1 a2) := ⟨0, by decide, fun _ => rfl⟩
theorem Encodable.fabPkgLost a0 : Encodable.Statement (.fabPkgLost a0) := ⟨0, by decide, fun _ => rfl⟩
theorem Encodable.fabAgeDrop a0 a1 : Encodable.Statement (.fabAgeDrop a0 a1) := ⟨0, by decide, fun _ => rfl⟩
theorem Encodable.fabPortDown a0 a1 : Encodable.Statement (.fabPortDown a0 a1) := ⟨0, by decide, fun _ => rfl⟩
theorem Encodable.fabPortUp a0 a1 : Encodable.Statement (.fabPortUp a0 a1) := ⟨0, by decide, fun _ => rfl⟩
theorem Encodable.copyPiece a0 a1 a2 : Encodable.Statement (.copyPiece a0 a1 a2) := ⟨0, by decide, fun _ => rfl⟩
theorem Encodable.allot a0 : Encodable.Statement (.allot a0) := ⟨0, by decide, fun _ => rfl⟩
theorem Encodable.reclaim a0 : Encodable.Statement (.reclaim a0) := ⟨0, by decide, fun _ => rfl⟩
theorem Encodable.isolate a0 : Encodable.Statement (.isolate a0) := ⟨0, by decide, fun _ => rfl⟩
theorem Encodable.rejoin a0 a1 : Encodable.Statement (.rejoin a0 a1) := ⟨0, by decide, fun _ => rfl⟩
theorem Encodable.loadimg a0 : Encodable.Statement (.loadimg a0) := ⟨0, by decide, fun _ => rfl⟩
theorem Encodable.unloadimg a0 : Encodable.Statement (.unloadimg a0) := ⟨0, by decide, fun _ => rfl⟩
theorem Encodable.resume a0 : Encodable.Statement (.resume a0) := ⟨0, by decide, fun _ => rfl⟩
theorem Encodable.kill a0 : Encodable.Statement (.kill a0) := ⟨0, by decide, fun _ => rfl⟩
theorem Encodable.pageResume a0 : Encodable.Statement (.pageResume a0) := ⟨0, by decide, fun _ => rfl⟩
theorem Encodable.pageDecline a0 : Encodable.Statement (.pageDecline a0) := ⟨0, by decide, fun _ => rfl⟩
theorem Encodable.enroll a0 : Encodable.Statement (.enroll a0) := ⟨0, by decide, fun _ => rfl⟩
theorem Encodable.disable a0 : Encodable.Statement (.disable a0) := ⟨0, by decide, fun _ => rfl⟩
theorem Encodable.extend a0 : Encodable.Statement (.extend a0) := ⟨0, by decide, fun _ => rfl⟩
theorem Encodable.modreg a0 : Encodable.Statement (.modreg a0) := ⟨0, by decide, fun _ => rfl⟩
theorem Encodable.modunreg a0 : Encodable.Statement (.modunreg a0) := ⟨0, by decide, fun _ => rfl⟩
theorem Encodable.chunkVerify a0 a1 a2 : Encodable.Statement (.chunkVerify a0 a1 a2) := ⟨0, by decide, fun _ => rfl⟩
theorem Encodable.loadimgTimeout a0 : Encodable.Statement (.loadimgTimeout a0) := ⟨0, by decide, fun _ => rfl⟩
theorem Encodable.shootdownUnmap : Encodable.Statement (.shootdownUnmap) := ⟨0, by decide, fun _ => rfl⟩
theorem Encodable.shootdownWrprotect : Encodable.Statement (.shootdownWrprotect) := ⟨0, by decide, fun _ => rfl⟩
theorem Encodable.shootdownInval : Encodable.Statement (.shootdownInval) := ⟨0, by decide, fun _ => rfl⟩
theorem Encodable.shootdownDone : Encodable.Statement (.shootdownDone) := ⟨0, by decide, fun _ => rfl⟩
theorem Encodable.migRingRptr a0 : Encodable.Statement (.migRingRptr a0) := ⟨0, by decide, fun _ => rfl⟩
theorem Encodable.migRingCtl a0 : Encodable.Statement (.migRingCtl a0) := ⟨0, by decide, fun _ => rfl⟩
theorem Encodable.migRingBase a0 : Encodable.Statement (.migRingBase a0) := ⟨0, by decide, fun _ => rfl⟩
theorem Encodable.trapRptr a0 : Encodable.Statement (.trapRptr a0) := ⟨0, by decide, fun _ => rfl⟩
theorem Encodable.galenaFlush a0 a1 : Encodable.Statement (.galenaFlush a0 a1) := ⟨0, by decide, fun _ => rfl⟩
theorem Encodable.galenaFlushDone a0 : Encodable.Statement (.galenaFlushDone a0) := ⟨0, by decide, fun _ => rfl⟩
theorem Encodable.registerWrite a0 a1 a2 a3 : Encodable.Statement (.registerWrite a0 a1 a2 a3) := ⟨0, by decide, fun _ => rfl⟩
theorem Encodable.hostReadShared a0 : Encodable.Statement (.hostReadShared a0) := ⟨0, by decide, fun _ => rfl⟩
theorem Encodable.hostReadExclusive a0 : Encodable.Statement (.hostReadExclusive a0) := ⟨0, by decide, fun _ => rfl⟩
theorem Encodable.hostWriteBack a0 a1 : Encodable.Statement (.hostWriteBack a0 a1) := ⟨0, by decide, fun _ => rfl⟩
theorem Encodable.hostSnoopAnswer a0 a1 : Encodable.Statement (.hostSnoopAnswer a0 a1) := ⟨0, by decide, fun _ => rfl⟩
theorem Encodable.slateRecallLost a0 : Encodable.Statement (.slateRecallLost a0) := ⟨0, by decide, fun _ => rfl⟩
theorem Encodable.slateTimeout a0 a1 : Encodable.Statement (.slateTimeout a0 a1) := ⟨0, by decide, fun _ => rfl⟩
theorem Encodable.linkUp a0 a1 a2 : Encodable.Statement (.linkUp a0 a1 a2) := ⟨0, by decide, fun _ => rfl⟩
theorem Encodable.linkWakeSlow a0 a1 : Encodable.Statement (.linkWakeSlow a0 a1) := ⟨0, by decide, fun _ => rfl⟩
theorem Encodable.stackLost a0 : Encodable.Statement (.stackLost a0) := ⟨0, by decide, fun _ => rfl⟩
theorem Encodable.moduleRetrain a0 a1 a2 : Encodable.Statement (.moduleRetrain a0 a1 a2) := ⟨0, by decide, fun _ => rfl⟩
theorem Encodable.coreFailure a0 : Encodable.Statement (.coreFailure a0) := ⟨0, by decide, fun _ => rfl⟩
theorem Encodable.coldReset a0 a1 : Encodable.Statement (.coldReset a0 a1) := ⟨0, by decide, fun _ => rfl⟩
theorem Encodable.warmReset a0 : Encodable.Statement (.warmReset a0) := ⟨0, by decide, fun _ => rfl⟩
theorem Encodable.getVersion : Encodable.Statement (.getVersion) := ⟨0, by decide, fun _ => rfl⟩
theorem Encodable.getCapabilities : Encodable.Statement (.getCapabilities) := ⟨0, by decide, fun _ => rfl⟩
theorem Encodable.negotiateAlgorithms a0 : Encodable.Statement (.negotiateAlgorithms a0) := ⟨0, by decide, fun _ => rfl⟩
theorem Encodable.getDigests : Encodable.Statement (.getDigests) := ⟨0, by decide, fun _ => rfl⟩
theorem Encodable.getCertificate a0 : Encodable.Statement (.getCertificate a0) := ⟨0, by decide, fun _ => rfl⟩
theorem Encodable.challenge a0 a1 : Encodable.Statement (.challenge a0 a1) := ⟨0, by decide, fun _ => rfl⟩
theorem Encodable.getMeasurements a0 : Encodable.Statement (.getMeasurements a0) := ⟨0, by decide, fun _ => rfl⟩
theorem Encodable.spdmUnsupported a0 : Encodable.Statement (.spdmUnsupported a0) := ⟨0, by decide, fun _ => rfl⟩
theorem Encodable.registerUncorrectableError a0 a1 : Encodable.Statement (.registerUncorrectableError a0 a1) := ⟨0, by decide, fun _ => rfl⟩
theorem Encodable.incomingRspStWrite a0 : Encodable.Statement (.incomingRspStWrite a0) := ⟨0, by decide, fun _ => rfl⟩
theorem Encodable.apertureStoreDelivered a0 a1 : Encodable.Statement (.apertureStoreDelivered a0 a1) := ⟨0, by decide, fun _ => rfl⟩
theorem Encodable.refreshStart a0 a1 : Encodable.Statement (.refreshStart a0 a1) := ⟨0, by decide, fun _ => rfl⟩

end Sys2Proof.Laws
end

