-- ==== Sys2Proof/Tests/Slice0.lean ====
section
/-! SUPPORT. Tests: words of the spec's own encoding tables, ill-formed terms, single steps, and a state for the hypotheses of every statement. -/

namespace Sys2Proof.Tests
open Sys2Proof Machine
set_option Elab.async false

/-! ### Decoding: words that the chapters write out bit by bit -/

/-- The words decode to the instruction, and it encodes to them. -/
def reads (e : Engine) (ws : List Nat) (i : Instr) : Bool :=
  match decode e ws with
  | .ok r => r.1 == i && r.2 == ws.length && encode e i == ws
  | .error _ => false

theorem decode_of_reads {e : Engine} {ws : List Nat} {i : Instr} (h : reads e ws i = true) : ∃ x, decode e ws = .ok x := by
  unfold reads at h
  split at h
  · exact ⟨_, ‹_›⟩
  · cases h

/-- The words are rejected for this reason. -/
def rejects (e : Engine) (ws : List Nat) (r : Reject) : Bool :=
  match decode e ws with
  | .ok _ => false
  | .error x => x == r

theorem test_decode_add : reads .seq [0x10408640] (.add (.reg 3) (.reg 1) (.reg 2) 2) = true := by decide +kernel
theorem test_decode_addi : reads .seq [0x02200AA8] (.addi (.reg 5) (.reg 0) 17) = true := by decide +kernel
theorem test_decode_movi : reads .seq [0x1482, 0, 0x1234] (.movi {} (.reg 5) 0x1234) = true := by decide +kernel
theorem test_decode_nop : reads .mtx [0] .nop = true := by decide +kernel
theorem test_decode_nop_post : reads .seq [0x1D, 0x24000000] (.nopL64 { post := some 4 }) = true := by decide +kernel
theorem test_decode_halt : reads .vec [0x8] .halt = true := by decide +kernel
theorem test_decode_chk : reads .seq [0x30018] (.chk (.reg 6)) = true := by decide +kernel
theorem test_decode_semw : reads .seq [0x00A0002C] (.semw 5) = true := by decide +kernel
theorem test_decode_semw_wait : reads .seq [0x15, 0x880A00] (.semwL64 { wait := some 2 } 5) = true := by decide +kernel
theorem test_decode_fork : reads .seq [0x80112, 0x4000, 0x01000001] (.fork {} 1 0 1 1 1) = true := by decide +kernel
theorem test_decode_exit : reads .seq [0x11D, 0] (.exit {} 0) = true := by decide +kernel
theorem test_decode_lds : reads .seq [0x82502, 0x600, 8] (.lds {} 3 false false 0 9 1 8) = true := by decide +kernel
theorem test_decode_sts_rel : reads .seq [0x480106, 0x4607, 8] (.sts {} 3 true 0 9 7 8) = true := by decide +kernel
theorem test_decode_cba : reads .seq [0x292D, 0x10600] (.cba {} 10 3 8) = true := by decide +kernel
theorem test_decode_cbw : reads .seq [0x502D31, 0x600] (.cbw {} 11 10 3) = true := by decide +kernel
theorem test_decode_cq_put : reads .seq [0x200141, 0xD000] (.cqPut {} 0 4 (some 6)) = true := by decide +kernel
theorem test_decode_cq_fence : reads .seq [0x149, 0x600] (.cqFence {} 1 1 none) = true := by decide +kernel
theorem test_decode_vst : reads .mem [0x61D0E, 0x1A00, 0] (.vst {} false .spm 0 .lane (.reg 0) 0) = true := by decide +kernel
theorem test_decode_vld : reads .mem [0x10A, 0x11A00, 0] (.vld {} false .spm 0 (.lq 0) (.reg 0) 0) = true := by decide +kernel
theorem test_decode_ld_s : reads .mem [0x18152A, 0x600, 0] (.ldS {} 3 false .global 0 (.reg 5) (.reg 3) 0) = true := by decide +kernel
theorem test_decode_fence_sc : reads .mem [0x135, 0x8000] (.fenceSc {}) = true := by decide +kernel
theorem test_decode_cwb : reads .mem [0x18013D, 4] (.cwb {} (.reg 3) (.reg 4)) = true := by decide +kernel
theorem test_decode_row_act : reads .mem [0x80141, 5] (.rowAct {} (.reg 1) (.reg 5)) = true := by decide +kernel
theorem test_decode_row_stat : reads .mem [0x1955, 0x200] (.rowStat {} (.reg 6) 1) = true := by decide +kernel
theorem test_decode_row_con_2 : reads .mem [0x180949, 0x404] (.rowCon2 {} 2 (.reg 3) (.reg 4) 2) = true := by decide +kernel
theorem test_decode_amo_add : reads .mem [0x181581, 0x6604] (.amoAdd {} 3 .ar 0 (.reg 5) (.reg 3) (.reg 4)) = true := by decide +kernel
theorem test_decode_red_add : reads .mem [0x3001C1, 0x604] (.redAdd {} 3 .rlx 0 (.reg 6) (.reg 4)) = true := by decide +kernel
theorem test_decode_vamo_fadd : reads .mem [0x182229, 0x586] (.vamoFadd {} .f32 .rlx 0 8 (.reg 3) .zero) = true := by decide +kernel
theorem test_decode_vdiv : reads .vec [0x80D35, 0x22001802] (.vdiv { post := some 2 } .f32 (.reg 3) (.reg 1) (.reg 2)) = true := by decide +kernel
theorem test_decode_vadd : reads .vec [0x0C061101, 0x987] (.vadd {} .i32 (.sq 0) (.lq 0) .lane) = true := by decide +kernel
theorem test_decode_vcmp : reads .vec [0x2021A1, 0x986] (.vcmp {} .eq .i32 8 (.reg 4) .zero) = true := by decide +kernel
theorem test_decode_vsel : reads .vec [0x1001A5, 0x10803] (.vsel {} .i32 (.reg 0) (.reg 2) (.reg 3) 8) = true := by decide +kernel
theorem test_decode_vxswp : reads .vec [0x5C5, 0x801] (.vxswp {} .i32 (.reg 1) (.reg 0) 1) = true := by decide +kernel
theorem test_decode_tset : reads .mtx [0x800501, 0] (.tset {} false 1 .qs) = true := by decide +kernel
theorem test_decode_mma : reads .mtx [0x141, 0x21000001] (.mma { post := some 1 } false 0 0 1) = true := by decide +kernel

/-- R73: a length of 3, an opcode without a meaning in the engine, a non-zero unused field, and words beyond the line. -/
theorem test_decode_rejects :
    (rejects .seq [3] .length && rejects .mtx [0x10408640] .opcode && rejects .seq [0x30018 + 512] .field && rejects .seq [0x1482, 0] .length &&
     rejects .seq [0x1D + 1, 0, 0] .opcode) = true := by decide +kernel

/-! ### Well-formedness: an ill-formed term for each check -/

def refusesAll (l : List (Engine × Instr)) : Bool := l.all fun p => !wellFormed p.1 p.2

theorem test_wf_scalar_operands : refusesAll
    [(.seq, .add (.reg 64) (.reg 0) (.reg 0) 0), (.seq, .add (.reg 0) (.reg 64) (.reg 0) 0), (.mem, .add (.reg 32) (.reg 0) (.reg 0) 0),
     (.seq, .mov .qr (.reg 0)), (.seq, .mov (.reg 0) .qs), (.mtx, .mov (.reg 1) (.reg 1)), (.vec, .moviHi {} 0 0), (.vec, .moviHi {} 32 0),
     (.mtx, .chk (.reg 16)), (.seq, .add (.reg 0) (.reg 0) (.reg 0) 32), (.seq, .shlImm (.reg 1) (.reg 1) 64)] = true := by decide +kernel

theorem test_wf_common : refusesAll
    [(.seq, .trap 1024), (.seq, .bkpt 1024), (.mem, .rdcr (.reg 1) 8), (.seq, .rdcr (.reg 1) 17), (.seq, .wrcr 3 (.reg 1)), (.seq, .semw 32),
     (.seq, .semp 32), (.seq, .br {} 0 1), (.seq, .br {} 16 1), (.seq, .br {} 1 (2 ^ 24)), (.mem, .br { idx := 1 } 1 1), (.seq, .br { idx := 8 } 1 1),
     (.seq, .br { neg := true } 1 1), (.seq, .nopL64 { wait := some 32 }), (.seq, .nopL64 { post := some 32 }), (.mtx, .nopL64 { pred := { idx := 1 } }),
     (.seq, .ext {} false (.reg 1) (.reg 1) 60 5), (.seq, .ext {} false (.reg 1) (.reg 1) 0 0), (.seq, .ins {} 1 (.reg 1) 64 1)] = true := by
  decide +kernel

theorem test_wf_sequencer : refusesAll
    [(.mem, .lds {} 3 false false 0 1 1 0), (.seq, .lds {} 4 false false 0 1 1 0), (.seq, .lds {} 3 false false 4 1 1 0), (.seq, .qpush {} 3 1),
     (.seq, .fork {} 0 0 1 1 1), (.seq, .fork {} 4 0 1 1 1), (.seq, .fork {} 1 32 1 1 1), (.seq, .rdid {} 1 10), (.seq, .cba {} 1 16 1),
     (.seq, .cba {} 1 0 9), (.seq, .cba {} 1 0 0), (.seq, .cqPut {} 2 1 none), (.seq, .cqPut {} 0 1 (some 32)), (.seq, .cqFence {} 0 0 none),
     (.seq, .cqFence {} 0 4 none)] = true := by decide +kernel

theorem test_wf_memory : refusesAll
    [(.seq, .lda {} 3 false false .spm 0 (.reg 1) (.reg 1) 0), (.mem, .lda {} 3 false true .spm 0 (.reg 1) (.reg 1) 0),
     (.mem, .vld {} false .spm 0 (.reg 384) (.reg 1) 0), (.mem, .vld {} false .spm 0 (.lq 4) (.reg 1) 0), (.mem, .vst {} false .spm 0 (.sq 2) (.reg 1) 0),
     (.mem, .vgath {} 1 false .spm 0 (.reg 0) (.reg 1) (.reg 1)), (.mem, .vgath {} 2 false .spm 0 (.reg 0) (.reg 1) (.reg 128)),
     (.mem, .tld {} false .spm 0 16 (.reg 1) (.reg 1)), (.mem, .rowCon {} 0 (.reg 1) 32), (.mem, .rowCon2 {} 0 (.reg 1) (.reg 1) 31),
     (.mem, .rowStat {} (.reg 1) 4), (.mem, .amoAdd {} 1 .rlx 0 (.reg 1) (.reg 1) (.reg 1)), (.mem, .acas128 {} .rlx 0 3 (.reg 1) 2),
     (.mem, .redAdd {} 3 .acq 0 (.reg 1) (.reg 1)), (.mem, .vamoAdd {} 3 .rlx 0 384 (.reg 1) .zero)] = true := by decide +kernel

theorem test_wf_vector_and_matrix : refusesAll
    [(.mem, .vadd {} .i32 (.reg 0) (.reg 0) (.reg 0)), (.vec, .vadd {} .e4m3 (.reg 0) (.reg 0) (.reg 0)), (.vec, .vadd {} .i32 (.reg 0) (.reg 128) (.reg 0)),
     (.vec, .vadd {} .i32 (.sq 2) (.reg 0) (.reg 0)), (.vec, .vadd {} .i32 (.reg 0) (.lq 4) (.reg 0)), (.vec, .vdiv {} .i32 (.reg 0) (.reg 0) (.reg 0)),
     (.vec, .vabs {} .u8 (.reg 0) (.reg 0)), (.vec, .vcvt {} .e2m1 .e2m1 0 (.reg 0) (.reg 0)), (.vec, .vcvt {} .f32 .i8 4 (.reg 0) (.reg 0)),
     (.vec, .vmov {} .e2m1 (.reg 0) (.reg 0)), (.vec, .vcmp {} .eq .i32 0 (.reg 0) (.reg 0)), (.vec, .kand {} 1 16 1),
     (.vec, .kand { pred := { idx := 1 } } 1 1 1), (.vec, .vshuf {} true .i16 (.reg 0) (.reg 0) (.reg 0)), (.vec, .vxswp {} .i32 (.reg 0) (.reg 0) 128),
     (.vec, .vxswp {} .i32 (.reg 0) (.reg 0) 0), (.vec, .vbperm {} (.reg 0) (.reg 0) 8), (.vec, .vbpload {} 0 (.reg 0) 4), (.mtx, .mma {} false 3 0 0),
     (.mtx, .mma {} false 0 16 0), (.mtx, .mmaSp {} false 4 0 0 0), (.vec, .mfence {})] = true := by decide +kernel

/-! ### Reset and single steps -/

/-- A team on core 0 whose engine e stands at slot 1 of a line of zero words. -/
def base (e : Engine) : State := placeWords State.reset e []

/-- The same with a changed core. -/
def withCore (e : Engine) (f : CoreSt → CoreSt) : State := withCs (base e) (f (focusCs (base e)))

/-- A register of core 0 after one step of reset with these bits placed. -/
def afterStep (e : Engine) (n nbits w : Nat) : Word :=
  match step (State.reset.withFetchWord nbits w) with
  | .next t => (readReg (getStream t 0 e) e n).val
  | _ => 0

theorem test_reset_memory : memOk State.reset = true := by decide +kernel

/-- MOVI s5, 0x1234 is the first instruction after reset. -/
theorem test_step_movi : afterStep .seq 5 96 (0x1482 + 0x1234 * 2 ^ 64) = 0x1234 := by decide +kernel

/-- MOVI sign-extends its literal (R143). -/
theorem test_step_movi_negative : afterStep .seq 5 96 (0x1482 + 0x80000000 * 2 ^ 64) = 0xFFFFFFFF80000000 := by decide +kernel

/-- ADDI s5, s0, 17. -/
theorem test_step_addi : afterStep .seq 5 32 0x02200AA8 = 17 := by decide +kernel

/-- What exec leaves in a register of the engine in focus. -/
def regAfter (i : Instr) (s : State) (n : Nat) : Word :=
  match exec i s with
  | .next t => (readReg (focusSt t) s.focusEng n).val
  | _ => 0

def withRegs (e : Engine) (x y : Word) : State :=
  withCore e fun cs => setReg (setReg cs e 1 { val := x }) e 2 { val := y }

theorem test_add_shift : regAfter (.add (.reg 3) (.reg 1) (.reg 2) 2) (withRegs .seq 5 (2 ^ 62 + 1)) 3 = 9 := by decide +kernel
theorem test_div_by_zero : regAfter (.div (.reg 3) (.reg 1) (.reg 2)) (withRegs .seq 5 0) 3 = BitVec.allOnes 64 := by decide +kernel
theorem test_zero_register : regAfter (.mov (.reg 0) (.reg 1)) (withRegs .seq 5 0) 0 = 0 := by decide +kernel
theorem test_mtx_register_zero : (readReg (writeReg {} .mtx 0 { val := 7 }) .mtx 0).val = 7 := by decide +kernel

/-- exec answers a next state. -/
def completes (i : Instr) (s : State) : Bool :=
  match exec i s with
  | .next _ => true
  | _ => false

/-- A fault of the stream in focus after exec. -/
def trapAfter (i : Instr) (s : State) : Option Trap :=
  match exec i s with
  | .next t => (focusSt t).fault.map (·.trap)
  | _ => none

theorem test_ret_empty : trapAfter .ret (base .vec) = some .rstackEmpty := by decide +kernel
theorem test_misaligned : trapAfter (.lda {} 3 false false .spm 0 (.reg 1) (.reg 1) 4) (base .mem) = some .misaligned := by decide +kernel
theorem test_spm_edge : trapAfter (.lda {} 3 false false .spm 0 (.reg 1) (.reg 1) 0x200000) (base .mem) = some .spmRange := by decide +kernel
theorem test_spm_last : trapAfter (.lda {} 3 false false .spm 0 (.reg 1) (.reg 1) 0x1FFFF8) (base .mem) = none := by decide +kernel
theorem test_idle_engine : exec .nop State.reset = .fault .noStream := by rfl

/-! ### States that meet the hypotheses of the statements -/

theorem witness_IntegerRegisterResults : Issues (.add (.reg 3) (.reg 1) (.reg 2) 31) (base .seq) (base .seq) false ∧
    SrcsReady (base .seq) [.reg 1, .reg 2] (.reg 3) [{}, {}] (focusCs (base .seq)) := by
  unfold Issues SrcsReady; decide +kernel

/-- The same where the result goes to QR. -/
theorem witness_to_queue : Issues (.mov .qr (.reg 31)) (base .mem) (base .mem) false ∧
    SrcsReady (base .mem) [.reg 31] .qr [{}] (focusCs (base .mem)) := by
  unfold Issues SrcsReady; decide +kernel

theorem witness_IntegerImmediateResults : Issues (.rotrImm (.reg 63) (.reg 63) 63) (base .seq) (base .seq) false ∧
    SrcsReady (base .seq) [.reg 63] (.reg 63) [{}] (focusCs (base .seq)) := by
  unfold Issues SrcsReady; decide +kernel

theorem witness_SelResult : Issues (.sel {} (.reg 1) (.reg 2) (.reg 3) (.reg 4)) (base .vec) (base .vec) false ∧
    SrcsReady (base .vec) [.reg 2, .reg 3, .reg 4] (.reg 1) [{}, {}, {}] (focusCs (base .vec)) := by
  unfold Issues SrcsReady; decide +kernel

/-- Register 1 holds v. -/
def holding (e : Engine) (v : Word) : State := withCore e fun cs => setReg cs e 1 { val := v }

theorem witness_ControlFlowResults : Issues (.brReg (.reg 1)) (holding .seq 0x0F000002) (holding .seq 0x0F000002) false ∧
    UseReady (holding .seq 0x0F000002) (.reg 1) 0x0F000002 (focusCs (holding .seq 0x0F000002)) ∧ readTarget 0x0F000002 = some (.pos 2 15) := by
  unfold Issues UseReady; decide +kernel

theorem witness_loop_largest : Issues (.loopReg {} (.reg 1)) (holding .seq 0xFFFFFFFF) (holding .seq 0xFFFFFFFF) false ∧
    UseReady (holding .seq 0xFFFFFFFF) (.reg 1) 0xFFFFFFFF (focusCs (holding .seq 0xFFFFFFFF)) ∧
    (focusSt (holding .seq 0xFFFFFFFF)).loop.setWidth 32 = 0#32 := by
  unfold Issues UseReady; decide +kernel

/-- A core whose loop register holds a count. -/
def looping (n : Word) : State := withCore .seq fun cs => { cs with seq := { cs.seq with loop := n } }

theorem witness_endl_last : Issues .endl (looping 1) (looping 1) false ∧ (focusSt (looping 1)).loop.setWidth 32 = 1#32 := by
  unfold Issues; decide +kernel
theorem witness_endl_again : Issues .endl (looping 0x0100000100000002) (looping 0x0100000100000002) false ∧
    2#32 ≤ (focusSt (looping 0x0100000100000002)).loop.setWidth 32 ∧
    readTarget ((focusSt (looping 0x0100000100000002)).loop >>> 32) = some (.pos 1 1) := by
  unfold Issues; decide +kernel

theorem witness_ControlFlowFaults : Issues (.callReg (.reg 1)) (holding .seq 0) (holding .seq 0) false ∧
    UseReady (holding .seq 0) (.reg 1) 0 (focusCs (holding .seq 0)) ∧ readTarget 0 = none := by
  unfold Issues UseReady; decide +kernel
theorem witness_endl_malformed : Issues .endl (looping 2) (looping 2) false ∧ 2#32 ≤ (focusSt (looping 2)).loop.setWidth 32 ∧
    readTarget ((focusSt (looping 2)).loop >>> 32) = none := by
  unfold Issues; decide +kernel
theorem witness_rstack_full :
    let s := withCore .seq fun cs => { cs with seq := { cs.seq with rstack := List.replicate 16 .fin } }
    Issues (.call {} 1 1) s s false ∧ 16 ≤ (focusSt s).rstack.length := by
  unfold Issues; decide +kernel
theorem witness_loop_state : Issues (.loopImm {} 1) (looping 1) (looping 1) false ∧ (focusSt (looping 1)).loop.setWidth 32 ≠ 0#32 := by
  unfold Issues; decide +kernel

theorem witness_CommonRegisterAndSyncResults :
    Issues (.rdcr (.reg 1) 0) (base .seq) (base .seq) false ∧ crBusy (focusCs (base .seq)) .seq 0 = false ∧
    SrcsReady (base .seq) [] (.reg 1) [] (focusCs (base .seq)) := by
  unfold Issues SrcsReady; decide +kernel

/-- Semaphore n holds a count. -/
def counting (n k : Nat) : State := withCore .seq fun cs => setSem cs n { count := k }

theorem witness_semw : Issues (.semw 31) (counting 31 1) (counting 31 1) false ∧ 0 < (getSem (focusCs (counting 31 1)) 31).count := by
  unfold Issues; decide +kernel
theorem witness_semp : Issues (.semp 0) (counting 0 65534) (counting 0 65534) false ∧ settledBefore (counting 0 65534) (focusCs (counting 0 65534)) .seq 0 = true ∧
    countBefore 0 (focusCs (counting 0 65534)) 0 < 65535 := by
  unfold Issues; decide +kernel

theorem witness_semp_full : Issues (.semp 0) (counting 0 65535) (counting 0 65535) false ∧
    settledBefore (counting 0 65535) (focusCs (counting 0 65535)) .seq (focusCs (counting 0 65535)).nextId = true ∧
    65535 ≤ countBefore 0 (focusCs (counting 0 65535)) 0 ∧ (postAt 0 (focusCs (counting 0 65535)) (engRank .seq) 0).2 = some (engRank .seq) := by
  unfold Issues; decide +kernel
/-- Another engine has posted to the full semaphore in this cycle, and comes later in the order of R286. -/
theorem witness_semp_full_other :
    let s := withCore .seq fun cs => { setSem cs 0 { count := 65535 } with semLog := { cycle := 0, posts := [(0, engRank .mtx)] } }
    Issues (.semp 0) s s false ∧ settledBefore s (focusCs s) .seq (focusCs s).nextId = true ∧ 65535 ≤ countBefore 0 (focusCs s) 0 ∧
    (postAt 0 (focusCs s) (engRank .seq) 0).2 = some (engRank .mtx) := by
  unfold Issues; decide +kernel
theorem witness_semp_waits :
    let s := withCore .vec fun cs => { cs with flights := [{ id := 0, eng := .vec, retireAt := some 3, pc := .pos 0 1 }], nextId := 1 }
    Issues (.semp 31) s s false ∧ settledBefore s (focusCs s) .vec (focusCs s).nextId = false := by
  unfold Issues; decide +kernel

/-- The sync field's wait takes a count: the state after it is another one. -/
theorem witness_wait_taken :
    Issues (.nopL64 { wait := some 3 }) (counting 3 1) (withCs (counting 3 1) (grantWait 0 (focusCs (counting 3 1)) 3)) true := by
  unfold Issues; decide +kernel

theorem witness_RetResult :
    let s := withCore .mtx fun cs => { cs with mtx := { cs.mtx with rstack := [.pos 3 15] } }
    Issues .ret s s false ∧ (focusSt s).rstack = .pos 3 15 :: [] := by
  unfold Issues; decide +kernel
theorem witness_ret_empty : Issues .ret (base .mtx) (base .mtx) false ∧ (focusSt (base .mtx)).rstack = [] := by
  unfold Issues; decide +kernel

theorem witness_HaltResult : Issues .halt (base .seq) (base .seq) false ∧ (base .seq).focusEng = .seq ∧ (focusCs (base .seq)).mem.active = false ∧
    (focusCs (base .seq)).vec.active = false ∧ (focusCs (base .seq)).mtx.active = false := by
  unfold Issues; decide +kernel
theorem witness_halt_elsewhere : Issues .halt (base .vec) (base .vec) false ∧ (base .vec).focusEng ≠ .seq := by
  unfold Issues; decide +kernel
theorem witness_halt_end :
    let s := withCore .seq fun cs => { cs with seq := { cs.seq with pc := .fin } }
    s.focusEng = .seq ∧ runnable s s.focusCore .seq = true ∧ mustWait s (focusCs s) .seq = false ∧ (focusCs s).seq.pc = .fin := by
  decide +kernel

/-! Vector operands. -/

/-- Operands in three registers of cluster 2, at the reset element width of 8 bits. -/
def vops : VOps := laneOps { pred := { idx := 7, neg := true } } .i8 3 (.reg 383) [.reg 256, .reg 257]

theorem ready_vector : VecReady vops (base .vec) [] [{}, {}] (focusCs (base .vec)) :=
  ⟨by decide +kernel, by decide +kernel, by decide +kernel, ⟨focusCs (base .vec), by decide +kernel, by decide +kernel⟩, by decide +kernel, by decide +kernel⟩

theorem witness_VectorArithmeticResults :
    Issues (.vadd { pred := { idx := 7, neg := true } } .i8 (.reg 383) (.reg 256) (.reg 257)) (base .vec) (base .vec) false ∧
    VecReady vops (base .vec) [] [{}, {}] (focusCs (base .vec)) :=
  ⟨by unfold Issues; decide +kernel, ready_vector⟩

theorem witness_VectorLogicResults :
    Issues (.vand { pred := { idx := 7, neg := true } } .i8 (.reg 383) (.reg 256) (.reg 257)) (base .vec) (base .vec) false ∧
    VecReady vops (base .vec) [] [{}, {}] (focusCs (base .vec)) :=
  ⟨by unfold Issues; decide +kernel, ready_vector⟩

theorem witness_VectorConversionResults :
    let o : VOps := { sd := some (.reg 1), vs := [.zero], ss := [.reg 31], w := 64, lat := 3, chk := [none] }
    Issues (.vextr {} .u64 (.reg 1) .zero (.reg 31)) (base .vec) (base .vec) false ∧
    VecReady o (base .vec) [{}] [{}] (focusCs (base .vec)) ∧ ((vecIn (focusCs (base .vec)) o [{}] [{}]).sc 0).tag = none :=
  ⟨by unfold Issues; decide +kernel,
   ⟨by decide +kernel, by decide +kernel, by decide +kernel, ⟨focusCs (base .vec), by decide +kernel, by decide +kernel⟩, by decide +kernel,
    by decide +kernel⟩, by decide +kernel⟩

theorem witness_VectorMaskResults :
    let o : VOps := { vd := some (.reg 0), vs := [.zero, .lane], ms := [15], chk := [some 0, none, none], w := 8, lat := 2 }
    Issues (.vsel {} .u8 (.reg 0) .zero .lane 15) (base .vec) (base .vec) false ∧
    VecReady o (base .vec) [] [{}, laneVec 8] (focusCs (base .vec)) ∧
    ((vecIn (focusCs (base .vec)) o [{}, laneVec 8] []).km 0).tag = none :=
  ⟨by unfold Issues; decide +kernel,
   ⟨by decide +kernel, by decide +kernel, by decide +kernel, ⟨focusCs (base .vec), by decide +kernel, by decide +kernel⟩, by decide +kernel,
    by decide +kernel⟩, by decide +kernel⟩

theorem witness_MaskLogicResults :
    Issues (.kand {} 15 0 14) (base .vec) (base .vec) false ∧
    VecReady { md := some 15, ms := [0, 14], lat := 1 } (base .vec) [] [] (focusCs (base .vec)) :=
  ⟨by unfold Issues; decide +kernel,
   ⟨by decide +kernel, by decide +kernel, by decide +kernel, ⟨focusCs (base .vec), by decide +kernel, by decide +kernel⟩, by decide +kernel,
    by decide +kernel⟩⟩

theorem witness_VbcastResult :
    Issues (.vbcast {} .u8 (.sq 1) (.reg 31)) (base .vec) (base .vec) false ∧
    VecReady { vd := some (.sq 1), ss := [.reg 31], chk := [none], w := 8, lat := 2 } (base .vec) [{}] [] (focusCs (base .vec)) :=
  ⟨by unfold Issues; decide +kernel,
   ⟨by decide +kernel, by decide +kernel, by decide +kernel, ⟨focusCs (base .vec), by decide +kernel, by decide +kernel⟩, by decide +kernel,
    by decide +kernel⟩⟩

theorem witness_VectorLaneMovementResults :
    let o : VOps := { bpd := some 7, vs := [.reg 383], lat := 2 }
    Issues (.vbpload {} 7 (.reg 383) 3) (base .vec) (base .vec) false ∧
    VecReady o (base .vec) [] [{}] (focusCs (base .vec)) ∧ tagsFrom ((vecIn (focusCs (base .vec)) o [{}] []).src 0) 48 16 = none :=
  ⟨by unfold Issues; decide +kernel,
   ⟨by decide +kernel, by decide +kernel, by decide +kernel, ⟨focusCs (base .vec), by decide +kernel, by decide +kernel⟩, by decide +kernel,
    by decide +kernel⟩, by decide +kernel⟩

theorem witness_IntegerLanes : ElemType.isInt .u64 = true := by decide

/-! Tiles. -/

theorem witness_TileResults : Issues (.tset {} false 15 (.reg 15)) (base .mtx) (base .mtx) false ∧ (base .mtx).focusEng = .mtx ∧
    UseReady (base .mtx) (.reg 15) 0 (focusCs (base .mtx)) ∧ tileBusy (focusCs (base .mtx)) (tileClaims [] [15] none) = false ∧
    validTile (tileValue 0) 15 = true := by
  unfold Issues UseReady; decide +kernel

theorem witness_tset_fault : Issues (.tset {} true 2 (.reg 1)) (holding .mtx 0xE0) (holding .mtx 0xE0) false ∧
    UseReady (holding .mtx 0xE0) (.reg 1) 0xE0 (focusCs (holding .mtx 0xE0)) ∧ clusterBusy (focusCs (holding .mtx 0xE0)) 2 = false ∧
    validAcc (accValue 0xE0) = false := by
  unfold Issues UseReady; decide +kernel
/-- Tiles of 16 rows of 16 bytes, the second of type E8M0, and an accumulator of type E2M1. -/
def odd : State := withCore .mtx fun cs => { cs with tcT := [(0, 0x8110), (1, 0xF8110)], tcAcc := [(0, 0xF0)] }
theorem witness_conversion_faults : Issues (.tcvt {} 0 1) odd odd false ∧ Issues (.tacc {} 1 0) odd odd false ∧ Issues (.atile {} 0 1) odd odd false ∧
    Issues (.ttr {} 2 0) odd odd false ∧ ttrShape 2 0 (focusCs odd) = some .tileShape ∧ tcvtCheck 0 2 (focusCs odd) = some .tileShape := by
  unfold Issues; decide +kernel
theorem witness_pair_fault : Issues (.mmaP {} false 0 0 1) (base .mtx) (base .mtx) false ∧ pairRole (base .mtx) = false := by
  unfold Issues; decide +kernel

theorem witness_TileClearResults : Issues (.azero {} 2) (base .mtx) (base .mtx) false ∧ TilesFree (base .mtx) (tileClaims [] [] (some 2)) (some 2) :=
  ⟨by unfold Issues; decide +kernel, by decide +kernel, by intro n h; cases h; decide +kernel⟩

/-! Memory operands. -/

def ldsOp : MemOp := { srcs := [.reg 9], sd := some (.reg 1) }
def ldsReq : MemReq := { store := false, es := [⟨8, 8, 0⟩], dst := .scalar .seq (.reg 1) 3 false false, align := 8 }

theorem witness_LoadResults : Issues (.lds {} 3 false false 0 9 1 8) (base .seq) (base .seq) false ∧
    MemReady ldsOp (base .seq) (memIn (focusCs (base .seq)) ldsOp [{}] {}) (focusCs (base .seq)) ldsReq ∧ misaligned ldsReq = none ∧
    accessStalls (base .seq) (focusCs (base .seq)) .seq false (piecesOf ldsReq.es) = false ∧
    rfailTrap (base .seq) (reserved (base .seq) ldsOp (focusCs (base .seq))) false (piecesOf ldsReq.es) = none :=
  ⟨by unfold Issues; decide +kernel,
   ⟨⟨focusCs (base .seq), [{}], {}, by decide +kernel, by decide +kernel, rfl⟩, by decide +kernel, by decide +kernel, by decide +kernel, by decide +kernel⟩,
   by decide +kernel, by decide +kernel, by decide +kernel⟩

def staOp : MemOp := { srcs := [.reg 1, .reg 2], space := .spm, lat := 2 }
def staReq : MemReq := { store := true, es := [⟨0x1FFFF8, 8, 0⟩], data := 0, align := 8 }

/-- The last eight bytes of the scratchpad. -/
theorem witness_StoreResults : Issues (.sta {} 3 false .spm 0 (.reg 1) (.reg 2) 0x1FFFF8) (base .mem) (base .mem) false ∧
    MemReady staOp (base .mem) (memIn (focusCs (base .mem)) staOp [{}, {}] {}) (focusCs (base .mem)) staReq ∧
    baseAddr (memIn (focusCs (base .mem)) staOp [{}, {}] {}) (0x1FFFF8 : BitVec 32).toInt = 0x1FFFF8 ∧
    misaligned staReq = none ∧ outOfSpm staReq = none :=
  ⟨by unfold Issues; decide +kernel,
   ⟨⟨focusCs (base .mem), [{}, {}], {}, by decide +kernel, by decide +kernel, rfl⟩, by decide +kernel, by decide +kernel, by decide +kernel, by decide +kernel⟩,
   by decide +kernel, by decide +kernel, by decide +kernel⟩

/-- One byte further it does not fit, and a byte off the alignment it is misaligned. -/
theorem witness_AccessFaultChecks : outOfSpm { staReq with es := [⟨0x200000, 8, 0⟩] } = some 0x200000 ∧
    misaligned { staReq with es := [⟨0x200000, 8, 0⟩] } = none ∧ misaligned { staReq with es := [⟨0x1FFFF9, 8, 0⟩] } = some 0x1FFFF9 := by
  decide +kernel

theorem witness_StoresFrame : Issues (.sta {} 3 false .spm 0 (.reg 1) (.reg 2) 0x1FFFF8) (base .mem) (base .mem) false ∧
    completes (.sta {} 3 false .spm 0 (.reg 1) (.reg 2) 0x1FFFF8) (base .mem) = true := by
  unfold Issues; decide +kernel

theorem witness_OtherAccessResults : Issues (.fenceRel {}) (base .mem) (base .mem) false ∧ (focusCs (base .mem)).rfail = none := by
  unfold Issues; decide +kernel

/-- A range that ends at the top of the address space. -/
theorem witness_range :
    let s := withCore .mem fun cs => setReg (setReg cs .mem 1 { val := 0xFFFFFFFFFFFFFF80 }) .mem 2 { val := 128 }
    Issues (.acqr {} (.reg 1) (.reg 2)) s s false ∧ RangeReady s (.reg 1) (.reg 2) 0xFFFFFFFFFFFFFF80 128 (focusCs s) := by
  unfold Issues RangeReady; decide +kernel

/-- The operands of an atomic instruction on address 0. -/
theorem ready_atomic (o : AtomOp) (x : AtomIn) (gs : List AtomGroup) (h : o = amoOp 0x60 3 0 .rlx 0 (.reg 5) (.reg 1) (.reg 2) ∨
    o = redOp 0x70 3 0 .rlx 0 (.reg 1) (.reg 2)) (hx : x = atomIn (focusCs (base .mem)) o [{}, {}]) (hg : gs = [{ va := 0, opnd := [0] }]) :
    AtomReady o (base .mem) x (focusCs (base .mem)) gs := by
  subst hx hg
  rcases h with rfl | rfl
  · refine ⟨⟨[{}, {}], by decide +kernel, rfl⟩, by decide +kernel, by decide +kernel, by decide +kernel, by decide +kernel, by decide +kernel,
      by decide +kernel, by decide +kernel, fun g hg => ?_, fun h => by cases h⟩
    rw [List.mem_singleton.1 hg]; decide +kernel
  · refine ⟨⟨[{}, {}], by decide +kernel, rfl⟩, by decide +kernel, by decide +kernel, by decide +kernel, by decide +kernel, by decide +kernel,
      by decide +kernel, by decide +kernel, fun g hg => ?_, fun h => by cases h⟩
    rw [List.mem_singleton.1 hg]; decide +kernel

theorem witness_AtomicResults : Issues (.amoAdd {} 3 .rlx 0 (.reg 5) (.reg 1) (.reg 2)) (base .mem) (base .mem) false ∧
    ∃ x, AtomReady (amoOp 0x60 3 0 .rlx 0 (.reg 5) (.reg 1) (.reg 2)) (base .mem) x (focusCs (base .mem)) [{ va := 0, opnd := [0] }] :=
  ⟨by unfold Issues; decide +kernel, _, ready_atomic _ _ _ (.inl rfl) rfl rfl⟩

theorem witness_ReductionAtomicResults : Issues (.redAdd {} 3 .rlx 0 (.reg 1) (.reg 2)) (base .mem) (base .mem) false ∧
    ∃ x, AtomReady (redOp 0x70 3 0 .rlx 0 (.reg 1) (.reg 2)) (base .mem) x (focusCs (base .mem)) [{ va := 0, opnd := [0] }] :=
  ⟨by unfold Issues; decide +kernel, _, ready_atomic _ _ _ (.inr rfl) rfl rfl⟩

/-! Poison. -/

/-- Register 1 carries a tag. -/
def tagged1 (e : Engine) : State := withCore e fun cs => setReg cs e 1 { val := 0, tag := some .ownerLost }

theorem witness_PoisonedUseFaults : Issues (.chk (.reg 1)) (tagged1 .seq) (tagged1 .seq) false ∧
    hazard (tagged1 .seq) (focusCs (tagged1 .seq)) .seq (claimsOf (srcRes .seq (.reg 1)) []) 1 = false ∧
    takeSrcs (focusCs (tagged1 .seq)) .seq [.reg 1] = some ([{ val := 0, tag := some .ownerLost }], focusCs (tagged1 .seq)) := by
  unfold Issues; decide +kernel

/-- A tagged index of VINS, and a tagged mask that selects the lanes of VMOV. -/
theorem witness_tagged_lanes :
    let s := withCore .vec fun cs => setReg { cs with masks := [(15, { bits := 1, tag := some .memory })] } .vec 2 { val := 0, tag := some .ownerLost }
    Issues (.vins {} .u8 383 (.reg 1) (.reg 2)) s s false ∧ Issues (.vmov { pred := { idx := 7 } } .u8 (.reg 383) .zero) s s false ∧
    takeSrcs (focusCs s) .vec [.reg 1, .reg 2] = some ([{}, { val := 0, tag := some .ownerLost }], focusCs s) ∧
    (readMask (focusCs s) 15).tag = some .memory ∧ (vectorDst (.vmov {} .u8 (.reg 383) .zero)).isSome = true := by
  unfold Issues; decide +kernel
theorem witness_tagged_uses : Issues (.wrcr 0 (.reg 1)) (tagged1 .seq) (tagged1 .seq) false ∧ crBusy (focusCs (tagged1 .seq)) .seq 0 = false ∧
    Issues (.lds {} 3 false false 0 1 2 0) (tagged1 .seq) (tagged1 .seq) false ∧ Issues (.sts {} 3 false 0 2 1 0) (tagged1 .seq) (tagged1 .seq) false ∧
    Issues (.sta {} 3 false .spm 0 (.reg 2) (.reg 1) 0) (tagged1 .mem) (tagged1 .mem) false ∧
    Issues (.vld {} false .spm 0 (.reg 5) (.reg 1) 0) (tagged1 .mem) (tagged1 .mem) false ∧
    takeSrcs (focusCs (tagged1 .seq)) .seq [.reg 2, .reg 1] = some ([{}, { val := 0, tag := some .ownerLost }], focusCs (tagged1 .seq)) := by
  unfold Issues; decide +kernel

/-! Machine. -/

/-- A schedule that goes past a cycle with no CBW that waits only moves the time. -/
theorem witness_pass : cbwComplete 0 (base .seq) = none ∧ (pass 7 (base .seq)).time = 7 ∧ atEmpty (base .seq) = false := by decide +kernel

theorem witness_IssueRules :
    let s := withCore .mem fun cs => { cs with preds := 0 }
    isEvent (.vadd {} .i8 (.reg 0) (.reg 0) (.reg 0)) = false ∧ runnable s s.focusCore s.focusEng = true ∧ mustWait s (focusCs s) s.focusEng = false ∧
    wellFormed s.focusEng (.vadd {} .i8 (.reg 0) (.reg 0) (.reg 0)) = false := by decide +kernel
theorem witness_predicate_false :
    let s := base .seq
    let i : Instr := .movi { pred := { idx := 7 } } (.reg 1) 5
    runnable s s.focusCore s.focusEng = true ∧ mustWait s (focusCs s) s.focusEng = false ∧ wellFormed .seq i = true ∧
    takeWait s s.focusCore s.focusEng (instrCtl i).wait = some (s, false) ∧ predTrue (focusCs s) .seq (instrCtl i).pred = false := by
  decide +kernel

theorem witness_StepRunsDecoded :
    let s := State.reset.withFetchWord 32 0x02200AA8
    runnable s 0 .seq = true ∧ mustWait s (getCore s 0) .seq = false ∧ (getStream s 0 .seq).pc = .pos 0 1 ∧
    (∃ l, mget ((getCore s 0).imem .seq) 0 = some l ∧ linkFill (lineWord l 0) ≠ 0 ∧
      (match decode .seq (wordsFrom l 1) with | .ok x => x.1 == .addi (.reg 5) (.reg 0) 17 | .error _ => false) = true) ∧
    s.schedule = [] ∧ dueEvent s = none ∧ stopDue s = none ∧ s.focusCore = 0 ∧ s.focusEng = .seq ∧
    yields s 0 .seq (.addi (.reg 5) (.reg 0) 17) = false := by
  refine ⟨by decide +kernel, by decide +kernel, by decide +kernel, ⟨lineOf .seq [0x02200AA8, 0, 0], by decide +kernel, by decide +kernel,
    by decide +kernel⟩, by decide +kernel, by decide +kernel, by decide +kernel, by decide +kernel, by decide +kernel, by decide +kernel⟩

theorem witness_scheduled_event : isEvent .tokenTick = true ∧ ({ State.reset with schedule := [⟨7, .event .tokenTick⟩] } : State).schedule =
    ⟨7, .event .tokenTick⟩ :: [] := by decide +kernel

theorem witness_StepKeepsMemoryCanonical : memOk (base .seq) = true ∧ answersNext (base .seq) = true := by decide +kernel

theorem witness_DecodeOfEncode : isEvent (.ins {} 63 (.reg 63) 63 1) = false ∧ wellFormed .seq (.ins {} 63 (.reg 63) 63 1) = true := by decide +kernel
theorem witness_EncodeOfDecode : ∃ x, decode .seq [0x02200AA8] = .ok x := decode_of_reads test_decode_addi
theorem witness_OpcodeLengths : 0x180949 % 4 = 1 ∧ 0x18094A % 4 = 2 ∧ 0x18094A / 4 % 256 = 0x180949 / 4 % 256 ∧
    0x1482 % 4 = 2 ∧ 0x1481 % 4 = 1 ∧ 0x1481 / 4 % 256 = 0x1482 / 4 % 256 ∧
    (∃ x, decode .mem [0x180949, 0x404] = .ok x) ∧ (∃ x, decode .seq [0x1482, 0, 0x1234] = .ok x) :=
  ⟨by decide, by decide, by decide, by decide, by decide, by decide,
    decode_of_reads (i := .rowCon2 {} 2 (.reg 3) (.reg 4) 2) (by decide +kernel), decode_of_reads test_decode_movi⟩
theorem witness_CompareConditions : Engine.vec ≠ .mtx ∧ okDst .vec .qr = true ∧ okSrc .vec .qs = true := by decide

theorem witness_TrapEntry : (getCore (base .seq) 0).run = .running := by decide +kernel

theorem witness_ScalarFrame : scalarDst (.movi {} (.reg 5) 1) = some (some (.reg 5)) ∧
    completes (.movi {} (.reg 5) 1) (base .seq) = true := by decide +kernel
theorem witness_VectorFrame : vectorDst (.vmov {} .u8 (.reg 383) .zero) = some { vd := some (.reg 383) } ∧
    completes (.vmov {} .u8 (.reg 383) .zero) (base .vec) = true := by decide +kernel

/-! Matrix multiplication: two tiles of 16 rows of 16 INT8 elements, and an INT32 accumulator. -/

def tiled : State := withCore .mtx fun cs => { cs with tcT := [(0, 0x8110), (1, 0x8110)], tcAcc := [(0, 0x42)] }

theorem witness_MatrixMultiplyResults :
    let h := halfOf (focusCs tiled) 0 0 0 1
    Issues (.mma {} true 0 0 1) tiled tiled false ∧ TilesFree tiled (tileClaims ((h.leadTiles ++ h.ownTiles).map (·.1)) [] (some 0)) (some 0) ∧
    mmaCheck [h] true = none ∧ gapWait tiled (focusCs tiled) 0 = none :=
  ⟨by unfold Issues; decide +kernel, ⟨by decide +kernel, by intro n h; cases h; decide +kernel⟩, by decide +kernel, by decide +kernel⟩

/-- Tiles that are not configured fault. -/
theorem witness_mma_fault : mmaCheck [halfOf (focusCs (base .mtx)) 0 0 0 1] false = some { trap := .tileShape } := by decide +kernel

theorem witness_VectorAtomicResults : Issues (.vamoAdd {} 3 .rlx 0 383 (.reg 1) .lane) (base .mem) (base .mem) false ∧
    (let o := vamoOp 0x80 3 0 .rlx 0 383 (.reg 1) .lane
     takeSrcs (focusCs (base .mem)) .mem o.srcs = some ([{}], focusCs (base .mem)) ∧
     hazard (base .mem) (focusCs (base .mem)) .mem (claimsOf o.reads o.writes) 1 = false) := by
  unfold Issues; decide +kernel

/-! Rows. -/

/-- Bank 127 of core 0 is in row mode for the team's launch. -/
def rowed : State :=
  let s := withCore .mem fun cs => setReg (setReg cs .mem 1 { val := 127 }) .mem 2 { val := 8191 }
  { s with hub := { s.hub with rows := [(15, 1)] } }

theorem witness_RowResults : Issues (.rowAct {} (.reg 1) (.reg 2)) rowed rowed false ∧ (focusCs rowed).mem.pending = none ∧
    hazard rowed (focusCs rowed) .mem (claimsOf (srcRes .mem (.reg 1) ++ srcRes .mem (.reg 2)) []) 1 = false ∧
    takeSrcs (focusCs rowed) .mem [.reg 1, .reg 2] = some ([{ val := 127 }, { val := 8191 }], focusCs rowed) ∧
    rowRangeCheck rowed (focusCs rowed) [{ val := 127 }, { val := 8191 }] [127] 8191 = none ∧
    bankCheck (coreCycle rowed) (getBank (focusCs rowed) 127) .act = none ∧ recentActs (focusCs rowed) (coreCycle rowed) < rowed.hub.window ∧
    (getBank (focusCs rowed) 127).refreshDue = none ∧ (getBank (focusCs rowed) 127).refreshEnd = none := by
  unfold Issues; decide +kernel

/-- A ROW.ACT that waits for a refresh keeps its bank and row, and a tag that its operand takes meanwhile is not checked again (R230). -/
theorem witness_row_waits :
    let s := setCore rowed 0 (setBank (focusCs rowed) 127 { getBank (focusCs rowed) 127 with refreshEnd := some 500 })
    let p : Option Pending := some { act := some (127, 8191) }
    (match exec (.rowAct {} (.reg 1) (.reg 2)) s with
      | .next t => decide ((focusCs t).mem.pending = p)
      | _ => false) = true ∧
    (let cs := { focusCs rowed with mem := { (focusCs rowed).mem with pending := p } }
     let s := setCore rowed 0 (setReg cs .mem 1 { val := 127, tag := some .memory })
     Issues (.rowAct {} (.reg 1) (.reg 2)) s s false ∧ takeSrcs (focusCs s) .mem [.reg 1, .reg 2] = some ([{ val := 127, tag := some .memory }, { val := 8191 }], focusCs s) ∧
      (match exec (.rowAct {} (.reg 1) (.reg 2)) s with
      | .next t => decide ((focusSt t).fault = none) && isOpen (getBank (focusCs t) 127)
      | _ => false) = true) := by
  unfold Issues; decide +kernel

/-- An open bank in the first and the last cycle in which its row can be read, and in the cycles beside them. -/
theorem witness_bank_edges :
    let b : Bank := openBank {} 7 100 50
    bankCheck 113 b .con = some .rowEarly ∧ bankCheck 114 b .con = none ∧ bankCheck 163 b .put = none ∧ bankCheck 164 b .con = some .rowLapsed ∧
    bankCheck 127 b .pre = some .rowEarly ∧ bankCheck 128 b .pre = none ∧ bankCheck 0 b .act = some .rowBusy := by decide +kernel

/-! The sequencer's instructions. -/

theorem witness_TeamInstructionResults : Issues (.fork {} 3 31 63 15 (2 ^ 24 - 1)) (base .seq) (base .seq) false ∧
    hazard (base .seq) (focusCs (base .seq)) .seq (claimsOf [.sreg .seq 63] []) 1 = false ∧
    ((focusCs (base .seq)).stream (engOfCode 3)).active = false ∧ roomSq (focusCs (base .seq)) (qsName (engOfCode 3)) = true ∧ roomSq (focusCs (base .seq)) (qsOfCode 2) = true ∧
    freedNow (base .seq) (focusCs (base .seq)) (qsOfCode 2) = false := by
  unfold Issues; decide +kernel

theorem witness_fork_active :
    let s := withCore .seq fun cs => { cs with vec := { cs.vec with active := true } }
    Issues (.fork {} 2 0 1 1 1) s s false ∧ ((focusCs s).stream (engOfCode 2)).active = true := by
  unfold Issues; decide +kernel

theorem witness_qpop :
    let s := withCore .seq fun cs => { cs with qr := [{ val := some { val := 9 }, flight := 4 }] }
    Issues (.qpop {} 1) s s false ∧ hazard s (focusCs s) .seq (claimsOf [] [.sreg .seq 1]) 1 = false ∧
    (focusCs s).qr = { val := some { val := 9 }, flight := 4 } :: [] := by
  unfold Issues; decide +kernel

theorem witness_SynchronisationResults : Issues (.gbar {} 1) (base .seq) (base .seq) false ∧
    hazard (base .seq) (focusCs (base .seq)) .seq (claimsOf [] [.sreg .seq 1]) 1 = false ∧ (focusCs (base .seq)).seq.arrived = false ∧
    seqReleased (base .seq) 0 = true ∧ (focusCs (base .seq)).occ = some ⟨1, 0, 0, 0⟩ ∧ (getGang (base .seq) 1 0).isSome = true := by
  unfold Issues; decide +kernel

/-! Events. -/

theorem witness_MemoryEventResults :
    let s : State := { State.reset with time := 10 ^ 12 }
    s.hub.migEnd + s.hub.migInterval.toNat * usec ≤ s.time := by decide +kernel
theorem witness_retire :
    let s := withCore .vec fun cs => { cs with flights := [{ id := 0, eng := .vec, retireAt := some 0, pc := .pos 0 1 }] }
    (dueFlight (postsTo 0 { s with time := 2 } 0) 0 .vec).isSome = true ∧ dueFlight (postsTo 0 { s with time := 1 } 0) 0 .vec = none := by decide +kernel

def oneLine (st : LineSt) : LlcLine := { key := ⟨0, 0⟩, pa := 0, r := true, w := true, x := true, data := 0, st := st }

theorem witness_RegistryEventResults :
    let s : State := { State.reset with hub := { State.reset.hub with llc := [oneLine (.hsi .hostShared)] } }
    getLine s ⟨0, 0⟩ = some (oneLine (.hsi .hostShared)) := by decide +kernel

/-- A store and a load of core 0 have cleared, and wait at the home of line 0 with an entry of theirs. -/
def requesting : State :=
  let p : Piece := { va := 8, n := 8, off := 0, route := .cached, st := .idle, ent := true }
  let a : Access := { id := 0, eng := .mem, store := true, flight := 0, asid := 0, cleared := true, pieces := [p] }
  let s := withCore .mem fun cs => { cs with accesses := [a, { a with id := 1, eng := .seq, store := false }] }
  { s with hub := { s.hub with llc := [oneLine .stable] } }
theorem witness_core_requests : (pieceAt requesting 0 0 0).isSome = true ∧ (pieceAt requesting 0 1 0).isSome = true ∧
    mseGrant (focusCs requesting) (0, lineBase 8) = true ∧ keyOf requesting 0 8 = ⟨0, 0⟩ ∧ wbPending (focusCs requesting) ⟨0, 0⟩ = false ∧
    (∀ x, pieceAt requesting 0 0 0 = some x → ownsPiece (focusCs requesting) ⟨0, 0⟩ x.2 = false) ∧
    (submitReq requesting ⟨0, 0⟩ (.store 0 0 0 true)).isSome = true ∧ (submitReq requesting ⟨0, 0⟩ (.read 0 1 0 0)).isSome = true := by
  refine ⟨by decide +kernel, by decide +kernel, by decide +kernel, by decide +kernel, by decide +kernel, ?_, by decide +kernel, by decide +kernel⟩
  intro x h; cases h; decide +kernel

/-- The sequencer or another engine waits. -/
def waiting (e : Engine) (k : WaitKind) : State := withCore e fun cs => cs.setStream e { cs.stream e with waiting := some { kind := k } }
/-- R437: a CBW waits, and its phase has completed in cycle 4: it retires in cycle 5, though the schedule goes on at cycle 10. -/
theorem test_cbw_first_cycle :
    let cb : CBar := { phase := true, doneAt := 4 }
    let s := waiting .seq (.cbw 1 0 false false)
    let s := { s with time := 8, disp := { s.disp with launches := s.disp.launches.map fun p => (p.1, { p.2 with gangs := p.2.gangs.map fun g => { g with cbs := [(0, cb)] } }) } }
    (focusSt (pass 2 s)).waiting.isSome = true ∧ (focusSt (pass 12 s)).waiting = none ∧ (focusSt (pass 12 s)).nextIssue = 6 := by decide +kernel

theorem witness_WaitCompletionResults : waitOf (waiting .mem .fenceAcq) 0 .mem = some .fenceAcq ∧
    loadsDone (getCore (waiting .mem .fenceAcq) 0) .mem = true := by decide +kernel
theorem witness_mwait_timeout :
    let s := withCs (waiting .seq (.mwait 5)) { focusCs (waiting .seq (.mwait 5)) with deadline := some 0 }
    waitOf s 0 .seq = some (.mwait 5) ∧ (getCore s 0).deadline = some 0 ∧ 0 ≤ s.time ∧ (getCore s 0).watch = none ∧
    loadsDone (getCore s 0) .seq = true := by decide +kernel

theorem witness_RowAndErrorEventResults : (stackUnit State.reset 7).hot = false ∧ isZeroReg .mtx 0 = false ∧ isZeroReg .vec 0 = true := by
  decide +kernel
theorem witness_refresh_start :
    let s := withCore .mem fun cs => setBank cs 127 { refreshDue := some 12, tClose := some 0 }
    let t : State := { s with time := 24 }
    (getBank (getCore t 0) 127).refreshDue = some 12 ∧ isOpen (getBank (getCore t 0) 127) = false ∧
    (getBank (getCore t 0) 127).refreshEnd = none ∧ max 12 (0 + 12) ≤ coreCycle t := by decide +kernel

theorem witness_TeamEventResults : let s := withCore .seq fun cs => { cs with restartAt := some 0 }
    (getCore s 0).restartAt = some 0 ∧ 0 ≤ coreCycle s := by decide +kernel
theorem witness_drain_limit : let s : State := { withCore .seq fun cs => { cs with run := .draining 0 } with time := 8192 }
    (getCore s 0).run = .draining 0 ∧ 0 + 4096 = coreCycle s ∧ (getCore s 0).event = false := by decide +kernel
theorem witness_exit : exitReady (waiting .seq (.exit 3)) 0 ⟨1, 0, 0, 0⟩ = some 3 := by decide +kernel

theorem witness_SchedulerEventResults : State.reset.disp.quartzStopped = false ∧ placementOrder (endDrains State.reset) = [] ∧
    7 ∉ State.reset.disp.workersDown := by decide +kernel
theorem witness_DispatchEventResults : ({ getQ State.reset 63 with wptr := 2 } : DispQ).fill = 2 ∧
    2 ^ ({ getQ State.reset 63 with wptr := 2 } : DispQ).logSize < 2 ∧ ({ getQ State.reset 63 with wptr := 1 } : DispQ).fill ≤ 1 := by decide +kernel

def slotOpen : State := { State.reset with
  rou := { State.reset.rou with slots := [(4, { st := .isOpen, owner := 3, handle := 9, floor := 1, floorAt := some 0 })] }, time := 10 ^ 9 }

theorem witness_RequesterEventResults : (getSlot slotOpen 4).st = .isOpen ∧ (getSlot slotOpen 4).floorAt = some 0 ∧
    0 + 20 * usec ≤ slotOpen.time := by decide +kernel
/-- A package of a domain with package 3, and one whose ROU recovers. -/
def joined : State := { State.reset with fw := { State.reset.fw with inDomain := true, domain := [0, 3] } }
def recovers : State := { joined with rou := { joined.rou with recovering := some 0 } }

theorem witness_OwnerEventResults : (∃ t, fromFabric joined 3 (.openPkt 0 4 77) = some t ∧ t.rou.recovering = none ∧
    t.rou.streams = [] ∧ t.rou.nextHandle ≤ maxHandle) ∧ (∃ t, fromFabric recovers 3 (.openPkt 0 4 77) = some t ∧ t.rou.recovering.isSome = true) :=
  ⟨⟨_, rfl, by decide +kernel, by decide +kernel, by decide +kernel⟩, _, rfl, by decide +kernel⟩

/-- Slot 11 of the mailbox asks for an action, and a field of its request. -/
def asking (action off n v : Nat) : State :=
  let s := putSlot (putSlot State.reset 11 0 1 action) 11 off n v
  copySlot { s with fw := { s.fw with mbxBusy := [11] } } 11

theorem witness_MailboxEventResults : slotTurn (asking 18 2 2 0) 11 18 = true ∧ pageWaits (asking 18 2 2 0) (pageRange (asking 18 2 2 0) 11) = false := by
  decide +kernel
theorem witness_kill : slotTurn (asking 17 4 4 1) 11 17 = true ∧ fieldOf (asking 17 4 4 1) 11 .launch = 1 ∧
    launchHeld (asking 17 4 4 1) 1 = false := by decide +kernel
theorem witness_extend : slotTurn (asking 26 0x2F 1 15) 11 26 = true ∧ fieldOf (asking 26 0x2F 1 15) 11 .mr = 15 ∧
    fwRange (asking 26 0x2F 1 15) 0 48 = true ∧ lastEnabled State.reset 0 = true ∧ lastEnabled State.reset 1 = false := by decide +kernel
theorem witness_ImageAndUnitEventResults : slotTurn (asking 8 12 1 9) 11 8 = true ∧ fieldOf (asking 8 12 1 9) 11 .unit = 9 ∧
    unitState (asking 8 12 1 9) 9 = .inService ∧ 1 < liveGalenas (asking 8 12 1 9) ∧ stackOpsOpen State.reset 7 = false := by decide +kernel
/-- The last byte of a context area, as the host reaches it; and the byte after it. -/
theorem witness_host_area :
    let s : State := { State.reset with fw := { State.reset.fw with linkUp := true, areas := [(⟨1, 0, 0, 0⟩, 0)] } }
    ioAllowed s .host = true ∧ hostArea s .host 0x363FFF = some (⟨1, 0, 0, 0⟩, 0) ∧ hostArea s .host 0x364000 = none ∧
    hostArea s (.dma 0) 0 = none ∧ inBar2 s .host 0x363FFF 1 = true ∧ isDram (paKind s 0) = false := by decide +kernel
/-- A chunk of a shard is being loaded. -/
def loading : State :=
  let h : Shard := { module := 0, image := 0, idx := 17, pkg := 0, core := 102, bgmask := 12, src := 0, len := 64, dst := 0, digests := [0], st := .loading }
  { State.reset with fw := { State.reset.fw with shards := [h], loads := [{ slot := 0, module := 0, image := 0, hosttab := 0, nblk := 1, deadline := 1 }] } }
theorem witness_chunk : (loadingChunk loading 0 17 0).isSome = true ∧ loadingChunk { loading with time := 1 } 0 17 0 = none ∧
    loading.fw.shards.map (·.copied) = [false] := by decide +kernel
theorem witness_chunk_copied : ((loadingChunk (onShards loading fun h => { h with copied := true }) 0 17 0).map (·.1.copied)) = some true := by decide +kernel
/-- The host has not answered for a chunk since cycle 0. -/
def asked (up : Bool) (t : Nat) : State :=
  { loading with time := t, fw := { loading.fw with linkUp := up }, hub := { loading.hub with hostAsks := [{ va := 0, n := 0, firstAt := 0, sentAt := 0, who := 6, idx := 17 }] } }
theorem witness_host_ask : ((hostTry (asked true 0) 6 17 0 false).toOption.map (·.2)) = some true ∧
    ((hostTry (asked false (50 * msec)) 6 17 0 false).toOption.map (·.2)) = some false ∧
    ((hostTry (asked false 0) 6 17 0 false).toOption.map (·.2)) = none := by decide +kernel
theorem witness_PackageEventResults : State.reset.hub.shootDone = true ∧ State.reset.hub.llc = [] ∧
    State.reset.hub.migRingCtl.getLsbD 8 = false := by decide +kernel
theorem witness_trap_rptr : 1024 < (State.reset.fw.trapWptr - (BitVec.ofNat 32 1 : BitVec 32)).toNat ∧
    (State.reset.fw.trapWptr - (BitVec.ofNat 32 0 : BitVec 32)).toNat ≤ 1024 := by decide +kernel
theorem witness_BootAndAttestationResults :
    let s : State := { State.reset with fw := { State.reset.fw with released := [1, 2], boot := .recovery } }
    1 ∈ s.fw.released ∧ 2 ∈ s.fw.released ∧ obsidianUp s = true ∧ s.fw.spdmSig = none := by decide +kernel

theorem witness_spare :
    let s := setStack State.reset 7 { stackUnit State.reset 7 with spares := 1 }
    stackLive s (383 / 48) = true ∧ (stackUnit s 7).spares ≠ 0 ∧ (getCore s 383).occ = none ∧ (stackUnit State.reset 7).spares = 0 ∧
    (getCore State.reset 383).inService = true := by decide +kernel
/-- A running package whose firewall lets the host and Quartz into the dispatch, mailbox, translation and Galena blocks. -/
def running : State := { State.reset with fw := { State.reset.fw with
  boot := .running, released := [1, 2, 3], pmp := [(1, [(0x300000000000, 0x30000FFFFFFF)])]
  policy := ([0, 1].flatMap fun r => [1, 2, 3, 20, 21].map fun b => (32 * r + b, (true, true))) } }

theorem witness_register_write : requesterUp running .quartz = true ∧ pmpAllows running .quartz 0x100000 = true ∧
    writeAllowed running .quartz 0x100000 0 = true ∧ writeAllowed running .host 0xB000000 1 = true ∧ writeAllowed running .host 0x1000000 0 = false ∧
    requesterUp running .worker = false ∧ pmpAllows running .worker 0 = false ∧ upperReserved 0x200000 = true ∧ upperReserved 0x300060 = false := by
  decide +kernel
theorem witness_host_write : (∀ q ∈ [0, 63], writeAllowed running .host (0x101010 + 0x40 * q) 0 = true ∧ writeAllowed running .host (0x101008 + 0x40 * q) 0 = true) ∧
    (∀ off ∈ [0x300020, 0x300060, 0x300068, 0x300078, 0x280008], writeAllowed running .host off 1 = true ∧ writeAllowed State.reset .host off 1 = false) := by
  decide +kernel
/-- R3, R425: a write of the reserved half of the doorbell is ignored; a write of firmware does not follow the host's of one hub cycle. -/
theorem test_upper_doorbell : registerWrite .host 0x200004 false 1 running = some running := by rfl
theorem test_host_last :
    let s := registerPut .host 0x101000 false 0x40 running
    (registerWrite .quartz 0x101000 true 0x500000080 s).isNone = true ∧
      ((registerWrite .quartz 0x101000 true 0x500000080 running).map fun t => (getQ t 0).qbase) = some 0x500000080 := by decide +kernel
theorem witness_packet_write :
    let s : State := { State.reset with fw := { State.reset.fw with released := [8], pmp := [(4, [(0, 127)])] } }
    requesterUp s .packetCore = true ∧ pmpCovers s .packetCore 0 128 = true ∧ pmpCovers s .packetCore 1 128 = false := by decide +kernel
/-- A line that has waited 2 ms for core 383. -/
def late : State :=
  let l : LlcLine := { key := ⟨0, 0⟩, pa := 0, r := true, w := true, x := true, data := 0, st := .rvk [383] 1 .hostExclusive }
  { State.reset with time := 2 * msec, hub := { State.reset.hub with llc := [l] } }
theorem witness_late : stackLate late 7 = true ∧ stackLate late 0 = false ∧ unitState late 7 = .inService := by decide +kernel

/-- A core with one load of another package's memory, not answered; and a record of its team. -/
def fetching : State :=
  let a : Access := { id := 0, eng := .mem, store := false, flight := 0, asid := 0, pieces := [{ va := 8, n := 8, off := 0, route := .remote 3, st := .sent }] }
  let s := withCore .mem fun cs => { cs with accesses := [a] }
  { s with time := 10 ^ 9, fw := { s.fw with linkUp := true, records := [makeRecord s 0 ⟨1, 0, 0, 0⟩ 2 none] } }

theorem witness_EnvironmentResults : requesterUp State.reset .host = true ∧ pmpAllows State.reset .host 0x100008 = true ∧ readAllowed State.reset .host 0x100008 = false ∧ readAllowed State.reset .host 0x1100000 = true ∧
    0x1100000 % 8 = 0 ∧ 0x1100004 % 8 ≠ 0 ∧ stackLive State.reset 7 = true ∧ 383 < 384 ∧ 8 * 262143 < spmSize ∧ paCore 0 = some 0 ∧
    coreInService State.reset 0 = true ∧ joined.fw.inDomain = true ∧ 3 ∈ joined.fw.domain := by decide +kernel
theorem witness_record_write : (findRecord fetching ⟨1, 0, 0, 0⟩).isSome = true ∧ fetching.fw.linkUp = true ∧ 0x363FF8 + [0, 0, 0, 0, 0, 0, 0, 0].length ≤ 0x364000 := by
  decide +kernel
theorem witness_load_again : ∃ a p, pieceAt fetching 0 0 0 = some (a, p) ∧ p.route = .remote 3 ∧ a.store = false ∧ a.ops = [] ∧ p.st ≠ .done ∧
    p.sentAt + backoff p.tries ≤ fetching.time := ⟨_, _, rfl, by decide +kernel⟩

end Sys2Proof.Tests
end

section
/-! SUPPORT. What the requests of a line's queue leave as it was in the ROU: they write entries of the ROU and its journal, and none of them
ends or begins its recovery (R318). -/

namespace Sys2Proof.Machine

/-- What every step of a fold keeps, the fold keeps. -/
theorem foldl_keeps {β γ : Type} {f : State → β → State} (g : State → γ) (h : ∀ s x, g (f s x) = g s) (l : List β) :
    ∀ s, g (l.foldl f s) = g s := by
  induction l with
  | nil => exact fun _ => rfl
  | cons x t ih => exact fun s => (ih _).trans (h s x)

/-! ### Lines, messages and watches -/

@[simp] theorem putLine_rou (s : State) (l : LlcLine) : (putLine s l).rou = s.rou := by
  unfold putLine; split <;> rfl

@[simp] theorem storeLine_rou (s : State) (pa : Nat) (d : LineData) (p : BitVec 128) : (storeLine s pa d p).rou = s.rou := rfl

@[simp] theorem sendMsg_rou (s : State) (c : Nat) (m : CoreMsg) : (sendMsg s c m).rou = s.rou := rfl

@[simp] theorem wakeWatches_rou (s : State) (k : LineKey) (m : BitVec 128) : (wakeWatches s k m).rou = s.rou := rfl

@[simp] theorem writeLine_rou (s : State) (l : LlcLine) (d : LineData) (bad m : BitVec 128) : (writeLine s l d bad m).rou = s.rou := by
  simp [writeLine]

@[simp] theorem tlbAdd_rou (s : State) (asid va : Nat) (x : Xlate) : (tlbAdd s asid va x).rou = s.rou := by
  unfold tlbAdd; split <;> rfl

@[simp] theorem enter_rou (s : State) (l : LlcLine) (st : LineSt) : (enter s l st).rou = s.rou := putLine_rou ..

@[simp] theorem askOwners_rou (s : State) (l : LlcLine) (os : List OwnSlot) (ws : BitVec 32) (f : LineKey → BitVec 32 → CoreMsg) :
    (askOwners s l os ws f).rou = s.rou := by
  unfold askOwners
  exact foldl_keeps State.rou (fun _ _ => sendMsg_rou ..) os s

@[simp] theorem answerRead_rou (s : State) (l : LlcLine) (c acc part hint : Nat) : (answerRead s l c acc part hint).rou = s.rou := by
  unfold answerRead; split <;> rfl

@[simp] theorem keepRead_rou (s : State) (l : LlcLine) (m : BitVec 128) (ag : IoAgent) : (keepRead s l m ag).rou = s.rou := by
  unfold keepRead
  split
  · dsimp only; split <;> rfl
  · rfl

/-! ### The posts of a copy queue -/

@[simp] theorem dropMma_rou (s : State) (c : Nat) : (dropMma s c).rou = s.rou := by
  unfold dropMma abandonMma
  dsimp only
  split
  · split
    · rfl
    · split
      · rfl
      · split <;> rfl
  · rfl

@[simp] theorem withdrawTile_rou (s : State) (c : Nat) : (withdrawTile s c).rou = s.rou := by
  unfold withdrawTile
  dsimp only
  split
  · rfl
  · split <;> rfl

@[simp] theorem teamEvent_rou (s : State) (c : Nat) (e : Engine) (t : Trap) : (teamEvent s c e t).rou = s.rou := by
  unfold teamEvent
  dsimp only
  split <;> simp

@[simp] theorem cqOverflow_rou (s : State) (c q sq : Nat) : (cqOverflow s c q sq).rou = s.rou := by
  unfold cqOverflow
  dsimp only
  split
  · simp
  · split <;> simp

@[simp] theorem semOverflow_rou (s : State) (c : Nat) (e : Engine) : (semOverflow s c e).rou = s.rou := (sameBare_semOverflow s c e).2.1

@[simp] theorem postsTo_rou (t : Nat) (s : State) (c : Nat) : (postsTo t s c).rou = s.rou := (sameBare_postsTo t s c).2.1

@[simp] theorem postCq_rou (s : State) (c q sq n : Nat) : (postCq s c q sq n).rou = s.rou := by
  unfold postCq
  dsimp only
  split
  · simp
  · split
    · simp
    · split <;> simp

@[simp] theorem completeHead_rou (s : State) (c q : Nat) : (completeHead s c q).rou = s.rou := by
  unfold completeHead
  split
  · rfl
  · split
    · rfl
    · dsimp only; split <;> simp

@[simp] theorem pieceDone_rou (s : State) (c q sq i : Nat) : (pieceDone s c q sq i).rou = s.rou := by
  unfold pieceDone
  dsimp only
  split
  · split <;> simp
  · rfl

@[simp] theorem copyAck_rou (s : State) (c q sq i k : Nat) : (copyAck s c q sq i k).rou = s.rou := by
  unfold copyAck
  split
  · rfl
  · dsimp only
    split <;> (split <;> simp)

/-! ### The home atomic unit and the journal -/

@[simp] theorem journalPut_rou (s : State) (off : Nat) (bs : List Byte) : (journalPut s off bs).rou = s.rou := by
  unfold journalPut
  split
  · rfl
  · dsimp only
    split
    · rfl
    · exact foldl_keeps State.rou (fun _ _ => setMark_rou ..) _ _

@[simp] theorem journalEntry_rou (s : State) (e : OwnEnt) : (journalEntry s e).rou = s.rou := by
  simp [journalEntry]

@[simp] theorem putEnt_recovering (s : State) (e : OwnEnt) : (putEnt s e).rou.recovering = s.rou.recovering := rfl

@[simp] theorem putStaged_recovering (s : State) (e : OwnEnt) : (putStaged s e).rou.recovering = s.rou.recovering := by
  simp [putStaged]

@[simp] theorem stageFault_recovering (s : State) (e : OwnEnt) (t : Trap) : (stageFault s e t).rou.recovering = s.rou.recovering :=
  putStaged_recovering ..

@[simp] theorem atHost_recovering (s : State) (e : OwnEnt) (pa : Nat) : (atHost s e pa).rou.recovering = s.rou.recovering := rfl

@[simp] theorem stageHome_recovering (s : State) (l : LlcLine) (h sr : Nat) : (stageHome s l h sr).rou.recovering = s.rou.recovering := by
  unfold stageHome
  split
  · simp
  · split <;> simp

/-! ### The requests of a line -/

@[simp] theorem performReq_recovering (s : State) (l : LlcLine) (req : LineReq) : (performReq s l req).rou.recovering = s.rou.recovering := by
  cases req with
  | store c acc part own =>
    simp only [performReq]
    split
    · simp
    · split <;> simp
  | ioWrite ag sq i m d bad => cases ag <;> simp [performReq]
  | _ => simp [performReq]

@[simp] theorem startReq_recovering (s : State) (l : LlcLine) (req : LineReq) : (startReq s l req).rou.recovering = s.rou.recovering := by
  unfold startReq
  dsimp only
  repeat' split
  all_goals simp

@[simp] theorem drainLine_recovering (k : Nat) : ∀ (s : State) (key : LineKey), (drainLine k s key).rou.recovering = s.rou.recovering := by
  induction k with
  | zero => exact fun _ _ => rfl
  | succ k ih =>
    intro s key
    simp only [drainLine]
    split
    · rfl
    · split
      · rfl
      · split
        · rfl
        · simp [ih]

@[simp] theorem settleTemp_rou (s : State) (key : LineKey) : (settleTemp s key).rou = s.rou := by
  unfold settleTemp
  repeat' split
  all_goals simp

@[simp] theorem drainAll_recovering (s : State) (key : LineKey) : (drainAll s key).rou.recovering = s.rou.recovering := by
  simp [drainAll]

/-- The ROU stops: its recovery begins now, unless one is already under way (R318). -/
theorem rouStops_recovering (s : State) : (rouStops s).rou.recovering = some (s.rou.recovering.getD s.time) :=
  foldl_keeps (fun t => t.rou.recovering) drainAll_recovering _ _

end Sys2Proof.Machine
end

section
/-! SUPPORT. Register space: which block a register's offset selects, and what the access checks answer (R394, R416, R425, R428). -/

namespace Sys2Proof.Machine

theorem inBlock_iff {off base size : Nat} : inBlock off base size = true ↔ base ≤ off ∧ off < base + size := by
  simp [inBlock]

/-- An offset lies in one of two separate blocks. -/
theorem inBlock_disjoint {off a m b n : Nat} (h : inBlock off a m = true) (hd : b + n ≤ a ∨ a + m ≤ b) : inBlock off b n = false := by
  rw [inBlock_iff] at h
  rw [← Bool.not_eq_true, inBlock_iff]
  omega

/-! ### The blocks -/

theorem writeRegister_disp {off : Nat} (h : inBlock off 0x100000 0x100000 = true) (s : State) (v : Word) :
    writeRegister s off v = writeDisp s (off - 0x100000) v := by
  simp [writeRegister, h]

theorem writeRegister_mbx {off : Nat} (h : inBlock off 0x200000 0x100000 = true) (s : State) (v : Word) :
    writeRegister s off v = writeMbx s (off - 0x200000) v := by
  have hd : inBlock off 0x100000 0x100000 = false := inBlock_disjoint h (by decide)
  simp [writeRegister, h, hd]

theorem writeRegister_trans {off : Nat} (h : inBlock off 0x300000 0x100000 = true) (s : State) (v : Word) :
    writeRegister s off v = writeTrans s (off - 0x300000) v := by
  have hd : inBlock off 0x100000 0x100000 = false := inBlock_disjoint h (by decide)
  have hm : inBlock off 0x200000 0x100000 = false := inBlock_disjoint h (by decide)
  simp [writeRegister, h, hd, hm]

theorem readRegister_disp {off : Nat} (h : inBlock off 0x100000 0x100000 = true) (s : State) :
    readRegister s off = readDisp s (off - 0x100000) := by
  have hs : inBlock off 0x1000 0x150 = false := inBlock_disjoint h (by decide)
  simp [readRegister, h, hs]

theorem readRegister_mbx {off : Nat} (h : inBlock off 0x200000 0x100000 = true) (s : State) :
    readRegister s off = readMbx s (off - 0x200000) := by
  have hs : inBlock off 0x1000 0x150 = false := inBlock_disjoint h (by decide)
  have hd : inBlock off 0x100000 0x100000 = false := inBlock_disjoint h (by decide)
  simp [readRegister, h, hs, hd]

theorem readRegister_trans {off : Nat} (h : inBlock off 0x300000 0x100000 = true) (s : State) :
    readRegister s off = readTrans s (off - 0x300000) := by
  have hs : inBlock off 0x1000 0x150 = false := inBlock_disjoint h (by decide)
  have hd : inBlock off 0x100000 0x100000 = false := inBlock_disjoint h (by decide)
  have hm : inBlock off 0x200000 0x100000 = false := inBlock_disjoint h (by decide)
  simp [readRegister, h, hs, hd, hm]

section
variable {off : Nat} (s : State) (v : Word)

theorem readRegister_writeRegister_disp (h : inBlock off 0x100000 0x100000 = true) :
    readRegister (writeRegister s off v) off = readDisp (writeDisp s (off - 0x100000) v) (off - 0x100000) := by
  rw [readRegister_disp h, writeRegister_disp h]

theorem readRegister_writeRegister_mbx (h : inBlock off 0x200000 0x100000 = true) :
    readRegister (writeRegister s off v) off = readMbx (writeMbx s (off - 0x200000) v) (off - 0x200000) := by
  rw [readRegister_mbx h, writeRegister_mbx h]

theorem readRegister_writeRegister_trans (h : inBlock off 0x300000 0x100000 = true) :
    readRegister (writeRegister s off v) off = readTrans (writeTrans s (off - 0x300000) v) (off - 0x300000) := by
  rw [readRegister_trans h, writeRegister_trans h]

end

/-! ### What a register reads after a write -/

theorem ranged_eq (lo hi old v : Nat) : ranged lo hi old v = if lo ≤ v ∧ v ≤ hi then v else old := by simp [ranged]

section
variable (s : State) (v : Word)

theorem readRegister_writeRegister_agelim : readRegister (writeRegister s 0x100000 v) 0x100000 =
    if 1 ≤ v.toNat ∧ v.toNat ≤ 65535 then v.toNat else s.disp.agelim :=
  (readRegister_writeRegister_disp s v (by decide)).trans (ranged_eq ..)

theorem readRegister_writeRegister_slice : readRegister (writeRegister s 0x100008 v) 0x100008 =
    if 1 ≤ v.toNat ∧ v.toNat ≤ 1000000 then v.toNat else s.disp.slice :=
  (readRegister_writeRegister_disp s v (by decide)).trans (ranged_eq ..)

theorem readRegister_writeRegister_drain : readRegister (writeRegister s 0x100010 v) 0x100010 = v.toNat :=
  readRegister_writeRegister_disp s v (by decide)

theorem readRegister_writeRegister_wdog : readRegister (writeRegister s 0x100018 v) 0x100018 = v.toNat :=
  readRegister_writeRegister_disp s v (by decide)

/-- MBX_DOORBELL is written only (R428). -/
theorem readRegister_doorbell : readRegister s 0x200000 = 0 := readRegister_mbx (by decide) s

/-- The journal's base is read only (R314). -/
theorem readRegister_writeRegister_journal : readRegister (writeRegister s 0xC00000 v) 0xC00000 = s.rou.journalBase := rfl

/-- A 1 written to a bit of MBX_DONE clears it (R428). -/
theorem readRegister_writeRegister_mbxDone :
    readRegister (writeRegister s 0x200008 v) 0x200008 = (s.fw.mbxDone &&& ~~~(v.setWidth 16)).toNat := by
  rw [readRegister_writeRegister_mbx s v (by decide), ← BitVec.ofNat_toNat 16 v]
  rfl

theorem readRegister_writeRegister_mbxIrq : readRegister (writeRegister s 0x200010 v) 0x200010 = (v &&& 0x1FF).toNat :=
  readRegister_writeRegister_mbx s v (by decide)

theorem readRegister_writeRegister_shootAsid : readRegister (writeRegister s 0x300008 v) 0x300008 = v.toNat % 2 ^ 16 := by
  have asid : readRegister (writeRegister s 0x300008 v) 0x300008 = (v &&& 0xFFFF).toNat := readRegister_writeRegister_trans s v (by decide)
  rw [asid, BitVec.toNat_and]
  exact Nat.and_two_pow_sub_one_eq_mod v.toNat 16

theorem readRegister_writeRegister_shootBase : readRegister (writeRegister s 0x300010 v) 0x300010 = v.toNat :=
  readRegister_writeRegister_trans s v (by decide)

end

theorem readMbx_slot {j : Nat} (hj : j < 512) (s : State) : readMbx s (0x1000 + 8 * j) = (mgetD 0 s.fw.mbx j).toNat := by
  have h : inBlock (0x1000 + 8 * j) 0x1000 0x1000 = true := by rw [inBlock_iff]; omega
  have hi : (0x1000 + 8 * j - 0x1000) / 8 = j := by omega
  simp only [readMbx, h, hi, if_true]

theorem writeMbx_slot {k : Nat} (hk : k < 512) (s : State) (v : Word) :
    writeMbx s (0x1000 + 8 * k) v = { s with fw := { s.fw with mbx := mputD 0 s.fw.mbx k v } } := by
  have h : inBlock (0x1000 + 8 * k) 0x1000 0x1000 = true := by rw [inBlock_iff]; omega
  have hi : (0x1000 + 8 * k - 0x1000) / 8 = k := by omega
  have h0 : 0x1000 + 8 * k ≠ 0 := by omega
  have h8 : 0x1000 + 8 * k ≠ 8 := by omega
  have h10 : 0x1000 + 8 * k ≠ 0x10 := by omega
  simp only [writeMbx, h, hi, h0, h8, h10, if_true, if_false]

/-- The words of the mailbox slots are separate (R428). -/
theorem readRegister_writeRegister_slot {k j : Nat} (hk : k < 512) (hj : j < 512) (s : State) (v : Word) :
    readRegister (writeRegister s (0x201000 + 8 * k) v) (0x201000 + 8 * j) =
      if j = k then v.toNat else readRegister s (0x201000 + 8 * j) := by
  have block {i : Nat} (hi : i < 512) : inBlock (0x201000 + 8 * i) 0x200000 0x100000 = true := by rw [inBlock_iff]; omega
  have place (i : Nat) : 0x201000 + 8 * i - 0x200000 = 0x1000 + 8 * i := by omega
  rw [readRegister_mbx (block hj), readRegister_mbx (block hj), writeRegister_mbx (block hk), place, place,
    readMbx_slot hj, readMbx_slot hj, writeMbx_slot hk, mgetD_mputD]
  split <;> rfl

/-! ### The access checks -/

section
variable {s : State} {w : Requester} {off : Nat} (hoff : off < 0x10000000) (hup : requesterUp s w = true) (hpmp : pmpAllows s w off = true)
include hoff hup hpmp

theorem registerRead_misaligned {b : Bool} (hm : off % (if b then 8 else 4) ≠ 0) : registerRead w off b s = some (regBad s w off) := by
  simp [registerRead, hup, hpmp, Nat.not_le.2 hoff, hm]

theorem registerRead_allowed {b : Bool} (hm : off % (if b then 8 else 4) = 0) (ha : readAllowed s w off = true) :
    registerRead w off b s = some { s with fw := { s.fw with regRead := some (w, off, BitVec.ofNat 64
      (if b then readRegister s off else readRegister s (off / 8 * 8) >>> (8 * (off % 8)) % 2 ^ 32)) } } := by
  simp [registerRead, readValue, hup, hpmp, Nat.not_le.2 hoff, hm, ha]

theorem registerRead_refused {b : Bool} (hm : off % (if b then 8 else 4) = 0) (ha : readAllowed s w off = false) :
    registerRead w off b s = some (logHub { s with fw := { s.fw with regRead := some (w, off, BitVec.ofNat 64 0) } } 0x080E
      [(1, reqCode w), (4, off), (1, 0)]) := by
  simp [registerRead, readValue, hup, hpmp, Nat.not_le.2 hoff, hm, ha]

theorem registerWidth_bad {n : Nat} (h0 : n ≠ 0) (h4 : n ≠ 4) (h8 : n ≠ 8) : registerWidth w off n s = some (regBad s w off) := by
  simp [registerWidth, hup, hpmp, Nat.not_le.2 hoff, h0, h4, h8]

end

end Sys2Proof.Machine
end

section
/-! SUPPORT. Events of the environment (R3, R308, R316, R349, R364, R374, R413, R414), and the obligation about them. -/

namespace Sys2Proof.Machine

/-! A chunk's bytes are put in before the host's answer: a match that is left on them makes the kernel compute them. -/

section
variable {s : State} {m k c : Nat} {h : Shard} {r : LoadReq} (hl : loadingChunk s m k c = some (h, r)) (hc : h.copied = false)
include hl hc

/-- A chunk whose request to the host has timed out fails its check (R411). -/
theorem chunkCopy_late {t : State} (ht : hostTry s 6 (m * 2 ^ 32 + k) r.hosttab false = .ok (t, false)) :
    chunkCopy m k c s = some (finishLoads (chunkChecked t h false)) := by
  simp only [chunkCopy, hl, hc, Bool.false_eq_true, if_false]
  rw [ht]

/-- A chunk whose copy meets a bus error fails its check (R414). -/
theorem chunkCopy_badBytes {t : State} (ht : hostTry s 6 (m * 2 ^ 32 + k) r.hosttab false = .ok (t, true)) (hb : chunkBytes s r h = none) :
    chunkCopy m k c s = some (finishLoads (chunkChecked { t with fresh := t.fresh + 1 } h false)) := by
  simp only [chunkCopy, hl, hc, hb, Bool.false_eq_true, if_false]
  rw [ht]

theorem chunkCopy_copies {t u : State} {bs : List Byte} (ht : hostTry s 6 (m * 2 ^ 32 + k) r.hosttab false = .ok (t, true))
    (hb : chunkBytes s r h = some bs) (hu : copyChunk { t with fresh := t.fresh + 1 } h bs = .ok u) :
    chunkCopy m k c s = some (onShards u fun x => if x = h then { x with copied := true } else x) := by
  simp only [chunkCopy, hl, hc, hb, Bool.false_eq_true, if_false]
  rw [ht]
  simp only [hu]
  rfl

end

theorem recordWrite_found {s : State} {o : Occ} {r : Record} {off : Nat} {bs : List Byte} (hr : findRecord s o = some r)
    (hu : s.fw.linkUp = true) (hb : off + bs.length ≤ 0x364000) :
    recordWrite o off bs s = some (putRecord s { r with bytes := writeBytes r.bytes off bs }) := by
  simp [recordWrite, hr, hu, hb]

theorem corrected_stack {s : State} {k n : Nat} (hn : n ≤ 4) (hk : k < 8) (hl : stackLive s k = true) (c a : Nat) :
    corrected k n c a s = some (logCorrected s k n c a) := by
  simp [corrected, hn, hk, hl]

theorem corrected_hub {n : Nat} (hn : n = 5 ∨ n = 6) (s : State) (k c a : Nat) :
    corrected k n c a s = some (logHub s 0x0813 [(1, n), (2, c), (8, a)]) := by
  have h4 : ¬ n ≤ 4 := by omega
  simp [corrected, hn, h4]

theorem spmError_marks {c g : Nat} (hc : c < 384) (hg : 8 * g < spmSize) (s : State) :
    spmError c g s = some (setCore s c { getCore s c with spmPoison := mset (getCore s c).spmPoison g () }) := by
  simp [spmError, hc, hg]

theorem dramError_marks {s : State} {a c : Nat} (ha : a < 2 ^ 40) (hc : paCore a = some c) (hs : coreInService s c = true) :
    dramError a s = some (setMark s a true) := by
  simp only [dramError, ha, hc, hs, Option.any_some, decide_true, Bool.and_self, if_true]

theorem checkDrop_logs {p : Nat} (hp : p < 36) (n : Nat) (s : State) :
    checkDrop p n s = some (logGalena s (p / 18) 0x0806 [(1, p % 18), (4, n)]) := by
  simp [checkDrop, hp]

theorem kindDrop_logs {s : State} {src k : Nat} (h8 : 8 < k) (h16 : k < 16) (hd : s.fw.inDomain = true) (hs : src ∈ s.fw.domain) (n : Nat) :
    kindDrop src k n s = some (logHub (hear s src) 0x0807 [(2, src), (1, k), (4, n)]) := by
  simp [kindDrop, h8, h16, hd, hs]

theorem loadAgain_resends {s : State} {c i j q : Nat} {a : Access} {p : Piece} (hp : pieceAt s c i j = some (a, p)) (hr : p.route = .remote q)
    (hs : a.store = false) (ho : a.ops = []) (hd : p.st ≠ .done) (ht : p.sentAt + backoff p.tries ≤ s.time) :
    loadAgain c i j s = some (setCore (sendPacket s (.load q p.va p.n)) c
      (setPiece (getCore s c) i j fun x => { x with sentAt := s.time, tries := x.tries + 1 })) := by
  simp [loadAgain, hp, hr, hs, ho, hd, ht]

section
variable {s : State} {g : Nat} {bs : List Byte} (hg : g < 2) (hb : bs ≠ []) (hu : requesterUp s .packetCore = true) (a : Nat)
include hg hb hu

theorem packetWrite_stopped (hc : pmpCovers s .packetCore a bs.length = false) : packetWrite g a bs s = some s := by
  simp [packetWrite, hg, hb, hu, hc]

theorem packetWrite_cached (hc : pmpCovers s .packetCore a bs.length = true) :
    packetWrite g a bs s = some (setGalena s g { galenaUnit s g with cached := (galenaUnit s g).cached ++ [(a, bs)] }) := by
  simp [packetWrite, hg, hb, hu, hc]

end

theorem bar2Resize_sets {n : Nat} (hlo : 30 ≤ n) (hhi : n ≤ 40) (s : State) :
    bar2Resize n s = some { s with fw := { s.fw with bar2 := 2 ^ n } } := by
  simp [bar2Resize, hlo, hhi]

end Sys2Proof.Machine

section
open Sys2Proof Sys2Proof.Machine

/-- Settles O60: each event by its own lemma, the register values block by block, and the ROU's recovery by what the drained lines leave. -/
theorem environmentResults : Obligations.EnvironmentResults := by
  unfold Obligations.EnvironmentResults
  refine ⟨?_, ?_, ?_, ?_, ?_, ?_, ?_, ?_, ?_, ?_, ?_, ?_, ?_, ?_, ?_⟩
  · exact fun w off b s hoff hup hpmp => ⟨registerRead_misaligned hoff hup hpmp, registerRead_allowed hoff hup hpmp,
      registerRead_refused hoff hup hpmp⟩
  · exact fun s v => ⟨readRegister_writeRegister_agelim s v, readRegister_writeRegister_slice s v, readRegister_writeRegister_drain s v,
      readRegister_writeRegister_wdog s v, readRegister_doorbell s, readRegister_writeRegister_journal s v,
      readRegister_writeRegister_mbxDone s v, readRegister_writeRegister_mbxIrq s v, readRegister_writeRegister_shootAsid s v,
      readRegister_writeRegister_shootBase s v⟩
  · exact fun s v k j hk hj => readRegister_writeRegister_slot hk hj s v
  · exact fun l g t h off bs s r => recordWrite_found
  · exact fun k n c a s => ⟨fun hn hk hl => corrected_stack hn hk hl c a, fun hn => corrected_hub hn s k c a⟩
  · exact fun c g s hc hg => spmError_marks hc hg s
  · exact fun a c s => dramError_marks
  · exact fun p n s hp => checkDrop_logs hp n s
  · exact fun src k n s h8 h16 hd hs => kindDrop_logs h8 h16 hd hs n
  · exact fun c i j s a p q => loadAgain_resends
  · exact fun s => congrArg some (rouStops_recovering s)
  · exact fun g a bs s hg hb hu => ⟨packetWrite_stopped hg hb hu a, packetWrite_cached hg hb hu a⟩
  · exact fun m k c s h r hl hc => ⟨fun t => chunkCopy_late hl hc, fun t => chunkCopy_badBytes hl hc, fun t bs u => chunkCopy_copies hl hc⟩
  · exact fun w off n s hoff hup hpmp h0 h4 h8 => registerWidth_bad hoff hup hpmp h0 h4 h8
  · exact fun n s hlo hhi => bar2Resize_sets hlo hhi s

end
end

section
/-! SUPPORT. Events of the row column, of heat and power, and of errors in a core's storage (R15, R211, R225 to R228, R237, R374), and the
obligation about them. -/

namespace Sys2Proof.Machine

/-- An event whose meaning answers a state leads there. -/
theorem evOut_some {s t : State} {o : Option State} (h : o = some t) : evOut s o = .next t := by rw [h]; rfl

/-! ### Rows and refresh -/

@[simp] theorem getBank_setBank (cs : CoreSt) (b d : Nat) (v : Bank) : getBank (setBank cs b v) d = if d = b then v else getBank cs d := by
  simp [getBank, setBank]

section
variable {s : State} {c bank : Nat}

/-- A core without a row instruction that has completed. -/
def dropJob (cs : CoreSt) (j : RowJob) : CoreSt := { cs with rowJobs := cs.rowJobs.erase j }

theorem rowJobDone_found {act : Bool} {j : RowJob}
    (h : ((getCore s c).rowJobs.find? fun j => j.act == act && j.bank == bank && j.ends < coreCycle s) = some j) :
    rowJobDone act c bank s = some (setCore s c
      (if act && (getBank (getCore s c) bank).mode == .openNotReady && (getBank (getCore s c) bank).tAct + 13 ≤ j.ends then
        setBank (dropJob (getCore s c) j) bank { getBank (getCore s c) bank with mode := .openReady }
      else dropJob (getCore s c) j)) := by
  simp only [rowJobDone, h]
  rfl

section
variable {j : RowJob} (h : ((getCore s c).rowJobs.find? fun j => j.act == true && j.bank == bank && j.ends < coreCycle s) = some j)
include h

/-- The row of a completed ROW.ACT is ready (R237). -/
theorem rowJobDone_ready (hm : (getBank (getCore s c) bank).mode = .openNotReady) (ht : (getBank (getCore s c) bank).tAct + 13 ≤ j.ends) :
    rowJobDone true c bank s =
      some (setCore s c (setBank (dropJob (getCore s c) j) bank { getBank (getCore s c) bank with mode := .openReady })) := by
  simp [rowJobDone_found h, hm, ht]

/-- A bank that has left the mode of an issued ROW.ACT keeps its own. -/
theorem rowJobDone_left (hm : (getBank (getCore s c) bank).mode ≠ .openNotReady) :
    rowJobDone true c bank s = some (setCore s c (dropJob (getCore s c) j)) := by
  simp [rowJobDone_found h, hm]

end

theorem rowJobDone_precharge {j : RowJob}
    (h : ((getCore s c).rowJobs.find? fun j => j.act == false && j.bank == bank && j.ends < coreCycle s) = some j) :
    rowJobDone false c bank s = some (setCore s c (dropJob (getCore s c) j)) := by
  simp [rowJobDone_found h]

/-- With no refresh due the refresh controller leaves a bank as it is. -/
theorem refreshGo_idle (h : (getBank (getCore s c) bank).refreshDue = none) : refreshGo c bank s = s := by
  simp [refreshGo, refreshStart, h]

theorem leaseExpiry_runsOut (ho : isOpen (getBank (getCore s c) bank) = true) (hr : (getBank (getCore s c) bank).leaseRun = true)
    (he : (getBank (getCore s c) bank).leaseEnd ≤ coreCycle s) :
    leaseExpiry c bank s =
      some (refreshGo c bank (setCore s c (setBank (getCore s c) bank { getBank (getCore s c) bank with leaseRun := false }))) := by
  simp [leaseExpiry, ho, hr, he]

section
variable {d : Nat} (hd : (getBank (getCore s c) bank).dueAt = some d) (ht : d ≤ coreCycle s)
include hd ht

theorem refreshDue_lineMode (hr : rowMode s c (bank / 8) = none) :
    refreshDue c bank s = some (setCore s c (setBank (getCore s c) bank { getBank (getCore s c) bank with dueAt := some (intervalEnd s c d) })) := by
  simp only [refreshDue, hd, ht, hr, Option.isNone_none, if_true]

theorem refreshDue_rowMode (hr : rowMode s c (bank / 8) ≠ none) :
    refreshDue c bank s = some (refreshGo c bank (setCore s c (setBank (getCore s c) bank { getBank (getCore s c) bank with
      dueAt := some (intervalEnd s c d), refreshDue := some ((getBank (getCore s c) bank).refreshDue.getD d) }))) := by
  have hn : (rowMode s c (bank / 8)).isNone = false := Option.isNone_eq_false_iff.2 (Option.isSome_iff_ne_none.2 hr)
  simp only [refreshDue, hd, ht, hn, Bool.false_eq_true, if_true, if_false]

end

theorem refreshStart_starts {d : Nat} (hd : (getBank (getCore s c) bank).refreshDue = some d) (ho : isOpen (getBank (getCore s c) bank) = false)
    (he : (getBank (getCore s c) bank).refreshEnd = none)
    (ht : max d (((getBank (getCore s c) bank).tClose.map (· + 12)).getD 0) ≤ coreCycle s) :
    refreshStart c bank s = some (setCore s c (setBank (getCore s c) bank { getBank (getCore s c) bank with
      refreshDue := none, refreshEnd := some (max d (((getBank (getCore s c) bank).tClose.map (· + 12)).getD 0) + 176) })) := by
  simp only [refreshStart, hd, ho, he, ht, Bool.not_false, Option.isNone_none, decide_true, Bool.and_self, if_true]

theorem refreshEnds_ends {t : Nat} (he : (getBank (getCore s c) bank).refreshEnd = some t) (ht : t ≤ coreCycle s) :
    refreshEnds c bank s = some (setCore s c (setBank (getCore s c) bank { getBank (getCore s c) bank with refreshEnd := none })) := by
  simp only [refreshEnds, he, ht, if_true]

end

/-! ### Errors in a core's storage -/

section
variable {s : State} {c : Nat}

/-- The state after an uncorrectable error in a row of a tile (R211). -/
def tileRowStruck (s : State) (c t r : Nat) : State :=
  usedFresh (setCore s c (writeTile (getCore s c) t r { data := BitVec.ofNat 4096 (struck s 4096), tag := some .memory }))

section
variable {t r : Nat} (ht : t < 16) (hr : r < 128)
include ht hr

theorem tileEcc_unread (hm : mmaReads (getCore s c) t r = false) : tileEcc c (.tileRow t r) s = some (tileRowStruck s c t r) := by
  simp [tileEcc, tileRowStruck, ht, hr, hm]

/-- An operation in flight that reads the row is abandoned. -/
theorem tileEcc_abandons (hm : mmaReads (getCore s c) t r = true) (he : mmaEnds (tileRowStruck s c t r) c = false) :
    tileEcc c (.tileRow t r) s = some (poisonAbandon (tileRowStruck s c t r) c) := by
  rw [tileRowStruck] at he
  simp [tileEcc, tileRowStruck, ht, hr, hm, he]

end

theorem tileEcc_accumulator {a r g : Nat} (ha : a < 3) (hr : r < 128) (hg : g < 64) :
    tileEcc c (.accGran a r g) s =
      some (usedFresh (setCore s c (writeV (getCore s c) (128 * a + r) (poisonGran (struck s 64) (accRow (getCore s c) a r) g)))) := by
  simp [tileEcc, ha, hr, hg]

theorem regError_scalar {e : Engine} {n : Nat} (hn : n ≤ lastScalar e) (hz : isZeroReg e n = false) :
    regError c (.scalar e n) s = some (usedFresh (setCore s c (setReg (getCore s c) e n (strikeS s (readReg ((getCore s c).stream e) e n))))) := by
  simp [regError, hn, hz]

theorem regError_vector {r g : Nat} (hr : r < 384) (hg : g < 64) :
    regError c (.vgran r g) s = some (usedFresh (setCore s c (writeV (getCore s c) r (poisonGran (struck s 64) (readV (getCore s c) r) g)))) := by
  simp [regError, hr, hg]

theorem regError_mask {n : Nat} (h1 : 1 ≤ n) (h16 : n < 16) :
    regError c (.mask n) s =
      some (usedFresh (setCore s c (writeMask (getCore s c) n { bits := BitVec.ofNat 512 (struck s 512), tag := some .memory }))) := by
  simp [regError, h1, h16]

theorem stateEcc_stops (ho : (getCore s c).occ.isSome = true) (hr : (getCore s c).run ≠ .stopped) :
    stateEcc c s = some (teamEvent s c .seq .stateEcc) := by
  simp [stateEcc, ho, hr]

end

end Sys2Proof.Machine

section
open Sys2Proof Sys2Proof.Machine

/-- Settles O26: each event by its own lemma; a bank whose lease has run out is left alone when no refresh is due on it. -/
theorem rowAndErrorEventResults : Obligations.RowAndErrorEventResults := by
  unfold Obligations.RowAndErrorEventResults
  refine ⟨?_, ?_, ?_, ?_, ?_, ?_, ?_, ?_, ?_, ?_, ?_, ?_, ?_, ?_, ?_, ?_⟩
  · exact fun c bank s j h => ⟨fun hm ht => evOut_some (rowJobDone_ready h hm ht), fun hm => evOut_some (rowJobDone_left h hm)⟩
  · exact fun c bank s j h => evOut_some (rowJobDone_precharge h)
  · exact fun c bank s ho hr he => ⟨evOut_some (leaseExpiry_runsOut ho hr he), fun hd => refreshGo_idle (by simpa using hd)⟩
  · exact fun c bank s d hd ht => ⟨fun hr => evOut_some (refreshDue_lineMode hd ht hr), fun hr => evOut_some (refreshDue_rowMode hd ht hr)⟩
  · exact fun c bank s d hd ho he ht => evOut_some (refreshStart_starts hd ho he ht)
  · exact fun c bank s t he ht => evOut_some (refreshEnds_ends he ht)
  · exact fun k s hk hh => evOut_some (by simp [hk, hh, setTemp])
  · exact fun k s hk hh => evOut_some (by simp [hk, hh, setTemp])
  · exact fun w s h1 h12 => evOut_some (by simp [h1, h12])
  · exact fun n s hn => evOut_some (if_pos hn)
  · exact fun c t r s ht hr => ⟨fun hm => evOut_some (tileEcc_unread ht hr hm), fun hm he => evOut_some (tileEcc_abandons ht hr hm he)⟩
  · exact fun c a r g s ha hr hg => evOut_some (tileEcc_accumulator ha hr hg)
  · exact fun c e n s hn hz => evOut_some (regError_scalar hn hz)
  · exact fun c r g s hr hg => evOut_some (regError_vector hr hg)
  · exact fun c n s h1 h16 => evOut_some (regError_mask h1 h16)
  · exact fun c s ho hr => evOut_some (stateEcc_stops ho hr)

end
end

section
/-! SUPPORT. Events of the host, the board and the links (R13, R276, R277, R279, R349, R376, R383, R384, R404, R405, R409, R410, R425 to R427,
R430), and the obligation about them. -/

namespace Sys2Proof.Machine

/-! ### Writes of register space -/

section
variable {s : State} {w : Requester} {off : Nat} {b : Bool} {v : Word} (hoff : off < 0x10000000) (hup : requesterUp s w = true)
  (hnow : w = .host ∨ hostNow s = false)
include hoff hup hnow

/-- A write that reaches register space is answered: by its PMP, its alignment, the firewall, and else by the register. -/
theorem registerWrite_reaches : registerWrite w off b v s =
    if !pmpAllows s w off then some s
    else if off % (if b then 8 else 4) ≠ 0 then some (regBad s w off)
    else if !writeAllowed s w off v then some (logHub s 0x080E [(1, reqCode w), (4, off), (1, 1)])
    else some (registerPut w off b v s) := by
  have hw : (w != .host && hostNow s) = false := by
    cases hnow with
    | inl h => simp [h]
    | inr h => simp [h]
  simp [registerWrite, hup, hw, Nat.not_le.2 hoff]

theorem registerWrite_stopped (hpmp : pmpAllows s w off = false) : registerWrite w off b v s = some s := by
  simp [registerWrite_reaches hoff hup hnow, hpmp]

section
variable (hpmp : pmpAllows s w off = true)
include hpmp

theorem registerWrite_misaligned (hm : off % (if b then 8 else 4) ≠ 0) : registerWrite w off b v s = some (regBad s w off) := by
  simp [registerWrite_reaches hoff hup hnow, hpmp, hm]

variable (hm : off % (if b then 8 else 4) = 0)
include hm

theorem registerWrite_refused (ha : writeAllowed s w off v = false) :
    registerWrite w off b v s = some (logHub s 0x080E [(1, reqCode w), (4, off), (1, 1)]) := by
  simp [registerWrite_reaches hoff hup hnow, hpmp, hm, ha]

theorem registerWrite_allowed (ha : writeAllowed s w off v = true) : registerWrite w off b v s = some (registerPut w off b v s) := by
  simp [registerWrite_reaches hoff hup hnow, hpmp, hm, ha]

end

end

/-- A write of a reserved upper half alone is ignored (R3). -/
theorem registerPut_reserved {off : Nat} (h4 : off % 8 = 4) (hu : upperReserved (off - 4) = true) (w : Requester) (v : Word) (s : State) :
    registerPut w off false v s = s := by
  simp [registerPut, h4, hu]

theorem registerPut_writes {off : Nat} {b : Bool} (h : b = true ∨ off % 8 ≠ 4 ∨ upperReserved (off - 4) = false) (w : Requester) (v : Word)
    (s : State) : registerPut w off b v s = writeRegister (noteHost s w) (off / 8 * 8) (regValue s off b v) := by
  have hc : (!b && off % 8 = 4 && upperReserved (off - 4)) = false := by
    rcases h with h | h | h <;> simp [h]
  simp only [registerPut, hc, Bool.false_eq_true, if_false]

theorem pmpAllows_host (s : State) (off : Nat) : pmpAllows s .host off = true := by
  simp [pmpAllows, pmpCovers]

/-- A host's write that the firewall refuses is logged (R425). -/
theorem hostWrite_refused {s : State} {off : Nat} {v : Word} (ha : writeAllowed s .host off v = false) (hoff : off < 0x10000000 := by decide)
    (h8 : off % 8 = 0 := by decide) : hostWrite off v s = some (logHub s 0x080E [(1, 0), (4, off), (1, 1)]) :=
  registerWrite_refused hoff rfl (.inl rfl) (pmpAllows_host s off) h8 ha

/-- A host's write that the firewall lets through is the register's. -/
theorem hostWrite_allowed {s t : State} {off : Nat} {v : Word} (ha : writeAllowed s .host off v = true)
    (ht : writeRegister (noteHost s .host) off v = t) (hoff : off < 0x10000000 := by decide) (h8 : off % 8 = 0 := by decide) :
    hostWrite off v s = some t := by
  have hput : registerPut .host off true v s = writeRegister (noteHost s .host) (off / 8 * 8) v := registerPut_writes (.inl rfl) ..
  rw [Nat.div_mul_cancel (Nat.dvd_of_mod_eq_zero h8), ht] at hput
  rw [← hput]
  exact registerWrite_allowed hoff rfl (.inl rfl) (pmpAllows_host s off) h8 ha

/-! ### Shoot-downs -/

/-- The shoot-down of a mode that the registers of the translation block describe (R276). -/
def shootOf (s : State) (m : ShootMode) : Shoot :=
  { mode := m, asid := s.hub.shootAsid.toNat % 65536, base := s.hub.shootBase.toNat, len := s.hub.shootLen.toNat }

/-- A shoot-down has begun: DONE is 0 and the range has left every TLB. -/
def shootBegun (s : State) (h : Shoot) : State :=
  { s with hub := { s.hub with
      shootDone := false, shoot := some h, tlb := s.hub.tlb.filter fun t => !(t.asid == h.asid && overlaps t.base t.size h.base h.len) } }

/-- While a shoot-down is under way, GO starts none. -/
theorem shootStart_busy {s : State} (hd : s.hub.shootDone = false) (m : ShootMode) : shootStart m s = s := by
  simp [shootStart, hd]

/-- An UNMAP recalls nothing where the host holds no line of the range. -/
theorem shootStart_begins {s : State} {m : ShootMode} (hd : s.hub.shootDone = true)
    (hh : m = .unmap → ∀ l ∈ s.hub.llc, inShoot (shootOf s .unmap) l.key = true → l.host = .hi) :
    shootStart m s = shootBegun s (shootOf s m) := by
  cases m with
  | wrprotect => simp only [shootStart, hd]; rfl
  | inval => simp only [shootStart, hd]; rfl
  | unmap =>
    have hn : (s.hub.llc.filter fun l => inShoot (shootOf s .unmap) l.key && l.host != .hi) = [] := by
      simpa using hh rfl
    simp only [shootOf] at hn
    simp only [shootStart, hd, Bool.not_true, Bool.false_eq_true, if_false, if_true, hn, List.foldl_nil]
    rfl

/-- A write of a mode to TRANS_SHOOT_CTL. -/
def withShootMode (s : State) (m : BitVec 2) : State := { s with hub := { s.hub with shootMode := m } }

theorem writeRegister_unmap (s : State) : writeRegister s 0x300020 1 = shootStart .unmap (withShootMode s 0) :=
  writeRegister_trans (by decide) s 1
theorem writeRegister_wrprotect (s : State) : writeRegister s 0x300020 3 = shootStart .wrprotect (withShootMode s 1) :=
  writeRegister_trans (by decide) s 3
theorem writeRegister_inval (s : State) : writeRegister s 0x300020 5 = shootStart .inval (withShootMode s 2) :=
  writeRegister_trans (by decide) s 5

section
variable {s : State} {v : Word} {m : ShootMode} {k : BitVec 2} (hw : ∀ t, writeRegister t 0x300020 v = shootStart m (withShootMode t k))
  (ha : writeAllowed s .host 0x300020 v = true)
include hw ha

theorem hostWrite_go_busy (hd : s.hub.shootDone = false) : hostWrite 0x300020 v s = some (withShootMode (noteHost s .host) k) :=
  hostWrite_allowed ha ((hw _).trans (shootStart_busy (s := withShootMode (noteHost s .host) k) hd m))

theorem hostWrite_go_begins (hd : s.hub.shootDone = true)
    (hh : m = .unmap → ∀ l ∈ s.hub.llc, inShoot (shootOf s .unmap) l.key = true → l.host = .hi) :
    hostWrite 0x300020 v s = some (shootBegun (withShootMode (noteHost s .host) k) (shootOf s m)) :=
  hostWrite_allowed ha ((hw _).trans (shootStart_begins (s := withShootMode (noteHost s .host) k) hd hh))

end

theorem shootDone_completes {s : State} {h : Shoot} (hs : s.hub.shoot = some h) (hb : shootBusy s h = false)
    (hl : ∀ l ∈ s.hub.llc, inShoot h l.key = true → lineQuiet s l = true ∧ (h.mode = .unmap → l.host = .hi)) :
    let t := (s.hub.llc.filter fun l => inShoot h l.key).foldl (shootLine h.mode) s
    shootDone s = some { t with cores := t.cores.map fun (c : Nat × CoreSt) => (c.1, shootL1 h c.2)
                                hub := { t.hub with shootDone := true, shoot := none } } := by
  have unrecalled : shootRecall s h (s.hub.llc.filter fun l => inShoot h l.key) = none := by
    unfold shootRecall
    split
    · next hm =>
      rw [List.find?_eq_none]
      intro l hmem
      obtain ⟨hllc, hin⟩ := List.mem_filter.1 hmem
      simp [(hl l hllc hin).2 hm]
    · rfl
  have quiet : ((s.hub.llc.filter fun l => inShoot h l.key).any fun l => !lineQuiet s l || (h.mode == .unmap && l.host != .hi)) = false := by
    rw [List.any_eq_false]
    intro l hmem
    obtain ⟨hllc, hin⟩ := List.mem_filter.1 hmem
    obtain ⟨hq, hu⟩ := hl l hllc hin
    simpa [hq] using hu
  simp only [shootDone, hs, unrecalled, hb, quiet, Bool.or_self, Bool.false_eq_true, if_false]

/-! ### Rings and flushes -/

/-- The low 32 bits of a value that a write of 64 bits carries. -/
theorem ofNat_word_mod (v : Nat) : BitVec.ofNat 32 ((BitVec.ofNat 64 v).toNat % 2 ^ 32) = BitVec.ofNat 32 v := by
  apply BitVec.eq_of_toNat_eq
  simp only [BitVec.toNat_ofNat]
  omega

section
variable {s : State} {v : Nat}

theorem writeRegister_migRptr : writeRegister s 0x300078 (BitVec.ofNat 64 v) =
    if 2 ^ ringLog s.hub.migRingCtl < (s.hub.migWptr - BitVec.ofNat 32 v).toNat then s
    else { s with hub := { s.hub with migRptr := BitVec.ofNat 32 v } } := by
  have h : writeRegister s 0x300078 (BitVec.ofNat 64 v) = migRptr ((BitVec.ofNat 64 v).toNat % 2 ^ 32) s := writeRegister_trans (by decide) s _
  rw [h, migRptr, ofNat_word_mod]

theorem writeRegister_trapRptr : writeRegister s 0x280008 (BitVec.ofNat 64 v) =
    let t : State := { s with fw := { s.fw with trapRptr := BitVec.ofNat 32 v } }
    if 1024 < (s.fw.trapWptr - BitVec.ofNat 32 v).toNat then s
    else drainReports s.fw.heldReports.length (freeAreas t fun o => (mget s.disp.launches o.launch).isNone && !(killUnread t o.launch)) := by
  have h : writeRegister s 0x280008 (BitVec.ofNat 64 v) = trapRptr ((BitVec.ofNat 64 v).toNat % 2 ^ 32) s := writeRegister_mbx (by decide) s _
  rw [h, trapRptr, ofNat_word_mod]
  rfl

end

section
variable {s : State} (v : Word)

theorem writeRegister_migCtl_disabled (h : s.hub.migRingCtl.getLsbD 8 = false) :
    writeRegister s 0x300068 v = { s with hub := { s.hub with migRingCtl := v &&& 0xFF031F } } := by
  have hr : writeRegister s 0x300068 v = migCtl v s := writeRegister_trans (by decide) s v
  simp only [hr, migCtl, h, Bool.false_eq_true, if_false]

/-- The size of an enabled ring stays (R279). -/
theorem writeRegister_migCtl_enabled (h : s.hub.migRingCtl.getLsbD 8 = true) : writeRegister s 0x300068 v = { s with hub := { s.hub with
    migRingCtl := (v &&& 0xFF031F) &&& ~~~(0x1F : Word) ||| (s.hub.migRingCtl &&& 0x1F) } } := by
  have hr : writeRegister s 0x300068 v = migCtl v s := writeRegister_trans (by decide) s v
  simp only [hr, migCtl, h, if_true]

theorem writeRegister_migBase_disabled (h : s.hub.migRingCtl.getLsbD 8 = false) :
    writeRegister s 0x300060 v = { s with hub := { s.hub with migRingBase := v &&& 0xFFFFFFFFF000 } } := by
  have hr : writeRegister s 0x300060 v = migBase v s := writeRegister_trans (by decide) s v
  simp only [hr, migBase, h, Bool.false_eq_true, if_false]

theorem writeRegister_migBase_enabled (h : s.hub.migRingCtl.getLsbD 8 = true) : writeRegister s 0x300060 v = s := by
  have hr : writeRegister s 0x300060 v = migBase v s := writeRegister_trans (by decide) s v
  simp only [hr, migBase, h, if_true]

end

section
variable {g : Nat} (hg : g < 2) {s : State} {v : Word}
include hg

theorem writeRegister_galenaFlush : writeRegister s (0xA000000 + 0x1000000 * g) v = (galenaFlush g v s).getD s := by
  have hb : inBlock (0xA000000 + 0x1000000 * g) 0xA000000 0x2000000 = true := by rw [inBlock_iff]; omega
  have hd : inBlock (0xA000000 + 0x1000000 * g) 0x100000 0x100000 = false := inBlock_disjoint hb (by decide)
  have hm : inBlock (0xA000000 + 0x1000000 * g) 0x200000 0x100000 = false := inBlock_disjoint hb (by decide)
  have ht : inBlock (0xA000000 + 0x1000000 * g) 0x300000 0x100000 = false := inBlock_disjoint hb (by decide)
  have hs : inBlock (0xA000000 + 0x1000000 * g) 0x2000000 0x8000000 = false := inBlock_disjoint hb (by decide)
  have ho : 0xA000000 + 0x1000000 * g ≠ 0x1100000 := by omega
  have hr : (0xA000000 + 0x1000000 * g) % 0x1000000 = 0 := by omega
  have hq : (0xA000000 + 0x1000000 * g - 0xA000000) / 0x1000000 = g := by omega
  simp only [writeRegister, hb, hd, hm, ht, hs, ho, hr, hq, Bool.false_and, Bool.true_and, Bool.false_eq_true, decide_true, if_false, if_true]

theorem writeRegister_flush_starts (hv : v.getLsbD 0 = true) (hf : (galenaUnit s g).flushDone = true) :
    writeRegister s (0xA000000 + 0x1000000 * g) v = (galenaUnit s g).cached.foldl (fun t w => physWrite (.packet g) t w.1 w.2)
      (setGalena s g { galenaUnit s g with flushDone := false, cached := [] }) := by
  simp only [writeRegister_galenaFlush hg, galenaFlush, Nat.not_le.2 hg, hv, hf, Bool.and_self, if_false, if_true, Option.getD_some]

/-- Without GO, or while a flush is under way, nothing is flushed. -/
theorem writeRegister_flush_none (h : v.getLsbD 0 = false ∨ (galenaUnit s g).flushDone = false) :
    writeRegister s (0xA000000 + 0x1000000 * g) v = s := by
  have hc : (v.getLsbD 0 && (galenaUnit s g).flushDone) = false := Bool.and_eq_false_iff.2 h
  simp only [writeRegister_galenaFlush hg, galenaFlush, Nat.not_le.2 hg, hc, Bool.false_eq_true, if_false, Option.getD_some]

theorem galenaFlushed_done (hf : (galenaUnit s g).flushDone = false) (hp : packetPending s g = false) :
    galenaFlushed g s = some (setGalena s g { galenaUnit s g with flushDone := true }) := by
  simp [galenaFlushed, hg, hf, hp]

end

/-! ### I/O-coherent accesses -/

/-- What firmware keeps is no DRAM for an agent: a context area neither. -/
theorem hostArea_none_of_isDram {s : State} {pa : Nat} (hd : isDram (paKind s pa) = true) (ag : IoAgent) : hostArea s ag pa = none := by
  have hk : isKept s pa = false := by
    cases hk : isKept s pa with
    | false => rfl
    | true =>
      simp only [paKind, hk, Bool.or_true, if_true] at hd
      split at hd
      · split at hd <;> cases hd
      · split at hd <;> cases hd
  simp only [isKept, Bool.or_eq_false_iff, List.any_eq_false] at hk
  simp only [hostArea, List.find?_eq_none.2 hk.2, ite_self]

section
variable {s : State} {ag : IoAgent} {pa : Nat} {d : List Byte} (hag : ioAllowed s ag = true) (hd : d ≠ []) (hn : pa % 128 + d.length ≤ 128)
  (hb : inBar2 s ag pa d.length = true)
include hag hd hn hb

theorem ioWrite_area {a : Occ × Nat} (ha : hostArea s ag pa = some a) : ioWrite ag pa d s = some (areaPut s a pa d) := by
  simp [ioWrite, hag, hd, Nat.not_lt.2 hn, hb, ha]

theorem ioWrite_bad (ha : hostArea s ag pa = none) (hk : isDram (paKind s pa) = false) : ioWrite ag pa d s = some (ioBad s ag pa) := by
  simp [ioWrite, hag, hd, Nat.not_lt.2 hn, hb, ha, hk]

section
variable (hk : isDram (paKind s pa) = true)
include hk

theorem ioWrite_uncached (hl : getLine s (windowKey s pa) = none) :
    ioWrite ag pa d s = some (wakeWatches (dramPut s pa d) (windowKey s pa) (byteMask (pa % 128) d.length)) := by
  simp [ioWrite, hag, hd, Nat.not_lt.2 hn, hb, hostArea_none_of_isDram hk ag, hk, hl]

theorem ioWrite_cached {l : LlcLine} (hl : getLine s (windowKey s pa) = some l) :
    ioWrite ag pa d s = submitReq s (windowKey s pa) (.ioWrite ag 0 0 (byteMask (pa % 128) d.length) (bytesAt (pa % 128) d) 0) := by
  simp [ioWrite, hag, hd, Nat.not_lt.2 hn, hb, hostArea_none_of_isDram hk ag, hk, hl]

end

end

section
variable {s : State} {ag : IoAgent} {pa n : Nat} (hag : ioAllowed s ag = true) (h0 : n ≠ 0) (hn : pa % 128 + n ≤ 128)
  (hb : inBar2 s ag pa n = true)
include hag h0 hn hb

theorem ioRead_area {a : Occ × Nat} (ha : hostArea s ag pa = some a) : ioRead ag pa n s = some s := by
  simp [ioRead, hag, h0, Nat.not_lt.2 hn, hb, ha]

theorem ioRead_bad (ha : hostArea s ag pa = none) (hk : isDram (paKind s pa) = false) : ioRead ag pa n s = some (ioBad s ag pa) := by
  simp [ioRead, hag, h0, Nat.not_lt.2 hn, hb, ha, hk]

section
variable (hk : isDram (paKind s pa) = true)
include hk

theorem ioRead_uncached (hl : getLine s (windowKey s pa) = none) : ioRead ag pa n s = some s := by
  simp [ioRead, hag, h0, Nat.not_lt.2 hn, hb, hostArea_none_of_isDram hk ag, hk, hl]

theorem ioRead_cached {l : LlcLine} (hl : getLine s (windowKey s pa) = some l) :
    ioRead ag pa n s = submitReq s (windowKey s pa) (.ioRead ag (byteMask (pa % 128) n)) := by
  simp [ioRead, hag, h0, Nat.not_lt.2 hn, hb, hostArea_none_of_isDram hk ag, hk, hl]

end

end

/-! ### Copy queues -/

/-- What a piece that may be read comes to, by what its source answers (R360, R361). -/
def afterSource (s : State) (c q : Nat) (x : CqEntry) (i : Nat) : Got → Option State
  | .bytes t bs bad => writePiece (dropAsks t c q i x) c q x i bs bad
  | .asked t => some t
  | .notYet => none
  | .pause h => some (pauseEntry s c q x h)
  | .fail cause => some (cqFault s c q x.seqNo cause 0)
  | .timeout pa => some (cqFault (logTimeout s pa false) c q x.seqNo (trapCode .busError) 0)

section
variable {s : State} {c q : Nat} {x : CqEntry} {xs : List CqEntry} (hq : getCq (getCore s c) q = x :: xs) (hr : queueRuns (getCore s c) = true)
  (hq1 : q ≤ 1)
include hq hr hq1

theorem copyPiece_fence (hk : x.kind = .fence) (hf : fenceMet (getCore s c) x = true) (hh : headMay s c q x = true) :
    copyPiece c q 0 s = some (completeHead s c q) := by
  simp [copyPiece, hq, hr, Nat.not_lt.2 hq1, hk, hf, hh]

theorem copyPiece_completes (hk : x.kind ≠ .fence) (hc : x.cursor = x.dsc.total) (hh : headMay s c q x = true) :
    copyPiece c q x.cursor s = some (completeHead s c q) := by
  simp [copyPiece, hq, hr, Nat.not_lt.2 hq1, hk, ← hc, hh]

section
variable {i : Nat} (hk : x.kind ≠ .fence) (hp : pieceReady s c q x i = true)
include hk hp

theorem copyPiece_ready {r : Got} (hg : (heldPiece s x i).getD (readSource s c q x i (pieceLen x i)) = r) :
    copyPiece c q i s = afterSource s c q x i r := by
  have hc : x.cursor ≠ x.dsc.total := by
    simp only [pieceReady, Bool.and_eq_true, decide_eq_true_eq] at hp
    omega
  cases r <;> simp [copyPiece, hq, hr, Nat.not_lt.2 hq1, hk, hc, hp, hg, afterSource]

end

end

/-! ### Chiplets, modules and cores -/

theorem linkUp_trains {w : Nat} (hw : w = 8 ∨ w = 16 ∨ w = 32) (a : Bool) (gts : Nat) (s : State) : linkUp a gts w s =
    some { s with fw := { s.fw with linkUp := true, slate := a && gts == 64 && (w == 32 || w == 16), linkWidth := w } } := by
  simp [linkUp, hw]

theorem linkWakeSlow_logs {s : State} {k m t : Nat} (ho : oldestWait s k = some t) (hk : k < 8) (hm : m < 6)
    (hn : m ∉ (stackUnit s k).slowLogged) (ht : t + 20 * usec ≤ s.time) :
    linkWakeSlow k m s = some (logHub (setStack s k { stackUnit s k with slowLogged := m :: (stackUnit s k).slowLogged })
      0x0801 [(1, k), (1, m), (4, (s.time - t) / usec)]) := by
  simp [linkWakeSlow, ho, Nat.not_le.2 hk, Nat.not_le.2 hm, hn, Nat.not_lt.2 ht]

theorem stackLost_loses {s : State} {k : Nat} (hk : k < 8) (ha : unitState s k ≠ .absent) (hl : unitState s k ≠ .lost) :
    stackLost k s = some (loseStack k s) := by
  simp [stackLost, Nat.not_le.2 hk, ha, hl]

/-- A stack one of whose modules has retrained, at half width or not at all (R404). -/
def stackRetrained (s : State) (u m : Nat) (half : Bool) : State :=
  setStack s u { stackUnit s u with
    modstat := (setModule (stackUnit s u).modstat (stackUnit s u).modhalf m half).1
    modhalf := (setModule (stackUnit s u).modstat (stackUnit s u).modhalf m half).2 }

/-- A stack goes on with three trained modules, and is lost with fewer (R405). -/
theorem moduleRetrain_stack {s : State} {u m : Nat} (hu : u < 8) (hm : m < 6) (hs : unitState s u = .inService ∨ unitState s u = .degraded)
    (half : Bool) : moduleRetrain u m half s =
      if 3 ≤ trainedMods (stackRetrained s u m half) u then some (regrade (stackRetrained s u m half) u)
      else some (loseStack u (stackRetrained s u m half)) := by
  have hst : (unitState s u == .inService || unitState s u == .degraded) = true := by simpa using hs
  have hu9 : ¬ 9 < u := by omega
  simp only [moduleRetrain, hst, hu, hu9, Nat.not_le.2 hm, needMods, Bool.not_true, Bool.or_false, decide_false, Bool.false_eq_true,
    if_true, if_false]
  rfl

section
variable {s : State} {c : Nat} (hc : c < 384) (hl : stackLive s (c / 48) = true)
include hc hl

theorem coreFailure_spare (hs : (stackUnit s (c / 48)).spares ≠ 0) (ho : (getCore s c).occ = none) :
    coreFailure c s = some (callRound (regrade (setStack (restartPhases (setCore (useSpare c (dropColumn s c)) c {}) c) (c / 48)
      { stackUnit s (c / 48) with spares := (stackUnit s (c / 48)).spares - 1 }) (c / 48))) := by
  simp [coreFailure, Nat.not_le.2 hc, hl, hs, ho]

theorem coreFailure_final (h : (stackUnit s (c / 48)).spares = 0 ∨ (getCore s c).occ ≠ none) (hi : (getCore s c).inService = true) :
    coreFailure c s = some (regrade (dropColumn (setCore s c { getCore s c with inService := false }) c) (c / 48)) := by
  have hn : ((stackUnit s (c / 48)).spares ≠ 0 && (getCore s c).occ.isNone) = false := by
    cases h with
    | inl h => simp [h]
    | inr h => simp [Option.isSome_iff_ne_none.2 h]
  simp only [coreFailure, Nat.not_le.2 hc, hl, hn, hi, decide_false, Bool.not_true, Bool.or_self, Bool.false_eq_true, if_false, if_true]

end

end Sys2Proof.Machine

section
open Sys2Proof Sys2Proof.Machine

/-- Settles O34: a host's register write through the checks of register space and then its register's block, and each other event by its own
lemma. -/
theorem packageEventResults : Obligations.PackageEventResults := by
  unfold Obligations.PackageEventResults
  refine ⟨?_, ?_, ?_, ?_, ?_, ?_, ?_, ?_, ?_, ?_, ?_, ?_, ?_, ?_, ?_, ?_, ?_, ?_, ?_, ?_⟩
  · exact fun s => ⟨fun h => evOut_some (hostWrite_refused h), fun h => evOut_some (hostWrite_refused h),
      fun h => evOut_some (hostWrite_refused h)⟩
  · refine fun s h1 h3 h5 => ⟨fun hd => ⟨?_, ?_, ?_⟩, fun hd => ⟨?_, ?_, fun hh => ?_⟩⟩
    · exact evOut_some (hostWrite_go_busy writeRegister_unmap h1 hd)
    · exact evOut_some (hostWrite_go_busy writeRegister_wrprotect h3 hd)
    · exact evOut_some (hostWrite_go_busy writeRegister_inval h5 hd)
    · exact evOut_some (hostWrite_go_begins writeRegister_wrprotect h3 hd nofun)
    · exact evOut_some (hostWrite_go_begins writeRegister_inval h5 hd nofun)
    · exact evOut_some (hostWrite_go_begins writeRegister_unmap h1 hd fun _ => hh)
  · exact fun s h hs hb hl => evOut_some (shootDone_completes hs hb hl)
  · exact fun v s => ⟨fun h => evOut_some (hostWrite_refused h), fun h =>
      ⟨fun hp => evOut_some (hostWrite_allowed h (writeRegister_migRptr.trans (if_pos hp))),
        fun hp => evOut_some (hostWrite_allowed h (writeRegister_migRptr.trans (if_neg (Nat.not_lt.2 hp))))⟩⟩
  · exact fun v s h => ⟨fun he => evOut_some (hostWrite_allowed h (writeRegister_migCtl_disabled (s := noteHost s .host) v he)),
      fun he => evOut_some (hostWrite_allowed h (writeRegister_migCtl_enabled (s := noteHost s .host) v he))⟩
  · exact fun v s h => ⟨fun he => evOut_some (hostWrite_allowed h (writeRegister_migBase_disabled (s := noteHost s .host) v he)),
      fun he => evOut_some (hostWrite_allowed h (writeRegister_migBase_enabled (s := noteHost s .host) v he))⟩
  · exact fun v s => ⟨fun h => evOut_some (hostWrite_refused h), fun h => evOut_some (hostWrite_refused h)⟩
  · exact fun v s => ⟨fun h => evOut_some (hostWrite_refused h), fun h =>
      ⟨fun hp => evOut_some (hostWrite_allowed h (writeRegister_trapRptr.trans (if_pos hp))),
        fun hp => evOut_some (hostWrite_allowed h (writeRegister_trapRptr.trans (if_neg (Nat.not_lt.2 hp))))⟩⟩
  · intro g v s hg
    have named (o : Option State) : (if 2 ≤ g then none else o) = o := if_neg (Nat.not_le.2 hg)
    exact ⟨fun h => evOut_some ((named _).trans (hostWrite_refused h (by omega) (by omega))), fun h =>
      ⟨fun hv hf => evOut_some ((named _).trans
          (hostWrite_allowed h (writeRegister_flush_starts (s := noteHost s .host) hg hv hf) (by omega) (by omega))),
        fun hn => evOut_some ((named _).trans
          (hostWrite_allowed h (writeRegister_flush_none (s := noteHost s .host) hg hn) (by omega) (by omega)))⟩,
      fun hf hp => evOut_some (galenaFlushed_done hg hf hp)⟩
  · exact fun ag pa d s hag hd hn hb hk => ⟨fun hl => evOut_some (ioWrite_uncached hag hd hn hb hk hl),
      fun l t hl ht => evOut_some ((ioWrite_cached hag hd hn hb hk hl).trans ht)⟩
  · exact fun ag pa n s hag h0 hn hb hk => ⟨fun hl => evOut_some (ioRead_uncached hag h0 hn hb hk hl),
      fun l t hl ht => evOut_some ((ioRead_cached hag h0 hn hb hk hl).trans ht)⟩
  · exact fun ag pa a s hag ha => ⟨fun d hd hn hb => evOut_some (ioWrite_area hag hd hn hb ha),
      fun n h0 hn hb => evOut_some (ioRead_area hag h0 hn hb ha)⟩
  · exact fun ag pa s hag ha hk => ⟨fun d hd hn hb => evOut_some (ioWrite_bad hag hd hn hb ha hk),
      fun n h0 hn hb => evOut_some (ioRead_bad hag h0 hn hb ha hk)⟩
  · exact fun c q x xs s hq hr hq1 => ⟨fun hk hf hh => evOut_some (copyPiece_fence hq hr hq1 hk hf hh),
      fun hk hc hh => evOut_some (copyPiece_completes hq hr hq1 hk hc hh),
      fun i t u bs bad hk hp hg hw => evOut_some ((copyPiece_ready hq hr hq1 hk hp hg).trans hw),
      fun i t hk hp hg => evOut_some (copyPiece_ready hq hr hq1 hk hp hg),
      fun i h hk hp hg => evOut_some (copyPiece_ready hq hr hq1 hk hp hg),
      fun i e hk hp hg => evOut_some (copyPiece_ready hq hr hq1 hk hp hg)⟩
  · exact fun a gts w s hw => evOut_some (linkUp_trains hw a gts s)
  · exact fun k m s t ho hk hm hn ht => evOut_some (linkWakeSlow_logs ho hk hm hn ht)
  · exact fun k s hk ha hl => evOut_some (stackLost_loses hk ha hl)
  · exact fun u m half s hu hm hs => ⟨fun ht => evOut_some ((moduleRetrain_stack hu hm hs half).trans (if_pos ht)),
      fun ht => evOut_some ((moduleRetrain_stack hu hm hs half).trans (if_neg (Nat.not_le.2 ht)))⟩
  · exact fun c s hc hl => ⟨fun hs ho => evOut_some (coreFailure_spare hc hl hs ho), fun h hi => evOut_some (coreFailure_final hc hl h hi)⟩
  · exact fun w off b v s hoff hup hnow => ⟨fun hp => evOut_some (registerWrite_stopped hoff hup hnow hp),
      fun hp => ⟨fun hm => evOut_some (registerWrite_misaligned hoff hup hnow hp hm),
        fun hm => ⟨fun ha => evOut_some (registerWrite_refused hoff hup hnow hp hm ha), fun ha =>
          ⟨fun hb h4 hu => evOut_some (by rw [registerWrite_allowed hoff hup hnow hp hm ha, hb, registerPut_reserved h4 hu]),
            fun h => evOut_some (by rw [registerWrite_allowed hoff hup hnow hp hm ha, registerPut_writes h])⟩⟩⟩⟩

end
end

section
/-! SUPPORT. The values of FP4 E2M1 codes (R25, R27), and the obligation about them. -/

namespace Sys2Proof.Machine

/-- R25: in a format with neither infinities nor NaNs every encoding is a finite value, subnormal where its exponent field is 0. -/
theorem decodeF_of_no_specials {t : Fmt} (hi : t.hasInf = false) (hn : t.nan = none) (bits : Nat) :
    decodeF t bits =
      if bits >>> t.fw % 2 ^ t.ew = 0 then .fin (bits.testBit t.signBit) (bits % 2 ^ t.fw) (1 - (t.bias : Int) - t.fw)
      else .fin (bits.testBit t.signBit) (bits % 2 ^ t.fw + 2 ^ t.fw) (((bits >>> t.fw % 2 ^ t.ew : Nat) : Int) - t.bias - t.fw) := by
  simp only [decodeF, hi, hn, Bool.false_and, Bool.not_false, Bool.true_and, Option.isSome_none, Bool.false_eq_true, if_false]

/-- R25, R27: an FP4 code is a sign in bit 3, an exponent in bits 2 and 1 and a fraction in bit 0. -/
theorem decodeF_e2m1 (c : Nat) :
    decodeF (fmtOf .e2m1) c = if c / 2 % 4 = 0 then .fin (c.testBit 3) (c % 2) (-1)
      else .fin (c.testBit 3) (c % 2 + 2) (((c / 2 % 4 : Nat) : Int) - 2) := by
  have hexp (x : Int) : x - 1 - 1 = x - 2 := Int.sub_sub x 1 1
  have hfield : c >>> 1 = c / 2 := Nat.shiftRight_eq_div_pow c 1
  rw [← hexp, ← hfield]
  exact decodeF_of_no_specials (t := fmtOf .e2m1) rfl rfl c

/-- R27: bit 3 of an FP4 code is its sign, so adding 8 to a code without it sets it. -/
theorem testBit_sign_e2m1 {c : Nat} (h : c < 8) : c.testBit 3 = false ∧ (c + 8).testBit 3 = true := by
  have hpos : c.testBit 3 = false := Nat.testBit_lt_two_pow h
  have hneg : (2 ^ 3 + c).testBit 3 = true := by rw [Nat.testBit_two_pow_add_eq, hpos, Bool.not_false]
  exact ⟨hpos, Nat.add_comm c 8 ▸ hneg⟩

/-- R27: codes 0 and 1 are zero and the subnormal half; bit 3 sets the sign. -/
theorem decodeF_e2m1_subnormal {c : Nat} (h : c < 2) :
    decodeF (fmtOf .e2m1) c = .fin false c (-1) ∧ decodeF (fmtOf .e2m1) (c + 8) = .fin true c (-1) := by
  obtain ⟨hpos, hneg⟩ := testBit_sign_e2m1 (show c < 8 by omega)
  rw [decodeF_e2m1, decodeF_e2m1, hpos, hneg, if_pos (by omega), if_pos (by omega),
    show (c + 8) % 2 = c by omega, Nat.mod_eq_of_lt h]
  exact ⟨rfl, rfl⟩

/-- R27: codes 2 to 7 have the leading one above their fraction bit; bit 3 sets the sign. -/
theorem decodeF_e2m1_normal {c : Nat} (h2 : 2 ≤ c) (h8 : c < 8) :
    decodeF (fmtOf .e2m1) c = .fin false (c % 2 + 2) (((c / 2 : Nat) : Int) - 2) ∧
      decodeF (fmtOf .e2m1) (c + 8) = .fin true (c % 2 + 2) (((c / 2 : Nat) : Int) - 2) := by
  obtain ⟨hpos, hneg⟩ := testBit_sign_e2m1 h8
  rw [decodeF_e2m1, decodeF_e2m1, hpos, hneg, if_neg (by omega), if_neg (by omega),
    show (c + 8) % 2 = c % 2 by omega, show (c + 8) / 2 % 4 = c / 2 by omega, show c / 2 % 4 = c / 2 by omega]
  exact ⟨rfl, rfl⟩

/-- R27: the table of half units at the subnormal codes. -/
theorem halfUnits_e2m1_subnormal : ∀ c < 2, c * 2 ^ ((-1 : Int) + 1).toNat = [0, 1, 2, 3, 4, 6, 8, 12].getD c 0 := by decide

/-- R27: the table of half units at the normal codes. -/
theorem halfUnits_e2m1_normal : ∀ c < 8, 2 ≤ c →
    (c % 2 + 2) * 2 ^ (((c / 2 : Nat) : Int) - 2 + 1).toNat = [0, 1, 2, 3, 4, 6, 8, 12].getD c 0 := by decide

end Sys2Proof.Machine

section
open Sys2Proof Sys2Proof.Machine

/-- Settles O36: the subnormal codes are their own number of half units, and the exponent of a normal code shifts 2 or 3 of them. -/
theorem fp4Values : Obligations.Fp4Values := by
  unfold Obligations.Fp4Values
  intro c hc
  by_cases hsub : c < 2
  · obtain ⟨hpos, hneg⟩ := decodeF_e2m1_subnormal hsub
    exact ⟨c, -1, hpos, hneg, Int.le_refl _, halfUnits_e2m1_subnormal c hsub⟩
  · have h2 : 2 ≤ c := Nat.not_lt.1 hsub
    obtain ⟨hpos, hneg⟩ := decodeF_e2m1_normal h2 hc
    exact ⟨c % 2 + 2, ((c / 2 : Nat) : Int) - 2, hpos, hneg, by omega, halfUnits_e2m1_normal c hc h2⟩

end
end

section
/-! SUPPORT. One-word instructions of the integer group read back field by field (R64, R71, R74), and the obligation about the conditions of CMP. -/

namespace Sys2Proof.Machine

/-! ### Scalar operand fields (R71) -/

/-- The queue numbers of an engine with scalar queues lie above its registers. -/
theorem lastScalar_lt_qsCode {e : Engine} (he : e ≠ .seq) : lastScalar e < qsCode e := by
  cases e with
  | seq => exact absurd rfl he
  | _ => decide

theorem lastScalar_lt_qrCode {e : Engine} (he : e ≠ .seq) : lastScalar e < qrCode e := by
  cases e with
  | seq => exact absurd rfl he
  | _ => decide

theorem lastScalar_lt_field (e : Engine) : lastScalar e < 64 := by cases e <;> decide

theorem sv_lt_field {e : Engine} {a : SSrc} (h : okSrc e a = true) : sv e a < 64 := by
  cases a with
  | reg n => exact Nat.lt_of_le_of_lt (of_decide_eq_true h) (lastScalar_lt_field e)
  | qs => cases e <;> decide

theorem dv_lt_field {e : Engine} {d : SDst} (h : okDst e d = true) : dv e d < 64 := by
  cases d with
  | reg n => exact Nat.lt_of_le_of_lt (of_decide_eq_true h) (lastScalar_lt_field e)
  | qr => cases e <;> decide

theorem srcOf_sv {e : Engine} {a : SSrc} (h : okSrc e a = true) : srcOf e (sv e a) = a := by
  cases a with
  | reg n =>
    have hn : n ≤ lastScalar e := of_decide_eq_true h
    exact if_neg fun ⟨hq, he⟩ => Nat.ne_of_lt (Nat.lt_of_le_of_lt hn (lastScalar_lt_qsCode he)) hq
  | qs => exact if_pos ⟨rfl, bne_iff_ne.1 h⟩

theorem dstOf_dv {e : Engine} {d : SDst} (h : okDst e d = true) : dstOf e (dv e d) = d := by
  cases d with
  | reg n =>
    have hn : n ≤ lastScalar e := of_decide_eq_true h
    exact if_neg fun ⟨hq, he⟩ => Nat.ne_of_lt (Nat.lt_of_le_of_lt hn (lastScalar_lt_qrCode he)) hq
  | qr => exact if_pos ⟨rfl, bne_iff_ne.1 h⟩

/-! ### Words of the integer group (R64, R74) -/

section
variable {e : Engine} {f b a d : Nat} (he : e ≠ .mtx) (hf : f < 32) (hb : b < 64) (ha : a < 64) (hd : d < 64)
include he hf hb ha hd

/-- A word with an opcode of the integer group is read through that group's map; IMM11 of S32-I overlaps F and B. -/
theorem decode_r32_int {op : Nat} (hlo : 0x10 ≤ op) (hhi : op < 0x40) :
    decode e [r32 f b a d op] = accept e [r32 f b a d op] (int32 e op f b a d (64 * f + b)) := by
  have hlen : r32 f b a d op % 4 = 0 := by unfold r32; omega
  have hop : r32 f b a d op / 4 % 128 = op := by unfold r32; omega
  have hF : r32 f b a d op / 2 ^ 27 % 32 = f := by unfold r32; omega
  have hB : r32 f b a d op / 2 ^ 21 % 64 = b := by unfold r32; omega
  have hA : r32 f b a d op / 2 ^ 15 % 64 = a := by unfold r32; omega
  have hD : r32 f b a d op / 2 ^ 9 % 64 = d := by unfold r32; omega
  have hI : r32 f b a d op / 2 ^ 21 % 2 ^ 11 = 64 * f + b := by unfold r32; omega
  simp only [decode, hlen, if_true, cand32, hop, hF, hB, hA, hD, hI, Nat.not_lt.2 hlo, hhi, he, ne_eq, not_false_eq_true, and_self, if_false]

/-- R78: opcode 0x28 is CMP with the condition that F names. -/
theorem decode_r32_cmp : decode e [r32 f b a d 0x28] =
    accept e [r32 f b a d 0x28] ((cmpOf f).map fun cc => .cmp cc (dstOf e d) (srcOf e a) (srcOf e b)) :=
  decode_r32_int he hf hb ha hd (by decide) (by decide)

end

theorem accept_of_encode {e : Engine} {ws : List Nat} {i : Instr} (hw : wellFormed e i = true) (hs : encode e i = ws) :
    accept e ws (some i) = .ok (i, ws.length) := by
  simp only [accept, hw, hs, beq_self_eq_true, Bool.and_self, if_true]

/-! ### The conditions of CMP (R78) -/

theorem cmpOf_eq_none {f : Nat} (h : 10 ≤ f) : cmpOf f = none := by
  obtain ⟨k, rfl⟩ := Nat.exists_eq_add_of_le' h
  rfl

theorem cmpOf_cmpCode (c : CmpCond) : cmpOf (cmpCode c) = some c := by cases c <;> rfl

theorem cmpCode_lt (c : CmpCond) : cmpCode c < 32 := by cases c <;> decide

/-- R78's table of F values. -/
theorem eq_cmpCode_of_mem {p : Nat × CmpCond}
    (h : p ∈ [(0, CmpCond.eq), (1, .ne), (2, .lt), (3, .ge), (4, .le), (5, .gt), (6, .ltu), (7, .geu), (8, .leu), (9, .gtu)]) :
    p.1 = cmpCode p.2 := by
  revert p
  decide

theorem decode_cmp {e : Engine} {d : SDst} {a b : SSrc} (he : e ≠ .mtx) (hd : okDst e d = true) (ha : okSrc e a = true)
    (hb : okSrc e b = true) (c : CmpCond) :
    decode e [r32 (cmpCode c) (sv e b) (sv e a) (dv e d) 0x28] = .ok (.cmp c d a b, 1) := by
  have hw : okInt3 e d a b = true := by simp only [okInt3, hasInt, bne_iff_ne.2 he, hd, ha, hb, Bool.and_self]
  rw [decode_r32_cmp he (cmpCode_lt c) (sv_lt_field hb) (sv_lt_field ha) (dv_lt_field hd), cmpOf_cmpCode, Option.map_some,
    dstOf_dv hd, srcOf_sv ha, srcOf_sv hb]
  exact accept_of_encode hw rfl

end Sys2Proof.Machine

section
open Sys2Proof Sys2Proof.Machine

/-- Settles O38: a value of F outside the table names no instruction, and one of the table is the code of its condition. -/
theorem compareConditions : Obligations.CompareConditions := by
  unfold Obligations.CompareConditions
  constructor
  · intro e f b a d he h10 hf hb ha hd
    rw [decode_r32_cmp he hf hb ha hd, cmpOf_eq_none h10]
    rfl
  · intro e d a b he hd ha hb f c hfc
    have hf : f = cmpCode c := eq_cmpCode_of_mem hfc
    exact hf ▸ decode_cmp he hd ha hb c

end
end

section
/-! SUPPORT. Where the bodies of calls, loops and register targets fault (R76, R137, R138), and the obligation about these faults. -/

namespace Sys2Proof.Machine

/-! ### Register targets and calls (R76, R137) -/

theorem regTarget_malformed {v : Word} (h : readTarget v = none) (f : Pc → Verdict) : regTarget v f = .trap { trap := .branchTarget } := by
  simp only [regTarget, h]

/-- A call with sixteen return addresses on the stack overflows it, whatever its target. -/
theorem callTo_overflows {cs : CoreSt} {s : State} (h : 16 ≤ (cs.stream s.focusEng).rstack.length) (w : Nat) (p : Pc) :
    callTo cs w p s = .trap { trap := .rstackOverflow } := by
  simp only [callTo, pushReturn, ge_iff_le, h, if_true]

/-- R76, R137: a register call checks the stack once its target is known to be well formed. -/
theorem regTarget_callTo_overflows {cs : CoreSt} {s : State} {v : Word} (hv : (readTarget v).isSome)
    (h : 16 ≤ (cs.stream s.focusEng).rstack.length) (w : Nat) :
    (regTarget v fun p => callTo cs w p s) = .trap { trap := .rstackOverflow } := by
  obtain ⟨p, hp⟩ := Option.isSome_iff_exists.1 hv
  simp only [regTarget, hp, callTo_overflows h]

/-! ### Loops (R130, R138) -/

/-- COUNT is the low half of CR.LOOP. -/
theorem loopCount_eq (v : Word) : loopCount v = (v.setWidth 32).toNat := (BitVec.toNat_setWidth 32 v).symm

theorem loopCount_eq_zero {v : Word} : loopCount v = 0 ↔ v.setWidth 32 = 0#32 := by
  rw [loopCount_eq, ← BitVec.toNat_inj]
  rfl

section
variable {cs : CoreSt} {s : State} {n : Word} (w : Nat)

theorem loopBody_badCount (h : n = 0 ∨ 2 ^ 32 ≤ n.toNat) : loopBody w cs n s = .trap { trap := .loopCount } :=
  if_pos h

/-- A loop with a count in range cannot start inside another. -/
theorem loopBody_active (h1 : 1 ≤ n.toNat) (h32 : n.toNat < 2 ^ 32) (hl : (cs.stream s.focusEng).loop.setWidth 32 ≠ 0#32) :
    loopBody w cs n s = .trap { trap := .loopState } := by
  have hn : ¬ (n = 0 ∨ n.toNat > 0xFFFFFFFF) := by
    rintro (rfl | hbig)
    · exact absurd h1 (by decide)
    · omega
  have hc : loopCount (cs.stream s.focusEng).loop ≠ 0 := fun h => hl (loopCount_eq_zero.1 h)
  simp only [loopBody, hn, hc, ne_eq, not_false_eq_true, if_false, if_true]

end

/-- A literal other than 0 is a count in range. -/
theorem literal_count_inRange {n : BitVec 32} (h : n ≠ 0#32) : 1 ≤ (n.setWidth 64).toNat ∧ (n.setWidth 64).toNat < 2 ^ 32 := by
  rw [BitVec.toNat_setWidth_of_le (by decide)]
  exact ⟨Nat.pos_of_ne_zero fun h0 => h (BitVec.eq_of_toNat_eq h0), n.isLt⟩

theorem endlBody_inactive {s : State} (h : (focusSt s).loop.setWidth 32 = 0#32) : endlBody s = .trap { trap := .loopState } :=
  if_pos (loopCount_eq_zero.2 h)

/-- An ENDL that repeats enters START as a register target. -/
theorem endlBody_malformed {s : State} (h2 : 2#32 ≤ (focusSt s).loop.setWidth 32) (ht : readTarget ((focusSt s).loop >>> 32) = none) :
    endlBody s = .trap { trap := .branchTarget } := by
  have hc : 2 ≤ loopCount (focusSt s).loop := loopCount_eq _ ▸ h2
  have h0 : loopCount (focusSt s).loop ≠ 0 := by omega
  have h1 : loopCount (focusSt s).loop ≠ 1 := by omega
  exact (if_neg h0).trans ((if_neg h1).trans (regTarget_malformed ht _))

end Sys2Proof.Machine

section
open Sys2Proof Sys2Proof.Machine

/-- Settles O5: each instruction's body meets the fault by its own lemma, after the shared shapes of issue. -/
theorem controlFlowFaults : Obligations.ControlFlowFaults := by
  unfold Obligations.ControlFlowFaults
  refine ⟨?_, ?_, ?_, ?_, ?_, ?_, ?_, ?_, ?_, ?_⟩
  · exact fun a => useTraps_of (fun _ => rfl) fun _ _ _ h => regTarget_malformed h _
  · exact fun a => useTraps_of (fun _ => rfl) fun _ _ _ h => regTarget_malformed h _
  · exact fun a => useTraps_of (fun _ => rfl) fun _ _ _ ⟨hv, h⟩ => regTarget_callTo_overflows hv h 1
  · exact fun p slot line => plainTraps_of (fun _ => rfl) fun _ h => callTo_overflows h 2 _
  · exact fun k a => useTraps_of (fun _ => rfl) fun _ _ _ h => loopBody_badCount 2 h
  · exact fun k a => useTraps_of (fun _ => rfl) fun _ _ _ ⟨h1, h32, hl⟩ => loopBody_active 2 h1 h32 hl
  · exact fun k => plainTraps_of (fun _ => rfl) fun s _ => loopBody_badCount (cs := focusCs s) (s := s) 3 (.inl rfl)
  · intro k n hn
    obtain ⟨h1, h32⟩ := literal_count_inRange hn
    exact plainTraps_of (fun _ => rfl) fun _ hl => loopBody_active 3 h1 h32 hl
  · exact plainTraps_of (fun _ => rfl) fun _ h => endlBody_inactive h
  · exact plainTraps_of (fun _ => rfl) fun _ ⟨h2, ht⟩ => endlBody_malformed h2 ht

end
end

section
/-! SUPPORT. Modules, weight images, and units leaving and joining: what each request and event answers where its conditions hold (R92 to R96,
R407, R412 to R415, R429), and the obligation about them. -/

namespace Sys2Proof.Machine

/-- A request whose turn it is, and which can be carried out, is carried out and answered with DONE. -/
theorem served_done {s t : State} {slot action : Nat} {f : Except Nat State} (ht : slotTurn s slot action = true) (hf : f = .ok t) :
    served slot action s f = some (answerSlot t slot mbxDone) := by
  simp only [served, ht, hf, Bool.not_true, Bool.false_eq_true, if_false]

/-! ### Modules (R429) -/

section
variable {j : Nat} {s : State}

section
variable {s1 : State} {bs : List Byte} (ht : slotTurn s j 32 = true) (hr : fwRange s (fieldOf s j .addr) (fieldOf s j .len) = true)
  (hm : mget s.fw.modules (fieldOf s j .module) = none) (hf : fwRead s (fieldOf s j .addr) (fieldOf s j .len) = .ok (s1, bs))
include ht hr hm hf

theorem modreg_rejects (hp : parseModule 0 (fieldOf s j .addr) (fieldOf s j .len) (fieldOf s j .module) bs = none) :
    modreg j s = some (answerSlot s1 j mbxBad) := by
  simp only [modreg, ht, hr, hm, hf, hp, Option.isSome_none, Bool.not_true, Bool.or_self, Bool.false_eq_true, if_false]

theorem modreg_registers {r : Module × List Shard}
    (hp : parseModule 0 (fieldOf s j .addr) (fieldOf s j .len) (fieldOf s j .module) bs = some r) :
    modreg j s = some (answerSlot { s1 with fw := { s1.fw with
      modules := mset s1.fw.modules (fieldOf s j .module) r.1, shards := s1.fw.shards ++ r.2 } } j mbxDone) := by
  simp only [modreg, ht, hr, hm, hf, hp, Option.isSome_none, Bool.not_true, Bool.or_self, Bool.false_eq_true, if_false]

end

theorem modunreg_ends {x : Module} (ht : slotTurn s j 33 = true) (hm : mget s.fw.modules (fieldOf s j .module) = some x)
    (hl : ∀ p ∈ s.disp.launches, p.2.module ≠ fieldOf s j .module) (hs : ∀ h ∈ s.fw.shards, h.module = fieldOf s j .module → h.st = .invalid) :
    modunreg j s = some (answerSlot { s with fw := { s.fw with
      modules := mdel s.fw.modules (fieldOf s j .module), shards := s.fw.shards.filter fun h => h.module != fieldOf s j .module } } j mbxDone) := by
  have hlaunch : s.disp.launches.any (fun p => p.2.module == fieldOf s j .module) = false :=
    List.any_eq_false.2 fun p hp => by simpa using hl p hp
  have hshard : s.fw.shards.any (fun h => h.module == fieldOf s j .module && h.st != .invalid) = false :=
    List.any_eq_false.2 fun h hh => by simpa using hs h hh
  refine served_done ht ?_
  simp only [hm, hlaunch, hshard, Option.isNone_some, Bool.or_self, Bool.false_eq_true, if_false]

end

/-! ### Weight images (R412 to R415) -/

/-- The request of a LOADIMG slot, with its deadline (R414). -/
def loadRequest (s : State) (j : Nat) : LoadReq :=
  { slot := j, module := fieldOf s j .module, image := fieldOf s j .image, hosttab := fieldOf s j .addr, nblk := fieldOf s j .nblk
    deadline := s.time + (if fieldOf s j .tmo = 0 then 60 else fieldOf s j .tmo) * 1000 * msec }

/-- The request of a LOADIMG slot is noted, the image's shards of this package that are not VALID are started, and loads with no shard left in
LOADING are answered (R413). -/
def loadStarted (s : State) (j : Nat) : State :=
  finishLoads ((s.fw.shards.filter fun h => ofImage (fieldOf s j .module) (fieldOf s j .image) s.pkg h && h.st != .valid).foldl
    (startShard (fieldOf s j .nblk)) { s with fw := { s.fw with loads := s.fw.loads ++ [loadRequest s j] } })

section
variable {j : Nat} {s : State} (hm : (mget s.fw.modules (fieldOf s j .module)).isSome = true)
  (hi : fieldOf s j .image < imageCount s (fieldOf s j .module))
include hm hi

section
variable (ht : slotTurn s j 10 = true) (htmo : fieldOf s j .tmo ≤ 3600) (hk : paKind s (fieldOf s j .addr) = .host)
include ht htmo hk

/-- A well formed LOADIMG is refused while its image is being loaded, and starts the image's shards otherwise. -/
theorem loadimg_formed : loadimg j s = some (if imageBusy s (fieldOf s j .module) (fieldOf s j .image) = true then answerSlot s j mbxBusyCode
    else loadStarted s j) := by
  have hbad : ((mget s.fw.modules (fieldOf s j .module)).isNone || decide (imageCount s (fieldOf s j .module) ≤ fieldOf s j .image) ||
      decide (3600 < fieldOf s j .tmo) || paKind s (fieldOf s j .addr) != .host) = false := by
    simp [hm, Nat.not_le.2 hi, Nat.not_lt.2 htmo, hk]
  simp only [loadimg, ht, hbad, Bool.not_true, Bool.false_eq_true, if_false]
  split <;> rfl

theorem loadimg_busy (hb : imageBusy s (fieldOf s j .module) (fieldOf s j .image) = true) : loadimg j s = some (answerSlot s j mbxBusyCode) :=
  (loadimg_formed hm hi ht htmo hk).trans (congrArg some (if_pos hb))

theorem loadimg_starts (hb : imageBusy s (fieldOf s j .module) (fieldOf s j .image) = false) : loadimg j s = some (loadStarted s j) :=
  (loadimg_formed hm hi ht htmo hk).trans (congrArg some (if_neg (Bool.eq_false_iff.1 hb)))

end

theorem unloadimg_invalidates (ht : slotTurn s j 11 = true) (hb : imageBusy s (fieldOf s j .module) (fieldOf s j .image) = false)
    (hu : imageUsed s (fieldOf s j .module) (fieldOf s j .image) = false) :
    unloadimg j s = some (answerSlot (onShards s fun h => if h.module = fieldOf s j .module && h.image = fieldOf s j .image then
      { h with st := .invalid, chunk := 0, tries := 0 } else h) j mbxDone) := by
  refine served_done ht ?_
  simp [Option.isSome_iff_ne_none.1 hm, Nat.not_le.2 hi, hb, hu]

end

theorem chunkVerify_copied {s : State} {m k c : Nat} {h : Shard} {r : LoadReq} (hl : loadingChunk s m k c = some (h, r)) (hc : h.copied = true) :
    chunkVerify m k c s = some (finishLoads (chunkChecked s h (((readBack s h).map sha384) == h.digests[c]?))) := by
  simp only [chunkVerify, hl, hc, if_true]

theorem loadTimeout_passed {s : State} {j : Nat} {r : LoadReq} (hr : (s.fw.loads.find? fun r => r.slot == j) = some r) (hd : r.deadline ≤ s.time) :
    loadTimeout j s =
      some (finishLoads ((s.fw.shards.filter fun h => ofImage r.module r.image s.pkg h && isLoading h).foldl (failShard 3) s)) := by
  simp only [loadTimeout, hr, Nat.not_lt.2 hd, if_false]

/-! ### Units leaving and joining (R407) -/

/-- A unit in service, degraded or not, is neither missing nor isolated. -/
theorem ne_absent_lost_isolated {s : State} {u : Nat} (hs : unitState s u = .inService ∨ unitState s u = .degraded) :
    unitState s u ≠ .absent ∧ unitState s u ≠ .lost ∧ unitState s u ≠ .isolated := by
  obtain h | h := hs <;> simp [h]

section
variable {j : Nat} {s : State}

section
variable (ht : slotTurn s j 8 = true) (hs : unitState s (fieldOf s j .unit) = .inService ∨ unitState s (fieldOf s j .unit) = .degraded)
include ht hs

/-- A Galena stops its ports at once, unless it is the last one. -/
theorem isolate_galena (hu : fieldOf s j .unit = 8 ∨ fieldOf s j .unit = 9) (hg : 1 < liveGalenas s) :
    isolate j s = some (answerSlot (changeUnit (setGalena s (fieldOf s j .unit - 8) { galenaUnit s (fieldOf s j .unit - 8) with ports := 0 })
      (fieldOf s j .unit) .isolated) j mbxDone) := by
  obtain ⟨ha, hl, hi⟩ := ne_absent_lost_isolated hs
  have h9 : ¬ 9 < fieldOf s j .unit := by omega
  have h8 : 8 ≤ fieldOf s j .unit := by omega
  simp [isolate, ht, ha, hl, hi, h9, h8, Nat.not_lt.2 h8, Nat.not_le.2 hg]

section
variable (hu : fieldOf s j .unit < 8)
include hu

/-- A stack with no shard that is being loaded begins to leave: every gang with a team on it is to be swapped out. -/
theorem isolate_stack_begins (hn : (stackUnit s (fieldOf s j .unit)).leaving = false)
    (hh : ∀ h ∈ s.fw.shards, ¬(h.pkg = s.pkg ∧ h.core / 48 = fieldOf s j .unit ∧ isLoading h = true)) :
    isolate j s = some (clearStack (setStack s (fieldOf s j .unit) { stackUnit s (fieldOf s j .unit) with leaving := true }) (fieldOf s j .unit)) := by
  obtain ⟨ha, hl, hi⟩ := ne_absent_lost_isolated hs
  have h9 : ¬ 9 < fieldOf s j .unit := by omega
  have hload : s.fw.shards.any (fun h => h.pkg == s.pkg && h.core / 48 == fieldOf s j .unit && isLoading h) = false :=
    List.any_eq_false.2 fun h hm => by simpa [and_assoc] using hh h hm
  simp [isolate, ht, ha, hl, hi, h9, hu, hn, hload, Nat.not_le.2 hu]

/-- A stack that leaves is isolated when no team stands on it, none of its operations is open, and its owned words are written back. -/
theorem isolate_stack_ends {s1 : State} (hn : (stackUnit s (fieldOf s j .unit)).leaving = true)
    (hg : ∀ x ∈ allGangs s, gangOnStack (fieldOf s j .unit) x.2.2 = false) (ho : stackOpsOpen s (fieldOf s j .unit) = false)
    (hd : drainStack s (fieldOf s j .unit) = some s1) :
    isolate j s = some (answerSlot (changeUnit (setStack s1 (fieldOf s j .unit) { stackUnit s1 (fieldOf s j .unit) with leaving := false })
      (fieldOf s j .unit) .isolated) j mbxDone) := by
  obtain ⟨ha, hl, -⟩ := ne_absent_lost_isolated hs
  have h9 : ¬ 9 < fieldOf s j .unit := by omega
  have hgang : (allGangs s).any (fun x => gangOnStack (fieldOf s j .unit) x.2.2) = false :=
    List.any_eq_false.2 fun x hx => by simp [hg x hx]
  have hstay : (allGangs s).any (fun x => gangOnStack (fieldOf s j .unit) x.2.2 && !x.2.2.swap) = false :=
    List.any_eq_false.2 fun x hx => by simp [hg x hx]
  simp [isolate, ht, ha, hl, h9, hu, hn, hgang, hstay, ho, hd, Nat.not_le.2 hu]

end

end

section
variable (ht : slotTurn s j 9 = true) (hu : fieldOf s j .unit ≤ 9) (caps : List CapTable)
include ht hu

theorem rejoin_isolated (hs : unitState s (fieldOf s j .unit) = .isolated) :
    rejoin j caps s = some (answerSlot (enumUnit caps s (fieldOf s j .unit)) j mbxDone) := by
  simp only [rejoin, ht, Nat.not_lt.2 hu, hs, Bool.not_true, Bool.false_eq_true, if_false]

/-- A lost stack's columns are wiped before it is enumerated again; a Galena has none. -/
theorem rejoin_lost (hs : unitState s (fieldOf s j .unit) = .lost) :
    rejoin j caps s = some (answerSlot (enumUnit caps (if fieldOf s j .unit < 8 then wipeStack s (fieldOf s j .unit) else s)
      (fieldOf s j .unit)) j mbxDone) := by
  simp only [rejoin, ht, Nat.not_lt.2 hu, hs, Bool.not_true, Bool.false_eq_true, if_false]

/-- A unit that is neither isolated nor lost has nothing to rejoin. -/
theorem rejoin_other (hi : unitState s (fieldOf s j .unit) ≠ .isolated) (hl : unitState s (fieldOf s j .unit) ≠ .lost) :
    rejoin j caps s = some (answerSlot s j mbxDone) := by
  cases hs : unitState s (fieldOf s j .unit) with
  | isolated => exact absurd hs hi
  | lost => exact absurd hs hl
  | _ => simp only [rejoin, ht, Nat.not_lt.2 hu, hs, Bool.not_true, Bool.false_eq_true, if_false]

end

end

end Sys2Proof.Machine

section
open Sys2Proof Sys2Proof.Machine

/-- Settles O33: each request and event by its own lemma. -/
theorem imageAndUnitEventResults : Obligations.ImageAndUnitEventResults := by
  unfold Obligations.ImageAndUnitEventResults
  refine ⟨?_, ?_, ?_, ?_, ?_, ?_, ?_, ?_⟩
  · exact fun j s s1 bs ht hr hm hf => ⟨fun hp => evOut_some (modreg_rejects ht hr hm hf hp),
      fun r hp => evOut_some (modreg_registers ht hr hm hf hp)⟩
  · exact fun j s x ht hm hl hs => evOut_some (modunreg_ends ht hm hl hs)
  · exact fun j s ht hm hi htmo hk => ⟨fun hb => evOut_some (loadimg_busy hm hi ht htmo hk hb),
      fun hb => evOut_some (loadimg_starts hm hi ht htmo hk hb)⟩
  · exact fun j s ht hm hi hb hu => evOut_some (unloadimg_invalidates hm hi ht hb hu)
  · exact fun m k c s h r hl hc => evOut_some (chunkVerify_copied hl hc)
  · exact fun j s r hr hd => evOut_some (loadTimeout_passed hr hd)
  · exact fun j s ht hs => ⟨fun hu hg => evOut_some (isolate_galena ht hs hu hg), fun hu =>
      ⟨fun hn hh => evOut_some (isolate_stack_begins ht hs hu hn hh),
        fun s1 hn hg ho hd => evOut_some (isolate_stack_ends ht hs hu hn hg ho hd)⟩⟩
  · exact fun j caps s ht hu => ⟨fun hs => evOut_some (rejoin_isolated ht hu caps hs),
      fun hs h8 => evOut_some (by rw [rejoin_lost ht hu caps hs, if_pos h8]),
      fun hs h8 => evOut_some (by rw [rejoin_lost ht hu caps hs, if_neg (Nat.not_lt.2 h8)]),
      fun hi hl => evOut_some (rejoin_other ht hu caps hi hl)⟩

end
end

section
/-! SUPPORT. What a core holds when a team starts on it (R100), and the obligation about it. -/

namespace Sys2Proof.Machine

section
variable (s : State) (c : Nat) (o : Occ) (l : Launch) (v : Variant)

/-- The registers that a team finds: the parameter address in S1 (R100). -/
def paramRegs (l : Launch) : NMap SVal := mputD {} [] 1 { val := BitVec.ofNat 64 l.pkt.param }

/-- The sequencer's stream at the start of a team: it stands at ENTRY. -/
def entryStream (l : Launch) (v : Variant) : Stream :=
  { active := true, pc := pcOfWord v.entry, entry := some false, regs := paramRegs l }

/-- At the start of a team the sequencer's stream runs, and those of the other engines are idle. -/
theorem freshCore_stream (e : Engine) : (freshCore s c o l v).stream e = if e = .seq then entryStream l v else {} := by
  cases e <;> rfl

theorem readReg_entryStream (n : Nat) :
    readReg (entryStream l v) .seq n = if n = 1 then { val := BitVec.ofNat 64 l.pkt.param } else {} := by
  simp only [readReg, entryStream, paramRegs, mgetD_mputD]
  cases n <;> rfl

/-- An idle stream that has never run holds nothing. -/
theorem readReg_default (e : Engine) (n : Nat) : readReg {} e n = {} := ite_self _

theorem readReg_freshCore (e : Engine) (n : Nat) :
    readReg ((freshCore s c o l v).stream e) e n = if e = .seq ∧ n = 1 then { val := BitVec.ofNat 64 l.pkt.param } else {} := by
  rw [freshCore_stream]
  by_cases he : e = .seq
  · subst he; simp [readReg_entryStream]
  · rw [if_neg he, if_neg fun h => he h.1, readReg_default]

theorem readMask_freshCore {n : Nat} (hn : 1 ≤ n) : readMask (freshCore s c o l v) n = {} := if_neg (Nat.ne_of_gt hn)

theorem queues_freshCore (q : QName) : getSq (freshCore s c o l v) q = [] ∧ getDq (freshCore s c o l v) q = [] := by
  cases q <;> exact ⟨rfl, rfl⟩

/-- No loop is active at reset (R130). -/
theorem loopCount_reset : loopCount ({} : Stream).loop = 0 := by decide

/-- Modes, return stack and loop of every engine are at reset when a team starts. -/
theorem modes_freshCore (e : Engine) : let st := (freshCore s c o l v).stream e
    st.fpmode = 0 ∧ st.fpstat = 0 ∧ st.rstack = [] ∧ loopCount st.loop = 0 ∧ st.active = (e == .seq) := by
  cases e <;> exact ⟨rfl, rfl, rfl, loopCount_reset, rfl⟩

end

end Sys2Proof.Machine

section
open Sys2Proof Sys2Proof.Machine

/-- Settles O49: a core's own state is kept, and what belongs to a team is at its default but for the sequencer's stream. -/
theorem teamStartValues : Obligations.TeamStartValues := by
  unfold Obligations.TeamStartValues
  intro s c o l v
  refine ⟨readReg_freshCore s c o l v, fun n => ⟨rfl, readMask_freshCore s c o l v, rfl, rfl, rfl⟩, fun _ _ => rfl, fun _ => rfl, rfl, rfl, rfl,
    queues_freshCore s c o l v, rfl, rfl, modes_freshCore s c o l v, rfl, rfl, rfl, rfl⟩

end
end

section
/-! SUPPORT. The sequencer's queue and team instructions (R115 to R122, R151, R152), and the obligation about them. -/

namespace Sys2Proof.Machine

/-! ### The package's number stays through a wait -/

@[simp] theorem drainPair_pkg (s : State) (c : Nat) : (drainPair s c).pkg = s.pkg := by
  unfold drainPair
  split
  · dsimp only; split <;> rfl
  · rfl

@[simp] theorem raiseTrap_pkg (s : State) (c : Nat) (e : Engine) (r : FaultRec) (w : Bool) (pc : Pc) : (raiseTrap s c e r w pc).pkg = s.pkg :=
  drainPair_pkg ..

@[simp] theorem semOverflow_pkg (s : State) (c : Nat) (e : Engine) : (semOverflow s c e).pkg = s.pkg := by
  unfold semOverflow
  dsimp only
  split <;> simp

@[simp] theorem postSemAt_pkg (t : Nat) (s : State) (c : Nat) (e : Engine) (n : Nat) : (postSemAt t s c e n).pkg = s.pkg := by
  unfold postSemAt
  dsimp only
  split <;> simp

@[simp] theorem postFlight_pkg (t c : Nat) (s : State) (f : Flight) : (postFlight t c s f).pkg = s.pkg := by
  unfold postFlight
  split <;> simp

@[simp] theorem postEngine_pkg (t c : Nat) (s : State) (e : Engine) : (postEngine t c s e).pkg = s.pkg := by
  unfold postEngine
  dsimp only
  split <;> simp [foldl_keeps (·.pkg) (postFlight_pkg t c)]

theorem postsTo_pkg (t : Nat) (s : State) (c : Nat) : (postsTo t s c).pkg = s.pkg :=
  foldl_keeps (·.pkg) (fun s u => foldl_keeps (·.pkg) (postEngine_pkg u c) _ s) _ s

theorem takeWait_pkg {s s1 : State} {c : Nat} {e : Engine} {n : Option Nat} {w : Bool} (h : takeWait s c e n = some (s1, w)) :
    s1.pkg = s.pkg := by
  have k : (settlePosts s c).pkg = s.pkg := postsTo_pkg ..
  unfold takeWait at h
  dsimp only at h
  generalize settlePosts s c = u at h k
  split at h
  · cases h
  · split at h
    · cases h; exact k
    · split at h
      · cases h; exact k
      · split at h
        · cases h; exact k
        · cases h

/-! ### RDID (R121) -/

theorem bareCore_occ {a b : CoreSt} (h : bareCore a = bareCore b) : a.occ = b.occ := by
  have ho : (bareCore a).occ = (bareCore b).occ := by rw [h]
  exact ho

/-- The identifiers of a team do not depend on the posts and waits of the cycle. -/
theorem rdidValue_of_sameBare {s t : State} (h : SameBare s t) (hp : t.pkg = s.pkg) (sel : Nat) : rdidValue t sel = rdidValue s sel := by
  obtain ⟨-, -, hd, -, hf, -, hc⟩ := h
  have ho : (focusCs t).occ = (focusCs s).occ := by
    rw [focusCs, focusCs, hf]
    exact bareCore_occ (hc _)
  have hl : launchOf t (focusCs t) = launchOf s (focusCs s) := by rw [launchOf, launchOf, ho, hd]
  unfold rdidValue
  simp only [depthOf, ho, hl, hf, hp]

theorem rdidValue_of_issues {i : Instr} {s s1 : State} {w : Bool} (h : Issues i s s1 w) (sel : Nat) : rdidValue s sel = rdidValue s1 sel := by
  obtain ⟨-, -, -, hw, -⟩ := h
  exact (rdidValue_of_sameBare (sameBare_takeWait hw) (takeWait_pkg hw) sel).symm

/-- A body without sources writes its register when nothing holds it. -/
theorem scalarBody_const {s : State} {d : Nat} {cs : CoreSt} (h : SrcsReady s [] (.reg d) [] cs) (v : SVal) :
    scalarBody [] (.reg d) 1 (fun _ => .ok v) s = .done (scalarDone s cs (.reg d) v) := by
  obtain ⟨hz, ht, -⟩ := h
  simp only [scalarBody, scalarDone, hz, ht, Bool.false_eq_true, if_false]
  rfl

/-! ### QPUSH, QPOP and FORK (R115, R116, R152) -/

section
variable {s : State}

theorem qpushBody_pushes {q a : Nat} (hz : hazard s (focusCs s) .seq (claimsOf [.sreg .seq a] []) 1 = false)
    (hr : roomSq (focusCs s) (qsOfCode q) = true) (hf : freedNow s (focusCs s) (qsOfCode q) = false) :
    qpushBody q a s = .done { s := withCs s (reserveSq (focusCs s) (qsOfCode q) (focusCs s).nextId)
                              fills := [.scalar (qsOfCode q) (readReg (focusCs s).seq .seq a)] } := by
  simp [qpushBody, hz, hr, hf]

/-- QR is not a queue of the sequencer's: no pop of it is noted (R437). -/
theorem popSq_qr {cs : CoreSt} {x : SSlot} {v : SVal} {t : List SSlot} (hq : cs.qr = x :: t) (hv : x.val = some v) :
    popSq cs .qr = some (v, { cs with qr := t }) := by
  cases x
  cases hv
  simp [popSq, getSq, setSq, noteFull, hq]

theorem qpopBody_pops {d : Nat} {x : SSlot} {v : SVal} {t : List SSlot} (hz : hazard s (focusCs s) .seq (claimsOf [] [.sreg .seq d]) 1 = false)
    (hq : (focusCs s).qr = x :: t) (hv : x.val = some v) :
    qpopBody d s = .done { s := withCs s (setReg { focusCs s with qr := t } .seq d v) } := by
  simp [qpopBody, hz, popSq_qr hq hv]

section
variable {eng sem a slot line : Nat} (hz : hazard s (focusCs s) .seq (claimsOf [.sreg .seq a] []) 1 = false)
include hz

theorem forkBody_starts (hi : ((focusCs s).stream (engOfCode eng)).active = false) (hr : roomSq (focusCs s) (qsName (engOfCode eng)) = true) :
    forkBody eng sem a slot line s = .done
      { s := withCs s ((reserveSq (focusCs s) (qsName (engOfCode eng)) (focusCs s).nextId).setStream (engOfCode eng)
          (startStream ((focusCs s).stream (engOfCode eng)) sem line slot (residence s (focusCs s))))
        fills := [.scalar (qsName (engOfCode eng)) (readReg (focusCs s).seq .seq a)] } := by
  simp [forkBody, hz, hi, hr]

theorem forkBody_active (ha : ((focusCs s).stream (engOfCode eng)).active = true) :
    forkBody eng sem a slot line s = .trap { trap := .forkActive } := by
  simp [forkBody, hz, ha]

end

/-! ### LAUNCH, WAITCH, EXIT and YIELD (R117 to R120) -/

/-- The load of a child's packet (R117). -/
def packetLoad (s : State) (d : Nat) (va : Word) : Access :=
  { id := (focusCs s).nextId, eng := .seq, store := false, flight := (focusCs s).nextId, asid := asidOf s (focusCs s),
    issuedAt := coreCycle s, dst := .launch d, pieces := piecesOf [⟨va.toNat, 64, 0⟩] }

section
variable {d a : Nat} (hz : hazard s (focusCs s) .seq (claimsOf [.sreg .seq a] [.sreg .seq d]) 1 = false)
include hz

theorem launchBody_loads {va : Word} (hd : depthOf s (focusCs s) ≠ 9) (hv : readReg (focusCs s).seq .seq a = { val := va })
    (h64 : va.toNat % 64 = 0) (hc : (focusCs s).children.length < 256) (hr : seqReleased s s.focusCore = true) :
    launchBody d a s = .done
      { s := withCs s { focusCs s with accesses := (focusCs s).accesses ++ [packetLoad s d va] }
        openEnd := true, claims := claimsOf [.sreg .seq a] [.sreg .seq d] } := by
  simp [launchBody, packetLoad, hz, hd, hv, h64, Nat.not_le.2 hc, hr]

theorem waitchBody_waits (hc : (readReg (focusCs s).seq .seq a).val = 0 ∨
    ∃ x ∈ (focusCs s).children, x.id = (readReg (focusCs s).seq .seq a).val.toNat) :
    waitchBody d a s = .done { s := s, flow := .wait (.waitch d (readReg (focusCs s).seq .seq a).val.toNat) } := by
  have hw : (readReg (focusCs s).seq .seq a).val.toNat = 0 ∨
      (focusCs s).children.any (fun x => x.id == (readReg (focusCs s).seq .seq a).val.toNat) = true :=
    hc.imp (congrArg BitVec.toNat) fun h => by simpa using h
  simp only [waitchBody, hz, hw, Bool.false_eq_true, if_false, if_true]

end

theorem exitBody_waits (hm : (focusCs s).mem.active = false) (hv : (focusCs s).vec.active = false) (hx : (focusCs s).mtx.active = false)
    (v : Word) : exitBody v s = .done { s := s, flow := .wait (.exit v) } := by
  simp [exitBody, hm, hv, hx]

theorem yieldBody_answers {d : Nat} {o : Occ} (hz : hazard s (focusCs s) .seq (claimsOf [] [.sreg .seq d]) 1 = false)
    (ho : (focusCs s).occ = some o) :
    yieldBody d s = .done
      (if ((getGang s o.launch o.gang).map (·.swap)).getD false = false ∧ couldYield s ⟨o.launch, o.gang⟩ = true
       then { s := beginSwap (withCs s (setReg (focusCs s) .seq d { val := 1 })) o.launch o.gang 0 false }
       else { s := withCs s (setReg (focusCs s) .seq d { val := 0 }) }) := by
  simp only [yieldBody, hz, ho, Bool.false_eq_true, if_false, Bool.and_eq_true, Bool.not_eq_true']
  split <;> rfl

end

end Sys2Proof.Machine

section
open Sys2Proof Sys2Proof.Machine

/-- Settles O21: each instruction by what its body answers where its conditions hold; RDID by the identifiers that a wait leaves as they are. -/
theorem teamInstructionResults : Obligations.TeamInstructionResults := by
  unfold Obligations.TeamInstructionResults
  refine ⟨?_, ?_, ?_, ?_, ?_, ?_, ?_, ?_, ?_, ?_⟩
  · exact fun k q a => plain_of (fun _ => rfl) fun s ⟨hz, hr, hf⟩ => qpushBody_pushes hz hr hf
  · exact fun k d x v t => plain_of (fun _ => rfl) fun s ⟨hz, hq, hv⟩ => qpopBody_pops hz hq hv
  · exact fun k eng sem a slot line => plain_of (fun _ => rfl) fun s ⟨hz, hi, hr⟩ => forkBody_starts hz hi hr
  · exact fun k eng sem a slot line => plainTraps_of (fun _ => rfl) fun s ⟨hz, ha⟩ => forkBody_active hz ha
  · exact fun k d a va => plain_of (fun _ => rfl) fun s ⟨hz, hd, hv, h64, hc, hr⟩ => launchBody_loads hz hd hv h64 hc hr
  · exact fun k d a => plain_of (fun _ => rfl) fun s ⟨hz, hc⟩ => waitchBody_waits hz hc
  · exact fun k a => plain_of (fun _ => rfl) fun s ⟨hz, hm, hv, hx⟩ => by rw [hz]; exact exitBody_waits hm hv hx _
  · exact fun k d o => plain_of (fun _ => rfl) fun s ⟨hz, ho⟩ => yieldBody_answers hz ho
  · intro k d sel s s1 w cs1 hi hr
    rw [← rdidValue_of_issues hi sel]
    exact issue_goes hi (scalarBody_const hr _)
  · exact fun k a => uses_of (fun _ => rfl) fun s cs v _ => by split <;> rfl

end
end

section
/-! SUPPORT. How a waiting instruction completes (R118, R294, R296, R300, R345), and the obligation about it. -/

namespace Sys2Proof.Machine

section
variable {s : State} {c : Nat}

/-! ### MWAIT and CBW (R294, R300) -/

section
variable {d : Nat} (hw : waitOf s c .seq = some (.mwait d)) (hl : loadsDone (getCore s c) .seq = true)
include hw hl

theorem mwaitWake_wakes {r : WatchEnt} (hr : (getCore s c).watch = some r) (hk : r.wake = true) :
    mwaitWake c s = some (completeWait (setCore s c (mwaitEnd (getCore s c) d 0)) c .seq) := by
  simp [mwaitWake, hw, hl, hr, hk]

theorem mwaitTimeout_elapses {t : Nat} (hd : (getCore s c).deadline = some t) (ht : t ≤ s.time)
    (hr : ∀ r, (getCore s c).watch = some r → r.wake = false) :
    mwaitTimeout c s = some (completeWait (setCore s c (mwaitEnd (getCore s c) d 1)) c .seq) := by
  have hk : (getCore s c).watch.map (·.wake) ≠ some true := by
    intro h
    obtain ⟨r, hw, hk⟩ := Option.map_eq_some_iff.1 h
    exact Bool.noConfusion ((hr r hw).symm.trans hk)
  simp [mwaitTimeout, hw, hl, hd, ht, hk]

end

section
variable {d bar : Nat} {phase : Bool} (hl : loadsDone (getCore s c) .seq = true)
include hl

/-- A CBW sees a phase that has changed in an earlier cycle, and the barrier's error. -/
theorem cbwComplete_phase (hw : waitOf s c .seq = some (.cbw d bar phase false)) (hp : (getCb s (getCore s c) bar).phase ≠ phase)
    (hd : (getCb s (getCore s c) bar).doneAt < coreCycle s) :
    cbwComplete c s = some (completeWait
      (setCore s c (acquire (setReg (getCore s c) .seq d { val := if (getCb s (getCore s c) bar).err then 1 else 0 }))) c .seq) := by
  have hs : (getCb s (getCore s c) bar).seen (coreCycle s) = ((getCb s (getCore s c) bar).phase, (getCb s (getCore s c) bar).err) := if_pos hd
  simp [cbwComplete, hw, cbwReady, cbwEnd, hs, hl, hp]

/-- A token in error completes at once, with status 1. -/
theorem cbwComplete_error (hw : waitOf s c .seq = some (.cbw d bar phase true)) :
    cbwComplete c s = some (completeWait (setCore s c (acquire (setReg (getCore s c) .seq d { val := 1 }))) c .seq) := by
  simp [cbwComplete, hw, cbwReady, cbwEnd, hl]

end

/-! ### GBAR, WAITCH and the fences (R118, R296, R345) -/

/-- The phase completes when every participant has arrived; GBAR retires where its acquire can be made. -/
theorem gbarPhase_completes {l g : Nat} {gang : Gang} (hg : getGang s l g = some gang) (hn : gang.gbar ≠ [])
    (ha : (barParts s l g gang).all gang.gbar.contains = true) :
    gbarPhase l g s = some ((((gang.gbarRel ++ gang.gbar).filter fun p => (gbarCore s gang p).isSome).filterMap (gbarCore s gang)).foldl gbarDone
      (setGang s l g { gang with gbar := [], gbarRel := (gang.gbarRel ++ gang.gbar).filter fun p =>
        !((gang.gbarRel ++ gang.gbar).filter fun p => (gbarCore s gang p).isSome).contains p })) := by
  have hf : (!gang.gbar.isEmpty && (barParts s l g gang).all gang.gbar.contains) = true := by simp [hn, ha]
  simp only [gbarPhase, hg, hf, Bool.not_true, Bool.false_and, Bool.false_eq_true, if_true, if_false]

/-- A core whose awaited children have been read and forgotten. -/
def childrenRead (cs : CoreSt) (d child : Nat) : CoreSt :=
  { setReg cs .seq d { val := BitVec.ofNat 64 (waitchValue cs child) } with
    children := cs.children.filter fun x => !(child == 0 || x.id == child) }

theorem waitchDone_returns {d child : Nat} (hw : waitOf s c .seq = some (.waitch d child))
    (hr : ∀ x ∈ awaited (getCore s c) child, x.retired = true) (hl : loadsDone (getCore s c) .seq = true) :
    waitchDone c s = some (completeWait (setCore s c (acquire (childrenRead (getCore s c) d child))) c .seq) := by
  have ha : (awaited (getCore s c) child).all (·.retired) = true := List.all_eq_true.2 hr
  simp [waitchDone, childrenRead, hw, ha, hl]

theorem fenceDone_acq (hw : waitOf s c .mem = some .fenceAcq) (hl : loadsDone (getCore s c) .mem = true) :
    fenceDone c s = some (completeWait (setCore s c (acquire (getCore s c))) c .mem) := by
  simp [fenceDone, hw, fenceReady, hl]

theorem fenceDone_rel (hw : waitOf s c .mem = some .fenceRel) (hp : performed s (getCore s c) .mem = true) (hr : rspDone s c = true)
    (hd : released (getCore s c) = true) : fenceDone c s = some (completeWait (setCore s c (getCore s c)) c .mem) := by
  simp [fenceDone, hw, fenceReady, hp, hr, hd]

end

end Sys2Proof.Machine

section
open Sys2Proof Sys2Proof.Machine

/-- Settles O25: each completion by its own lemma. -/
theorem waitCompletionResults : Obligations.WaitCompletionResults := by
  unfold Obligations.WaitCompletionResults
  refine ⟨?_, ?_, ?_, ?_, ?_, ?_, ?_, ?_⟩
  · exact fun c s d r hw hr hk hl => evOut_some (mwaitWake_wakes hw hl hr hk)
  · exact fun c s d t hw hd ht hr hl => evOut_some (mwaitTimeout_elapses hw hl hd ht hr)
  · exact fun c s d bar phase hw hl hp hd => evOut_some (cbwComplete_phase hl hw hp hd)
  · exact fun c s d bar phase hw hl => evOut_some (cbwComplete_error hl hw)
  · exact fun l g s gang hg hn ha => evOut_some (gbarPhase_completes hg hn ha)
  · exact fun c s d child hw hr hl => evOut_some (waitchDone_returns hw hr hl)
  · exact fun c s hw hl => evOut_some (fenceDone_acq hw hl)
  · exact fun c s hw hp hr hd => evOut_some (fenceDone_rel hw hp hr hd)

end
end

section
/-! SUPPORT. Placement rounds, stealing, and failures of schedulers, workers and Quartz (R105, R111, R395 to R399), and the obligation about
them. -/

namespace Sys2Proof.Machine

section
variable {s : State}

/-! ### Placement rounds (R395) -/

theorem placementRound_uncalled (h : s.disp.quartzStopped = true ∨ roundCalled s = false) : placementRound s = none := by
  cases h with
  | inl h => simp [placementRound, h]
  | inr h => simp [placementRound, h]

/-- The state in which a round begins: its call is answered, and the drains that have ended are. -/
def roundBegun (s : State) : State := endDrains { s with disp := { s.disp with roundDue := false } }

/-- After a round every gang that stood in the order is awake, and those that still wait have aged. -/
def roundEnds (order : List (GangRef × Launch × Gang)) (s : State) : State :=
  order.foldl (fun s g => ageGang s g.1) (order.foldl (fun s g => awake s g.1) s)

theorem placementRound_runs (hq : s.disp.quartzStopped = false) (hr : roundCalled s = true) :
    placementRound s = some (roundEnds (placementOrder (roundBegun s)) (placePart (fun r s => preempt s r) (roundBegun s))) :=
  if_neg (by simp [hq, hr])

theorem placePart_empty {act : GangRef → State → State} (ho : placementOrder s = []) : placePart act s = s := by
  simp only [placePart, ho]

/-- The gangs that a round places where they fit, after the head and, while the age limit is in force, the oldest: all but those two, and at the limit
none of the oldest gang's class or below (R395). -/
def placedAfter (s : State) (h o : GangRef × Launch × Gang) : List (GangRef × Launch × Gang) :=
  let limit : Bool := s.disp.agelim ≤ o.2.2.age
  (placementOrder s).filter fun g => !(g.1 == h.1 || (limit && g.1 == o.1) || (limit && g.2.1.prio ≤ o.2.1.prio))

theorem placePart_head {act : GangRef → State → State} {h o : GangRef × Launch × Gang} {rest : List (GangRef × Launch × Gang)}
    (ho : placementOrder s = h :: rest) (hl : oldest (h :: rest) = some o) :
    placePart act s =
      let limit : Bool := s.disp.agelim ≤ o.2.2.age
      let s1 := reserveAndPlace s h.1
      let s2 := if limit && o.1 != h.1 then reserveAndPlace s1 o.1 else s1
      (placedAfter s h o).foldl (fun s g => placeIfFits s g.1) (act h.1 s2) := by
  simp only [placePart, placedAfter, ho, hl]

/-! ### Stealing (R397) -/

theorem gangSteal_grants {k l g : Nat} {x : Launch} {gg : Gang} {cs : List (Nat × Nat)} (hk : k < 8)
    (hf : ((List.range 48).any fun i => coreInService s (48 * k + i) && !coreTaken s (48 * k + i)) = true) (hr : (getSched s k).runList = [])
    (ho : ownsList s k = true) (hl : getLaunch s l = some x) (hg : getGang s l g = some gg) (hn : gg.left ≠ [])
    (hs : (stealable gg ((k + 1) % 8) = true ∧ ownsList s ((k + 1) % 8) = true) ∨
      (stealable gg ((k + 7) % 8) = true ∧ ownsList s ((k + 7) % 8) = true))
    (hc : stealFit s ⟨l, g⟩ x gg k = some cs) :
    gangSteal k l g s = some (callRound (placeGang (unplace s l g) ⟨l, g⟩ cs)) := by
  have hgrant : (stealable gg ((k + 1) % 8) && ownsList s ((k + 1) % 8) || stealable gg ((k + 7) % 8) && ownsList s ((k + 7) % 8)) = true := by
    simpa using hs
  simp only [gangSteal, hf, hr, ho, hl, hg, hc, hgrant, Nat.not_le.2 hk, List.isEmpty_nil, List.isEmpty_eq_false_iff.2 hn, decide_false, Bool.not_true,
    Bool.or_self, Bool.false_eq_true, if_false]

/-! ### Schedulers (R398) -/

section
variable {k : Nat} (hk : k < 8)
include hk

theorem heartbeat_beats (hb : (getSched s k).working = true → (getSched s k).lastBeat + 100 * usec ≤ s.time) :
    heartbeat k s = some (setSched s k { getSched s k with lastBeat := s.time, returning := !(getSched s k).working }) := by
  have hn : ((getSched s k).working && decide (s.time < (getSched s k).lastBeat + 100 * usec)) = false := by
    simpa using hb
  simp only [heartbeat, Nat.not_le.2 hk, hn, decide_false, Bool.or_self, Bool.false_eq_true, if_false]

theorem schedAdopt_adopts (hw : (getSched s k).working = true) (hb : (getSched s k).lastBeat + msec ≤ s.time) :
    schedAdopt k s = some (((List.range 8).filter fun j => (getSched (adoptList s k) j).adopter == some k).foldl adoptList (adoptList s k)) := by
  simp only [schedAdopt, Nat.not_le.2 hk, hw, Nat.not_lt.2 hb, decide_false, Bool.not_true, Bool.or_self, Bool.false_eq_true, if_false]

theorem schedReturn_returns (hw : (getSched s k).working = false) (hr : (getSched s k).returning = true) (hb : sliceBoundary s k = true) :
    schedReturn k s = some (logHub (setSched s k { getSched s k with working := true, returning := false, adopter := none }) 0x080B
      [(1, k), (1, 0xFF)]) := by
  simp only [schedReturn, Nat.not_le.2 hk, hw, hr, hb, decide_false, Bool.not_true, Bool.or_self, Bool.false_eq_true, if_false]

end

/-! ### Workers and Quartz (R399) -/

theorem workerFails_fails {w : Nat} (hw : w < 8) (hn : w ∉ s.disp.workersDown) :
    workerFails w s = some { s with disp := { s.disp with workersDown := s.disp.workersDown ++ [w] } } := by
  simp [workerFails, hw, hn]

/-- A first mismatch within a second stops Quartz, and is not fatal. -/
theorem quartzMismatch_first (hq : s.disp.quartzStopped = false) (hl : ∀ t, s.disp.quartzLast = some t → t + 1000 * msec ≤ s.time) (pc : Nat) :
    quartzMismatch pc s =
      some (logHubSev { s with disp := { s.disp with quartzStopped := true, quartzLast := some s.time, quartzCount := 1 } } 0x080C 1
        [(8, pc), (1, 1)]) := by
  have ha : (s.disp.quartzLast.any fun t => decide (s.time < t + 1000 * msec)) = false := by
    simpa [Option.any_eq_false] using hl
  simp only [quartzMismatch, hq, ha, Bool.false_eq_true, if_false]

theorem quartzRestart_restarts {t : Nat} (hq : s.disp.quartzStopped = true) (hl : s.disp.quartzLast = some t) (ht : s.time ≤ t + msec) :
    quartzRestart s = some { s with disp := { s.disp with quartzStopped := false } } := by
  simp [quartzRestart, hq, hl, ht]

end

end Sys2Proof.Machine

section
open Sys2Proof Sys2Proof.Machine

/-- Settles O28: a round by its placing part, with and without a head, and each other event by its own lemma. -/
theorem schedulerEventResults : Obligations.SchedulerEventResults := by
  unfold Obligations.SchedulerEventResults
  refine ⟨?_, ?_, ?_, ?_, ?_, ?_, ?_, ?_, ?_, ?_, ?_⟩
  · intro s h rest o hq hr s0 ho hl
    change placementOrder (roundBegun s) = _ at ho
    refine evOut_some ((placementRound_runs hq hr).trans ?_)
    rw [placePart_head ho hl, placedAfter, ho]
    rfl
  · intro s hq hr s0 ho
    change placementOrder (roundBegun s) = _ at ho
    refine evOut_some ((placementRound_runs hq hr).trans ?_)
    rw [placePart_empty ho, ho]
    rfl
  · exact fun s hr => congrArg (evOut s) (placementRound_uncalled (.inr hr))
  · exact fun s hq => congrArg (evOut s) (placementRound_uncalled (.inl hq))
  · exact fun k l g s x gg cs hk hf hr ho hl hg hn hs hc => evOut_some (gangSteal_grants hk hf hr ho hl hg hn hs hc)
  · exact fun k s hk hb => evOut_some (heartbeat_beats hk hb)
  · exact fun k s hk hw hb => evOut_some (schedAdopt_adopts hk hw hb)
  · exact fun k s hk hw hr hb => evOut_some (schedReturn_returns hk hw hr hb)
  · exact fun w s hw hn => evOut_some (workerFails_fails hw hn)
  · exact fun pc s hq hl => evOut_some (quartzMismatch_first hq hl pc)
  · exact fun s t hq hl ht => evOut_some (quartzRestart_restarts hq hl ht)

end
end

section
/-! SUPPORT. Dispatch queues, packets, children and the retirement of launches (R104, R108, R117, R386 to R391), and the obligation about them. -/

namespace Sys2Proof.Machine

/-! ### The registers of a queue (R386, R387) -/

/-- The queue with its write index written. -/
def rung (x : DispQ) (v : Nat) : DispQ := { x with wptr := v % 2 ^ 32 }

/-- The write index is the low half of the register. -/
theorem rung_word (x : DispQ) (v : Nat) : rung x ((BitVec.ofNat 64 v).toNat % 2 ^ 32) = rung x v := by
  have h : (BitVec.ofNat 64 v).toNat % 2 ^ 32 % 2 ^ 32 = v % 2 ^ 32 := by rw [BitVec.toNat_ofNat]; omega
  rw [rung, h, rung]

/-- The queue with its control written: ERR is cleared by a 1, and tokens start at 0 when it is enabled (R387, R388). -/
def controlled (x : DispQ) (v : Word) : DispQ :=
  { x with qctl := (v &&& qctlMask) ||| (if v.getLsbD 1 then 0 else x.qctl &&& 2)
           tokens := if !x.en && v.getLsbD 0 then 0 else x.tokens }

/-- The queue's control makes a ring that its hardware can serve, or leaves the queue disabled. -/
def ringServed (x : DispQ) : Bool := !(x.en && (x.logSize < 4 || 16 < x.logSize || 2 ^ x.logSize < x.fill))

theorem ringServed_of_fits {x : DispQ} (h : x.en = false ∨ 4 ≤ x.logSize ∧ x.logSize ≤ 16 ∧ x.fill ≤ 2 ^ x.logSize) : ringServed x = true := by
  cases h with
  | inl h => simp [ringServed, h]
  | inr h =>
    obtain ⟨h4, h16, hf⟩ := h
    simp only [ringServed, Nat.not_lt.2 h4, Nat.not_lt.2 h16, Nat.not_lt.2 hf, decide_false, Bool.or_self, Bool.and_false, Bool.not_false]

theorem not_ringServed {x : DispQ} (he : x.en = true) (h : x.logSize < 4 ∨ 16 < x.logSize ∨ 2 ^ x.logSize < x.fill) : ¬ ringServed x = true := by
  have hbad : (decide (x.logSize < 4) || decide (16 < x.logSize) || decide (2 ^ x.logSize < x.fill)) = true := by
    simpa only [Bool.or_eq_true, decide_eq_true_eq, or_assoc] using h
  simp only [ringServed, he, hbad, Bool.and_self, Bool.not_true, Bool.false_eq_true, not_false_eq_true]

section
variable {s : State} {q : Nat} (hq : q < 64)
include hq

/-- A register of a dispatch queue, by its place in the queue's 64 bytes. -/
theorem writeRegister_queue {r : Nat} (hr : r < 0x40) (v : Word) : writeRegister s (0x101000 + r + 0x40 * q) v =
    if r = 0 then setQ s q { getQ s q with qbase := v &&& ~~~(0x3F : Word) }
    else if r = 8 then (dispQctl q v s).getD s
    else if r = 0x10 then (dispQwptr q (v.toNat % 2 ^ 32) s).getD s
    else s := by
  have hb : inBlock (0x101000 + r + 0x40 * q) 0x100000 0x100000 = true := by rw [inBlock_iff]; omega
  have hd : 0x101000 + r + 0x40 * q - 0x100000 = 0x1000 + r + 0x40 * q := by omega
  have hi : inBlock (0x1000 + r + 0x40 * q) 0x1000 0x1000 = true := by rw [inBlock_iff]; omega
  have hn : (0x1000 + r + 0x40 * q - 0x1000) / 0x40 = q := by omega
  have hm : (0x1000 + r + 0x40 * q) % 0x40 = r := by omega
  have h0 : 0x1000 + r + 0x40 * q ≠ 0 := by omega
  have h8 : 0x1000 + r + 0x40 * q ≠ 8 := by omega
  have h10 : 0x1000 + r + 0x40 * q ≠ 0x10 := by omega
  have h18 : 0x1000 + r + 0x40 * q ≠ 0x18 := by omega
  rw [writeRegister_disp hb, hd]
  simp only [writeDisp, hi, hn, hm, h0, h8, h10, h18, if_true, if_false]
  split
  · rfl
  · rfl
  · rfl
  · rename_i n0 n8 n10
    rw [if_neg n0, if_neg n8, if_neg n10]

/-- A doorbell that claims more packets than the ring holds disables the queue with ERR. -/
theorem dispQwptr_rings (v : Nat) : dispQwptr q v s = some (setQ s q
    (if 2 ^ (rung (getQ s q) v).logSize < (rung (getQ s q) v).fill then (rung (getQ s q) v).fail else rung (getQ s q) v)) :=
  if_neg (Nat.not_le.2 hq)

theorem writeRegister_qwptr (v : Nat) : writeRegister s (0x101010 + 0x40 * q) (BitVec.ofNat 64 v) = setQ s q
    (if 2 ^ (rung (getQ s q) v).logSize < (rung (getQ s q) v).fill then (rung (getQ s q) v).fail else rung (getQ s q) v) := by
  refine (writeRegister_queue hq (r := 0x10) (by decide) _).trans ?_
  rw [if_neg (by decide), if_neg (by decide), if_pos rfl, dispQwptr_rings hq, rung_word]
  rfl

/-- A queue that is enabled with a ring size out of range, or with more packets than its ring holds, is disabled with ERR. -/
theorem writeRegister_qctl (hb : s.fw.boot = .running) (v : Word) : writeRegister s (0x101008 + 0x40 * q) v =
    setQ s q (if ringServed (controlled (getQ s q) v) then controlled (getQ s q) v else (controlled (getQ s q) v).fail) := by
  refine (writeRegister_queue hq (r := 8) (by decide) v).trans ?_
  rw [if_neg (by decide), if_pos rfl, ringServed]
  simp only [dispQctl, Nat.not_le.2 hq, hb, if_true, if_false, Option.getD_some, Bool.not_eq_true', ← Bool.not_eq_true, ite_not]
  rfl

/-- The firewall lets the host write the dispatch block in normal running only (R416, R419). -/
theorem boot_of_writeAllowed_queue {r : Nat} (hr : r < 0x40) {v : Word} (ha : writeAllowed s .host (0x101000 + r + 0x40 * q) v = true) :
    s.fw.boot = .running := by
  have ho : isOnyx (0x101000 + r + 0x40 * q) = false := by
    simp only [isOnyx, inBlock, Bool.or_eq_false_iff, Bool.and_eq_false_iff, decide_eq_false_iff_not, List.any_eq_false, Bool.and_eq_true,
      decide_eq_true_eq]
    exact ⟨by omega, fun k _ => by omega⟩
  have hrun : s.fw.boot ≠ .running → writeAllowed s .host (0x101000 + r + 0x40 * q) v = false := by
    intro hb
    simp [writeAllowed, ho, hb]
  exact Decidable.byContradiction fun hb => Bool.noConfusion ((hrun hb).symm.trans ha)

end

/-! ### Token ticks and packets (R388, R390) -/

section
variable {s : State}

theorem tokenTick_gains (ht : (s.disp.ticks + 1) * msec ≤ s.time) :
    tokenTick s = some { s with disp := { s.disp with
      ticks := s.disp.ticks + 1
      queues := s.disp.queues.map fun (p : Nat × DispQ) =>
        (p.1, if p.2.en then { p.2 with tokens := min (p.2.tokens + p.2.rate) p.2.cap } else p.2) } } :=
  if_neg (Nat.not_lt.2 ht)

theorem packetCopy_takes {q : Nat} {s1 t : State} {bs : List Byte} (hq : q < 64) (he : (getQ s q).en = true) (hf : (getQ s q).fill ≠ 0)
    (hw : (workerOf s q).isSome = true) (hr : ringPacket s (getQ s q) = .ok (s1, bs))
    (hb : (packetOfBytes bs).barrier = true → queueBusy s q = false)
    (ht : takePacketOf (setQ s1 q { getQ s q with rptr := ((getQ s q).rptr + 1) % 2 ^ 32 }) q (packetOfBytes bs) = .ok t) :
    packetCopy q s = some t := by
  have hwait : ((packetOfBytes bs).barrier && queueBusy s q) = false := by simpa using hb
  have hn : (workerOf s q).isNone = false := Option.isNone_eq_false_iff.2 hw
  simp only [packetCopy, Nat.not_le.2 hq, he, hf, hn, hr, hwait, ht, decide_false, Bool.not_true, Bool.or_self, Bool.false_eq_true, if_false]
  rfl

/-! ### Children (R117) -/

/-- The package without a child packet that the front end has taken up. -/
def withoutChild (s : State) (x : DPacket × Nat × Nat × Nat × Nat × Nat) : State :=
  { s with disp := { s.disp with children := s.disp.children.erase x } }

section
variable {parent child l g t h id : Nat} {p : DPacket} {pl : Launch}
  (hf : (s.disp.children.find? fun x => x.2.1 == parent && x.2.2.2.2.2 == child) = some (p, l, g, t, h, id))
  (hl : getLaunch s l = some pl) (hp : p.type = 1)
include hf hl hp

theorem childDispatch_launches {v : Variant}
    (hc : checkLaunch (takeNumber (withoutChild s (p, l, g, t, h, id))).1 p true 0 pl.module = .ok v) :
    let x := takeNumber (withoutChild s (p, l, g, t, h, id))
    childDispatch parent child s = some (addLaunch x.1 x.2
      { asid := pl.asid, prio := pl.prio, depth := pl.depth + 1, module := pl.module, pkt := p, parent := some (l, g, t, h, id) } v) := by
  rw [withoutChild] at hc
  simp only [childDispatch, withoutChild, hf, hl, hp, hc, if_true]

theorem childDispatch_fails {st : Nat} {s2 : State}
    (hc : checkLaunch (takeNumber (withoutChild s (p, l, g, t, h, id))).1 p true 0 pl.module = .error st)
    (hs : signalPut (reportFailure (takeNumber (withoutChild s (p, l, g, t, h, id))).1 (takeNumber (withoutChild s (p, l, g, t, h, id))).2 pl.asid st)
      (takeNumber (withoutChild s (p, l, g, t, h, id))).2 pl.asid p.signal st = .ok s2) :
    childDispatch parent child s = some (childDone s2 ⟨l, g, t, h⟩ id st) := by
  rw [withoutChild] at hc hs
  simp only [childDispatch, hf, hl, hp, hc, hs, if_true]
  rfl

end

/-! ### Retirement of a launch (R104, R108, R391) -/

/-- The launch is gone; the context areas of one that was not killed are free. -/
def launchGone (s : State) (n : Nat) (l : Launch) : State :=
  let s2 := { s with disp := { s.disp with launches := mdel s.disp.launches n } }
  if l.killed.isSome then s2 else freeAreas s2 fun o => o.launch == n

section
variable {n : Nat} {l : Launch} (hl : getLaunch s n = some l)
include hl

theorem launchRetire_waits (h : hasChildren s n = true ∨ ∃ g ∈ l.gangs, g.left ≠ []) : launchRetire n s = none := by
  have hw : (!(l.gangs.all fun g => g.left.isEmpty) || hasChildren s n) = true := by
    cases h with
    | inl h => simp [h]
    | inr h => simpa using .inl h
  simp [launchRetire, hl, hw]

variable {s1 : State} (hg : ∀ g ∈ l.gangs, g.left = []) (hc : hasChildren s n = false)
  (hk : l.killed = none ∨ discardsPending s n = false ∧ reportsWait s = false) (hn : l.node = none)
  (hs : signalPut (reclaimAll (reportKill s n l) n) n l.asid l.pkt.signal (launchStatus l) = .ok s1)
include hg hc hk hn hs

/-- A launch outside a graph retires; its parent, if it has one, learns its status. -/
theorem launchRetire_retires : launchRetire n s = some (match l.parent with
    | some (a, g, t, h, id) => childDone (launchGone s1 n l) ⟨a, g, t, h⟩ id (launchStatus l)
    | none => launchGone s1 n l) := by
  have hempty : (l.gangs.all fun g => g.left.isEmpty) = true := by simpa using hg
  have hopen : (l.killed.isSome && (discardsPending s n || reportsWait s)) = false := by
    cases hk with
    | inl h => simp [h]
    | inr h => simp [h.1, h.2]
  simp only [launchRetire, hl, hempty, hc, hopen, hs, hn, Bool.not_true, Bool.or_self, Bool.false_eq_true, if_false]
  rfl

end

end

end Sys2Proof.Machine

section
open Sys2Proof Sys2Proof.Machine

/-- Settles O29: a register of a queue through the checks of register space, and each other event by its own lemma. -/
theorem dispatchEventResults : Obligations.DispatchEventResults := by
  unfold Obligations.DispatchEventResults
  refine ⟨?_, ?_, ?_, ?_, ?_, ?_, ?_, ?_, ?_⟩
  · intro q v s hq w x
    have named (o : Option State) : (if 64 ≤ q then none else o) = o := if_neg (Nat.not_le.2 hq)
    have hw := writeRegister_qwptr (s := noteHost s .host) hq v
    exact ⟨fun ha => evOut_some ((named _).trans (hostWrite_refused ha (by omega) (by omega))), fun ha =>
      ⟨fun hf => evOut_some ((named _).trans (hostWrite_allowed ha (hw.trans (congrArg _ (if_neg (Nat.not_lt.2 hf)))) (by omega) (by omega))),
        fun hf => evOut_some ((named _).trans (hostWrite_allowed ha (hw.trans (congrArg _ (if_pos hf))) (by omega) (by omega)))⟩⟩
  · exact fun q v s hq ha => evOut_some ((if_neg (Nat.not_le.2 hq)).trans (hostWrite_refused ha (by omega) (by omega)))
  · intro q v s hq ha s1 x y
    have hb : (noteHost s .host).fw.boot = .running := boot_of_writeAllowed_queue hq (r := 8) (by decide) ha
    have named (o : Option State) : (if 64 ≤ q then none else o) = o := if_neg (Nat.not_le.2 hq)
    have hw := writeRegister_qctl hq hb v
    refine ⟨fun h => evOut_some ((named _).trans (hostWrite_allowed ha (hw.trans (congrArg _ (if_pos ?_))) (by omega) (by omega))),
      fun he h => evOut_some ((named _).trans (hostWrite_allowed ha (hw.trans (congrArg _ (if_neg ?_))) (by omega) (by omega)))⟩
    · exact ringServed_of_fits h
    · exact not_ringServed he h
  · exact fun s ht => evOut_some (tokenTick_gains ht)
  · exact fun q s s1 bs t hq he hf hw hr hb ht => evOut_some (packetCopy_takes hq he hf hw hr hb ht)
  · exact fun parent child s p l g t h id pl hf hl hp => ⟨fun v hc => evOut_some (childDispatch_launches hf hl hp hc),
      fun st s2 hc hs => evOut_some (childDispatch_fails hf hl hp hc hs)⟩
  · intro n s l s1 hl hg hc hk hp hn hs
    refine evOut_some ((launchRetire_retires hl hg hc hk hn hs).trans ?_)
    rw [hp]
    rfl
  · intro n s l s1 a g t h id hl hg hc hk hp hn hs
    refine evOut_some ((launchRetire_retires hl hg hc hk hn hs).trans ?_)
    rw [hp]
    rfl
  · exact fun n s l hl h => congrArg (evOut s) (launchRetire_waits hl h)

end
end

section
/-! SUPPORT. How a team starts, stops, is saved, is restored and retires (R98 to R104, R109, R240, R366 to R370, R380, R381), and the obligation
about it. -/

namespace Sys2Proof.Machine

section
variable {s : State}

/-! ### Start and restore (R100, R381) -/

section
variable {c l g t : Nat} {x : Launch} {tm : Team} (hn : nextTeam s c = some (l, g, t)) (hl : getLaunch s l = some x)
  (ht : getTeam s l g t = some tm) (hp : tm.st = .placed c) (hv : ∀ y ∈ teamCores x.pkt.paired c, vacant s y = true)
include hn hl ht hp hv

theorem teamStart_starts {v : Variant} {s1 : State} (hx : x.var = some v) (hs : tm.started = false)
    (hw : shardInWay s x l v.bgmask (teamCores x.pkt.paired c) = false) (ha : allotTeam l v.bgmask (teamCores x.pkt.paired c) s = .ok s1) :
    let s2 := (teamCores x.pkt.paired c).foldl (fun s y => setCore s y (freshCore s y ⟨l, g, t, if y = c then 0 else 1⟩ x v)) (restoreBars (takeRun s1 c) l g)
    let s3 := (List.range (teamCores x.pkt.paired c).length).foldl (fun s h => reserveArea s ⟨l, g, t, h⟩ c v.bgmask) s2
    teamStart c s = some (teamResident s3 l g t c) := by
  have hfree : (teamCores x.pkt.paired c).any (fun y => !vacant s y) = false := by simpa using hv
  rw [getLaunch] at hl
  simp only [teamStart, hn, hl, ht, hx, hs, hp, hfree, hw, ha, bne_self_eq_false, Bool.or_self, Bool.false_eq_true, if_false]

section
variable (hs : tm.started = true) (hk : tm.stopped = false)
include hs hk

theorem contextRestore_reads : contextRestore c s =
    if (teamRecords s l g t (teamCores x.pkt.paired c)).all (fun p => p.2.any recordOk) then
      some (teamResident (restoreTeam (takeRun s c) l g t (teamRecords s l g t (teamCores x.pkt.paired c))) l g t c)
    else some (killLaunch s l (trapCode .ctxBad)) := by
  have hfree : (teamCores x.pkt.paired c).any (fun y => !vacant s y) = false := by simpa using hv
  rw [getLaunch] at hl
  simp only [contextRestore, hn, hl, ht, hs, hk, hp, hfree, bne_self_eq_false, Bool.not_true, Bool.or_self, Bool.false_eq_true, if_false]

end

end

/-- In cycle R the streams of both halves restart (R240). -/
theorem streamRestart_restarts {c t : Nat} (hr : (getCore s c).restartAt = some t) (ht : t ≤ coreCycle s) :
    streamRestart c s = some (((teamCores (isPaired s (getCore s c)) c).filter fun y => (getCore s y).restartAt.isSome).foldl
      (fun s y => setCore s y (restarted (getCore s y) (coreCycle s) (leaseNow s y))) s) := by
  simp only [streamRestart, hr, Nat.not_lt.2 ht, if_false]

theorem streamRestart_early {c t : Nat} (hr : (getCore s c).restartAt = some t) (ht : coreCycle s < t) : streamRestart c s = none := by
  simp only [streamRestart, hr, ht, if_true]

/-! ### Save and stop (R366 to R370, R380) -/

section
variable {c : Nat} {o : Occ} (ho : (getCore s c).occ = some o)
include ho

section
variable {x : Gang} (hg : getGang s o.launch o.gang = some x) (hx : x.swap = true) (hr : gangRspDone s o = true)
include hg hx hr

/-- The record of a stopped team stands. -/
theorem contextSave_stopped (hs : (getCore s c).run = .stopped) : contextSave c s = some (freeSaved s c o) := by
  simp [contextSave, ho, hg, hx, hr, hs]

theorem contextSave_writes (hs : (getCore s c).run ≠ .stopped) (he : (getCore s c).event = true) (hp : onlyPreempt s c = true)
    (hd : saveReady s c = true) : contextSave c s = some (freeSaved (recordCore (cutCore s c) c o 1) c o) := by
  simp [contextSave, ho, hg, hx, hr, hs, he, hp, hd]

end

/-- The engines of a core are still: an event has stopped them, the limit of the drain has come, or each is at rest (R367). -/
def enginesStill (s : State) (c : Nat) : Prop :=
  (getCore s c).event = true ∨ drained s (getCore s c) = true ∨ ∀ e, atRest s (getStream s c e) = true

theorem teamStop_stops (hh : o.half = 0)
    (hc : ∀ y ∈ teamCores (isPaired s (getCore s c)) c, isDraining (getCore s y).run = true ∧ saveReady s y = true ∧ enginesStill s y)
    (hp : ∃ y ∈ teamCores (isPaired s (getCore s c)) c, onlyPreempt s y = false) :
    teamStop c s = some (updTeam ((teamCores (isPaired s (getCore s c)) c).foldl stopCore s) o.launch o.gang o.team fun t =>
      { t with stopped := true }) := by
  have still (y : Nat) (h : enginesStill s y) : ((getCore s y).event || drained s (getCore s y) ||
      [Engine.seq, .mem, .vec, .mtx].all fun e => atRest s (getStream s y e)) = true := by
    rcases h with h | h | h <;> simp [h]
  have hall : (teamCores (isPaired s (getCore s c)) c).all (fun y => isDraining (getCore s y).run && ((getCore s y).event || drained s (getCore s y) ||
      [Engine.seq, .mem, .vec, .mtx].all fun e => atRest s (getStream s y e)) && saveReady s y) = true := by
    refine List.all_eq_true.2 fun y hy => ?_
    obtain ⟨h1, h2, h3⟩ := hc y hy
    rw [h1, h2, still y h3]
    rfl
  have hpre : (teamCores (isPaired s (getCore s c)) c).all (onlyPreempt s) = false := by simpa using hp
  simp only [teamStop, ho, hh, hall, hpre, decide_true, Bool.not_false, Bool.and_self, if_true]

end

theorem drainLimit_stops {c t : Nat} (hr : (getCore s c).run = .draining t) (ht : t + 4096 ≤ coreCycle s) (he : (getCore s c).event = false) :
    drainLimit c s = some ((teamCores (isPaired s (getCore s c)) c).foldl (fun s y => setCore s y (stopEngines s (getCore s y))) s) := by
  simp [drainLimit, hr, ht, he]

theorem watchdog_fires {c : Nat} {e : Engine} (ho : (getCore s c).occ.isSome = true) (hr : (getCore s c).run ≠ .stopped)
    (hv : (getCore s c).event = false ∨ (getCore s c).stoppedAt = some (coreCycle s)) (hs : (getCore s c).restartAt = none)
    (hg : gangTogether s (getCore s c) = true) (ha : ((getCore s c).stream e).active = true) (hx : watchExempt ((getCore s c).stream e) = false)
    (hl : ((getCore s c).stream e).lastIssue + s.disp.wdog ≤ residence s (getCore s c)) : watchdog c e s = some (teamEvent s c e .watchdog) := by
  have hev : (!(getCore s c).event || (getCore s c).stoppedAt == some (coreCycle s)) = true := by simpa using hv
  simp [watchdog, ho, hr, hev, hs, hg, ha, hx, hl]

/-! ### Retirement (R103, R104) -/

section
variable {l g t c : Nat} {x : Launch} {tm : Team}

/-- The half of a team that stands on core d, where core c is the leader's. -/
def halfAt (l g t c d : Nat) : Occ := ⟨l, g, t, if d = c then 0 else 1⟩

/-- The cores of a team on which EXIT completes now, with their statuses. -/
def endingHalves (s : State) (l g t c : Nat) (cores : List Nat) : List (Nat × Word) :=
  cores.filterMap fun d =>
    if (getCore s d).exitStatus.isSome || (getCore s d).occ != some (halfAt l g t c d) then none else (exitReady s d (halfAt l g t c d)).map fun v => (d, v)

/-- Step 6 of EXIT on these cores. -/
def halvesExit (s : State) (l g t c : Nat) (hs : List (Nat × Word)) : State := hs.foldl (fun s p => exitCore s p.1 (halfAt l g t c p.1) p.2) s

/-- Statuses of the halves whose EXIT has completed. -/
def halvesOver (s : State) (l g t c : Nat) (cores : List Nat) : List Word := cores.filterMap fun d => exited s d (halfAt l g t c d)

/-- The team is over: its cores and its context areas are free. -/
def teamOver (s : State) (l g t : Nat) (cores : List Nat) (vs : List Word) : State :=
  let s1 := callRound (freeAreas s fun o => o.launch == l && o.gang == g && o.team == t && o != ⟨l, 0, 0, 0⟩)
  endSwap (updTeam (cores.foldl (fun s d => setCore s d (vacate (getCore s d))) s1) l g t fun t =>
    { t with st := .exited (teamStatus vs), stopped := false }) l g

@[simp] theorem halfAt_lead (l g t c : Nat) : halfAt l g t c c = ⟨l, g, t, 0⟩ := by simp [halfAt]

theorem halfAt_follower (hp : pairOf c ≠ c) : halfAt l g t c (pairOf c) = ⟨l, g, t, 1⟩ := by simp [halfAt, hp]

/-- EXIT completes on a core that is ready. -/
theorem endingHalves_cons_ready {d : Nat} {v : Word} (he : (getCore s d).exitStatus = none) (ho : (getCore s d).occ = some (halfAt l g t c d))
    (hv : exitReady s d (halfAt l g t c d) = some v) (cores : List Nat) :
    endingHalves s l g t c (d :: cores) = (d, v) :: endingHalves s l g t c cores :=
  List.filterMap_cons_some (by simp [he, ho, hv])

/-- EXIT does not complete on a core where it has, or is not ready to. -/
theorem endingHalves_cons_waits {d : Nat} (h : (getCore s d).exitStatus.isSome = true ∨ exitReady s d (halfAt l g t c d) = none)
    (cores : List Nat) : endingHalves s l g t c (d :: cores) = endingHalves s l g t c cores :=
  List.filterMap_cons_none (by cases h with | inl h => simp [h] | inr h => simp [h])

section
variable {v : Word} (he : (getCore s c).exitStatus = none) (ho : (getCore s c).occ = some ⟨l, g, t, 0⟩)
  (hv : exitReady s c ⟨l, g, t, 0⟩ = some v)
include he ho hv

/-- EXIT completes on the leader's core, which is the head of the team's. -/
theorem endingHalves_lead (cores : List Nat) : endingHalves s l g t c (c :: cores) = (c, v) :: endingHalves s l g t c cores :=
  endingHalves_cons_ready he (by rw [ho, halfAt_lead]) (by rw [halfAt_lead, hv]) cores

end

theorem teamOver_single (c : Nat) (vs : List Word) :
    let s2 := callRound (freeAreas s fun o => o.launch == l && o.gang == g && o.team == t && o != ⟨l, 0, 0, 0⟩)
    teamOver s l g t [c] vs =
      endSwap (updTeam (setCore s2 c (vacate (getCore s2 c))) l g t fun t => { t with st := .exited (teamStatus vs), stopped := false }) l g := rfl

theorem teamOver_pair (c d : Nat) (vs : List Word) :
    let s2 := callRound (freeAreas s fun o => o.launch == l && o.gang == g && o.team == t && o != ⟨l, 0, 0, 0⟩)
    let s3 := setCore s2 c (vacate (getCore s2 c))
    teamOver s l g t [c, d] vs =
      endSwap (updTeam (setCore s3 d (vacate (getCore s3 d))) l g t fun t => { t with st := .exited (teamStatus vs), stopped := false }) l g := rfl

section
variable (hl : getLaunch s l = some x) (ht : getTeam s l g t = some tm) (hr : tm.st = .resident c)
include hl ht hr

theorem teamRetire_resident : teamRetire l g t s =
    let cores := teamCores x.pkt.paired c
    let hs := endingHalves s l g t c cores
    let s1 := halvesExit s l g t c hs
    let vs := halvesOver s1 l g t c cores
    if vs.length < cores.length then (if hs.isEmpty then none else some s1) else some (teamOver s1 l g t cores vs) := by
  rw [getLaunch] at hl
  simp only [teamRetire, hl, ht, hr]
  rfl

variable {v : Word} (he : (getCore s c).exitStatus = none) (ho : (getCore s c).occ = some ⟨l, g, t, 0⟩)
  (hv : exitReady s c ⟨l, g, t, 0⟩ = some v) (hx : exited (exitCore s c ⟨l, g, t, 0⟩ v) c ⟨l, g, t, 0⟩ = some v)
include he ho hv hx

/-- A team of one core retires when EXIT completes there. -/
theorem teamRetire_single (hp : x.pkt.paired = false) :
    teamRetire l g t s = some (teamOver (exitCore s c ⟨l, g, t, 0⟩ v) l g t [c] [v]) := by
  have hc : teamCores x.pkt.paired c = [c] := by rw [hp]; rfl
  have hs : endingHalves s l g t c [c] = [(c, v)] := endingHalves_lead he ho hv []
  simp [teamRetire_resident hl ht hr, hc, hs, halvesExit, halvesOver, hx]

section
variable (hp : x.pkt.paired = true) (hne : pairOf c ≠ c)
include hp hne

/-- While EXIT has not completed on the follower's core, a paired team's leader waits. -/
theorem teamRetire_leader (hf : exitReady s (pairOf c) ⟨l, g, t, 1⟩ = none)
    (hn : exited (exitCore s c ⟨l, g, t, 0⟩ v) (pairOf c) ⟨l, g, t, 1⟩ = none) :
    teamRetire l g t s = some (exitCore s c ⟨l, g, t, 0⟩ v) := by
  have hc : teamCores x.pkt.paired c = [c, pairOf c] := by rw [hp]; rfl
  have hs : endingHalves s l g t c [c, pairOf c] = [(c, v)] :=
    (endingHalves_lead he ho hv _).trans (by rw [endingHalves_cons_waits (.inr (by rw [halfAt_follower hne, hf]))]; rfl)
  simp [teamRetire_resident hl ht hr, hc, hs, halvesExit, halvesOver, hx, halfAt_follower hne, hn]

/-- A paired team retires when EXIT completes on the leader's core after the follower's. -/
theorem teamRetire_pair {u : Word} (hf : (getCore s (pairOf c)).exitStatus = some u)
    (hu : exited (exitCore s c ⟨l, g, t, 0⟩ v) (pairOf c) ⟨l, g, t, 1⟩ = some u) :
    teamRetire l g t s = some (teamOver (exitCore s c ⟨l, g, t, 0⟩ v) l g t [c, pairOf c] [v, u]) := by
  have hc : teamCores x.pkt.paired c = [c, pairOf c] := by rw [hp]; rfl
  have hs : endingHalves s l g t c [c, pairOf c] = [(c, v)] :=
    (endingHalves_lead he ho hv _).trans (by rw [endingHalves_cons_waits (.inl (by rw [hf]; rfl))]; rfl)
  simp [teamRetire_resident hl ht hr, hc, hs, halvesExit, halvesOver, hx, halfAt_follower hne, hu]

end

end

end

/-! ### Slices (R109, R301) -/

section
variable {l g : Nat} {x : Gang} (hg : getGang s l g = some x) (hr : x.isResident = true) (hs : x.swap = false) (hc : gangClock s x = true)
  (hn : retiresNow s l g x = false)
include hg hr hs hc hn

theorem sliceExpiry_timed : sliceExpiry l g s =
    let ended := x.residentAt.any fun t => t + s.disp.slice * usec ≤ s.time
    if (ended && couldReplace s ⟨l, g⟩) || (allAsleep s l g && couldSleep s ⟨l, g⟩) then some (beginSwap s l g 0 (allAsleep s l g))
    else if ended then some (setGang s l g { x with residentAt := some s.time })
    else none := by
  simp only [sliceExpiry, hg, hr, hs, hc, hn, Bool.not_true, Bool.or_self, Bool.false_eq_true, if_false]
  cases x.residentAt <;> rfl

/-- A gang whose sequencers all sleep is swapped out asleep when any waiting gang could then be placed. -/
theorem sliceExpiry_sleeps (ha : allAsleep s l g = true) (hw : couldSleep s ⟨l, g⟩ = true) :
    sliceExpiry l g s = some (beginSwap s l g 0 true) := by
  simp [sliceExpiry_timed hg hr hs hc hn, ha, hw]

variable (he : ∃ t, x.residentAt = some t ∧ t + s.disp.slice * usec ≤ s.time)
include he

theorem sliceExpiry_replaced (hw : couldReplace s ⟨l, g⟩ = true) : sliceExpiry l g s = some (beginSwap s l g 0 (allAsleep s l g)) := by
  obtain ⟨t, ht, hle⟩ := he
  simp [sliceExpiry_timed hg hr hs hc hn, ht, hle, hw]

/-- A slice that has ended with no gang to take the cores is followed by a new one. -/
theorem sliceExpiry_renews (hw : couldReplace s ⟨l, g⟩ = false) (hz : (allAsleep s l g && couldSleep s ⟨l, g⟩) = false) :
    sliceExpiry l g s = some (setGang s l g { x with residentAt := some s.time }) := by
  obtain ⟨t, ht, hle⟩ := he
  simp [sliceExpiry_timed hg hr hs hc hn, ht, hle, hw, hz]

end

end

/-- What falls due in its turn is done (R398). -/
theorem inTurn {s : State} {b : Bool} {o : Option State} (h : b = true) : evOut s (if b then o else none) = evOut s o := by rw [if_pos h]

end Sys2Proof.Machine

section
open Sys2Proof Sys2Proof.Machine

/-- Settles O27: each event by its own lemma, those of a scheduler in their turn. -/
theorem teamEventResults : Obligations.TeamEventResults := by
  unfold Obligations.TeamEventResults
  refine ⟨?_, ?_, ?_, ?_, ?_, ?_, ?_, ?_, ?_, ?_, ?_⟩
  · exact fun c s s1 l g t x tm v hn hl ht hx hs hp hv hd hw ha =>
      (inTurn hd).trans (evOut_some (teamStart_starts hn hl ht hp hv hx hs hw ha))
  · exact fun c s l g t x tm hn hl ht hs hp hk hv hd =>
      ⟨fun hb => (inTurn hd).trans (evOut_some ((contextRestore_reads hn hl ht hp hv hs hk).trans (if_neg (Bool.eq_false_iff.1 hb)))),
        fun hb => (inTurn hd).trans (evOut_some ((contextRestore_reads hn hl ht hp hv hs hk).trans (if_pos hb)))⟩
  · exact fun c s t hr ht => evOut_some (streamRestart_restarts hr ht)
  · exact fun c s t hr ht => congrArg (evOut s) (streamRestart_early hr ht)
  · exact fun c s o x ho hg hx hr hd => ⟨fun hs => (inTurn hd).trans (evOut_some (contextSave_stopped ho hg hx hr hs)),
      fun hs he hp hy => (inTurn hd).trans (evOut_some (contextSave_writes ho hg hx hr hs he hp hy))⟩
  · exact fun c s o ho hh hc hp => evOut_some (teamStop_stops ho hh hc hp)
  · exact fun c s t hr ht he => evOut_some (drainLimit_stops hr ht he)
  · exact fun c e s ho hr hv hs hg ha hx hl => evOut_some (watchdog_fires ho hr hv hs hg ha hx hl)
  · exact fun l g t s x tm c v hl ht hr hp he ho hv hx => evOut_some ((teamRetire_single hl ht hr he ho hv hx hp).trans (congrArg some (teamOver_single ..)))
  · exact fun l g t s x tm c v hl ht hr hp he ho hv hne hx =>
      ⟨fun _ hf hn => evOut_some (teamRetire_leader hl ht hr he ho hv hx hp hne hf hn),
        fun u hf hu => evOut_some ((teamRetire_pair hl ht hr he ho hv hx hp hne hf hu).trans (congrArg some (teamOver_pair ..)))⟩
  · exact fun l g s x hg hr hs hc hn hd =>
      ⟨fun he hw => (inTurn hd).trans (evOut_some (sliceExpiry_replaced hg hr hs hc hn he hw)),
        fun ha hw => (inTurn hd).trans (evOut_some (sliceExpiry_sleeps hg hr hs hc hn ha hw)),
        fun he hw hz => (inTurn hd).trans (evOut_some (sliceExpiry_renews hg hr hs hc hn he hw hz))⟩

end
end

section
/-! SUPPORT. Bodies that write no register (R133 to R140, R289, R290, R375), and the obligation about the frame of the scalar instructions. -/

namespace Sys2Proof.Machine

/-- A verdict whose effect, if it has one, leaves everything as it was that an issue keeps. -/
def Quiet (s : State) : Verdict → Prop
  | .done d => SameBare s d.s
  | .trapIn u _ => SameBare s u
  | _ => True

theorem bareCore_of_sameBare {s t : State} (h : SameBare s t) (c : Nat) : bareCore (getCore t c) = bareCore (getCore s c) := by
  obtain ⟨-, -, -, -, -, -, hc⟩ := h
  exact hc c

/-- The core in focus of a state that an issue has reached. -/
theorem bareCore_focusCs {s t : State} (h : SameBare s t) : bareCore (focusCs t) = bareCore (focusCs s) := by
  obtain ⟨-, -, -, -, hf, -, hc⟩ := h
  rw [focusCs, hf]
  exact hc _

theorem keeps_of_sameBare {s t : State} {f : CoreSt → CoreSt → Prop} (h : SameBare s t) : KeepsOthers s t ∧ KeepsFocus s t f :=
  ⟨keepsOthers_of h, .inl (bareCore_of_sameBare h _)⟩

/-- An instruction whose body is quiet wherever it is evaluated. -/
theorem quiet_frame {i : Instr} {s t : State} {body : State → Verdict} {f : CoreSt → CoreSt → Prop} (he : exec i s = issue i s body)
    (hq : ∀ u, Quiet u (body u)) (h : exec i s = .next t) : KeepsOthers s t ∧ KeepsFocus s t f := by
  apply keeps_of_sameBare
  refine issue_keeps (he ▸ h) (fun _ hu => hu) (fun s1 u x hs hb v hv => ?_) (fun s1 d hs hb v hv => ?_)
  · have hu : Quiet s1 (.trapIn u x) := hb ▸ hq s1
    exact (hs.trans hu).trans hv
  · have hd : Quiet s1 (.done d) := hb ▸ hq s1
    exact (hs.trans hd).trans hv

/-! ### Cores that agree with the core in focus -/

section
variable {s : State} {cs : CoreSt} (hc : bareCore cs = bareCore (focusCs s))
include hc

theorem sameBare_withCs : SameBare s (withCs s cs) := sameBare_setCore hc

/-- A stream replaced by one of equal registers and FPMODE: what a branch, a call or a loop does. -/
theorem sameBare_withStream {x : Stream} (hx : bareStream x = bareStream (cs.stream s.focusEng)) :
    SameBare s (withCs s (cs.setStream s.focusEng x)) := sameBare_withCs ((bareCore_setStream hx).trans hc)

theorem quiet_callTo (w : Nat) (p : Pc) : Quiet s (callTo cs w p s) := by
  unfold callTo pushReturn
  dsimp only
  split
  · trivial
  · rename_i cs' hp
    split at hp
    · cases hp
    · cases hp
      show SameBare s (withCs s _)
      split
      · exact sameBare_withCs hc
      · exact sameBare_withStream hc rfl

/-- The loop register is none of a stream's registers. -/
theorem sameBare_withLoop (v : Word) :
    SameBare s (withCs s (cs.setStream s.focusEng { cs.stream s.focusEng with loop := v })) := sameBare_withStream hc rfl

theorem quiet_loopBody (w : Nat) (n : Word) : Quiet s (loopBody w cs n s) := by
  unfold loopBody
  dsimp only
  split
  · trivial
  · split
    · trivial
    · exact sameBare_withLoop hc _

end

section
variable {s : State}

theorem quiet_regTarget {v : Word} {f : Pc → Verdict} (h : ∀ p, Quiet s (f p)) : Quiet s (regTarget v f) := by
  unfold regTarget
  split
  · trivial
  · exact h _

/-- The read of a used operand pops its queue and changes nothing else. -/
theorem quiet_useBody {a : SSrc} {f : CoreSt → Word → Verdict} (h : ∀ cs v, bareCore cs = bareCore (focusCs s) → Quiet s (f cs v)) :
    Quiet s (useBody a f s) := by
  unfold useBody
  dsimp only
  split
  · trivial
  · split
    · rename_i ht
      split
      · trivial
      · exact h _ _ (bareCore_takeSrcs _ _ ht)
    · trivial

theorem quiet_retBody : Quiet s (retBody s) := by
  unfold retBody
  dsimp only
  split
  · trivial
  · exact sameBare_withStream rfl rfl

theorem quiet_endlBody : Quiet s (endlBody s) := by
  unfold endlBody
  dsimp only
  split
  · trivial
  · split
    · exact sameBare_withLoop rfl _
    · exact quiet_regTarget fun _ => sameBare_withLoop rfl _

theorem quiet_semwBody (n : Nat) : Quiet s (semwBody n s) := by
  unfold semwBody
  dsimp only
  split
  · exact sameBare_withCs (bareCore_takeSem ..)
  · trivial

theorem quiet_sempBody (n : Nat) : Quiet s (sempBody n s) := by
  have hp : SameBare s (withCs s (postAt (coreCycle s) (focusCs s) (engRank s.focusEng) n).1) := sameBare_withCs (bareCore_postAt ..)
  unfold sempBody
  dsimp only
  split
  · split
    · exact hp
    · split
      · exact hp
      · exact hp.trans (sameBare_semOverflow ..)
  · exact SameBare.refl s

end

/-! ### Forms with a destination (R132, R142 to R147) -/

/-- The frame of a form whose operands always give a value. -/
theorem scalarForm_frame {i : Instr} {srcs : List SSrc} {d : SDst} {n : Nat} {g : List SVal → Except Verdict SVal} {f : List SVal → SVal}
    {s t : State} (he : exec i s = issue i s (scalarBody srcs d n g)) (hg : ∀ vs, g vs = .ok (f vs)) (h : exec i s = .next t) :
    KeepsOthers s t ∧ KeepsFocus s t fun a b => ∃ n v, some d = some (.reg n) ∧ b = setReg a s.focusEng n v :=
  scalar_frame he (fun vs v hv => by rw [hg] at hv; cases hv) h

/-- RDCR has no sources: it writes its register, or reserves its entry of QR, on the core as it is. -/
theorem rdcrBody_done {d : SDst} {cr : Nat} {s : State} {x : Done} (h : rdcrBody d cr s = .done x) :
    ∃ cs, x.s = withCs s cs ∧ (bareCore cs = bareCore (focusCs s) ∨ ∃ n v, d = .reg n ∧ cs = setReg (focusCs s) s.focusEng n v) := by
  simp only [rdcrBody, scalarBody, takeSrcs] at h
  split at h
  · cases h
  · split at h
    · cases h
    · split at h
      · cases h
      · split at h
        · cases h
          exact ⟨_, rfl, .inr ⟨_, _, rfl, rfl⟩⟩
        · cases h
          exact ⟨_, rfl, .inl (bareCore_reserveQr ..)⟩

theorem rdcrBody_not_trapIn {d : SDst} {cr : Nat} {s u : State} {r : FaultRec} : rdcrBody d cr s ≠ .trapIn u r := by
  simp only [rdcrBody, scalarBody, takeSrcs]
  repeat' split
  all_goals nofun

theorem rdcr_frame {d : SDst} {cr : Nat} {s t : State} (h : exec (.rdcr d cr) s = .next t) :
    KeepsOthers s t ∧ KeepsFocus s t fun a b => ∃ n v, some d = some (.reg n) ∧ b = setReg a s.focusEng n v := by
  refine issue_keeps (i := .rdcr d cr) (body := rdcrBody d cr)
    (R := fun s t => KeepsOthers s t ∧ KeepsFocus s t fun a b => ∃ n v, some d = some (.reg n) ∧ b = setReg a s.focusEng n v)
    h (fun _ hu => keeps_of_sameBare hu) (fun _ _ _ _ hb => absurd hb rdcrBody_not_trapIn) ?_
  intro s1 x hs hb v hv
  obtain ⟨cs, hx, hw⟩ := rdcrBody_done hb
  obtain ⟨ho, hf⟩ := keeps_withCs hs (hx ▸ hv)
  have hc : bareCore (focusCs s1) = bareCore (focusCs s) := bareCore_focusCs hs
  have he : s1.focusEng = s.focusEng := by
    obtain ⟨-, -, -, -, -, he, -⟩ := hs
    exact he
  obtain hq | ⟨n, y, rfl, rfl⟩ := hw
  · exact ⟨ho, .inl (hf.trans (hq.trans hc))⟩
  · exact ⟨ho, .inr ⟨_, ⟨n, y, rfl, rfl⟩, hf.trans (he ▸ bareCore_setReg _ _ _ hc)⟩⟩

end Sys2Proof.Machine

section
open Sys2Proof Sys2Proof.Machine

/-- Settles O56: a form with a destination by the shared frame of its shape, and one without a destination because its body is quiet. -/
theorem scalarFrame : Obligations.ScalarFrame := by
  unfold Obligations.ScalarFrame
  intro i d s t hd h
  cases i with
  | add | sub | mul | mulh | mulhu | div | divu | rem | remu | and | or | xor | andn | shl | shr | sar | rotr | min | minu | max | maxu | clz
  | ctz | popc | cmp | mov | addi | andi | ori | xori | shlImm | shrImm | sarImm | rotrImm | movi | moviHi | addiX96 | andiX96 | oriX96
  | xoriX96 | ext | ins | sel =>
    cases hd
    exact scalarForm_frame rfl (fun _ => rfl) h
  | rdcr =>
    cases hd
    exact rdcr_frame h
  | nop | nopL64 => exact quiet_frame (body := plainDone) rfl SameBare.refl h
  | br p slot line => exact quiet_frame (body := fun u => .done { s := u, flow := .goto (.pos line slot) }) rfl SameBare.refl h
  | trap n => exact quiet_frame (body := fun u => .done { s := u, after := some { trap := .trap, arg := n } }) rfl SameBare.refl h
  | brc | chk =>
    refine quiet_frame rfl (fun u => ?_) h
    exact quiet_useBody fun cs v hc => sameBare_withCs hc
  | brReg =>
    refine quiet_frame rfl (fun u => ?_) h
    exact quiet_useBody fun cs v hc => quiet_regTarget fun p => sameBare_withCs hc
  | call =>
    refine quiet_frame rfl (fun u => ?_) h
    exact quiet_callTo rfl 2 _
  | callReg =>
    refine quiet_frame rfl (fun u => ?_) h
    exact quiet_useBody fun cs v hc => quiet_regTarget fun p => quiet_callTo hc 1 p
  | ret =>
    refine quiet_frame rfl (fun u => ?_) h
    exact quiet_retBody
  | loopReg =>
    refine quiet_frame rfl (fun u => ?_) h
    exact quiet_useBody fun cs v hc => quiet_loopBody hc 2 v
  | loopImm =>
    refine quiet_frame rfl (fun u => ?_) h
    exact quiet_loopBody rfl 3 _
  | endl =>
    refine quiet_frame rfl (fun u => ?_) h
    exact quiet_endlBody
  | semw | semwL64 =>
    refine quiet_frame rfl (fun u => ?_) h
    exact quiet_semwBody _
  | semp | sempL64 =>
    refine quiet_frame rfl (fun u => ?_) h
    exact quiet_sempBody _
  | _ => cases hd

end
end

section
/-! SUPPORT. Where a tag faults (R125, R132, R178, R373), and the obligation about the uses of poisoned values. -/

namespace Sys2Proof.Machine

/-! ### A tagged mask named by PRED (R178) -/

section
variable {i : Instr} {o : VOps} {g : VIn → Except Verdict VOut}

/-- A vector instruction under a tagged mask waits for its operands, finds EW wrong, or faults with the cause of the mask. -/
theorem vecBody_taggedMask {s : State} {c : Cause} (hm : (readMask (focusCs s) o.pred.idx).tag = some c) :
    vecBody o g s = .stall ∨ vecBody o g s = .trap { trap := .vecType } ∨ vecBody o g s = poisonTrap c := by
  unfold vecBody
  dsimp only
  rw [hm]
  split
  · exact .inl rfl
  · split
    · exact .inl rfl
    · split
      · exact .inl rfl
      · split
        · exact .inr (.inl rfl)
        · exact .inr (.inr rfl)

variable (he : ∀ s, exec i s = issue i s (vecBody o g))
include he

/-- With its operands and EW in order, the instruction faults with the cause of the mask. -/
theorem maskTraps_of : MaskTraps i o := by
  intro s s1 w ss vs cs1 cs2 c hi hz hv hs ht htv hw hm
  rw [TrapsWith, he]
  apply issue_traps hi
  simp only [vecBody, hz, hv, hs, ht, htv, hw, hm]
  rfl

/-- The issue of an instruction under a tagged mask. -/
theorem taggedMask_of {s s1 : State} {w : Bool} {c : Cause} (hi : Issues i s s1 w) (hm : (readMask (focusCs s1) o.pred.idx).tag = some c) :
    exec i s = .next s ∨ TrapsWith i s s1 w (poisonRec c) ∨ TrapsWith i s s1 w { trap := .vecType } := by
  rw [TrapsWith, TrapsWith, he]
  obtain hb | hb | hb := vecBody_taggedMask (g := g) hm
  · exact .inl (issue_stalls hi hb)
  · exact .inr (.inr (issue_traps hi hb))
  · exact .inr (.inl (issue_traps hi hb))

end

/-- Every instruction with vector destinations has the shared shape, under the mask that its PRED names. -/
theorem exec_vector {i : Instr} (h : (vectorDst i).isSome = true) :
    ∃ o g, (∀ s, exec i s = issue i s (vecBody o g)) ∧ o.pred = (instrCtl i).pred := by
  cases i with
  | vadd | vsub | vmul | vmin | vmax | vabs | vneg | vadds | vsubs | vmulh | vdiv | vsqrt | vrcp | vrsq | vexp2 | vlog2 | vsinp | vcosp | vand
  | vor | vxor | vnot | vshl | vshr | vsar | vclz | vpopc | vcvt | vdqnt | vmov | vbcast | vsel | kmovToVector | vshuf | vxswp | vrot | vcompress
  | vbperm | vfma | vfms | vfnma | vins | vexpand | vscan | vqnt | vextr | kpop | vredsum | vredmax | vredmin | vvoteAny | vvoteAll | vcmp | kand
  | kor | kxor | knot | kmovMask | kmovFromVector | vvoteBallot | vbpload => exact ⟨_, _, fun _ => rfl, rfl⟩
  | _ => cases h

/-! ### Tagged operands -/

/-- A select mask that carries a tag (R178). -/
theorem withMask_tagged {x : VIn} {c : Cause} (h : (x.km 0).tag = some c) (f : BitVec 512 → VOut) : withMask x f = .error (poisonTrap c) := by
  simp only [withMask, h]

/-- WRCR of a tagged source, once the control register is free (R132). -/
theorem wrcr_taggedSource {cr : Nat} {a : SSrc} {s s1 : State} {w : Bool} {v : Word} {c : Cause} {cs1 : CoreSt} (hi : Issues (.wrcr cr a) s s1 w)
    (hb : crBusy (focusCs s1) s1.focusEng cr = false)
    (hz : hazard s1 (focusCs s1) s1.focusEng (claimsOf (srcRes s1.focusEng a) []) 1 = false)
    (ht : takeSrcs (focusCs s1) s1.focusEng [a] = some ([{ val := v, tag := some c }], cs1)) : TrapsWith (.wrcr cr a) s s1 w (poisonRec c) := by
  have h : wrcrBody cr a s1 = .trap (poisonRec c) := by
    simp only [wrcrBody, useBody, hb, hz, ht]
    rfl
  exact issue_traps hi h

/-- The SIZE and SUBF that a store reports (R308) take no part in the check of its operands. -/
theorem tagTraps_of_type {i : Instr} {o : MemOp} {f : MemIn → MemReq} (n : Nat) (h : TagTraps i { o with type := n } f) : TagTraps i o f := h

end Sys2Proof.Machine

section
open Sys2Proof Sys2Proof.Machine

/-- Settles O59: each use by the shared shape of its instruction, and the mask of PRED by what every body of the vector engine does with it. -/
theorem poisonedUseFaults : Obligations.PoisonedUseFaults := by
  unfold Obligations.PoisonedUseFaults
  refine ⟨?_, ?_, ?_, ?_, ?_, ?_, ?_, ?_, ?_, ?_, ?_, ?_, ?_, ?_, ?_, ?_, ?_, ?_, ?_, ?_, ?_, ?_⟩
  · exact fun a => poison_of fun _ => rfl
  · exact fun p c a slot line => poison_of fun _ => rfl
  · exact fun a => poison_of fun _ => rfl
  · exact fun k a => poison_of fun _ => rfl
  · exact fun a => poison_of fun _ => rfl
  · exact fun k t d a b m => vtraps_of (fun _ => rfl) fun x c h => withMask_tagged h _
  · exact fun k t d a m => vtraps_of (fun _ => rfl) fun x c h => withMask_tagged h _
  · exact fun k t d a m => vtraps_of (fun _ => rfl) fun x c h => withMask_tagged h _
  · exact fun k t d a b => vtraps_of (fun _ => rfl) fun x c h => by rw [h]
  · exact fun k t d a b => vtraps_of (fun _ => rfl) fun x c h => by rw [h]
  · exact fun k t d a b => vtraps_of (fun _ => rfl) fun x c h => by rw [h]
  · exact fun k t d a b => maskTraps_of fun _ => rfl
  · exact fun k t d a => maskTraps_of fun _ => rfl
  · exact fun k t d a b m => maskTraps_of fun _ => rfl
  · intro i s s1 w c hv hi hm
    obtain ⟨o, g, he, hp⟩ := exec_vector hv
    exact taggedMask_of he hi (hp ▸ hm)
  · exact fun cr a s s1 w v c cs1 hi hb hz ht => wrcr_taggedSource hi hb hz ht
  · exact fun k size sx acq hint d a lit => ttraps_of (fun _ => rfl) fun _ => rfl
  · exact fun k size rel hint a b lit => ttraps_of (fun _ => rfl) fun _ => rfl
  · exact fun k size rel sp hint a b lit => ttraps_of (fun _ => rfl) fun _ => rfl
  · exact fun k acq sp hint d a lit => ttraps_of (fun _ => rfl) fun _ => rfl
  · exact fun k size sx acq sp hint d a lit => ttraps_of (fun _ => rfl) fun _ => rfl
  · exact fun k rel sp hint d a lit => tagTraps_of_type (storeType 5 d) (ttraps_of (fun _ => rfl) fun _ => rfl)

end
end

section
/-! SUPPORT. The formulas of the integer group (R142 to R147), and the obligations about its results. -/

namespace Sys2Proof.Machine

/-! ### Forms of one, two and three sources -/

section
variable {i : Instr} {d : SDst}

theorem scalar_one {a : SSrc} {f g : Word → Word} (he : ∀ s, exec i s = issue i s (scalarBody [a] d 1 (unary f))) (h : ∀ x, f x = g x) :
    Scalar i [a] d (one g) := scalar_of he (unary_one h)

theorem scalar_two {a b : SSrc} {f g : Word → Word → Word} (he : ∀ s, exec i s = issue i s (scalarBody [a, b] d 1 (binary f)))
    (h : ∀ x y, f x y = g x y) : Scalar i [a, b] d (two g) := scalar_of he (binary_two h)

theorem scalar_three {a b c : SSrc} {f g : Word → Word → Word → Word} (he : ∀ s, exec i s = issue i s (scalarBody [a, b, c] d 1 (ternary f)))
    (h : ∀ x y z, f x y z = g x y z) : Scalar i [a, b, c] d (three g) := scalar_of he (ternary_three h)

end

/-! ### Arithmetic (R142, R144) -/

theorem mul_eq_ofNat (x y : Word) : x * y = BitVec.ofNat 64 (x.toNat * y.toNat) := BitVec.eq_of_toNat_eq (by simp)

/-- ADD and SUB scale their second source (R142). -/
theorem shiftLeft_eq_mul_pow (x : Word) (n : Nat) : x <<< n = x * 2 ^ n := by
  induction n with
  | zero => rw [BitVec.shiftLeft_zero, BitVec.pow_zero, BitVec.mul_one]
  | succ n ih =>
    have h2 : BitVec.twoPow 64 1 = 2 := by decide
    rw [BitVec.shiftLeft_add, ih, BitVec.shiftLeft_eq_mul_twoPow, h2, BitVec.mul_assoc, BitVec.pow_succ]

theorem divS_eq (x y : Word) : divS x y = if y = 0 then -1 else BitVec.ofInt 64 (x.toInt.tdiv y.toInt) := rfl

theorem divU_eq (x y : Word) : divU x y = if y = 0 then -1 else BitVec.ofNat 64 (x.toNat / y.toNat) := rfl

theorem pickS_true (x y : Word) : pickS true x y = if x.toInt < y.toInt then x else y := by simp [pickS]

theorem pickS_false (x y : Word) : pickS false x y = if x.toInt < y.toInt then y else x := by
  by_cases h : x.toInt < y.toInt <;> simp [pickS, h]

theorem pickU_true (x y : Word) : pickU true x y = if x < y then x else y := by simp [pickU, BitVec.lt_def]

theorem pickU_false (x y : Word) : pickU false x y = if x < y then y else x := by
  by_cases h : x < y <;> simp [pickU, ← BitVec.lt_def, h]

/-! ### Shifts by any amount (R143) -/

theorem shlW_eq (x : Word) (n : Nat) : shlW x n = x <<< n := by
  unfold shlW
  split
  · rfl
  · exact (BitVec.shiftLeft_eq_zero (by omega)).symm

theorem shrW_eq (x : Word) (n : Nat) : shrW x n = x >>> n := by
  unfold shrW
  split
  · rfl
  · exact (BitVec.ushiftRight_eq_zero (by omega)).symm

/-- A shift right by 63 leaves a copy of the sign in every bit, and so does any longer one. -/
theorem sarW_eq (x : Word) (n : Nat) : sarW x n = x.sshiftRight n := by
  unfold sarW
  ext i hi
  rw [BitVec.getElem_sshiftRight, BitVec.getElem_sshiftRight]
  by_cases hn : n ≤ 63
  · simp only [Nat.min_eq_left hn]
  · have hlong : ¬ n + i < 64 := by omega
    rw [dif_neg hlong]
    split
    · have h63 : min n 63 + i = 63 := by omega
      rw [BitVec.msb_eq_getLsbD_last, ← BitVec.getLsbD_eq_getElem, h63]
    · rfl

/-! ### Immediates and bit fields (R145, R146) -/

theorem and_low_eq_setWidth (x : Word) : x &&& 0xFFFFFFFF = (x.setWidth 32).setWidth 64 := by
  apply BitVec.eq_of_toNat_eq
  rw [BitVec.toNat_and, BitVec.toNat_setWidth_of_le (by decide), BitVec.toNat_setWidth]
  exact Nat.and_two_pow_sub_one_eq_mod x.toNat 32

/-- MOVI.HI puts the literal above the low half. -/
theorem high_or_low_eq_append (lit : BitVec 32) (x : Word) :
    (lit.setWidth 64 <<< 32) ||| (x &&& 0xFFFFFFFF) = lit ++ x.setWidth 32 := by
  rw [and_low_eq_setWidth, BitVec.append_def, BitVec.shiftLeftZeroExtend_eq, BitVec.setWidth'_eq]

theorem extract_unsigned (pos width : Nat) (x : Word) : extract false pos width x = BitVec.ofNat 64 (x.toNat / 2 ^ pos % 2 ^ width) := by
  simp only [extract, Nat.shiftRight_eq_div_pow, Bool.false_eq_true, if_false]

theorem extract_signed (pos width : Nat) (x : Word) :
    extract true pos width x = BitVec.ofInt 64 (asInt width (x.toNat / 2 ^ pos % 2 ^ width)) := by
  simp only [extract, Nat.shiftRight_eq_div_pow, if_true]

end Sys2Proof.Machine

section
open Sys2Proof Sys2Proof.Machine

/-- Settles O1: each form by the formula of its word function. -/
theorem integerRegisterResults : Obligations.IntegerRegisterResults := by
  unfold Obligations.IntegerRegisterResults
  refine ⟨?_, ?_, ?_, ?_, ?_, ?_, ?_, ?_, ?_, ?_, ?_, ?_, ?_, ?_, ?_, ?_, ?_, ?_, ?_, ?_, ?_, ?_, ?_, ?_, ?_, ?_⟩
  · exact fun d a b sh => scalar_two (fun _ => rfl) fun x y => by rw [shiftLeft_eq_mul_pow]
  · exact fun d a b sh => scalar_two (fun _ => rfl) fun x y => by rw [shiftLeft_eq_mul_pow]
  · exact fun d a b => scalar_two (fun _ => rfl) mul_eq_ofNat
  · exact fun d a b => scalar_two (fun _ => rfl) fun _ _ => rfl
  · exact fun d a b => scalar_two (fun _ => rfl) fun _ _ => rfl
  · exact fun d a b => scalar_two (fun _ => rfl) divS_eq
  · exact fun d a b => scalar_two (fun _ => rfl) divU_eq
  · exact fun d a b => scalar_two (fun _ => rfl) fun _ _ => rfl
  · exact fun d a b => scalar_two (fun _ => rfl) fun _ _ => rfl
  · exact fun d a b => scalar_two (fun _ => rfl) fun _ _ => rfl
  · exact fun d a b => scalar_two (fun _ => rfl) fun _ _ => rfl
  · exact fun d a b => scalar_two (fun _ => rfl) fun _ _ => rfl
  · exact fun d a b => scalar_two (fun _ => rfl) fun _ _ => rfl
  · exact fun d a b => scalar_two (fun _ => rfl) fun x y => shlW_eq x y.toNat
  · exact fun d a b => scalar_two (fun _ => rfl) fun x y => shrW_eq x y.toNat
  · exact fun d a b => scalar_two (fun _ => rfl) fun x y => sarW_eq x y.toNat
  · exact fun d a b => scalar_two (fun _ => rfl) fun _ _ => rfl
  · exact fun d a b => scalar_two (fun _ => rfl) pickS_true
  · exact fun d a b => scalar_two (fun _ => rfl) pickU_true
  · exact fun d a b => scalar_two (fun _ => rfl) pickS_false
  · exact fun d a b => scalar_two (fun _ => rfl) pickU_false
  · exact fun d a => scalar_one (fun _ => rfl) fun _ => rfl
  · exact fun d a => scalar_one (fun _ => rfl) fun _ => rfl
  · exact fun d a => scalar_one (fun _ => rfl) fun _ => rfl
  · exact fun c d a b => scalar_two (fun _ => rfl) fun _ _ => rfl
  · exact fun d a => scalar_one (fun _ => rfl) fun _ => rfl

/-- Settles O2: each form by the formula of its word function. -/
theorem integerImmediateResults : Obligations.IntegerImmediateResults := by
  unfold Obligations.IntegerImmediateResults
  refine ⟨?_, ?_, ?_, ?_, ?_, ?_, ?_, ?_, ?_, ?_, ?_, ?_, ?_, ?_, ?_, ?_, ?_⟩
  · exact fun d a imm => scalar_one (fun _ => rfl) fun _ => rfl
  · exact fun d a imm => scalar_one (fun _ => rfl) fun _ => rfl
  · exact fun d a imm => scalar_one (fun _ => rfl) fun _ => rfl
  · exact fun d a imm => scalar_one (fun _ => rfl) fun _ => rfl
  · exact fun d a n => scalar_one (fun _ => rfl) fun x => shlW_eq x n
  · exact fun d a n => scalar_one (fun _ => rfl) fun x => shrW_eq x n
  · exact fun d a n => scalar_one (fun _ => rfl) fun x => sarW_eq x n
  · exact fun d a n hn => scalar_one (fun _ => rfl) fun x => by rw [rotrW, Nat.mod_eq_of_lt hn]
  · exact fun k d lit => scalar_of (fun _ => rfl) fun _ => rfl
  · exact fun k d lit => scalar_one (fun _ => rfl) fun x => high_or_low_eq_append lit x
  · exact fun k d a lit => scalar_one (fun _ => rfl) fun _ => rfl
  · exact fun k d a lit => scalar_one (fun _ => rfl) fun _ => rfl
  · exact fun k d a lit => scalar_one (fun _ => rfl) fun _ => rfl
  · exact fun k d a lit => scalar_one (fun _ => rfl) fun _ => rfl
  · exact fun k d a pos width => scalar_one (fun _ => rfl) fun x => extract_unsigned pos width x
  · exact fun k d a pos width => scalar_one (fun _ => rfl) fun x => extract_signed pos width x
  · exact fun k d a pos width => scalar_two (fun _ => rfl) fun _ _ => rfl

end
end

section
/-! SUPPORT. What branches, calls, loops and the ends of streams do where nothing faults (R102, R133 to R139), and the obligations about them. -/

namespace Sys2Proof.Machine

/-! ### Targets and calls (R76, R135, R137) -/

theorem regTarget_enters {v : Word} {p : Pc} (h : readTarget v = some p) (f : Pc → Verdict) : regTarget v f = f p := by
  simp only [regTarget, h]

section
variable {cs : CoreSt} {s : State} (w : Nat)

/-- A call with room on the return stack pushes its successor, and keeps nothing of it where the target is END. -/
theorem callTo_enters (h : (cs.stream s.focusEng).rstack.length < 16) (p : Pc) :
    callTo cs w p s = .done
      { s := if p = .fin then withCs s cs else
          withSt s cs { cs.stream s.focusEng with rstack := afterPc s w :: (cs.stream s.focusEng).rstack }
        flow := .goto p } := by
  simp only [callTo, pushReturn, ge_iff_le, Nat.not_le.2 h, if_false, withSt]
  split <;> rfl

theorem loopBody_starts {n : Word} (h1 : 1 ≤ n.toNat) (h32 : n.toNat < 2 ^ 32) (hl : (cs.stream s.focusEng).loop.setWidth 32 = 0#32) :
    loopBody w cs n s = .done
      { s := withSt s cs { cs.stream s.focusEng with loop := BitVec.ofNat 64 (packPc (afterPc s w) * 2 ^ 32 + n.toNat) } } := by
  have hn : ¬ (n = 0 ∨ n.toNat > 0xFFFFFFFF) := by
    rintro (rfl | hbig)
    · exact absurd h1 (by decide)
    · omega
  simp only [loopBody, hn, loopCount_eq_zero.2 hl, ne_eq, not_true_eq_false, if_false, withSt]

end

/-! ### ENDL (R138) -/

section
variable {s : State}

theorem endlBody_last (h : (focusSt s).loop.setWidth 32 = 1#32) :
    endlBody s = .done { s := withSt s (focusCs s) { focusSt s with loop := (focusSt s).loop - 1 } } := by
  have hc : loopCount (focusSt s).loop = 1 := (loopCount_eq _).trans (congrArg BitVec.toNat h)
  have h0 : loopCount (focusSt s).loop ≠ 0 := by omega
  exact (if_neg h0).trans (if_pos hc)

theorem endlBody_repeats {p : Pc} (h2 : 2#32 ≤ (focusSt s).loop.setWidth 32) (ht : readTarget ((focusSt s).loop >>> 32) = some p) :
    endlBody s = .done { s := withSt s (focusCs s) { focusSt s with loop := (focusSt s).loop - 1 }, flow := .goto p } := by
  have hc : 2 ≤ loopCount (focusSt s).loop := loopCount_eq _ ▸ h2
  have h0 : loopCount (focusSt s).loop ≠ 0 := by omega
  have h1 : loopCount (focusSt s).loop ≠ 1 := by omega
  exact (if_neg h0).trans ((if_neg h1).trans (regTarget_enters ht _))

/-! ### RET (R136) -/

theorem retBody_empty (h : (focusSt s).rstack = []) : retBody s = .trap { trap := .rstackEmpty } := by
  rw [focusSt] at h
  simp only [retBody, h]

theorem retBody_pops {p : Pc} {t : List Pc} (h : (focusSt s).rstack = p :: t) :
    retBody s = .done { s := withSt s (focusCs s) { focusSt s with rstack := t }, flow := .goto p } := by
  have h' := h
  rw [focusSt] at h'
  simp only [retBody, h', withSt, focusSt]

/-! ### HALT and the end of the sequencer's stream (R102, R139) -/

theorem haltBody_ends (h : s.focusEng ≠ .seq) : haltBody s = .done { s := s, flow := .fin } := if_neg h

theorem haltBody_exits (he : s.focusEng = .seq) (hm : (focusCs s).mem.active = false) (hv : (focusCs s).vec.active = false)
    (hx : (focusCs s).mtx.active = false) : haltBody s = .done { s := s, flow := .wait (.exit 0) } :=
  (if_pos he).trans (exitBody_waits hm hv hx 0)

theorem sequencerEnd_exits (hm : (focusCs s).mem.active = false) (hv : (focusCs s).vec.active = false) (hx : (focusCs s).mtx.active = false) :
    sequencerEnd s = withCs s { focusCs s with seq := { (focusCs s).seq with waiting := some { kind := .exit 0, next := .fin } } } := by
  simp only [sequencerEnd, hm, hv, hx, Bool.or_self, Bool.false_eq_true, if_false]

/-- A sequencer that may go on at END: no instruction stands there, so no other engine goes first. -/
theorem streamStep_sequencerEnd (he : s.focusEng = .seq) (hr : runnable s s.focusCore .seq = true) (hw : mustWait s (focusCs s) .seq = false)
    (hp : (focusCs s).seq.pc = .fin) : streamStep s = .next (sequencerEnd s) := by
  have hpc : (getStream s s.focusCore s.focusEng).pc = .fin := by rw [he]; exact hp
  have hgo : (!runnable s s.focusCore s.focusEng || mustWait s (getCore s s.focusCore) s.focusEng) = false := by
    rw [he, hr]; exact hw
  have ha : streamAct s = .next (sequencerEnd s) := by
    rw [getStream] at hpc
    unfold streamAct
    dsimp only
    rw [hpc, hgo, if_neg Bool.false_ne_true, if_pos he]
  have hi : streamInstr s s.focusCore s.focusEng = none := by
    unfold streamInstr
    rw [hpc]
  unfold streamStep
  dsimp only
  rw [hi, ha]

end

end Sys2Proof.Machine

section
open Sys2Proof Sys2Proof.Machine

/-- Settles O3: each instruction by what its body answers where its checks pass. -/
theorem controlFlowResults : Obligations.ControlFlowResults := by
  unfold Obligations.ControlFlowResults
  refine ⟨?_, ?_, ?_, ?_, ?_, ?_, ?_, ?_, ?_, ?_, ?_, ?_⟩
  · exact plain_of (fun _ => rfl) fun _ _ => rfl
  · exact fun k => plain_of (fun _ => rfl) fun _ _ => rfl
  · exact fun p slot line => plain_of (fun _ => rfl) fun _ _ => rfl
  · exact fun p c a slot line => uses_of (fun _ => rfl) fun _ _ _ _ => rfl
  · exact fun a p => uses_of (fun _ => rfl) fun _ _ _ ht => regTarget_enters ht _
  · exact fun p slot line => plain_of (fun _ => rfl) fun _ h => callTo_enters 2 h _
  · exact fun a p => uses_of (fun _ => rfl) fun s cs v ⟨ht, hp, h⟩ => by
      rw [regTarget_enters ht, callTo_enters 1 h, if_neg hp]
  · exact fun a => uses_of (fun _ => rfl) fun s cs v ⟨ht, h⟩ => by
      rw [regTarget_enters ht, callTo_enters 1 h, if_pos rfl]
  · exact fun k a => uses_of (fun _ => rfl) fun _ _ _ ⟨h1, h32, hl⟩ => loopBody_starts 2 h1 h32 hl
  · intro k n hn
    obtain ⟨h1, h32⟩ := literal_count_inRange hn
    exact plain_of (fun _ => rfl) fun s hl => loopBody_starts 3 h1 h32 hl
  · exact plain_of (fun _ => rfl) fun _ h => endlBody_last h
  · exact fun p => plain_of (fun _ => rfl) fun _ ⟨h2, ht⟩ => endlBody_repeats h2 ht

/-- Settles O39: its word on each engine, its body with and without an entry, and the entry of END. -/
theorem retResult : Obligations.RetResult := by
  unfold Obligations.RetResult
  refine ⟨?_, ?_, ?_, ?_⟩
  · exact fun e => by cases e <;> rfl
  · exact plainTraps_of (fun _ => rfl) fun _ h => retBody_empty h
  · exact fun p t => plain_of (fun _ => rfl) fun _ h => retBody_pops h
  · intro s cs e st w d hf he
    simp only [advance, hf, bne_iff_ne.2 he, and_self]

/-- Settles O40: its word on each engine, its body on the sequencer and elsewhere, and a sequencer at END. -/
theorem haltResult : Obligations.HaltResult := by
  unfold Obligations.HaltResult
  refine ⟨?_, ?_, ?_, ?_⟩
  · exact fun e => by cases e <;> rfl
  · exact plain_of (fun _ => rfl) fun _ he => haltBody_ends he
  · exact plain_of (fun _ => rfl) fun _ ⟨he, hm, hv, hx⟩ => haltBody_exits he hm hv hx
  · exact fun s he hr hw hp hm hv hx => (streamStep_sequencerEnd he hr hw hp).trans (congrArg _ (sequencerEnd_exits hm hv hx))

end
end

section
/-! SUPPORT. The requests of loads and stores (R149, R254 to R257), and the obligations about their results. -/

namespace Sys2Proof.Machine

/-- A TLD of a configured tile asks for its rows. -/
theorem tldReq_configured {t : Nat} {x : MemIn} (h : tcCfg (tcT x.cs t) = true) :
    tldReq t x = .ok { store := false, es := tileElems x (tcRows (tcT x.cs t)) (tcBytes (tcT x.cs t)),
                       dst := .tile t (tcRows (tcT x.cs t)) (tcBytes (tcT x.cs t)), extra := tcRows (tcT x.cs t), align := 16 } := by
  simp only [tldReq, h, Bool.not_true, Bool.false_eq_true, if_false]

/-- A TST of a configured tile without tags stores its rows. -/
theorem tstReq_untagged {t : Nat} {x : MemIn} (h : tcCfg (tcT x.cs t) = true) (hg : tileTags x.cs t (tcRows (tcT x.cs t)) = none) :
    tstReq t x = .ok { store := true, es := tileElems x (tcRows (tcT x.cs t)) (tcBytes (tcT x.cs t)),
                       data := tileData x.cs t (tcBytes (tcT x.cs t)) (tcRows (tcT x.cs t)), extra := tcRows (tcT x.cs t), align := 16 } := by
  simp only [tstReq, h, hg, Bool.not_true, Bool.false_eq_true, if_true, if_false]

end Sys2Proof.Machine

section
open Sys2Proof Sys2Proof.Machine

/-- Settles O13: each load by the shared shape of memory instructions and the request that it forms. -/
theorem loadResults : Obligations.LoadResults := by
  unfold Obligations.LoadResults
  refine ⟨?_, ?_, ?_, ?_, ?_, ?_⟩
  · exact fun k size sx acq hint d a lit => accesses_of (fun _ => rfl) fun _ _ => rfl
  · exact fun k size sx acq sp hint d a lit => accesses_of (fun _ => rfl) fun _ _ => rfl
  · exact fun k acq sp hint d a lit => accesses_of (fun _ => rfl) fun _ _ => rfl
  · exact fun k size acq sp hint d a lit => accesses_of (fun _ => rfl) fun _ _ => rfl
  · exact fun k size acq sp hint d a b => accesses_of (fun _ => rfl) fun _ _ => rfl
  · exact fun k acq sp hint d a b => accesses_of (fun _ => rfl) fun _ h => tldReq_configured h

/-- Settles O14: each store by the shared shape of memory instructions and the request that it forms. -/
theorem storeResults : Obligations.StoreResults := by
  unfold Obligations.StoreResults
  refine ⟨?_, ?_, ?_, ?_, ?_, ?_⟩
  · exact fun k size rel hint a b lit => accesses_of (fun _ => rfl) fun _ _ => rfl
  · exact fun k size rel sp hint a b lit => accesses_of (fun _ => rfl) fun _ _ => rfl
  · exact fun k rel sp hint d a lit => accesses_of (fun _ => rfl) fun _ _ => rfl
  · exact fun k size rel sp hint d a lit => accesses_of (fun _ => rfl) fun _ _ => rfl
  · exact fun k size rel sp hint d a b => accesses_of (fun _ => rfl) fun _ _ => rfl
  · exact fun k rel sp hint d a b => accesses_of (fun _ => rfl) fun _ ⟨h, hg⟩ => tstReq_untagged h hg

end
end

section
/-! SUPPORT. Two-word instructions of the integer group read back field by field (R65, R74), and the obligation about SEL. -/

namespace Sys2Proof.Machine

/-- An enable bit and a semaphore number read back (R65). -/
theorem semOf_semBits {o : Option Nat} (h : okSem o = true) : semBits o < 64 ∧ semOf (semBits o) = o := by
  cases o with
  | none => decide
  | some n =>
    have hn : n < 32 := of_decide_eq_true h
    have hbit : (32 + n) / 32 % 2 = 1 := by omega
    have hnum : (32 + n) % 32 = n := by omega
    simp only [semBits, semOf, hbit, hnum, if_true, and_true]
    omega

/-- The sync fields and the predicate of an acceptable instruction fit their fields (R68, R69). -/
theorem okCtl_fits {e : Engine} {k : Ctl} (h : okCtl e k = true) : okSem k.wait = true ∧ okSem k.post = true ∧ k.pred.idx < 8 := by
  simp only [okCtl, okSync, Bool.and_eq_true] at h
  obtain ⟨⟨hw, hp⟩, hk⟩ := h
  refine ⟨hw, hp, ?_⟩
  split at hk
  · simp only [okPred, Bool.and_eq_true, decide_eq_true_eq] at hk
    exact hk.1
  · simp only [noPred, Bool.and_eq_true, beq_iff_eq] at hk
    omega

/-! ### Words of L64 (R65) -/

section
variable {a d op len : Nat} (ha : a < 512) (hd : d < 512)
include ha hd

/-- The fields of word 0. -/
theorem w0Of_fields {p : Pred} (hp : p.idx < 8) (hop : op < 256) (hl : len < 4) :
    w0Of p a d op len % 4 = len ∧ w0Of p a d op len / 4 % 256 = op ∧ w0Of p a d op len / 2 ^ 10 % 512 = d ∧
    w0Of p a d op len / 2 ^ 19 % 512 = a ∧ w0Of p a d op len / 2 ^ 28 % 8 = p.idx ∧ w0Of p a d op len / 2 ^ 31 % 2 = p.neg.toNat := by
  have hn : p.neg.toNat < 2 := p.neg.toNat_lt
  unfold w0Of
  omega

end

/-- The fields of word 1. -/
theorem w1Of_fields {k : Ctl} {hint c b : Nat} (hw : semBits k.wait < 64) (hp : semBits k.post < 64) (hh : hint < 4) (hc : c < 512) (hb : b < 512) :
    w1Of k hint c b % 512 = b ∧ w1Of k hint c b / 2 ^ 9 % 512 = c ∧ w1Of k hint c b / 2 ^ 18 % 64 = semBits k.wait ∧
    w1Of k hint c b / 2 ^ 24 % 64 = semBits k.post ∧ w1Of k hint c b / 2 ^ 30 % 4 = hint := by
  unfold w1Of
  omega

/-- R79, R147: the L64 opcode 0x27 is SEL, and its operands are the fields that the words were made from. -/
theorem decode_l64_sel {e : Engine} {k : Ctl} {a d c b : Nat} (he : e ≠ .mtx) (hk : okCtl e k = true) (ha : a < 512) (hd : d < 512)
    (hc : c < 512) (hb : b < 512) :
    decode e (l64 k a d 0x27 0 c b) = accept e (l64 k a d 0x27 0 c b) (some (.sel k (dstOf e d) (srcOf e a) (srcOf e b) (srcOf e c))) := by
  obtain ⟨hw, hp, hi⟩ := okCtl_fits hk
  obtain ⟨hwb, hws⟩ := semOf_semBits hw
  obtain ⟨hpb, hps⟩ := semOf_semBits hp
  obtain ⟨hlen, hop, hfd, hfa, hfi, hfn⟩ := w0Of_fields (op := 0x27) (len := 1) ha hd hi (by decide) (by decide)
  obtain ⟨hfb, hfc, hfw, hfp, hfh⟩ := w1Of_fields (hint := 0) hwb hpb (by decide) hc hb
  have hneg : (k.pred.neg.toNat == 1) = k.pred.neg := by cases k.pred.neg <;> rfl
  simp only [l64, decode, hlen, hop, cand64, he, int64, inForm, rawOf, hfa, hfd, hfc, hfb, hfi, hfn, hfw, hfp, hws, hps, hneg]
  rfl

theorem decode_sel {e : Engine} {k : Ctl} {d : SDst} {a b c : SSrc} (hw : wellFormed e (.sel k d a b c) = true) :
    decode e (l64 k (sv e a) (dv e d) 0x27 0 (sv e c) (sv e b)) = .ok (.sel k d a b c, 2) := by
  have hok : (okCtl e k && okInt3 e d a b && okSrc e c) = true := hw
  simp only [okInt3, hasInt, Bool.and_eq_true, bne_iff_ne] at hok
  obtain ⟨⟨hk, ⟨⟨he, hd⟩, ha⟩, hb⟩, hc⟩ := hok
  have wide {n : Nat} (h : n < 64) : n < 512 := Nat.lt_of_lt_of_le h (by decide)
  rw [decode_l64_sel he hk (wide (sv_lt_field ha)) (wide (dv_lt_field hd)) (wide (sv_lt_field hc)) (wide (sv_lt_field hb)),
    dstOf_dv hd, srcOf_sv ha, srcOf_sv hb, srcOf_sv hc]
  exact accept_of_encode hw rfl

end Sys2Proof.Machine

section
open Sys2Proof Sys2Proof.Machine

/-- Settles O41: its words field by field, and its result by the selection of its third source. -/
theorem selResult : Obligations.SelResult := by
  unfold Obligations.SelResult
  constructor
  · exact fun e k d a b c hw => decode_sel hw
  · exact fun k d a b c => scalar_three (fun _ => rfl) fun _ _ _ => rfl

end
end

section
/-! SUPPORT. Lane-wise instructions (R162) and the lane functions of the integer types (R163 to R165, R171), and the obligations about them. -/

namespace Sys2Proof.Machine

/-! ### The shared shape of lane-wise instructions (R162) -/

section
variable {i : Instr} {k : Ctl} {t : ElemType} {lat : Nat} {srcs : List VSrc} {f g : LaneFn}

theorem laneWise_of {d : VDst} (he : ∀ s, exec i s = issue i s (laneBody k t lat d srcs false f)) (hf : f = g) :
    LaneWise i k t lat d srcs g := by
  unfold LaneWise Vector laneOps
  exact vector_of he fun x _ => by simp only [hf, Bool.false_eq_true, if_false, List.append_nil]

theorem laneWiseD_of {d : Nat} (he : ∀ s, exec i s = issue i s (laneBody k t lat (.reg d) srcs true f)) : LaneWiseD i k t lat d srcs f := by
  unfold LaneWiseD Vector laneOps
  exact vector_of he fun _ _ => rfl

end

/-! ### Shifts of lanes by any amount (R171) -/

theorem bits2_shlLane (w : Nat) : bits2 (shlLane w) = fun _ _ xs => (if w ≤ in1 xs then 0 else in0 xs * 2 ^ in1 xs % 2 ^ w, 0) := by
  funext rm ftz xs
  simp only [bits2, shlLane, Nat.shiftLeft_eq, ge_iff_le]

theorem bits2_shrLane (w : Nat) : bits2 (shrLane w) = fun _ _ xs => (if w ≤ in1 xs then 0 else in0 xs / 2 ^ in1 xs, 0) := by
  funext rm ftz xs
  simp only [bits2, shrLane, Nat.shiftRight_eq_div_pow, ge_iff_le]

/-! ### Integers in a lane (R7) -/

theorem width_pos (t : ElemType) : 0 < t.width := by cases t <;> decide

theorem wrapTo_of_lt {w n : Nat} (h : n < 2 ^ w) : wrapTo w n = n := by
  rw [wrapTo, ← Int.natCast_emod, Int.toNat_natCast, Nat.mod_eq_of_lt h]

/-- A negative number stands in its lane as its two's complement. -/
theorem wrapTo_neg {w n : Nat} (h0 : 0 < n) (h : n ≤ 2 ^ w) : wrapTo w (-n) = 2 ^ w - n := by
  have hadd : -(n : Int) + (2 ^ w : Nat) = ((2 ^ w - n : Nat) : Int) := by omega
  rw [wrapTo, ← Int.add_emod_right, hadd]
  exact wrapTo_of_lt (Nat.sub_lt (Nat.two_pow_pos w) h0)

theorem two_pow_width {w : Nat} (hw : 0 < w) : 2 ^ w = 2 * 2 ^ (w - 1) := (Nat.two_pow_pred_mul_two hw).symm.trans (Nat.mul_comm ..)

/-- The sign bit of a lane is set in the upper half of its patterns. -/
theorem asInt_eq {w n : Nat} (hw : 0 < w) (h : n < 2 ^ w) : asInt w n = if 2 ^ (w - 1) ≤ n then (n : Int) - (2 ^ w : Nat) else n := by
  have hsign : n.testBit (w - 1) = true ↔ 2 ^ (w - 1) ≤ n :=
    ⟨Nat.ge_two_pow_of_testBit, fun hn => Nat.testBit_of_two_pow_le_and_two_pow_add_one_gt hn (by rwa [Nat.sub_add_cancel hw])⟩
  simp only [asInt, hsign]

/-- The greatest number of an integer type is not below its least. -/
theorem intMin_le_intMax (sgn : Bool) (w : Nat) : intMin sgn w ≤ intMax sgn w := by
  have := Nat.two_pow_pos w
  have := Nat.two_pow_pos (w - 1)
  cases sgn <;> simp only [intMin, intMax, Bool.false_eq_true, if_true, if_false] <;> omega

/-- A number in the range of a type is what its lane reads as. -/
theorem intVal_wrapTo {sgn : Bool} {w : Nat} {n : Int} (hw : 0 < w) (hlo : intMin sgn w ≤ n) (hhi : n ≤ intMax sgn w) :
    intVal sgn w (wrapTo w n) = n := by
  have hpow := two_pow_width hw
  cases sgn with
  | false =>
    simp only [intMin, intMax, Bool.false_eq_true, if_false] at hlo hhi
    obtain ⟨m, rfl⟩ := Int.eq_ofNat_of_zero_le hlo
    rw [wrapTo_of_lt (by omega)]
    rfl
  | true =>
    simp only [intMin, intMax, if_true] at hlo hhi
    show asInt w (wrapTo w n) = n
    obtain ⟨m, rfl | rfl⟩ := n.eq_nat_or_neg
    · rw [wrapTo_of_lt (by omega), asInt_eq hw (by omega), if_neg (by omega)]
    · obtain rfl | h0 := m.eq_zero_or_pos
      · rw [Int.natCast_zero, Int.neg_zero, ← Int.natCast_zero, wrapTo_of_lt (by omega), asInt_eq hw (by omega), if_neg (by omega)]
      · rw [wrapTo_neg h0 (by omega), asInt_eq hw (by omega), if_pos (by omega)]
        omega

theorem intVal_satTo (sgn : Bool) {w : Nat} (hw : 0 < w) (n : Int) :
    intVal sgn w (satTo sgn w n) = max (intMin sgn w) (min (intMax sgn w) n) := by
  have := intMin_le_intMax sgn w
  rw [satTo, intVal_wrapTo hw (by split <;> (try split) <;> omega) (by split <;> (try split) <;> omega)]
  omega

/-- The pattern of the sign bit alone: the least number of a signed type, and its negation in an unsigned one. -/
theorem intVal_signBit (sgn : Bool) {w : Nat} (hw : 0 < w) :
    intVal sgn w (2 ^ (w - 1)) = if sgn then -((2 ^ (w - 1) : Nat) : Int) else (2 ^ (w - 1) : Nat) := by
  have hpow := two_pow_width hw
  have hpos := Nat.two_pow_pos (w - 1)
  cases sgn with
  | false => rfl
  | true =>
    show asInt w (2 ^ (w - 1)) = -((2 ^ (w - 1) : Nat) : Int)
    rw [asInt_eq hw (by omega), if_pos (Nat.le_refl _)]
    omega

theorem wrapTo_signBit {w : Nat} (hw : 0 < w) : wrapTo w (2 ^ (w - 1) : Nat) = 2 ^ (w - 1) :=
  wrapTo_of_lt (Nat.pow_lt_pow_right (by decide) (by omega))

/-- The negation of the most negative value wraps to it. -/
theorem wrapTo_neg_signBit {w : Nat} (hw : 0 < w) : wrapTo w (-((2 ^ (w - 1) : Nat) : Int)) = 2 ^ (w - 1) := by
  have hpow := two_pow_width hw
  have hpos := Nat.two_pow_pos (w - 1)
  rw [wrapTo_neg hpos (by omega)]
  omega

/-! ### Integer lanes (R163 to R165) -/

/-- A lane function that raises no flag and does not depend on the rounding mode or FTZ. -/
def Modeless (f : LaneFn) : Prop := ∀ rm ftz rm' ftz' xs, (f rm ftz xs).2 = 0 ∧ f rm ftz xs = f rm' ftz' xs

theorem modeless_of {f : LaneFn} {g : List Nat → Nat} (h : ∀ rm ftz xs, f rm ftz xs = (g xs, 0)) : Modeless f := by
  intro rm ftz rm' ftz' xs
  rw [h, h]
  exact ⟨rfl, rfl⟩

section
variable {t : ElemType} (ht : t.isInt = true)
include ht

theorem modeless_byType1 {f : FVal → FRes} {g : Int → Int} : Modeless (byType1 t f g) := modeless_of fun _ _ _ => if_pos ht

theorem modeless_byType2 {f : RMode → FVal → FVal → FRes} {g : Int → Int → Int} : Modeless (byType2 t f g) :=
  modeless_of fun _ _ _ => if_pos ht

theorem modeless_byType3 {f : RMode → FVal → FVal → FVal → FRes} {g : Int → Int → Int → Int} : Modeless (byType3 t f g) :=
  modeless_of fun _ _ _ => if_pos ht

/-- R164: the magnitude of the most negative value is out of range, and wraps to it. -/
theorem laneAbs_signBit (rm : RMode) (ftz : Bool) : (laneAbs t rm ftz [2 ^ (t.width - 1)]).1 = 2 ^ (t.width - 1) := by
  have habs : laneAbs t rm ftz [2 ^ (t.width - 1)] = (wrapTo t.width (intVal t.isSigned t.width (2 ^ (t.width - 1))).natAbs, 0) := if_pos ht
  rw [habs, intVal_signBit _ (width_pos t)]
  cases t.isSigned with
  | false => exact wrapTo_signBit (width_pos t)
  | true =>
    rw [if_pos rfl, Int.natAbs_neg]
    exact wrapTo_signBit (width_pos t)

theorem laneNeg_signBit (rm : RMode) (ftz : Bool) : (laneNeg t rm ftz [2 ^ (t.width - 1)]).1 = 2 ^ (t.width - 1) := by
  have hneg : laneNeg t rm ftz [2 ^ (t.width - 1)] = (wrapTo t.width (-intVal t.isSigned t.width (2 ^ (t.width - 1))), 0) := if_pos ht
  rw [hneg, intVal_signBit _ (width_pos t)]
  cases t.isSigned with
  | false => exact wrapTo_neg_signBit (width_pos t)
  | true =>
    rw [if_pos rfl, Int.neg_neg]
    exact wrapTo_signBit (width_pos t)

end

end Sys2Proof.Machine

section
open Sys2Proof Sys2Proof.Machine

/-- Settles O42: an integer lane takes the branch of its function that computes on integers, and the next states are those of the shared
shape. -/
theorem integerLanes : Obligations.IntegerLanes := by
  unfold Obligations.IntegerLanes
  intro t ht
  refine ⟨?_, ?_, ?_, ?_, ?_⟩
  · have h1 {f g} : Modeless (byType1 t f g) := modeless_byType1 ht
    have h2 {f g} : Modeless (byType2 t f g) := modeless_byType2 ht
    have h3 {f g} : Modeless (byType3 t f g) := modeless_byType3 ht
    have hs {g} : Modeless (laneSat t g) := modeless_of fun _ _ _ => rfl
    have hm : Modeless (laneMulh t) := modeless_of fun _ _ _ => rfl
    simp only [List.forall_mem_cons]
    exact ⟨h2, h2, h2, h3, h3, h3, h2, h2, h1, h1, hs, hs, hm, nofun⟩
  · exact fun rm ftz => ⟨laneAbs_signBit ht rm ftz, laneNeg_signBit ht rm ftz⟩
  · exact fun rm ftz x y => ⟨rfl, rfl, rfl⟩
  · exact fun n => intVal_satTo t.isSigned (width_pos t) n
  · exact fun k d a b => ⟨laneWise_of (fun _ => rfl) rfl, laneWise_of (fun _ => rfl) rfl, laneWise_of (fun _ => rfl) rfl⟩

/-- Settles O6: each instruction has the shared shape with its own lane function and latency. -/
theorem vectorArithmeticResults : Obligations.VectorArithmeticResults := by
  unfold Obligations.VectorArithmeticResults
  refine ⟨?_, ?_, ?_, ?_, ?_, ?_, ?_, ?_, ?_, ?_, ?_, ?_, ?_, ?_, ?_, ?_, ?_, ?_, ?_, ?_, ?_⟩
  · exact fun k t d a b => laneWise_of (fun _ => rfl) rfl
  · exact fun k t d a b => laneWise_of (fun _ => rfl) rfl
  · exact fun k t d a b => laneWise_of (fun _ => rfl) rfl
  · exact fun k t d a b => laneWiseD_of fun _ => rfl
  · exact fun k t d a b => laneWiseD_of fun _ => rfl
  · exact fun k t d a b => laneWiseD_of fun _ => rfl
  · exact fun k t d a b => laneWise_of (fun _ => rfl) rfl
  · exact fun k t d a b => laneWise_of (fun _ => rfl) rfl
  · exact fun k t d a => laneWise_of (fun _ => rfl) rfl
  · exact fun k t d a => laneWise_of (fun _ => rfl) rfl
  · exact fun k t d a b => laneWise_of (fun _ => rfl) rfl
  · exact fun k t d a b => laneWise_of (fun _ => rfl) rfl
  · exact fun k t d a b => laneWise_of (fun _ => rfl) rfl
  · exact fun k t d a b => laneWise_of (fun _ => rfl) rfl
  · exact fun k t d a => laneWise_of (fun _ => rfl) rfl
  · exact fun k t d a => laneWise_of (fun _ => rfl) rfl
  · exact fun k t d a => laneWise_of (fun _ => rfl) rfl
  · exact fun k t d a => laneWise_of (fun _ => rfl) rfl
  · exact fun k t d a => laneWise_of (fun _ => rfl) rfl
  · exact fun k t d a => laneWise_of (fun _ => rfl) rfl
  · exact fun k t d a => laneWise_of (fun _ => rfl) rfl

/-- Settles O7: each instruction has the shared shape with its own bit function. -/
theorem vectorLogicResults : Obligations.VectorLogicResults := by
  unfold Obligations.VectorLogicResults
  refine ⟨?_, ?_, ?_, ?_, ?_, ?_, ?_, ?_, ?_⟩
  · exact fun k t d a b => laneWise_of (fun _ => rfl) rfl
  · exact fun k t d a b => laneWise_of (fun _ => rfl) rfl
  · exact fun k t d a b => laneWise_of (fun _ => rfl) rfl
  · exact fun k t d a => laneWise_of (fun _ => rfl) rfl
  · exact fun k t d a b => laneWise_of (fun _ => rfl) (bits2_shlLane t.width)
  · exact fun k t d a b => laneWise_of (fun _ => rfl) (bits2_shrLane t.width)
  · exact fun k t d a b => laneWise_of (fun _ => rfl) rfl
  · exact fun k t d a => laneWise_of (fun _ => rfl) rfl
  · exact fun k t d a => laneWise_of (fun _ => rfl) rfl

end
end

section
/-! SUPPORT. The extraction of a lane (R174) and the words of VBCAST (R82, R173), and the obligations about conversions and moves. -/

namespace Sys2Proof.Machine

/-! ### VEXTR (R174) -/

/-- A poisoned lane is extracted as 0 beside its tag. -/
theorem vextr_extracts {k : Ctl} {t : ElemType} {d : SDst} {a : VSrc} {b : SSrc} : VectorWhen (.vextr k t d a b)
    { sd := some d, vs := [a], ss := [b], chk := [clusterVSrc a], w := t.width, pred := k.pred, lat := 3 }
    (fun x => (x.sc 0).tag = none) fun x =>
      let l := laneIn t.width (x.src 0) ((x.sc 0).val.toNat % t.lanes)
      { sc := { val := if l.tag.isSome then 0 else extendLane t l.val, tag := l.tag } } := by
  refine vector_of (fun _ => rfl) fun x hx => ?_
  dsimp only
  rw [hx]
  cases (laneIn t.width (x.src 0) ((x.sc 0).val.toNat % t.lanes)).tag with
  | none => rfl
  | some c => rfl

/-! ### Words of the vector map (R65, R82) -/

theorem vdOf_vdv {d : VDst} (h : okVDst d = true) : vdv d < 512 ∧ vdOf (vdv d) = d := by
  cases d with
  | reg n =>
    have hn : n < 384 := of_decide_eq_true h
    exact ⟨by simp only [vdv]; omega, if_neg (by simp only [vdv]; omega)⟩
  | sq n =>
    have hn : n < 2 := of_decide_eq_true h
    exact ⟨by simp only [vdv]; omega, (if_pos (by simp only [vdv]; omega)).trans (congrArg _ (Nat.add_sub_cancel_left ..))⟩

theorem ofCode_code (t : ElemType) : t.code < 16 ∧ ElemType.ofCode t.code = t := by cases t <;> decide

/-- The sync fields and the predicate of a lane-wise instruction fit their fields (R68, R69). -/
theorem okLane_fits {k : Ctl} (h : okLane k = true) : okSem k.wait = true ∧ okSem k.post = true ∧ k.pred.idx < 8 := by
  simp only [okLane, okSync, okPred, Bool.and_eq_true, decide_eq_true_eq] at h
  obtain ⟨⟨hw, hp⟩, hi, -⟩ := h
  exact ⟨hw, hp, hi⟩

/-- The words of an L64 instruction are read back field by field (R65). -/
theorem rawOf_l64 {k : Ctl} {a d op c b hint : Nat} (hk : okSem k.wait = true ∧ okSem k.post = true ∧ k.pred.idx < 8) (ha : a < 512)
    (hd : d < 512) (hop : op < 256) (hh : hint < 4) (hc : c < 512) (hb : b < 512) :
    let r := rawOf (w0Of k.pred a d op 1) (w1Of k hint c b) 0
    r.ctl = k ∧ r.a = a ∧ r.d = d ∧ r.hint = hint ∧ r.c = c ∧ r.b = b := by
  obtain ⟨hw, hp, hi⟩ := hk
  obtain ⟨hwb, hws⟩ := semOf_semBits hw
  obtain ⟨hpb, hps⟩ := semOf_semBits hp
  obtain ⟨-, -, hfd, hfa, hfi, hfn⟩ := w0Of_fields (len := 1) ha hd hi hop (by decide)
  obtain ⟨hfb, hfc, hfw, hfp, hfh⟩ := w1Of_fields (k := k) hwb hpb hh hc hb
  have hneg : (k.pred.neg.toNat == 1) = k.pred.neg := by cases k.pred.neg <;> rfl
  simp only [rawOf, hfa, hfd, hfc, hfb, hfh, hfi, hfn, hfw, hfp, hws, hps, hneg, and_self]

/-- R74, R82: an L64 word of the vector engine with an opcode of its own map. -/
theorem decode_l64_vec {k : Ctl} {a d op c b hint : Nat} (hi : k.pred.idx < 8) (ha : a < 512) (hd : d < 512) (hlo : 0x40 ≤ op) (hop : op < 256) :
    decode .vec (l64 k a d op hint c b) =
      accept .vec (l64 k a d op hint c b) (vec64 .vec op 1 (rawOf (w0Of k.pred a d op 1) (w1Of k hint c b) 0)) := by
  obtain ⟨hlen, hfop, -⟩ := w0Of_fields (len := 1) ha hd hi hop (by decide)
  have h20 : ¬ op < 0x20 := by omega
  simp only [l64, decode, hlen, hfop, cand64, h20, Nat.not_lt.2 hlo, Nat.one_ne_zero, if_true, if_false]

theorem wellFormed_vbcast (k : Ctl) (t : ElemType) (d : VDst) (a : SSrc) :
    wellFormed .vec (.vbcast k t d a) = (okLane k && t.code != 14 && okVDst d && okSrc .vec a) := rfl

/-- R82, R173: opcode 0x62 is VBCAST, and its operands are the fields that the words were made from. -/
theorem decode_vbcast {k : Ctl} {t : ElemType} {d : VDst} {a : SSrc} (hw : wellFormed .vec (.vbcast k t d a) = true) :
    decode .vec (l64 k (sv .vec a) (vdv d) 0x62 0 t.code 0) = .ok (.vbcast k t d a, 2) := by
  have hok := hw
  simp only [wellFormed_vbcast, Bool.and_eq_true] at hok
  obtain ⟨⟨⟨hk, -⟩, hd⟩, ha⟩ := hok
  obtain ⟨-, -, hi⟩ := okLane_fits hk
  obtain ⟨hdv, hdo⟩ := vdOf_vdv hd
  obtain ⟨ht, hto⟩ := ofCode_code t
  have hav : sv .vec a < 512 := Nat.lt_of_lt_of_le (sv_lt_field ha) (by decide)
  obtain ⟨hrk, hra, hrd, -, hrc, -⟩ := rawOf_l64 (op := 0x62) (hint := 0) (b := 0) (okLane_fits hk) hav hdv (by decide) (by decide)
    (Nat.lt_of_lt_of_le ht (by decide)) (by decide)
  have hc : vec64 .vec 0x62 1 (rawOf (w0Of k.pred (sv .vec a) (vdv d) 0x62 1) (w1Of k 0 t.code 0) 0) = some (.vbcast k t d a) := by
    simp only [vec64, inForm, Raw.ty, hrk, hra, hrd, hrc, Nat.mod_eq_of_lt ht, hto, hdo, srcOf_sv ha, if_true]
  rw [decode_l64_vec hi hav hdv (by decide) (by decide), hc]
  exact accept_of_encode hw rfl

end Sys2Proof.Machine

section
open Sys2Proof Sys2Proof.Machine

/-- Settles O8: each instruction by the shared shape of the vector instructions, VEXTR and VINS where their index has no tag. -/
theorem vectorConversionResults : Obligations.VectorConversionResults := by
  unfold Obligations.VectorConversionResults
  refine ⟨?_, ?_, ?_, ?_, ?_, ?_⟩
  · exact fun k td ts part d a => vector_of (fun _ => rfl) fun _ _ => rfl
  · exact fun k td ts part d a sc => vector_of (fun _ => rfl) fun _ _ => rfl
  · exact fun k td ts part d a sc => vector_of (fun _ => rfl) fun _ _ => rfl
  · exact fun k t d a => vector_of (fun _ => rfl) fun _ _ => rfl
  · exact fun k t d a b => vextr_extracts
  · exact fun k t d a b => vector_of (fun _ => rfl) fun x hx => by rw [hx]

/-- Settles O43: its words field by field, the types that it takes, and its result by the shared shape. -/
theorem vbcastResult : Obligations.VbcastResult := by
  unfold Obligations.VbcastResult
  refine ⟨?_, ?_, ?_, ?_⟩
  · exact fun k t d a hw => decode_vbcast hw
  · rfl
  · exact wellFormed_vbcast
  · exact fun k t d a => vector_of (fun _ => rfl) fun _ _ => rfl

end
end

section
/-! SUPPORT. Where the results of vector instructions fault (R174, R178, R194), and the obligation about the frame of the vector instructions. -/

namespace Sys2Proof.Machine

/-- The destinations of a vector instruction's operands. -/
def VOps.dsts (o : VOps) : VDsts := { vd := o.vd, sd := o.sd, md := o.md, bpd := o.bpd }

/-- A select mask is refused only for its tag, by a fault (R178). -/
theorem withMask_error {x : VIn} {f : BitVec 512 → VOut} {v : Verdict} (h : withMask x f = .error v) : ∃ r, v = .trap r := by
  unfold withMask at h
  split at h
  · cases h
    exact ⟨_, rfl⟩
  · cases h

section
variable {i : Instr} {o : VOps} {d : VDsts} {s t : State} (hd : vectorDst i = some d) (ho : vectorDst i = some o.dsts)
include hd ho

/-- The frame of an instruction whose result may fault. -/
theorem vectorFault_frame {g : VIn → Except Verdict VOut} (he : exec i s = issue i s (vecBody o g))
    (hg : ∀ x v, g x = .error v → ∃ r, v = .trap r) (h : exec i s = .next t) : KeepsOthers s t ∧ KeepsFocus s t (writesV d) := by
  obtain rfl : o.dsts = d := Option.some.inj (ho.symm.trans hd)
  exact vector_frame he hg h

/-- The frame of an instruction that always has a result. -/
theorem vectorForm_frame {f : VIn → VOut} (he : exec i s = issue i s (vecBody o fun x => .ok (f x))) (h : exec i s = .next t) :
    KeepsOthers s t ∧ KeepsFocus s t (writesV d) :=
  vectorFault_frame hd ho he (fun _ _ hv => nomatch hv) h

end

end Sys2Proof.Machine

section
open Sys2Proof Sys2Proof.Machine

/-- Settles O57: every instruction of the list has the shared shape; those that use a mask, an index or a pattern fault where it has a tag. -/
theorem vectorFrame : Obligations.VectorFrame := by
  unfold Obligations.VectorFrame
  intro i d s t hd h
  cases i with
  | vadd | vsub | vmul | vmin | vmax | vabs | vneg | vadds | vsubs | vmulh | vdiv | vsqrt | vrcp | vrsq | vexp2 | vlog2 | vsinp | vcosp | vand
  | vor | vxor | vnot | vshl | vshr | vsar | vclz | vpopc | vcvt | vdqnt | vmov | vbcast | kmovToVector | vshuf | vxswp | vbperm | vfma | vfms
  | vfnma | vscan | vqnt | kpop | vredsum | vredmax | vredmin | vvoteAny | vvoteAll | vcmp | kand | kor | kxor | knot | kmovMask
  | kmovFromVector | vvoteBallot => exact vectorForm_frame hd rfl rfl h
  | vsel | vcompress | vexpand => exact vectorFault_frame hd rfl rfl (fun _ _ hv => withMask_error hv) h
  | vrot | vextr | vins | vbpload =>
    refine vectorFault_frame hd rfl rfl (fun x v hv => ?_) h
    split at hv
    · cases hv
      exact ⟨_, rfl⟩
    · cases hv
  | _ => cases hd

end
end

section
/-! SUPPORT. Results beside a tag (R178, R185, R188, R192), the logic of masks (R184), and the obligations about masks and lane movement. -/

namespace Sys2Proof.Machine

/-- A select mask without a tag selects by its bits (R178). -/
theorem withMask_clear {x : VIn} (h : (x.km 0).tag = none) (f : BitVec 512 → VOut) : withMask x f = .ok (f (x.km 0).bits) := by
  simp only [withMask, h]

/-- K0 reads all ones (R175). -/
theorem readMask_zero (cs : CoreSt) : readMask cs 0 = { bits := BitVec.allOnes 512 } := if_pos rfl

theorem popCount_two_pow_sub_one (w : Nat) : popCount w (2 ^ w - 1) = w := by
  induction w with
  | zero => rfl
  | succ w ih =>
    have hpow := Nat.two_pow_pos w
    have hbit : (2 ^ (w + 1) - 1) % 2 = 1 := by omega
    have hrest : (2 ^ (w + 1) - 1) / 2 = 2 ^ w - 1 := by omega
    rw [popCount, hbit, hrest, ih, Nat.add_comm]

theorem popCount_allOnes (w : Nat) : popCount w (BitVec.allOnes w).toNat = w := by
  rw [BitVec.toNat_allOnes, popCount_two_pow_sub_one]

section
variable {i : Instr} {k : Ctl}

/-- KAND, KOR and KXOR join the tags of their sources, whatever they do with the bits. -/
theorem maskLogic_of {d a b : Nat} {f : BitVec 512 → BitVec 512 → BitVec 512} (he : ∀ s, exec i s = issue i s (maskBody k d a b f)) :
    Vector i { md := some d, ms := [a, b], pred := k.pred, lat := 1 }
      fun x => { m := { bits := f (x.km 0).bits (x.km 1).bits, tag := maxTag (x.km 0).tag (x.km 1).tag } } :=
  vector_of he fun _ _ => rfl

variable {t : ElemType} {d : SDst} {a : VSrc}

/-- A vote is 0 beside the tag of a poisoned active lane (R192). -/
theorem vote_of {f : VIn → Bool} (he : ∀ s, exec i s = issue i s (voteBody k t d a f)) :
    Vector i { sd := some d, vs := [a], chk := [clusterVSrc a], w := t.width, pred := k.pred, lat := 2 }
      fun x => { sc := { val := if (activeTag t x).isSome then 0 else if f x then 1 else 0, tag := activeTag t x } } := by
  refine vector_of he fun x _ => ?_
  cases activeTag t x with
  | none => rfl
  | some c => rfl

theorem reduction_of {op : RedOp} (he : ∀ s, exec i s = issue i s (redBody k op t d a)) :
    Vector i { sd := some d, vs := [a], chk := [clusterVSrc a], w := t.width, pred := k.pred, lat := 6 } (redOut op t) :=
  vector_of he fun _ _ => rfl

end

/-- KPOP of a tagged mask writes 0 with its tag (R178). -/
theorem kpop_counts (k : Ctl) (d : SDst) (a : Nat) : Vector (.kpop k d a) { sd := some d, ms := [a], pred := k.pred, lat := 2 }
    fun x => { sc := { val := if (x.km 0).tag.isSome then 0 else BitVec.ofNat 64 (popCount 512 (x.km 0).bits.toNat), tag := (x.km 0).tag } } := by
  refine vector_of (fun _ => rfl) fun x _ => ?_
  cases (x.km 0).tag with
  | none => rfl
  | some c => rfl

/-- The vector engine has scalar registers 0 to 31, so a destination of 32 is none (R71). -/
theorem wellFormed_kpop_reg32 (k : Ctl) (a : Nat) : wellFormed .vec (.kpop k (.reg 32) a) = false := by
  have hd : okDst .vec (.reg 32) = false := by decide
  simp only [wellFormed, hd, Bool.and_false, Bool.false_and]

/-- An index lane with a tag makes its result lane 0 with that tag (R188). -/
theorem vshuf_permutes (k : Ctl) (hi : Bool) (t : ElemType) (d : VDst) (a b : VSrc) : Vector (.vshuf k hi t d a b)
    { vd := some d, vs := [a, b], chk := [clusterVDst d, clusterVSrc a, clusterVSrc b], w := t.width, pred := k.pred, lat := 3 }
    fun x => laneMove t.width x fun i =>
      if (vTag t.width (x.src 1) i).isSome then ⟨0, vTag t.width (x.src 1) i⟩
      else laneIn t.width (x.src 0) ((vLane t.width (x.src 1) i + (if hi then 256 else 0)) % t.lanes) := by
  refine vector_of (fun _ => rfl) fun x _ => congrArg (fun f => Except.ok (laneMove t.width x f)) (funext fun i => ?_)
  cases vTag t.width (x.src 1) i with
  | none => rfl
  | some c => rfl

end Sys2Proof.Machine

section
open Sys2Proof Sys2Proof.Machine

/-- Settles O44: the logic by its shared body, and KPOP by the count of a mask with and without a tag. -/
theorem maskLogicResults : Obligations.MaskLogicResults := by
  unfold Obligations.MaskLogicResults
  refine ⟨?_, ?_, ?_, ?_, ?_, ?_, ?_, ?_, ?_⟩
  · exact fun k d a b => maskLogic_of fun _ => rfl
  · exact fun k d a b => maskLogic_of fun _ => rfl
  · exact fun k d a b => maskLogic_of fun _ => rfl
  · exact fun k d a => vector_of (fun _ => rfl) fun _ _ => rfl
  · exact kpop_counts
  · exact readMask_zero
  · exact popCount_allOnes 512
  · rfl
  · exact wellFormed_kpop_reg32

/-- Settles O9: each instruction by the shared shape of the vector instructions, VSEL where its select mask has no tag. -/
theorem vectorMaskResults : Obligations.VectorMaskResults := by
  unfold Obligations.VectorMaskResults
  refine ⟨?_, ?_, ?_, ?_, ?_⟩
  · exact fun k c t d a b => vector_of (fun _ => rfl) fun _ _ => rfl
  · exact fun k t d a b m => vector_of (fun _ => rfl) fun x hx => withMask_clear hx _
  · exact fun k d a => vector_of (fun _ => rfl) fun _ _ => rfl
  · exact fun k d a => vector_of (fun _ => rfl) fun _ _ => rfl
  · exact fun k d a => vector_of (fun _ => rfl) fun _ _ => rfl

/-- Settles O10: each instruction by the shared shape of the vector instructions, where its select mask, amount or pattern has no tag, and
VBPLOAD also where its pattern has one. -/
theorem vectorLaneMovementResults : Obligations.VectorLaneMovementResults := by
  unfold Obligations.VectorLaneMovementResults
  refine ⟨?_, ?_, ?_, ?_, ?_, ?_, ?_, ?_, ?_, ?_, ?_, ?_, ?_, ?_, ?_⟩
  · exact vshuf_permutes
  · exact fun k t d a n => vector_of (fun _ => rfl) fun _ _ => rfl
  · exact fun k t d a b => vector_of (fun _ => rfl) fun x hx => by rw [hx]
  · exact fun k t d a m => vector_of (fun _ => rfl) fun x hx => withMask_clear hx _
  · exact fun k t d a m => vector_of (fun _ => rfl) fun x hx => withMask_clear hx _
  · exact fun k t d a => reduction_of fun _ => rfl
  · exact fun k t d a => reduction_of fun _ => rfl
  · exact fun k t d a => reduction_of fun _ => rfl
  · exact fun k t d a => vector_of (fun _ => rfl) fun _ _ => rfl
  · exact fun k t d a => vote_of fun _ => rfl
  · exact fun k t d a => vote_of fun _ => rfl
  · exact fun k t d a => vector_of (fun _ => rfl) fun _ _ => rfl
  · exact fun k d a p => vector_of (fun _ => rfl) fun _ _ => rfl
  · exact fun k p a part => vector_of (fun _ => rfl) fun x hx => by rw [hx]
  · exact fun k p a part => vtraps_of (fun _ => rfl) fun x c h => by rw [h]

end
end

section
/-! SUPPORT. What the clearing of a tile and of an accumulator leaves to be read (R212), and the obligation about it. -/

namespace Sys2Proof.Machine

/-- A map without the keys that `f` refuses. -/
theorem mget_filter_key {α : Type} (f : Nat → Bool) (m : NMap α) (k : Nat) :
    mget (m.filter fun p => f p.1) k = if f k then mget m k else none := by
  induction m with
  | nil => simp [mget]
  | cons p t ih =>
    obtain ⟨j, v⟩ := p
    by_cases hj : f j = true <;> by_cases hk : k = j <;> simp_all [mget]

/-- A map whose keys stand in blocks of 128, without block d. -/
theorem mgetD_dropBlock {α : Type} (x : α) (m : NMap α) {d t r : Nat} (hr : r < 128) :
    mgetD x (m.filter fun p => p.1 / 128 != d) (128 * t + r) = if t = d then x else mgetD x m (128 * t + r) := by
  have hb : (128 * t + r) / 128 = t := by omega
  rw [mgetD, mget_filter_key (fun n => n / 128 != d), hb]
  by_cases h : t = d
  · simp [h]
  · simp [h, mgetD]

variable (cs : CoreSt) (d t : Nat) {r : Nat} (hr : r < 128)
include hr

theorem readTile_dropTile : readTile { cs with tiles := dropTile cs d } t r = if t = d then {} else readTile cs t r :=
  mgetD_dropBlock (d := d) (t := t) ({} : TileRow) cs.tiles hr

theorem accRow_dropAcc : accRow { cs with vregs := dropAcc cs d } t r = if t = d then {} else accRow cs t r :=
  mgetD_dropBlock (d := d) (t := t) ({} : VVal) cs.vregs hr

end Sys2Proof.Machine

section
open Sys2Proof Sys2Proof.Machine

/-- Settles O45: both instructions by the shared shape of the matrix instructions, and the rows by the keys that the clearing drops. -/
theorem tileClearResults : Obligations.TileClearResults := by
  unfold Obligations.TileClearResults
  refine ⟨?_, ?_, ?_, ?_, ?_, ?_⟩
  · exact fun k d => matrix_of (fun _ => rfl) (by decide) fun _ _ => rfl
  · exact fun k d => matrix_of (fun _ => rfl) (by decide) fun _ _ => rfl
  · exact fun cs d r hr => (readTile_dropTile cs d d hr).trans (if_pos rfl)
  · exact fun cs d t r ht hr => (readTile_dropTile cs d t hr).trans (if_neg ht)
  · exact fun cs d r hr => (accRow_dropAcc cs d d hr).trans (if_pos rfl)
  · exact fun cs d n r hn hr => (accRow_dropAcc cs d n hr).trans (if_neg hn)

end
end

section
/-! SUPPORT. What the bodies of TSET, TGET and the other tile instructions answer (R203, R213 to R216), and the obligation about tiles. -/

namespace Sys2Proof.Machine

/-! ### Operands -/

theorem useBody_ready {s : State} {a : SSrc} {v : Word} {cs : CoreSt} (h : UseReady s a v cs) (f : CoreSt → Word → Verdict) :
    useBody a f s = f cs v := by
  obtain ⟨hz, ht⟩ := h
  simp [useBody, hz, ht]

/-- A destination without sources takes a value in one cycle. -/
theorem scalarBody_writes {s : State} {d : SDst} {cs : CoreSt} (h : SrcsReady s [] d [] cs) (v : SVal) :
    scalarBody [] d 1 (fun _ => .ok v) s = .done (scalarDone s cs d v) := by
  obtain ⟨hz, ht, hr⟩ := h
  cases d with
  | reg n => simp_all [scalarBody, scalarDone]
  | qr => simp_all [scalarBody, scalarDone]

/-! ### TSET (R203) -/

section
variable (d : Nat) (v : Word) (cs : CoreSt)

theorem tsetTile_valid (h : validTile (tileValue v) d = true) : tsetTile d v cs = .inr { cs with tcT := mputD 0 cs.tcT d (v &&& 0x7FFFBFFF) } := by
  simp only [tsetTile, h, if_true]
  simp only [tileValue, BitVec.ofNat_toNat, BitVec.setWidth_eq]

theorem tsetTile_invalid (h : validTile (tileValue v) d = false) : tsetTile d v cs = .inl (.trap { trap := .tileShape }) := by
  simp [tsetTile, h]

theorem tsetAcc_valid (h : validAcc (accValue v) = true) : tsetAcc d v cs = .inr { cs with tcAcc := mputD 0 cs.tcAcc d (v &&& 0xF3) } := by
  simp only [tsetAcc, h, if_true]
  simp only [accValue, BitVec.ofNat_toNat, BitVec.setWidth_eq]

theorem tsetAcc_invalid (h : validAcc (accValue v) = false) : tsetAcc d v cs = .inl (.trap { trap := .tileShape }) := by
  simp [tsetAcc, h]

end

section
variable {s : State} {d : Nat} {a : SSrc} {v : Word} {cs : CoreSt} (he : s.focusEng = .mtx) (hu : UseReady s a v cs)
include he hu

/-- TSET of a tile that no other engine claims: the fault of an unacceptable value, or the core with the value set. -/
theorem tsetBody_tile (hf : tileBusy (focusCs s) (tileClaims [] [d] none) = false) :
    tsetBody false d a s = (tsetTile d v cs).elim id fun cs' => .done { s := withCs s cs', claims := tileClaims [] [d] none } := by
  have ht : takeSrcs (focusCs s) .mtx [a] = some ([{ val := v }], cs) := he ▸ hu.2
  simp only [tsetBody, ht, hf, useBody_ready hu]
  cases tsetTile d v cs <;> rfl

/-- TSET of an accumulator whose cluster no other engine uses. -/
theorem tsetBody_acc (hf : clusterBusy (focusCs s) d = false) :
    tsetBody true d a s = (tsetAcc d v cs).elim id fun cs' => .done { s := withCs s cs', claims := tileClaims [] [] (some d) } := by
  have ht : takeSrcs (focusCs s) .mtx [a] = some ([{ val := v }], cs) := he ▸ hu.2
  simp only [tsetBody, ht, hf, useBody_ready hu]
  cases tsetAcc d v cs <;> rfl

end

/-! ### TGET (R203) -/

section
variable {k : Ctl} {d : SDst} {a : Nat} {s s1 : State} {w : Bool} {cs : CoreSt}

theorem tget_tile (hi : Issues (.tget k false d a) s s1 w) (hr : SrcsReady s1 [] d [] cs)
    (hf : tileBusy (focusCs s1) (tileClaims [a] [] none) = false) :
    GoesTo (.tget k false d a) s w { scalarDone s1 cs d { val := mgetD 0 (focusCs s1).tcT a } with claims := tileClaims [a] [] none } := by
  refine issue_goes hi ?_
  simp only [hf, scalarBody_writes hr, addClaims]
  cases d <;> rfl

theorem tget_acc (hi : Issues (.tget k true d a) s s1 w) (hr : SrcsReady s1 [] d [] cs) :
    GoesTo (.tget k true d a) s w (scalarDone s1 cs d { val := mgetD 0 (focusCs s1).tcAcc a }) := by
  refine issue_goes hi ?_
  simp only [scalarBody_writes hr, addClaims]
  cases d <;> rfl

end

/-! ### The shared shape of the matrix instructions (R158, R200, R201) -/

section
variable {s : State} {reads writes : List Nat} {acc : Option Nat} {chk : CoreSt → Option Trap} (h : TilesFree s (tileClaims reads writes acc) acc)
include h

theorem TilesFree.cluster : (acc.map (clusterBusy (focusCs s))).getD false = false := by
  cases acc with
  | none => rfl
  | some n => exact h.2 n rfl

theorem mtxBody_acts {lat : Nat} (hl : 1 < lat) (hc : chk (focusCs s) = none) (f : CoreSt → CoreSt × Flags) :
    mtxBody reads writes acc lat chk f s =
      .done { s := withCs s (f (focusCs s)).1, lat := lat, flags := (f (focusCs s)).2, claims := tileClaims reads writes acc } := by
  simp [mtxBody, h.1, h.cluster, hc, hl]

theorem mtxBody_faults {t : Trap} (hc : chk (focusCs s) = some t) (lat : Nat) (f : CoreSt → CoreSt × Flags) :
    mtxBody reads writes acc lat chk f s = .trap { trap := t } := by
  simp [mtxBody, h.1, h.cluster, hc]

end

end Sys2Proof.Machine

section
open Sys2Proof Sys2Proof.Machine

/-- Settles O11: TSET and TGET by their operands, the other instructions by the shared shape of the matrix instructions; the tiles that
ATILE reads depend on the state. -/
theorem tileResults : Obligations.TileResults := by
  unfold Obligations.TileResults
  refine ⟨?_, ?_, ?_, ?_, ?_, ?_, ?_, ?_, ?_, ?_⟩
  · intro k d a s s1 w v cs1 hi he hu hf hv
    exact issue_goes hi (by rw [tsetBody_tile he hu hf, tsetTile_valid d v cs1 hv]; rfl)
  · intro k d a s s1 w v cs1 hi he hu hf hv
    exact issue_goes hi (by rw [tsetBody_acc he hu hf, tsetAcc_valid d v cs1 hv]; rfl)
  · exact fun k d a s s1 w cs1 => tget_tile
  · exact fun k d a s s1 w cs1 => tget_acc
  · exact fun k d a => matrix_of (fun _ => rfl) (by decide) fun _ _ => rfl
  · exact fun k d a => matrix_of (fun _ => rfl) (by decide) fun _ h => h
  · exact fun k d a => matrix_of (fun _ => rfl) (by decide) fun _ h => h
  · exact fun k d a => matrix_of (fun _ => rfl) (by decide) fun _ h => h
  · exact fun k d a s s1 w hi hf hc => issue_goes hi (mtxBody_acts hf (by decide) hc _)
  · exact fun k => plain_of (fun _ => rfl) fun s h => if_pos h

end
end

section
/-! SUPPORT. Where the checks of the tile instructions fail (R213 to R216), what the bodies of the multiplications answer (R205 to R208), and
the obligation about them. -/

namespace Sys2Proof.Machine

theorem matrixTraps_of {i : Instr} {reads : CoreSt → List Nat} {writes : List Nat} {acc : Option Nat} {lat : Nat} {bad : CoreSt → Prop} {t : Trap}
    {chk : CoreSt → Option Trap} {f : CoreSt → CoreSt × Flags}
    (he : ∀ s, exec i s = issue i s fun s => mtxBody (reads (focusCs s)) writes acc lat chk f s)
    (hc : ∀ cs, bad cs → chk cs = some t) : MatrixTraps i reads writes acc bad t := by
  intro s s1 w hi hf hb
  rw [TrapsWith, he]
  exact issue_traps hi (mtxBody_faults hf (hc _ hb) lat f)

/-! ### Checks of the tile instructions -/

/-- A check fails where it would ask for what does not hold. -/
theorem not_of_imp {b : Bool} {p : Prop} (hb : b = true → p) (h : ¬p) : (!b) = true := by
  rw [Bool.not_eq_true', ← Bool.not_eq_true]
  exact fun hx => h (hb hx)

/-- A condition that a check asks for only where `b` holds. -/
theorem not_or_eq_true_iff {b c : Bool} : (!b || c) = true ↔ (b = true → c = true) := by
  cases b with
  | false => simp only [Bool.not_false, Bool.true_or, Bool.false_eq_true, false_implies]
  | true => simp only [Bool.not_true, Bool.false_or, true_implies]

section
variable (d a : Nat) (cs : CoreSt)

/-- The shapes that TTR takes (R213). -/
def TtrFits : Prop :=
  plainTile (tcT cs a) = true ∧ plainTile (tcT cs d) = true ∧ d ≠ a ∧ tcWidth (tcT cs a) ≠ 4 ∧ tcType (tcT cs d) = tcType (tcT cs a) ∧
  tcE4 (tcT cs d) = false ∧ tcRows (tcT cs d) = tcK (tcT cs a) ∧ tcBytes (tcT cs d) = tcRows (tcT cs a) * tcWidth (tcT cs a) / 8

/-- The shapes that TCVT takes (R214). -/
def TcvtFits : Prop :=
  plainTile (tcT cs a) = true ∧ plainTile (tcT cs d) = true ∧ tcRows (tcT cs a) = tcRows (tcT cs d) ∧ tcK (tcT cs a) = tcK (tcT cs d)

/-- The shape that TACC takes (R215). -/
def TaccFits : Prop := plainTile (tcT cs d) = true ∧ tcK (tcT cs d) ≤ 4096 / ewOf cs a

/-- The shapes that ATILE takes (R216). -/
def AtileFits : Prop :=
  tcCfg (tcT cs a) = true ∧ tcMetae (tcT cs a) = false ∧ tcK (tcT cs a) ≤ 4096 / ewOf cs d ∧
  (tcScle (tcT cs a) = true → scaleShape cs (tcScl (tcT cs a)) (tcRows (tcT cs a)) (tcK (tcT cs a)) = true)

variable {d a cs}

theorem ttrShape_unfit (h : ¬ TtrFits d a cs) : ttrShape d a cs = some .tileShape := by
  refine if_neg fun hb => h ?_
  simpa [TtrFits, and_assoc] using hb

theorem tcvtCheck_unfit (h : ¬ TcvtFits d a cs) : tcvtCheck d a cs = some .tileShape := by
  refine if_pos (not_of_imp (fun hb => ?_) h)
  simpa [TcvtFits, and_assoc] using hb

theorem tcvtCheck_scale (h : TcvtFits d a cs) (ht : tcType (tcT cs a) = .e8m0 ∨ tcType (tcT cs d) = .e8m0) :
    tcvtCheck d a cs = some .mmaType := by
  obtain ⟨ha, hd, hr, hk⟩ := h
  simp [tcvtCheck, ha, hd, hr, hk, ht]

theorem taccCheck_unfit (h : ¬ TaccFits d a cs) : taccCheck d a cs = some .tileShape := by
  refine if_pos (not_of_imp (fun hb => ?_) h)
  simpa [TaccFits] using hb

theorem taccCheck_scale (h : TaccFits d a cs) (ht : tcType (tcT cs d) = .e8m0) : taccCheck d a cs = some .mmaType := by
  obtain ⟨hd, hk⟩ := h
  simp [taccCheck, hd, hk, ht]

theorem atileCheck_unfit (h : ¬ AtileFits d a cs) : atileCheck d a cs = some .tileShape := by
  refine if_pos (not_of_imp (fun hb => ?_) h)
  simp only [Bool.and_eq_true, Bool.not_eq_true', decide_eq_true_eq, not_or_eq_true_iff] at hb
  obtain ⟨⟨⟨hc, hm⟩, hk⟩, hs⟩ := hb
  exact ⟨hc, hm, hk, hs⟩

/-- An integer type is no type of vector arithmetic (R163). -/
theorem isVFloat_of_isInt {t : ElemType} (h : t.isInt = true) : t.isVFloat = false := by
  have hc : t.code < 8 := of_decide_eq_true h
  have hn : ¬ 10 ≤ t.code := by omega
  simp [ElemType.isVFloat, hn]

theorem atileCheck_type (h : AtileFits d a cs) (ht : tcType (tcT cs a) = .e8m0 ∨ accType (tcAcc cs d) = .e2m1 ∨
    (tcScle (tcT cs a) = true ∧ (accType (tcAcc cs d)).isInt = true)) : atileCheck d a cs = some .mmaType := by
  obtain ⟨hc, hm, hk, hs⟩ := h
  have hfit : (tcCfg (tcT cs a) && !tcMetae (tcT cs a) && tcK (tcT cs a) ≤ 4096 / ewOf cs d &&
      (!tcScle (tcT cs a) || scaleShape cs (tcScl (tcT cs a)) (tcRows (tcT cs a)) (tcK (tcT cs a)))) = true := by
    simp only [hc, hm, hk, Bool.not_false, Bool.and_self, decide_true, Bool.true_and, not_or_eq_true_iff]
    exact hs
  have hbad : tcType (tcT cs a) = .e8m0 ∨ accType (tcAcc cs d) = .e2m1 ∨ accType (tcAcc cs d) = .e8m0 ∨
      (tcScle (tcT cs a) ∧ !(accType (tcAcc cs d)).isVFloat) := by
    obtain hx | hx | ⟨hx, hi⟩ := ht
    · exact .inl hx
    · exact .inr (.inl hx)
    · exact .inr (.inr (.inr ⟨hx, by rw [isVFloat_of_isInt hi]; rfl⟩))
  simp only [atileCheck, hfit, Bool.not_true, Bool.false_eq_true, if_false]
  exact if_pos hbad

end

/-! ### MMA and MMA.SP (R205 to R207, R209) -/

section
variable {sat : Bool} {n d a b : Nat} {s : State}

/-- The claims of MMA, of MMA.SP and of the issuer of MMA.P (R200). -/
def mmaClaims (h : Half) (d : Nat) : List Claim := tileClaims ((h.leadTiles ++ h.ownTiles).map (·.1)) [] (some d)

variable (hf : TilesFree s (mmaClaims (halfOf (focusCs s) n d a b) d) (some d))
include hf

theorem mmaBody_multiplies (hc : mmaCheck [halfOf (focusCs s) n d a b] sat = none) (hg : gapWait s (focusCs s) d = none) :
    let h := halfOf (focusCs s) n d a b
    mmaBody sat n d a b s = .done
      { s := withCs s (mmaHalf h sat).1, lat := occupancy (tcWidth h.x) h.kd (n != 0) + 4, flags := (mmaHalf h sat).2, claims := mmaClaims h d,
        mma := some (d, mmaFtz (focusCs s)), mmaTiles := h.leadTiles ++ h.ownTiles } := by
  have ht := hf.1
  have hcl := hf.2 d rfl
  simp only [halfOf, mmaClaims] at *
  simp only [mmaBody, ht, hcl, hc, hg, Bool.false_eq_true, if_false]

theorem mmaBody_faults {r : FaultRec} (hc : mmaCheck [halfOf (focusCs s) n d a b] sat = some r) : mmaBody sat n d a b s = .trap r := by
  have ht := hf.1
  have hcl := hf.2 d rfl
  simp only [halfOf, mmaClaims] at *
  simp only [mmaBody, ht, hcl, hc, Bool.false_eq_true, if_false]

end

theorem mmaResult_of {i : Instr} {sat : Bool} {n d a b : Nat} (he : ∀ s, exec i s = issue i s (mmaBody sat n d a b)) : MmaResult i sat n d a b := by
  intro s s1 w hi cs h cl hf hc hg
  rw [GoesTo, he]
  exact issue_goes hi (mmaBody_multiplies hf hc hg)

/-! ### MMA.P (R205, R208) -/

section
variable {sat : Bool} {d a b : Nat} {s : State}

/-- The half of MMA.P on the issuer's core, and the half on the core it is paired with. -/
def leadHalf (s : State) (d a b : Nat) : Half := halfOf (focusCs s) 0 d a b
def followHalf (s : State) (d a b : Nat) : Half := { leadHalf s d a b with own := getCore s (pairOf s.focusCore), half := 1 }

/-- MMA.P has its role, its tiles and both clusters, and no matrix instruction of the follower stands in its way. -/
structure PairReady (s : State) (d a b : Nat) : Prop where
  role : pairRole s = true
  free : TilesFree s (mmaClaims (leadHalf s d a b) d) (some d)
  tiles : tileBusy (getCore s (pairOf s.focusCore)) (tileClaims ((followHalf s d a b).ownTiles.map (·.1)) [] (some d)) = false
  flights : ((getCore s (pairOf s.focusCore)).flights.any fun g => g.eng == .mtx) = false
  issue : (getCore s (pairOf s.focusCore)).mtx.nextIssue ≤ coreCycle s
  cluster : clusterBusy (getCore s (pairOf s.focusCore)) d = false

theorem mmaPBody_noRole (hr : pairRole s = false) : mmaPBody sat d a b s = pairTrap s { trap := .pairRole } := by
  simp only [mmaPBody, hr, Bool.not_false, if_true]

variable (hp : PairReady s d a b)
include hp

theorem mmaPBody_faults {r : FaultRec} (hc : mmaCheck [leadHalf s d a b, followHalf s d a b] sat = some r) :
    mmaPBody sat d a b s = pairTrap s r := by
  obtain ⟨hr, ⟨ht, hcl⟩, hft, hfl, hn, hfc⟩ := hp
  have hcl := hcl d rfl
  have hn := Nat.not_lt.2 hn
  simp only [followHalf, leadHalf, halfOf, mmaClaims] at *
  simp only [mmaPBody, hr, ht, hcl, hft, hfl, hn, hfc, hc, Bool.not_true, Bool.or_self, decide_false, Bool.false_eq_true, if_false]

theorem mmaPBody_multiplies (hc : mmaCheck [leadHalf s d a b, followHalf s d a b] sat = none) (hg : gapWait s (focusCs s) d = none) :
    let f := pairOf s.focusCore
    let h0 := leadHalf s d a b
    let h1 := followHalf s d a b
    mmaPBody sat d a b s = .done
      { s := setCore (withCs s (mmaHalf h0 sat).1) f (followerIn (mmaHalf h1 sat).1 h1 (mmaHalf h1 sat).2 (getCore s f).mtx.pc)
        lat := occupancy (tcWidth h0.x) h0.kd false + 6, flags := (mmaHalf h0 sat).2, claims := mmaClaims h0 d
        mma := some (d, mmaFtz (focusCs s)), mmaTiles := h0.leadTiles ++ h0.ownTiles, partner := some f } := by
  obtain ⟨hr, ⟨ht, hcl⟩, hft, hfl, hn, hfc⟩ := hp
  have hcl := hcl d rfl
  have hn := Nat.not_lt.2 hn
  simp only [followHalf, leadHalf, halfOf, mmaClaims] at *
  simp only [mmaPBody, hr, ht, hcl, hft, hfl, hn, hfc, hc, hg, Bool.not_true, Bool.or_self, decide_false, Bool.false_eq_true, if_false]

end

/-- Cores 0 and 1 run a paired team, each with two tiles of 16 rows of 16 INT8 elements and an INT32 accumulator. -/
def pairedTiles : State :=
  let s := placeWords State.reset .mtx []
  let cs := { getCore s 0 with tcT := [(0, 0x8110), (1, 0x8110)], tcAcc := [(0, 0x42)] }
  let s := setCore (setCore s 0 cs) 1 { cs with occ := cs.occ.map fun o => { o with half := 1 } }
  { s with disp := { s.disp with launches := s.disp.launches.map fun p => (p.1, { p.2 with pkt := { p.2.pkt with paired := true } }) } }

theorem witness_pairReady : Issues (.mmaP {} true 0 0 1) pairedTiles pairedTiles false ∧ PairReady pairedTiles 0 0 1 ∧
    mmaCheck [leadHalf pairedTiles 0 0 1, followHalf pairedTiles 0 0 1] true = none ∧ gapWait pairedTiles (focusCs pairedTiles) 0 = none :=
  ⟨by unfold Issues; decide +kernel,
   ⟨by decide +kernel, ⟨by decide +kernel, by intro n h; cases h; decide +kernel⟩, by decide +kernel, by decide +kernel, by decide +kernel,
    by decide +kernel⟩, by decide +kernel, by decide +kernel⟩

end Sys2Proof.Machine

section
open Sys2Proof Sys2Proof.Machine

/-- Settles O12: each instruction by what its body answers where its operands are ready, and each fault by the check that fails. -/
theorem matrixMultiplyResults : Obligations.MatrixMultiplyResults := by
  unfold Obligations.MatrixMultiplyResults
  refine ⟨?_, ?_, ?_, ?_, ?_, ?_, ?_, ?_, ?_, ?_, ?_, ?_⟩
  · exact fun k sat d a b => mmaResult_of fun _ => rfl
  · exact fun k sat n d a b => mmaResult_of fun _ => rfl
  · exact fun k sat d a b s s1 w hi hr hf ht hl hn hfc hc hg => issue_goes hi (mmaPBody_multiplies ⟨hr, hf, ht, hl, hn, hfc⟩ hc hg)
  · intro k d a s s1 w v cs1 hi he hu hf hv
    exact issue_traps hi (by rw [tsetBody_tile he hu hf, tsetTile_invalid d v cs1 hv]; rfl)
  · intro k d a s s1 w v cs1 hi he hu hf hv
    exact issue_traps hi (by rw [tsetBody_acc he hu hf, tsetAcc_invalid d v cs1 hv]; rfl)
  · exact fun k d a => matrixTraps_of (fun _ => rfl) fun _ => ttrShape_unfit
  · exact fun k d a => ⟨matrixTraps_of (fun _ => rfl) fun _ => tcvtCheck_unfit, matrixTraps_of (fun _ => rfl) fun _ ⟨hf, ht⟩ => tcvtCheck_scale hf ht⟩
  · exact fun k d a => ⟨matrixTraps_of (fun _ => rfl) fun _ => taccCheck_unfit, matrixTraps_of (fun _ => rfl) fun _ ⟨hf, ht⟩ => taccCheck_scale hf ht⟩
  · exact fun k d a => ⟨matrixTraps_of (fun _ => rfl) fun _ => atileCheck_unfit, matrixTraps_of (fun _ => rfl) fun _ ⟨hf, ht⟩ => atileCheck_type hf ht⟩
  · exact fun k sat d a b s s1 w r hi hf hc => issue_traps hi (mmaBody_faults hf hc)
  · exact fun k sat n d a b s s1 w r hi hf hc => issue_traps hi (mmaBody_faults hf hc)
  · intro k sat d a b s s1 w hi cs f fs h0 h1 cl r
    refine ⟨fun hr => ?_, fun hr hf ht hl hn hfc hc => ?_⟩
    · exact issue_traps_in hi (mmaPBody_noRole hr)
    · exact issue_traps_in hi (mmaPBody_faults ⟨hr, hf, ht, hl, hn, hfc⟩ hc)

end
end

section
/-! SUPPORT. Row instructions: what their bodies answer where their operands and banks are ready (R223 to R236), and the obligation about them. -/

namespace Sys2Proof.Machine

theorem banksCheck_one {s : State} {cs : CoreSt} {op : RowOp} {b : Nat} (h : bankCheck (coreCycle s) (getBank cs b) op = none) :
    banksCheck s cs op [b] = none := by
  simp only [banksCheck, h]

theorem banksCheck_two {s : State} {cs : CoreSt} {op : RowOp} {b b' : Nat} (h : bankCheck (coreCycle s) (getBank cs b) op = none)
    (h' : bankCheck (coreCycle s) (getBank cs b') op = none) : banksCheck s cs op [b, b'] = none := by
  simp only [banksCheck, h, h']

/-! ### ROW.ACT (R226, R231) -/

/-- Within the activation window, and with no refresh due or under way on its bank, a ROW.ACT opens its row. -/
theorem actWhenFree_opens {s : State} {bk row : Nat} (hw : recentActs (focusCs s) (coreCycle s) < s.hub.window)
    (hd : (getBank (focusCs s) bk).refreshDue = none) (he : (getBank (focusCs s) bk).refreshEnd = none) :
    actWhenFree s bk row = .done { s := withCs s (actBank s (focusCs s) bk row) } := by
  simp only [actWhenFree, hd, he, Nat.not_lt.2 hw, Option.isSome_none, decide_false, Bool.or_self, Bool.false_eq_true,
    if_false]

section
variable {s : State} {a b : SSrc} {cs1 : CoreSt} (hz : hazard s (focusCs s) .mem (claimsOf (srcRes .mem a ++ srcRes .mem b) []) 1 = false)
include hz

theorem rowActBody_checks {bk row : Word} (hp : (focusCs s).mem.pending.bind (·.act) = none)
    (hv : takeSrcs (focusCs s) .mem [a, b] = some ([{ val := bk }, { val := row }], cs1))
    (hr : rowRangeCheck s (focusCs s) [{ val := bk }, { val := row }] [bk.toNat] row.toNat = none)
    (hb : bankCheck (coreCycle (meetBanks (withCs s cs1) [bk.toNat])) (getBank (focusCs (meetBanks (withCs s cs1) [bk.toNat])) bk.toNat) .act = none) :
    rowActBody a b s = actWhenFree (meetBanks (withCs s cs1) [bk.toNat]) bk.toNat row.toNat := by
  simp only [rowActBody, hz, hp, hv, List.getD_cons_zero, List.getD_cons_succ, hr, banksCheck_one hb, Bool.false_eq_true, if_false]

/-- The checks of a ROW.ACT that waits are not repeated (R230). -/
theorem rowActBody_waited {vs : List SVal} {bk row : Nat} (hp : (focusCs s).mem.pending.bind (·.act) = some (bk, row))
    (hv : takeSrcs (focusCs s) .mem [a, b] = some (vs, cs1)) : rowActBody a b s = actWhenFree (meetBanks (withCs s cs1) [bk]) bk row := by
  simp only [rowActBody, hz, hp, hv, Bool.false_eq_true, if_false]

end

/-! ### ROW.CON, ROW.CON.2 and ROW.PUT (R232, R233) -/

/-- The quads come from the banks in the order of the operands. -/
theorem rowConBody_fills {d q : Nat} {srcs : List SSrc} {s : State} {vs : List SVal} {bks : List Nat} {cs1 : CoreSt} (hn : vs.map (·.val.toNat) = bks)
    (hz : hazard s (focusCs s) .mem (quadClaims srcs d true) 2 = false) (hv : takeSrcs (focusCs s) .mem srcs = some (vs, cs1))
    (hr : rowRangeCheck s (focusCs s) vs bks 0 = none) (hq : quadShape (focusCs s) d q bks.length = true)
    (hb : banksCheck (meetBanks (withCs s cs1) bks) (focusCs (meetBanks (withCs s cs1) bks)) .con bks = none) :
    let t := meetBanks (withCs s cs1) bks
    rowConBody d srcs q s = .done
      { s := withCs t (((List.range bks.length).zip bks).foldl (fun cs p => fillQuad t cs d (q + p.1) p.2) (focusCs t)), lat := 2
        claims := quadClaims srcs d true ++ bks.map fun b => ⟨.bank b, false⟩ } := by
  simp only [rowConBody, hz, hv, hn, hr, hq, hb, Bool.not_true, Bool.false_eq_true, if_false]

section
variable {d q : Nat} {s : State} {cs1 : CoreSt}

theorem rowConBody_fills_quad {a : SSrc} {x : Word} (hz : hazard s (focusCs s) .mem (quadClaims [a] d true) 2 = false)
    (hv : takeSrcs (focusCs s) .mem [a] = some ([{ val := x }], cs1)) (hr : rowRangeCheck s (focusCs s) [{ val := x }] [x.toNat] 0 = none)
    (hq : quadShape (focusCs s) d q 1 = true)
    (hb : bankCheck (coreCycle (meetBanks (withCs s cs1) [x.toNat])) (getBank (focusCs (meetBanks (withCs s cs1) [x.toNat])) x.toNat) .con = none) :
    let t := meetBanks (withCs s cs1) [x.toNat]
    rowConBody d [a] q s = .done
      { s := withCs t (fillQuad t (focusCs t) d q x.toNat), lat := 2
        claims := quadClaims [a] d true ++ [⟨.bank x.toNat, false⟩] } := by
  rw [rowConBody_fills rfl hz hv hr hq (banksCheck_one hb)]
  simp only [List.map_cons, List.map_nil, List.length_singleton, List.range_one, List.zip_cons_cons, List.zip_nil_left, List.foldl_cons, List.foldl_nil,
    Nat.add_zero]

theorem rowConBody_fills_quads {a b : SSrc} {x y : Word} (hz : hazard s (focusCs s) .mem (quadClaims [a, b] d true) 2 = false)
    (hv : takeSrcs (focusCs s) .mem [a, b] = some ([{ val := x }, { val := y }], cs1))
    (hr : rowRangeCheck s (focusCs s) [{ val := x }, { val := y }] [x.toNat, y.toNat] 0 = none) (hq : quadShape (focusCs s) d q 2 = true)
    (hx : bankCheck (coreCycle (meetBanks (withCs s cs1) [x.toNat, y.toNat]))
      (getBank (focusCs (meetBanks (withCs s cs1) [x.toNat, y.toNat])) x.toNat) .con = none)
    (hy : bankCheck (coreCycle (meetBanks (withCs s cs1) [x.toNat, y.toNat]))
      (getBank (focusCs (meetBanks (withCs s cs1) [x.toNat, y.toNat])) y.toNat) .con = none) :
    let t := meetBanks (withCs s cs1) [x.toNat, y.toNat]
    rowConBody d [a, b] q s = .done
      { s := withCs t (fillQuad t (fillQuad t (focusCs t) d q x.toNat) d (q + 1) y.toNat), lat := 2
        claims := quadClaims [a, b] d true ++ [⟨.bank x.toNat, false⟩, ⟨.bank y.toNat, false⟩] } := by
  rw [rowConBody_fills rfl hz hv hr hq (banksCheck_two hx hy)]
  simp only [List.map_cons, List.map_nil, List.length_cons, List.length_nil, List.range_succ, List.range_zero, List.nil_append, List.cons_append,
    List.zip_cons_cons, List.zip_nil_left, List.foldl_cons, List.foldl_nil, Nat.zero_add, Nat.add_zero]

end

theorem rowPutBody_puts {d q : Nat} {a : SSrc} {s : State} {bk : Word} {cs1 : CoreSt} (hz : hazard s (focusCs s) .mem (quadClaims [a] d false) 2 = false)
    (hv : takeSrcs (focusCs s) .mem [a] = some ([{ val := bk }], cs1)) (hr : rowRangeCheck s (focusCs s) [{ val := bk }] [bk.toNat] 0 = none)
    (hq : quadShape (focusCs s) d q 1 = true) (hg : quadTag (focusCs s) d q = none)
    (hb : bankCheck (coreCycle (meetBanks (withCs s cs1) [bk.toNat])) (getBank (focusCs (meetBanks (withCs s cs1) [bk.toNat])) bk.toNat) .put = none) :
    let t := meetBanks (withCs s cs1) [bk.toNat]
    rowPutBody d a q s = .done
      { s := withCs t (setBank (focusCs t) bk.toNat { getBank (focusCs t) bk.toNat with put := some (quadData (focusCs s) d q) }), lat := 2
        claims := ⟨.bank bk.toNat, true⟩ :: quadClaims [a] d false } := by
  simp only [rowPutBody, hz, hv, List.getD_cons_zero, hr, hq, hg, banksCheck_one hb, Bool.not_true, Bool.false_eq_true, if_false]

/-! ### ROW.PRE (R234) -/

theorem rowPreBody_precharges {a : SSrc} {s : State} {bk : Word} {cs1 : CoreSt} (hz : hazard s (focusCs s) .mem (claimsOf (srcRes .mem a) []) 1 = false)
    (hv : takeSrcs (focusCs s) .mem [a] = some ([{ val := bk }], cs1)) (hr : rowRangeCheck s (focusCs s) [{ val := bk }] [bk.toNat] 0 = none)
    (hk : hazard s (focusCs s) .mem [⟨.bank bk.toNat, false⟩] 1 = false)
    (hb : bankCheck (coreCycle (meetBanks (withCs s cs1) [bk.toNat])) (getBank (focusCs (meetBanks (withCs s cs1) [bk.toNat])) bk.toNat) .pre = none) :
    rowPreBody a s = .done { s := preBank (meetBanks (withCs s cs1) [bk.toNat]) bk.toNat } := by
  simp only [rowPreBody, hz, hv, List.getD_cons_zero, hr, hk, banksCheck_one hb, Bool.false_eq_true, if_false]

/-! ### The checks of a bank (R230) -/

theorem isOpen_of_closed {b : Bank} (h : b.mode = .closed) : isOpen b = false := by simp [isOpen, h]

theorem mode_of_isOpen {b : Bank} (h : isOpen b = true) : b.mode ≠ .lapsedClosed := by
  intro hm; simp [isOpen, hm] at h

theorem bankCheck_act_early (now : Nat) {b : Bank} {t : Nat} (ho : isOpen b = false) (ht : b.tPre = some t) :
    bankCheck now b .act = some .rowEarly ↔ now < t + 12 := by
  simp [bankCheck, ho, ht]

section
variable (now : Nat) {b : Bank} {op : RowOp} (hop : op = .con ∨ op = .put)
include hop

theorem bankCheck_data_closed (hm : b.mode = .closed) : bankCheck now b op = some .rowClosed := by
  obtain rfl | rfl := hop <;> simp [bankCheck, hm, isOpen_of_closed hm]

theorem bankCheck_data_lapsed (hm : b.mode = .lapsedClosed) : bankCheck now b op = some .rowLapsed := by
  obtain rfl | rfl := hop <;> simp [bankCheck, hm]

/-- An open bank is too early for its data until 14 cycles after its ROW.ACT, and lapsed from the end of its lease on. -/
theorem bankCheck_data_open (ho : isOpen b = true) : bankCheck now b op =
    if now < b.tAct + 14 then some .rowEarly else if b.leaseEnd ≤ now then some .rowLapsed else none := by
  obtain rfl | rfl := hop <;> simp [bankCheck, mode_of_isOpen ho, ho]

end

end Sys2Proof.Machine

section
open Sys2Proof Sys2Proof.Machine

/-- Settles O20: each instruction by what its body answers, and each check of a bank by its state. -/
theorem rowResults : Obligations.RowResults := by
  unfold Obligations.RowResults
  refine ⟨?_, ?_, ?_, ?_, ?_, ?_, ?_, ?_, ?_, ?_, ?_, ?_, ?_, ?_, ?_⟩
  · exact fun k a b s s1 w bk row cs1 hi hp hz hv hr hb hw hd he => issue_goes hi ((rowActBody_checks hz hp hv hr hb).trans (actWhenFree_opens hw hd he))
  · exact fun k a b s s1 w vs bk row cs1 hi hp hz hv hw hd he => issue_goes hi ((rowActBody_waited hz hp hv).trans (actWhenFree_opens hw hd he))
  · exact fun k d a q s s1 w bk cs1 hi hz hv hr hq hb => issue_goes hi (rowConBody_fills_quad hz hv hr hq hb)
  · exact fun k d a b q s s1 w x y cs1 hi hz hv hr hq hx hy => issue_goes hi (rowConBody_fills_quads hz hv hr hq hx hy)
  · exact fun k d a q s s1 w bk cs1 hi hz hv hr hq hg hb => issue_goes hi (rowPutBody_puts hz hv hr hq hg hb)
  · exact fun k a s s1 w bk cs1 hi hz hv hr hk hb => issue_goes hi (rowPreBody_precharges hz hv hr hk hb)
  · exact fun k d sel s s1 w cs1 hi hr => issue_goes hi (scalarBody_writes hr _)
  · exact fun k => plain_of (fun _ => rfl) fun s h => if_pos h
  · exact fun now b ho => if_pos ho
  · exact fun now b t ho ht => bankCheck_act_early now ho ht
  · exact fun now b op hop hm => bankCheck_data_closed now hop hm
  · exact fun now b op hop hm => bankCheck_data_lapsed now hop hm
  · intro now b op hop ho
    rw [bankCheck_data_open now hop ho]
    split_ifs <;> simp <;> omega
  · intro now b
    simp [bankCheck]
  · exact fun b row now lease => ⟨rfl, rfl⟩

end
end

section
/-! SUPPORT. Requests of the firmware mailbox: what each answers at its turn (R113, R220 to R222, R275, R368, R420, R421, R429), and the obligation
about them. -/

namespace Sys2Proof.Machine

/-- A request whose turn it is, and which cannot be carried out, is answered with its reason. -/
theorem served_refused {s : State} {slot action st : Nat} {f : Except Nat State} (ht : slotTurn s slot action = true) (hf : f = .error st) :
    served slot action s f = some (answerSlot s slot st) := by
  simp only [served, ht, hf, Bool.not_true, Bool.false_eq_true, if_false]

section
variable {j : Nat} {s : State}

/-! ### ALLOT and RECLAIM (R220, R221) -/

section
variable (hm : fieldOf s j .mask ≠ 0) (hc : fieldOf s j .core < 384) (hs : coreInService s (fieldOf s j .core) = true)
  (he : allottedElse s (fieldOf s j .launch) (fieldOf s j .core) (fieldOf s j .mask) = false)
include hm hc hs he

theorem allot_switches {s1 : State} (ht : slotTurn s j 0 = true)
    (hf : groupForbids s (fieldOf s j .launch) (fieldOf s j .core) (fieldOf s j .mask) = false)
    (ha : allotGroups (fieldOf s j .launch) (fieldOf s j .core) (groupsOf (fieldOf s j .mask)) s = .ok s1) :
    allotRequest j s = some (answerSlot s1 j mbxDone) := by
  simp only [allotRequest, ht, hm, Nat.not_le.2 hc, hf, hs, he, ha, decide_false, Bool.or_self, Bool.not_true, Bool.false_eq_true, if_false]
  rfl

section
variable (ht : slotTurn s j 1 = true)
include ht

/-- Groups in row mode stay so while a team of the launch uses the core. -/
theorem reclaim_busy (hu : teamUses s (fieldOf s j .launch) (fieldOf s j .core) = true)
    (hg : ∃ g ∈ groupsOf (fieldOf s j .mask), (rowMode s (fieldOf s j .core) g).isSome = true) :
    reclaimRequest j s = some (answerSlot s j mbxBusyCode) := by
  have hrow : ((groupsOf (fieldOf s j .mask)).filter fun g => (rowMode s (fieldOf s j .core) g).isSome).isEmpty = false := by
    simpa only [List.isEmpty_eq_false_iff, ne_eq, List.filter_eq_nil_iff, not_forall, not_not, exists_prop] using hg
  refine served_refused ht ?_
  simp only [hm, Nat.not_le.2 hc, hs, he, hrow, hu, decide_false, Bool.or_self, Bool.not_true, Bool.not_false, Bool.and_self, Bool.false_eq_true,
    if_false, if_true]

theorem reclaim_returns (hu : teamUses s (fieldOf s j .launch) (fieldOf s j .core) = false) :
    reclaimRequest j s = some (answerSlot (((groupsOf (fieldOf s j .mask)).filter fun g => (rowMode s (fieldOf s j .core) g).isSome).foldl
      (fun x g => reclaimGroup x (fieldOf s j .core) g) s) j mbxDone) := by
  refine served_done ht ?_
  simp only [hm, Nat.not_le.2 hc, hs, he, hu, decide_false, Bool.or_self, Bool.not_true, Bool.and_false, Bool.false_eq_true, if_false]

end

end

/-! ### RESUME and KILL (R113, R368) -/

section
variable {tm : Team} (ht : slotTurn s j 16 = true) (hr : reportHeld s (fieldOf s j .launch) (fieldOf s j .gang) (fieldOf s j .team) = false)
  (hg : getTeam s (fieldOf s j .launch) (fieldOf s j .gang) (fieldOf s j .team) = some tm)
include ht hr hg

theorem resume_stopped (hs : tm.stopped = true) : resumeRequest j s =
    some (answerSlot (resumeTeam s (fieldOf s j .launch) (fieldOf s j .gang) (fieldOf s j .team) tm) j mbxDone) := by
  simp only [resumeRequest, hr, Bool.false_eq_true, if_false]
  exact served_done ht (by simp only [hg, hs, if_true])

theorem resume_running (hs : tm.stopped = false) : resumeRequest j s = some (answerSlot s j mbxBad) := by
  simp only [resumeRequest, hr, Bool.false_eq_true, if_false]
  exact served_refused ht (by simp only [hg, hs, Bool.false_eq_true, if_false])

end

theorem kill_kills {l : Launch} (ht : slotTurn s j 17 = true) (hl : getLaunch s (fieldOf s j .launch) = some l)
    (hh : launchHeld s (fieldOf s j .launch) = false) :
    killRequest j s = some (answerSlot (killLaunch s (fieldOf s j .launch) (trapCode .kill)) j mbxDone) := by
  simp only [killRequest, hh, Bool.false_eq_true, if_false]
  exact served_done ht (by simp only [hl, Option.isSome_some, if_true])

/-! ### PAGE_RESUME and PAGE_DECLINE (R275, R429) -/

section
variable (hw : pageWaits s (pageRange s j) = false)
include hw

theorem pageResume_goes (ht : slotTurn s j 18 = true) : pageResume j s = some (answerSlot { s with
      cores := s.cores.map fun (p : Nat × CoreSt) => (p.1, unpage s (pageRange s j) p.2)
      fw := { s.fw with records := s.fw.records.map (unpageRecord s (pageRange s j)) } } j mbxDone) := by
  simp only [pageResume, hw, Bool.false_eq_true, if_false]
  exact served_done ht rfl

theorem pageDecline_declines (ht : slotTurn s j 19 = true) : pageDecline j s = some (answerSlot
    (declineRecords (pageRange s j) ((s.cores.map (·.1)).foldl (declineCore (pageRange s j)) s)) j mbxDone) := by
  simp only [pageDecline, hw, Bool.false_eq_true, if_false]
  exact served_done ht rfl

end

/-! ### ENROLL and DISABLE (R421) -/

/-- A request whose slot and range are well formed is read and decided. -/
theorem keyAction_reads {enrol : Bool} {s1 : State} {bs : List Byte} (ht : slotTurn s j (if enrol then 24 else 25) = true)
    (hk : fieldOf s j .kslot ≤ 3) (h0 : enrol = true → fieldOf s j .kslot ≠ 0) (hn : fieldOf s j .len = keyRequestLen enrol)
    (hr : fwRange s (fieldOf s j .addr) (keyRequestLen enrol) = true)
    (hf : fwRead s (fieldOf s j .addr) (keyRequestLen enrol) = .ok (s1, bs)) :
    keyAction enrol j s = some (keyRequest enrol j (fieldOf s j .kslot) bs s1) := by
  have hslot : (enrol && decide (fieldOf s j .kslot = 0)) = false := by cases enrol <;> simp [h0]
  simp only [keyAction, ht, Nat.not_lt.2 hk, hslot, hn, hr, hf, ne_eq, not_true_eq_false, decide_false, Bool.or_self, Bool.not_true,
    Bool.false_eq_true, if_false]

/-- The contents that a key request gives its slot: the keys of its body, or the old ones without the enable bit. -/
def requestedSlot (enrol : Bool) (s : State) (t : Nat) (body : List Byte) : KeySlot :=
  if enrol then { ed := (body.drop 4).take edKeyLen, ml := body.drop (4 + edKeyLen), enabled := true }
  else { keySlot s t with enabled := false }

section
variable {enrol : Bool} {t : Nat} {bs : List Byte} (hkind : (keyImage enrol bs).kind = keyRequestKind)
  (htarget : ((keyImage enrol bs).body.getD 0 0).toNat = t) (hzero : ((keyImage enrol bs).body.drop 1).take 3 = [0, 0, 0])
include hkind htarget hzero

section
variable (hl : (!enrol && lastEnabled s t) = false) (hx : (keyImage enrol bs).slot ≠ t)
include hl hx

theorem keyRequest_rejects {r : Nat} (hi : imageFault s (keyImage enrol bs) = some r) : keyRequest enrol j t bs s =
    answerSlot (logReject s (keyImage enrol bs).kind (keyImage enrol bs).slot (keyImage enrol bs).svn.toNat r) j mbxDenied := by
  simp only [keyRequest, hkind, htarget, hzero, hl, hx, hi, ne_eq, not_true_eq_false, decide_false, bne_self_eq_false, Bool.or_self,
    Bool.false_eq_true, if_false]

theorem keyRequest_changes (hi : imageFault s (keyImage enrol bs) = none) :
    keyRequest enrol j t bs s = answerSlot (setKey s t (requestedSlot enrol s t (keyImage enrol bs).body)) j mbxDone := by
  simp only [keyRequest, hkind, htarget, hzero, hl, hx, hi, ne_eq, not_true_eq_false, decide_false, bne_self_eq_false, Bool.or_self,
    Bool.false_eq_true, if_false]
  cases enrol <;> rfl

end

/-- A request that would leave no slot enabled is refused, whoever has signed it. -/
theorem keyRequest_lastEnabled (hl : (!enrol && lastEnabled s t) = true) : keyRequest enrol j t bs s = answerSlot s j mbxBusyCode := by
  simp only [keyRequest, hkind, htarget, hzero, hl, ne_eq, not_true_eq_false, decide_false, bne_self_eq_false, Bool.or_self, Bool.false_eq_true,
    if_false, if_true]

end

/-! ### EXTEND (R420) -/

section
variable (ht : slotTurn s j 26 = true) (h10 : 10 ≤ fieldOf s j .mr) (h15 : fieldOf s j .mr ≤ 15) (hr : fwRange s (fieldOf s j .addr) 48 = true)
include ht h10 h15 hr

theorem extend_extends {s1 : State} {bs : List Byte} (hf : fwRead s (fieldOf s j .addr) 48 = .ok (s1, bs)) (hj : j < 12) :
    extend j s = some (answerSlot (mrExtend s1 (fieldOf s j .mr) (digestOf bs)) j mbxDone) := by
  simp only [extend, ht, Nat.not_lt.2 h10, Nat.not_lt.2 h15, hr, Nat.not_le.2 hj, hf, decide_false, Bool.or_self, Bool.not_true, Bool.false_eq_true,
    if_false]

/-- Firmware's own slots may not extend a register. -/
theorem extend_denied (hj : 12 ≤ j) : extend j s = some (answerSlot s j mbxDenied) := by
  simp only [extend, ht, Nat.not_lt.2 h10, Nat.not_lt.2 h15, hr, hj, decide_false, Bool.or_self, Bool.not_true, Bool.false_eq_true, if_false, if_true]

end

end

end Sys2Proof.Machine

section
open Sys2Proof Sys2Proof.Machine

/-- Settles O32: each request by its own lemma; ENROLL and DISABLE share the reading and the decision of a key request. -/
theorem mailboxEventResults : Obligations.MailboxEventResults := by
  unfold Obligations.MailboxEventResults
  refine ⟨?_, ?_, ?_, ?_, ?_, ?_, ?_, ?_, ?_, ?_⟩
  · exact fun j s s1 ht hm hc hf hs he ha => evOut_some (allot_switches hm hc hs he ht hf ha)
  · exact fun j s ht hm hc hs he => ⟨fun hu hg => evOut_some (reclaim_busy hm hc hs he ht hu hg), fun hu => evOut_some (reclaim_returns hm hc hs he ht hu)⟩
  · exact fun j s tm ht hr hg => ⟨fun hs => evOut_some (resume_stopped ht hr hg hs), fun hs => evOut_some (resume_running ht hr hg hs)⟩
  · exact fun j s l ht hl hh => evOut_some (kill_kills ht hl hh)
  · exact fun j s ht hw => evOut_some (pageResume_goes hw ht)
  · exact fun j s ht hw => evOut_some (pageDecline_declines hw ht)
  · intro j s s1 bs ht t h1 h3 hn hr hf x hkind htarget hzero hx
    have hread := keyAction_reads (enrol := true) ht h3 (fun _ => by omega) hn hr hf
    exact ⟨fun hi => evOut_some (hread.trans (congrArg some (keyRequest_changes hkind htarget hzero rfl hx hi))),
      fun r hi => evOut_some (hread.trans (congrArg some (keyRequest_rejects hkind htarget hzero rfl hx hi)))⟩
  · intro j s s1 bs ht t h3 hn hr hf x hkind htarget hzero
    have hread := keyAction_reads (enrol := false) ht h3 (fun h => absurd h (by decide)) hn hr hf
    exact ⟨fun hx hi hl => evOut_some (hread.trans (congrArg some (keyRequest_changes hkind htarget hzero hl hx hi))),
      fun hl => evOut_some (hread.trans (congrArg some (keyRequest_lastEnabled hkind htarget hzero hl)))⟩
  · exact fun j s s1 bs ht h10 h15 hr hf hj => evOut_some (extend_extends ht h10 h15 hr hf hj)
  · exact fun j s ht h10 h15 hr hj => evOut_some (extend_denied ht h10 h15 hr hj)

end
end

section
/-! SUPPORT. The state after reset, and the obligations about it. -/
open Sys2Proof Sys2Proof.Machine

/-- Settles O51: the reset state lists no byte, no core and no record. -/
theorem resetMemoryCanonical : Obligations.ResetMemoryCanonical := by
  unfold Obligations.ResetMemoryCanonical
  rfl

/-- Settles O50: the registers are fields of the reset state, and its tables list nothing, so that a core, a queue or a measurement register is the
one that an unlisted key reads as. -/
theorem resetValues : Obligations.ResetValues := by
  unfold Obligations.ResetValues
  have hcore (c : Nat) : (getCore State.reset c).occ = none := rfl
  have hidle (c : Nat) (e : Engine) : runnable State.reset c e = false := by simp only [runnable, hcore]; rfl
  exact ⟨rfl, rfl, rfl, rfl, rfl, fun _ => ⟨rfl, rfl⟩, rfl, rfl, rfl, rfl, rfl, rfl, rfl, rfl, fun _ => rfl, rfl, rfl, rfl, rfl, hcore, hidle⟩

end

section
/-! SUPPORT. Which scratchpad a core has after each of its updates: all but the writes of the scratchpad itself leave it (R242). -/

namespace Sys2Proof.Machine

/-- A step over a list keeps what each of its parts keeps. -/
theorem foldl_spm {α : Type} {f : CoreSt → α → CoreSt} (hf : ∀ cs x, (f cs x).spm = cs.spm) (l : List α) (cs : CoreSt) :
    (l.foldl f cs).spm = cs.spm := by
  induction l generalizing cs with
  | nil => rfl
  | cons x t ih => exact (ih _).trans (hf cs x)

section
variable (cs : CoreSt)

/-! ### Registers, masks, tiles and queues -/

@[simp] theorem writeV_spm (n : Nat) (v : VVal) : (writeV cs n v).spm = cs.spm := rfl
@[simp] theorem writeMask_spm (n : Nat) (m : MaskVal) : (writeMask cs n m).spm = cs.spm := rfl
@[simp] theorem reserveQr_spm (e : Engine) (now id : Nat) : (reserveQr cs e now id).spm = cs.spm := rfl
@[simp] theorem reserveSq_spm (q : QName) (id : Nat) : (reserveSq cs q id).spm = cs.spm := setSq_spm ..
@[simp] theorem applyFill_spm (id : Nat) (x : Fill) : (applyFill cs id x).spm = cs.spm := (bareCore_parts (bareCore_applyFill cs id x)).2.2.2.2.1
@[simp] theorem postAt_spm (now rank n : Nat) : (postAt now cs rank n).1.spm = cs.spm := (bareCore_parts (bareCore_postAt now cs rank n)).2.2.2.2.1

@[simp] theorem putM_spm (m : MaskVal) (d : Option Nat) : (putM cs m d).spm = cs.spm := by cases d <;> rfl
@[simp] theorem putB_spm (b : BitVec 1024) (d : Option Nat) : (putB cs b d).spm = cs.spm := by cases d <;> rfl

@[simp] theorem putV_spm (id : Nat) (v : VVal) (d : Option VDst) : (putV cs id v d).1.spm = cs.spm := by
  cases d with
  | none => rfl
  | some d => cases d <;> rfl

@[simp] theorem putS_spm (e : Engine) (now id : Nat) (v : SVal) (d : Option SDst) : (putS cs e now id v d).1.spm = cs.spm := by
  cases d with
  | none => rfl
  | some d => cases d <;> simp [putS]

@[simp] theorem putOut_spm (now : Nat) (o : VOps) (x : VOut) : (putOut now cs o x).1.spm = cs.spm := by simp [putOut]

@[simp] theorem reserveDst_spm (now id : Nat) (sd : Option SDst) (vd : Option MVDst) : (reserveDst cs now id sd vd).spm = cs.spm := by
  unfold reserveDst
  dsimp only
  split <;> split <;> rfl

@[simp] theorem writeCr_spm (e : Engine) (cr : Nat) (v : Word) : (writeCr cs e cr v).spm = cs.spm := by
  unfold writeCr
  dsimp only
  split <;> simp

@[simp] theorem takeSem_spm (now n : Nat) : (takeSem now cs n).spm = cs.spm := by
  unfold takeSem
  split <;> rfl

theorem pushReturn_spm {cs : CoreSt} {cs' : CoreSt} {e : Engine} {p : Pc} (h : pushReturn cs e p = some cs') : cs'.spm = cs.spm := by
  simp only [pushReturn, Option.ite_none_left_eq_some, Option.some.injEq] at h
  rw [← h.2, CoreSt.setStream_spm]

theorem takeSrcs_spm {cs cs' : CoreSt} {e : Engine} {l : List SSrc} {vs : List SVal} (h : takeSrcs cs e l = some (vs, cs')) : cs'.spm = cs.spm :=
  (bareCore_parts (bareCore_takeSrcs e l h)).2.2.2.2.1

theorem takeVSrcs_spm {cs cs' : CoreSt} {w : Nat} {l : List VSrc} {vs : List VVal} (h : takeVSrcs cs w l = some (vs, cs')) : cs'.spm = cs.spm :=
  (bareCore_parts (bareCore_takeVSrcs w l h)).2.2.2.2.1

theorem popSq_spm {cs cs' : CoreSt} {q : QName} {v : SVal} (h : popSq cs q = some (v, cs')) : cs'.spm = cs.spm := by
  unfold popSq at h
  split at h <;> cases h
  exact (setSq_spm ..).trans (bareCore_parts (bareCore_noteFull cs q)).2.2.2.2.1

theorem takeMV_spm {cs cs' : CoreSt} {w : Nat} {x : MVSrc} {v : VVal} (h : takeMV cs w x = some (v, cs')) : cs'.spm = cs.spm := by
  cases x with
  | sq n => exact (bareCore_parts (bareCore_popDq h)).2.2.2.2.1
  | reg _ => cases h; rfl
  | zero => cases h; rfl
  | lane => cases h; rfl

theorem takeData_spm {cs cs' : CoreSt} {o : MemOp} {v : VVal} (h : takeData cs o = some (v, cs')) : cs'.spm = cs.spm := by
  unfold takeData at h
  split at h
  · cases h; rfl
  · exact takeMV_spm h

@[simp] theorem sdFill_spm (e : Engine) (v : SVal) (d : SDst) : (sdFill cs e v d).1.spm = cs.spm := by
  cases d with
  | reg _ => exact setReg_spm ..
  | qr => rfl

@[simp] theorem giveBack_spm (a : Access) : (giveBack cs a).spm = cs.spm :=
  (foldl_spm (fun _ _ => setDq_spm ..) _ _).trans (setSq_spm ..)

@[simp] theorem putRows_spm (t : Nat) (rows : List TileRow) : (putRows cs t rows).spm = cs.spm := foldl_spm (fun _ _ => writeTile_spm ..) _ _
@[simp] theorem putAccRow_spm (n m w : Nat) (ls : List LaneOut) : (putAccRow cs n m w ls).spm = cs.spm := rfl
@[simp] theorem putAcc_spm (n w : Nat) (rows : List (List LaneOut)) : (putAcc cs n w rows).spm = cs.spm :=
  foldl_spm (fun _ _ => putAccRow_spm ..) _ _

@[simp] theorem loadRows_spm (t rbytes data bad lost k r : Nat) : (loadRows cs t rbytes data bad lost k r).spm = cs.spm := by
  induction k generalizing cs r with
  | zero => rfl
  | succ k ih => exact ih _ _

@[simp] theorem deliver_spm (dst : LoadDst) (data bad lost : Nat) : (deliver cs dst data bad lost).1.spm = cs.spm := by
  unfold deliver
  split
  · exact sdFill_spm ..
  · exact writeV_spm ..
  · rfl
  · exact loadRows_spm ..
  · rfl

@[simp] theorem ttrEffect_spm (d a : Nat) : (ttrEffect d a cs).1.spm = cs.spm := putRows_spm ..
@[simp] theorem tcvtEffect_spm (d a : Nat) : (tcvtEffect d a cs).1.spm = cs.spm := putRows_spm ..
@[simp] theorem taccEffect_spm (d a : Nat) : (taccEffect d a cs).1.spm = cs.spm := putRows_spm ..
@[simp] theorem atileEffect_spm (d a : Nat) : (atileEffect d a cs).1.spm = cs.spm := putAcc_spm ..

/-- A matrix instruction of a pair leaves the scratchpad of the half that works. -/
theorem mmaHalf_spm (x : Half) (sat : Bool) : (mmaHalf x sat).1.spm = x.own.spm := by
  unfold mmaHalf
  split
  · rfl
  · exact putAcc_spm ..

@[simp] theorem followerIn_spm (x : Half) (fl : Flags) (pc : Pc) : (followerIn cs x fl pc).spm = cs.spm := rfl

@[simp] theorem restoreShadow_spm : (restoreShadow cs).spm = cs.spm := by
  unfold restoreShadow
  extract_lets cs1
  have hcs : cs1.spm = cs.spm := rfl
  split
  · exact hcs
  · exact (foldl_spm (fun _ _ => writeV_spm ..) _ _).trans hcs

/-! ### Banks -/

@[simp] theorem setBank_spm (b : Nat) (v : Bank) : (setBank cs b v).spm = cs.spm := rfl
@[simp] theorem actBank_spm (s : State) (b row : Nat) : (actBank s cs b row).spm = cs.spm := rfl
@[simp] theorem fillQuad_spm (s : State) (t q bank : Nat) : (fillQuad s cs t q bank).spm = cs.spm :=
  foldl_spm (fun _ _ => writeTile_spm ..) _ _
@[simp] theorem calmBanks_spm (l : List Nat) : (calmBanks cs l).spm = cs.spm := rfl

@[simp] theorem restoreBank_spm (s : State) (c now : Nat) (x : Nat × Nat × Nat) : (restoreBank s c now cs x).spm = cs.spm := by
  unfold restoreBank
  dsimp only
  split <;> rfl

/-! ### Accesses, cached lines and messages -/

@[simp] theorem putAccess_spm (a : Access) : (putAccess cs a).spm = cs.spm := rfl
@[simp] theorem writeOut_spm (p : PendRemote) (o : RemOp) (r : Outcome) : (writeOut cs p o r).spm = cs.spm := by
  unfold writeOut
  split
  · exact setReg_spm ..
  · rfl
  · exact (setReg_spm ..).trans (setReg_spm ..)
  · rfl
  · rfl

@[simp] theorem dropDone_spm : (dropDone cs).spm = cs.spm := rfl
@[simp] theorem dropWords_spm (k : LineKey) (ws : BitVec 32) : (dropWords cs k ws).spm = cs.spm := rfl
@[simp] theorem dropMsg_spm (m : CoreMsg) : (dropMsg cs m).spm = cs.spm := rfl
@[simp] theorem setPiece_spm (acc part : Nat) (f : Piece → Piece) : (setPiece cs acc part f).spm = cs.spm := rfl
@[simp] theorem dropReserved_spm (id : Nat) : (dropReserved cs id).spm = cs.spm := rfl
@[simp] theorem dropOp_spm (id : Nat) : (dropOp cs id).spm = cs.spm := rfl
@[simp] theorem endPieces_spm (gone : Nat → Bool) : (endPieces gone cs).spm = cs.spm := rfl
@[simp] theorem setBindings_spm (b : NMap Nat) (u : StreamUser) : (setBindings cs b u).spm = cs.spm := by cases u <;> rfl

@[simp] theorem pieceOver_spm (o : RemOp) : (pieceOver cs o).spm = cs.spm := by
  unfold pieceOver
  split <;> rfl

@[simp] theorem askEntry_spm (w : Nat × Nat) : (askEntry cs w).spm = cs.spm := by
  unfold askEntry
  split
  · rfl
  · split <;> rfl

@[simp] theorem askEntries_spm (a : Access) : (askEntries cs a).spm = cs.spm := foldl_spm askEntry_spm _ _

theorem mseReject_spm {cs : CoreSt} {cs' : CoreSt} {a : Access} {w : Nat × Nat} (h : mseReject cs a w = some cs') : cs'.spm = cs.spm := by
  unfold mseReject at h
  split at h
  · cases h; rfl
  · split at h <;> cases h
    rfl

@[simp] theorem evictLine_spm (l : L1Line) : (evictLine cs l).spm = cs.spm := by
  unfold evictLine
  dsimp only
  split <;> rfl

@[simp] theorem makeRoom_spm : (makeRoom cs).spm = cs.spm := by
  unfold makeRoom
  dsimp only
  split
  · rfl
  · split
    · exact evictLine_spm _ _
    · rfl

@[simp] theorem putL1_spm (l : L1Line) : (putL1 cs l).spm = cs.spm := by
  unfold putL1
  dsimp only
  split
  · rfl
  · exact makeRoom_spm cs

@[simp] theorem hitPiece_spm (key : LineKey) (store : Bool) (p : Piece) : (hitPiece cs key store p).1.spm = cs.spm := by
  unfold hitPiece
  split
  · rfl
  · dsimp only
    split <;> exact putL1_spm _ _

@[simp] theorem fillL1_spm (l : LlcLine) (c hint : Nat) (asked skip : BitVec 32) (again : Bool) :
    (fillL1 cs l c hint asked skip again).spm = cs.spm := by
  unfold fillL1
  dsimp only
  split
  · exact putL1_spm _ _
  · split
    · rfl
    · exact putL1_spm _ _

@[simp] theorem shootL1_spm (x : Shoot) : (shootL1 x cs).spm = cs.spm := by
  unfold shootL1
  split <;> rfl

theorem hitPart_spm (s : State) (key : Piece → LineKey) (r : CoreSt × List Piece) (p : Piece) : (hitPart s key r p).1.spm = r.1.spm := by
  unfold hitPart
  dsimp only
  split
  · exact hitPiece_spm ..
  · rfl

theorem hitParts_spm (s : State) (key : Piece → LineKey) (l : List Piece) (r : CoreSt × List Piece) : (l.foldl (hitPart s key) r).1.spm = r.1.spm := by
  induction l generalizing r with
  | nil => rfl
  | cons p t ih => exact (ih _).trans (hitPart_spm ..)

theorem fillQuads_spm (s : State) (t q : Nat) (l : List (Nat × Nat)) : (l.foldl (fun cs p => fillQuad s cs t (q + p.1) p.2) cs).spm = cs.spm :=
  foldl_spm (fun _ _ => fillQuad_spm ..) _ _

@[simp] theorem putCode_spm (e : Engine) (line : Nat) (bs : List Byte) : (putCode cs e line bs).spm = cs.spm := by simp [putCode]

/-! ### Copy queues -/

@[simp] theorem setCq_spm (q : Nat) (l : List CqEntry) : (setCq cs q l).spm = cs.spm := by
  unfold setCq
  split <;> rfl

@[simp] theorem updEntry_spm (q n : Nat) (f : CqEntry → CqEntry) : (updEntry cs q n f).spm = cs.spm := setCq_spm ..
@[simp] theorem appendCq_spm (q : Nat) (x : CqEntry) : (appendCq cs q x).spm = cs.spm := setCq_spm ..
@[simp] theorem noteCq_spm (q n : Nat) (i : Option Nat) : (noteCq cs q n i).spm = cs.spm := rfl

/-! ### Streams and teams -/

@[simp] theorem stopEngines_spm (s : State) : (stopEngines s cs).spm = cs.spm := rfl
@[simp] theorem unpage_spm (s : State) (r : PageRange) : (unpage s r cs).spm = cs.spm := rfl
@[simp] theorem cbwEnd_spm (s : State) (d bar : Nat) (err : Bool) : (cbwEnd s cs d bar err).spm = cs.spm := by simp [cbwEnd]
@[simp] theorem mwaitEnd_spm (d : Nat) (v : Word) : (mwaitEnd cs d v).spm = cs.spm := by simp [mwaitEnd]

@[simp] theorem carryTags_spm (a : CoreSt) (e : Engine) : (carryTags a cs e).spm = cs.spm := by
  unfold carryTags
  split <;> rfl

end

theorem wf_spmPut {cs : CoreSt} (h : Memory.wf cs.spm = true) (a : Nat) (bs : List Byte) (bad : List Bool) : Memory.wf (spmPut cs a bs bad).spm = true :=
  memOk_spmWrite h a bs

theorem wf_freshCore (s : State) (c : Nat) (o : Occ) (l : Launch) (v : Variant) : Memory.wf (freshCore s c o l v).spm = true := rfl

/-! ### The bytes of a context record (R100, R376) -/

/-- Moving the bytes of a memory, their order kept, keeps the canonical form. -/
theorem Memory.wf_map {f : Nat → Nat} {m : List Host.Cell} (h : Memory.wf m = true)
    (hf : ∀ x ∈ m, ∀ y ∈ m, x.1 < y.1 → f x.1 < f y.1) : Memory.wf (m.map fun x => (f x.1, x.2)) = true := by
  induction m with
  | nil => rfl
  | cons p t ih =>
    simp only [Memory.wf, mwf, List.all_cons, Bool.and_eq_true, List.all_eq_true, decide_eq_true_eq] at h
    obtain ⟨⟨hlt, ht⟩, hp, hnz⟩ := h
    have hrest := ih (by simpa [Memory.wf, ht] using hnz) fun x hx y hy => hf x (.tail _ hx) y (.tail _ hy)
    simp only [Memory.wf, Bool.and_eq_true] at hrest
    obtain ⟨hord, hne⟩ := hrest
    simp only [List.map_cons, Memory.wf, mwf, List.all_cons, Bool.and_eq_true, hord, hne, hp, and_true, List.all_eq_true, decide_eq_true_eq,
      List.mem_map, forall_exists_index, and_imp, forall_apply_eq_imp_iff₂]
    exact fun x hx => hf p (.head _) x (.tail _ hx) (hlt x hx)

theorem wf_putFields {m : List Host.Cell} (h : Memory.wf m = true) (fs : List (Nat × List Byte)) : Memory.wf (putFields m fs) = true := by
  unfold putFields
  induction fs generalizing m with
  | nil => exact h
  | cons x t ih => exact ih (Memory.wf_writeBytes _ _ _ h)

/-- The scratchpad of a core that a record restores lies in the record's order. -/
theorem wf_coreFrom {s : State} {r : Record} {asid : Nat} {lead : List Host.Cell} {own : Bool} (h : Memory.wf r.bytes = true) :
    Memory.wf (coreFrom s r asid lead own).spm = true := by
  refine Memory.wf_map (f := (· - 0x164000)) (Memory.wf_filter _ _ h) fun x hx y _ hxy => ?_
  have hlo : 0x164000 ≤ x.1 := by simp only [List.mem_filter, Bool.and_eq_true, decide_eq_true_eq] at hx; exact hx.2.1
  omega

theorem wf_makeRecord {s : State} (h : memOk s = true) (c : Nat) (o : Occ) (st : Nat) (pair : Option Bool) :
    Memory.wf (makeRecord s c o st pair).bytes = true := by
  have hm := Memory.wf_map (f := (0x164000 + ·)) (wf_spm h c) fun x _ y _ hxy => by omega
  unfold makeRecord
  dsimp only
  exact wf_putFields hm _

theorem wf_of_mem_cores {s : State} {p : Nat × CoreSt} (h : memOk s = true) (hp : p ∈ s.cores) : Memory.wf p.2.spm = true :=
  List.all_eq_true.1 ((memOk_iff s).1 h).2.1 p hp

theorem wf_of_findRecord {s : State} {o : Occ} {r : Record} (h : memOk s = true) (hr : findRecord s o = some r) : Memory.wf r.bytes = true :=
  List.all_eq_true.1 ((memOk_iff s).1 h).2.2 r (List.mem_of_find?_eq_some hr)

theorem wf_unpageRecord {r : Record} (h : Memory.wf r.bytes = true) (s : State) (g : PageRange) : Memory.wf (unpageRecord s g r).bytes = true := by
  unfold unpageRecord
  generalize engines4 = es
  generalize hr : ({ r with pauses := _ } : Record) = r0
  replace h : Memory.wf r0.bytes = true := hr ▸ h
  clear hr
  induction es generalizing r0 with
  | nil => exact h
  | cons e t ih =>
    refine ih _ ?_
    dsimp only
    split
    · exact wf_recPut (wf_recPut (wf_recPut h ..) ..) ..
    · exact h

theorem wf_of_mem_records {s : State} {r : Record} (h : memOk s = true) (hr : r ∈ s.fw.records) : Memory.wf r.bytes = true :=
  List.all_eq_true.1 ((memOk_iff s).1 h).2.2 r hr

theorem wf_recordFault {r : Record} (h : Memory.wf r.bytes = true) (e : Engine) (code addr : Nat) : Memory.wf (recordFault r e code addr).bytes = true :=
  wf_recPut (wf_recPut (wf_recPut (wf_recPut h ..) ..) ..) ..

theorem wf_recordFail {r : Record} (h : Memory.wf r.bytes = true) (q i cause : Nat) : Memory.wf (recordFail r q i cause).bytes = true :=
  wf_recPut (wf_recPut h ..) ..

theorem wf_recordScalar {m : List Host.Cell} (h : Memory.wf m = true) (e : Engine) (n : Nat) (v : SVal) :
    Memory.wf (recordScalar m e n v) = true := by
  unfold recordScalar
  split
  · exact h
  · exact Memory.wf_writeBytes _ _ _ (Memory.wf_writeBytes _ _ _ h)

theorem wf_recordPush {m : List Host.Cell} (h : Memory.wf m = true) (i : Nat) (v : SVal) : Memory.wf (recordPush m i v) = true :=
  Memory.wf_writeBytes _ _ _ h

theorem wf_recordOut {m : List Host.Cell} (h : Memory.wf m = true) (j : Nat) (p : PendRemote) (o : RemOp) (r : Outcome) :
    Memory.wf (recordOut m j p o r) = true := by
  unfold recordOut
  split
  · exact wf_recordScalar h ..
  · exact wf_recordPush h ..
  · exact wf_recordScalar (wf_recordScalar h ..) ..
  · exact Memory.wf_writeBytes _ _ _ (Memory.wf_writeBytes _ _ _ h)
  · exact h

/-- The answer of a saved operation goes into its record's bytes. -/
theorem wf_recordOver {r : Record} (h : Memory.wf r.bytes = true) (x : ReqSlot) (o : RemOp) (v : Outcome) :
    Memory.wf (recordOver r x o v).bytes = true := by
  unfold recordOver
  split
  · rename_i j p _
    extract_lets m0 m1 m2 m3
    have h0 : Memory.wf m0 = true := wf_recordOut h ..
    have h1 : Memory.wf m1 = true := by
      unfold m1
      split
      · exact Memory.wf_writeBytes _ _ _ h0
      · exact h0
    have h2 : Memory.wf m2 = true := by
      unfold m2
      split
      · exact Memory.wf_writeBytes _ _ _ h1
      · exact h1
    change Memory.wf m3 = true
    unfold m3
    split <;> exact Memory.wf_writeBytes _ _ _ h2
  · extract_lets r1
    have h1 : Memory.wf r1.bytes = true := by
      unfold r1
      split
      · exact Memory.wf_writeBytes _ _ _ h
      · exact h
    split
    · exact h1
    · exact wf_putFields h1 _

end Sys2Proof.Machine
end

section
/-! SUPPORT. Every function that a step uses leaves every byte memory in canonical form (memOk): the events and the instructions, in the order of the
model, and the obligation about it. -/

namespace Sys2Proof.Machine

/-! ### What it is for a result to keep the canonical form -/

/-- Where an event happens, it leaves every memory canonical. -/
def EventOk (o : Option State) : Prop := ∀ t, o = some t → memOk t = true

/-- Where work is done, the state that `f` finds in its result has canonical memories. -/
def TryOk {ε α : Type} (f : α → State) (r : Except ε α) : Prop := ∀ x, r = .ok x → memOk (f x) = true

/-- A step that answers a next state leaves every memory canonical. -/
def OutOk (o : Out) : Prop := ∀ t, o = .next t → memOk t = true

/-- The states that a verdict carries have canonical memories. -/
def VerdictOk : Verdict → Prop
  | .done d => memOk d.s = true
  | .trapIn s _ => memOk s = true
  | _ => True

/-- The state that a source of a copied piece answers with has canonical memories. -/
def GotOk : Got → Prop
  | .bytes s _ _ => memOk s = true
  | .asked s => memOk s = true
  | _ => True

/-- Both states that a stage of the boot can end in have canonical memories. -/
def BootOk : Except State State → Prop
  | .ok s => memOk s = true
  | .error s => memOk s = true

theorem eventOk_none : EventOk none := fun _ h => nomatch h

theorem eventOk_some {s : State} (h : memOk s = true) : EventOk (some s) := fun _ ht => Option.some.inj ht ▸ h

theorem eventOk_map {o : Option State} {f : State → State} (ho : EventOk o) (hf : ∀ s, memOk s = true → memOk (f s) = true) : EventOk (o.map f) := by
  intro t ht
  obtain ⟨s, hs, rfl⟩ := Option.map_eq_some_iff.1 ht
  exact hf s (ho s hs)

theorem eventOk_mapTo {α : Type} {o : Option α} {f : α → State} (hf : ∀ x, o = some x → memOk (f x) = true) : EventOk (o.map f) := by
  cases o with
  | none => exact eventOk_none
  | some x => exact eventOk_some (hf x rfl)

theorem eventOk_orElse {o : Option State} {f : Unit → Option State} (ho : EventOk o) (hf : EventOk (f ())) : EventOk (o.orElse f) := by
  cases o with
  | none => exact hf
  | some s => exact ho

theorem eventOk_ite {p : Prop} [Decidable p] {a b : Option State} (ha : EventOk a) (hb : EventOk b) : EventOk (if p then a else b) := by
  split
  · exact ha
  · exact hb

theorem verdictOk_ite {p : Prop} [Decidable p] {a b : Verdict} (ha : VerdictOk a) (hb : VerdictOk b) : VerdictOk (if p then a else b) := by
  split
  · exact ha
  · exact hb

theorem memOk_getD {o : Option State} {s : State} (ho : EventOk o) (h : memOk s = true) : memOk (o.getD s) = true := by
  cases o with
  | none => exact h
  | some t => exact ho t rfl

/-- Each event of a list leaves every memory canonical. -/
def EventsOk (l : List (State → Option State)) : Prop := ∀ f ∈ l, ∀ s, memOk s = true → EventOk (f s)

theorem eventsOk_nil : EventsOk [] := fun _ h => nomatch h

theorem eventsOk_cons {f : State → Option State} {l : List (State → Option State)} (hf : ∀ s, memOk s = true → EventOk (f s)) (hl : EventsOk l) :
    EventsOk (f :: l) := by
  rintro g (_ | ⟨_, hg⟩)
  · exact hf
  · exact hl g hg

theorem eventsOk_append {l m : List (State → Option State)} (hl : EventsOk l) (hm : EventsOk m) : EventsOk (l ++ m) :=
  fun f hf => (List.mem_append.1 hf).elim (hl f) (hm f)

theorem eventsOk_ite {p : Prop} [Decidable p] {l m : List (State → Option State)} (hl : EventsOk l) (hm : EventsOk m) : EventsOk (if p then l else m) := by
  split
  · exact hl
  · exact hm

theorem eventsOk_map {α : Type} {k : α → State → Option State} {l : List α} (hk : ∀ x s, memOk s = true → EventOk (k x s)) : EventsOk (l.map k) := by
  intro f hf
  obtain ⟨x, _, rfl⟩ := List.mem_map.1 hf
  exact hk x

theorem eventsOk_flatMap {α : Type} {k : α → List (State → Option State)} {l : List α} (hk : ∀ x, EventsOk (k x)) : EventsOk (l.flatMap k) := by
  intro f hf
  obtain ⟨x, _, hx⟩ := List.mem_flatMap.1 hf
  exact hk x f hx

theorem eventOk_firstEvent {s : State} {l : List (State → Option State)} (h : memOk s = true) (hl : EventsOk l) : EventOk (firstEvent s l) := by
  induction l with
  | nil => exact eventOk_none
  | cons f t ih =>
    unfold firstEvent
    split
    · exact eventOk_some (hl f (.head _) s h _ ‹_›)
    · exact ih fun g hg => hl g (.tail _ hg)

theorem tryOk_ok {ε α : Type} {f : α → State} {x : α} (h : memOk (f x) = true) : TryOk f (.ok x : Except ε α) := fun _ hy => Except.ok.inj hy ▸ h

theorem tryOk_state {ε : Type} {s : State} (h : memOk s = true) : TryOk id (.ok s : Except ε State) := tryOk_ok h

theorem tryOk_error {ε α : Type} {f : α → State} {e : ε} : TryOk f (.error e : Except ε α) := fun _ h => nomatch h

theorem tryOk_map {ε α β : Type} {f : α → State} {g : β → State} {k : α → β} {r : Except ε α} (hr : TryOk f r)
    (hk : ∀ x, memOk (f x) = true → memOk (g (k x)) = true) : TryOk g (r.map k) := by
  cases r with
  | error e => exact tryOk_error
  | ok x => exact tryOk_ok (hk x (hr x rfl))

theorem tryOk_mapState {ε α : Type} {f : α → State} {k : α → State} {r : Except ε α} (hr : TryOk f r) (hk : ∀ x, memOk (f x) = true → memOk (k x) = true) :
    TryOk id (r.map k) := tryOk_map hr hk

theorem tryOk_mapTo {ε α β : Type} {g : β → State} {k : α → β} {r : Except ε α} (hk : ∀ x, memOk (g (k x)) = true) : TryOk g (r.map k) := by
  cases r with
  | error e => exact tryOk_error
  | ok x => exact tryOk_ok (hk x)

theorem tryOk_bind {ε α β : Type} {f : α → State} {g : β → State} {k : α → Except ε β} {r : Except ε α} (hr : TryOk f r)
    (hk : ∀ x, memOk (f x) = true → TryOk g (k x)) : TryOk g (r.bind k) := by
  cases r with
  | error e => exact tryOk_error
  | ok x => exact hk x (hr x rfl)

theorem tryOk_foldl {ε α β : Type} {f : β → State} {k : Except ε β → α → Except ε β} {l : List α} {r : Except ε β} (hr : TryOk f r)
    (hk : ∀ r x, TryOk f r → TryOk f (k r x)) : TryOk f (l.foldl k r) := by
  induction l generalizing r with
  | nil => exact hr
  | cons x t ih => exact ih (hk r x hr)

theorem outOk_next {s : State} (h : memOk s = true) : OutOk (.next s) := fun _ ht => Host.Outcome.next.inj ht ▸ h

theorem outOk_fault {r : Fault} : OutOk (.fault r) := fun _ h => nomatch h

theorem memOk_foldl_mem {α : Type} {f : State → α → State} {l : List α} {s : State} (h : memOk s = true)
    (hf : ∀ s x, x ∈ l → memOk s = true → memOk (f s x) = true) : memOk (l.foldl f s) = true := by
  induction l generalizing s with
  | nil => exact h
  | cons x t ih => exact ih (hf s x (.head _) h) fun s y hy => hf s y (.tail _ hy)

theorem memOk_foldl_fst {α β : Type} {f : State × β → α → State × β} {l : List α} {r : State × β} (h : memOk r.1 = true)
    (hf : ∀ r x, memOk r.1 = true → memOk (f r x).1 = true) : memOk (l.foldl f r).1 = true := by
  induction l generalizing r with
  | nil => exact h
  | cons x t ih => exact ih (hf r x h)

theorem memOk_foldl {α : Type} {f : State → α → State} {l : List α} {s : State} (h : memOk s = true)
    (hf : ∀ s x, memOk s = true → memOk (f s x) = true) : memOk (l.foldl f s) = true :=
  memOk_foldl_mem h fun s x _ => hf s x

theorem wf_foldl {α : Type} {f : Record → α → Record} {l : List α} {r : Record} (h : Memory.wf r.bytes = true)
    (hf : ∀ r x, Memory.wf r.bytes = true → Memory.wf (f r x).bytes = true) : Memory.wf (l.foldl f r).bytes = true := by
  induction l generalizing r with
  | nil => exact h
  | cons x t ih => exact ih (hf r x h)

theorem wf_foldl_cells {α : Type} {f : List Host.Cell → α → List Host.Cell} {l : List α} {m : List Host.Cell} (h : Memory.wf m = true)
    (hf : ∀ m x, Memory.wf m = true → Memory.wf (f m x) = true) : Memory.wf (l.foldl f m) = true := by
  induction l generalizing m with
  | nil => exact h
  | cons x t ih => exact ih (hf m x h)

theorem memOk_withCs_same {s : State} {cs : CoreSt} (h : memOk s = true) (hc : cs.spm = (focusCs s).spm) : memOk (withCs s cs) = true :=
  memOk_setCore_same h _ hc

section
variable {s : State} (h : memOk s = true)
include h

/-! ### The event log and reports (R369, R402) -/

theorem memOk_sendMsix {v : Nat} : memOk (sendMsix s v) = true := memOk_of_same h rfl rfl rfl

theorem memOk_freezeRings : memOk (freezeRings s) = true := memOk_of_same h rfl rfl rfl

theorem memOk_logHubSev {code sev : Nat} {payload : List (Nat × Nat)} : memOk (logHubSev s code sev payload) = true := by
  unfold logHubSev
  dsimp only
  split
  · exact memOk_freezeRings (memOk_of_same h rfl rfl rfl)
  · exact memOk_of_same h rfl rfl rfl

theorem memOk_logHub {code : Nat} {payload : List (Nat × Nat)} : memOk (logHub s code payload) = true := memOk_logHubSev h

theorem memOk_logGalena {g code : Nat} {payload : List (Nat × Nat)} : memOk (logGalena s g code payload) = true := memOk_of_same h rfl rfl rfl

theorem memOk_logStack {k code : Nat} {payload : List (Nat × Nat)} : memOk (logStack s k code payload) = true := memOk_of_same h rfl rfl rfl

theorem memOk_unlogTrap {k c code : Nat} : memOk (unlogTrap s k c code) = true := memOk_of_same h rfl rfl rfl

theorem memOk_logCorrected {k struct : Nat} {core addr : Nat} : memOk (logCorrected s k struct core addr) = true := memOk_logStack h

theorem memOk_writeReport {r : Report} : memOk (writeReport s r) = true := by
  unfold writeReport
  dsimp only
  split
  · refine memOk_sendMsix ?_
    exact memOk_of_same h rfl rfl rfl
  · exact memOk_of_same h rfl rfl rfl

theorem memOk_postReport {r : Report} : memOk (postReport s r) = true := by
  unfold postReport
  dsimp only
  split
  · exact memOk_of_same h rfl rfl rfl
  · exact memOk_writeReport h

theorem memOk_drainReports {n : Nat} : memOk (drainReports n s) = true := by
  induction n generalizing s with
  | zero => exact h
  | succ n ih =>
    unfold drainReports
    split
    · exact h
    · split
      · exact h
      · refine ih (memOk_writeReport ?_)
        exact memOk_of_same h rfl rfl rfl

/-! ### Streams, queues and semaphores -/

theorem memOk_haltStream {c : Nat} {e : Engine} {x : HaltRec} {waited : Bool} {pc : Pc} : memOk (haltStream s c e x waited pc) = true :=
  memOk_postReport (memOk_logTrap (memOk_setCore_same h _ (by simp)) ..)

theorem memOk_semOverflow {c : Nat} {e : Engine} : memOk (semOverflow s c e) = true := by
  unfold semOverflow
  dsimp only
  split
  · exact h
  · exact memOk_raiseTrap h ..

theorem memOk_postSemAt {t c : Nat} {e : Engine} {n : Nat} : memOk (postSemAt t s c e n) = true := by
  unfold postSemAt
  dsimp only
  split
  · exact memOk_setCore_same h _ (by simp)
  · exact memOk_semOverflow (memOk_setCore_same h _ (by simp))

theorem memOk_postFlight {t c : Nat} {f : Flight} : memOk (postFlight t c s f) = true := by
  unfold postFlight
  dsimp only
  split
  · exact h
  · refine memOk_postSemAt ?_
    exact memOk_setCore_same h _ rfl

theorem memOk_postEngine {t c : Nat} {e : Engine} : memOk (postEngine t c s e) = true := by
  unfold postEngine
  dsimp only
  split
  · exact memOk_postSemAt (memOk_setStream (memOk_foldl h (fun _ _ h' => memOk_postFlight h')) ..)
  · exact memOk_foldl h (fun _ _ h' => memOk_postFlight h')

theorem memOk_postsOf {c t : Nat} : memOk (postsOf c s t) = true := memOk_foldl h (fun _ _ h' => memOk_postEngine h')

theorem memOk_postsTo {t c : Nat} : memOk (postsTo t s c) = true := memOk_foldl h (fun _ _ h' => memOk_postsOf h')

theorem memOk_postSem {c : Nat} {e : Engine} {n : Nat} : memOk (postSem s c e n) = true := memOk_postSemAt (memOk_postsTo h)

theorem memOk_postOpt {c : Nat} {e : Engine} {x : Option Nat} : memOk (postOpt s c e x) = true := by
  unfold postOpt
  split
  · exact h
  · exact memOk_postSem h

theorem memOk_endStream {c : Nat} {e : Engine} : memOk (endStream s c e) = true := by
  unfold endStream
  dsimp only
  split
  · split
    · exact memOk_setCore_same h _ (by simp)
    · exact memOk_postSem (memOk_setCore_same h _ (by simp))
  · exact h

theorem memOk_releaseFollower {p : Nat} : memOk (releaseFollower s p) = true := memOk_setCore_same h _ rfl

theorem memOk_retireFlight {c : Nat} {f : Flight} : memOk (retireFlight s c f) = true := by
  unfold retireFlight
  extract_lets cs0 cs1 st cs2 cs3 cs4 s1 s2
  have h1 : cs1.spm = cs0.spm := foldl_spm (fun _ _ => applyFill_spm ..) _ _
  have h4 : cs4.spm = cs0.spm := by
    unfold cs4
    split <;> simp [cs3, cs2, h1]
  have hs : memOk s1 = true := memOk_setCore_same h _ h4
  have hp : memOk s2 = true := by
    unfold s2
    split
    · exact hs
    · exact memOk_releaseFollower hs
  exact memOk_endStream (memOk_postOpt (memOk_postOpt hp))

theorem memOk_completeWait {c : Nat} {e : Engine} : memOk (completeWait s c e) = true := by
  unfold completeWait
  dsimp only
  split
  · exact h
  · exact memOk_endStream (memOk_postOpt (memOk_setCore_same h _ (by simp)))

omit h in
theorem memOk_finish {c : Nat} {e : Engine} {w : Nat} {post : Option Nat} {waited : Bool} {d : Done} (hd : memOk d.s = true) :
    memOk (finish c e w post waited d) = true := by
  unfold finish
  dsimp only
  split
  · exact memOk_setCore_same hd _ (by simp)
  · split
    · refine memOk_endStream ?_
      split
      · exact memOk_setCore_same hd _ (by simp)
      · exact memOk_retireFlight (memOk_setCore_same hd _ (by simp))
    · refine memOk_raiseTrap ?_ ..
      split
      · exact memOk_setCore_same hd _ (by simp)
      · exact memOk_retireFlight (memOk_setCore_same hd _ (by simp))

theorem memOk_settlePosts {c : Nat} : memOk (settlePosts s c) = true := memOk_postsTo h

theorem memOk_of_takeWait {c : Nat} {e : Engine} {n : Option Nat} {r : State × Bool} (hw : takeWait s c e n = some r) : memOk r.1 = true := by
  have hp : memOk (settlePosts s c) = true := memOk_settlePosts h
  unfold takeWait at hw
  dsimp only at hw
  split at hw
  · cases hw
  · split at hw
    · cases hw; exact hp
    · split at hw
      · cases hw; exact hp
      · split at hw <;> cases hw
        exact memOk_setCore_same hp _ (takeSem_spm ..)

theorem memOk_markPending {c : Nat} {p : Pending} {pair : Option Nat} : memOk (markPending s c p pair) = true := by
  unfold markPending
  dsimp only
  split
  · refine memOk_setCore h _ ?_
    split <;> exact wf_spm h _
  · refine memOk_setCore_same (memOk_setCore h _ ?_) _ rfl
    split <;> exact wf_spm h _

theorem outOk_issue {i : Instr} {body : State → Verdict} (hb : ∀ s, memOk s = true → VerdictOk (body s)) : OutOk (issue i s body) := by
  unfold issue
  dsimp only
  split
  · exact outOk_fault
  · split
    · exact outOk_next h
    · split
      · exact outOk_next (memOk_raiseTrap h ..)
      · split
        · exact outOk_next h
        · rename_i s1 w hw
          have h1 := memOk_of_takeWait h hw
          split
          · exact outOk_next (memOk_finish h1)
          · have hv := hb s1 h1
            split
            · exact outOk_next h
            · exact outOk_next (memOk_markPending h)
            · exact outOk_next (memOk_raiseTrap h1 ..)
            · rename_i hx; rw [hx] at hv; exact outOk_next (memOk_raiseTrap hv ..)
            · exact outOk_next (memOk_haltStream h1)
            · rename_i hx; rw [hx] at hv; exact outOk_next (memOk_finish hv)

theorem verdictOk_scalarBody {srcs : List SSrc} {d : SDst} {lat : Nat} {f : List SVal → Except Verdict SVal}
    (hf : ∀ vs v, f vs = .error v → VerdictOk v) : VerdictOk (scalarBody srcs d lat f s) := by
  unfold scalarBody
  dsimp only
  split
  · trivial
  · split
    · trivial
    · rename_i vs cs1 ht
      split
      · trivial
      · split
        · exact hf _ _ ‹_›
        · split
          · exact memOk_withCs_same h ((setReg_spm ..).trans (takeSrcs_spm ht))
          · exact memOk_withCs_same h ((reserveQr_spm ..).trans (takeSrcs_spm ht))

/-! ### Issue, and the bodies of instructions on registers -/

theorem verdictOk_vecBody {o : VOps} {f : VIn → Except Verdict VOut} (hf : ∀ x v, f x = .error v → VerdictOk v) : VerdictOk (vecBody o f s) := by
  unfold vecBody
  dsimp only
  split
  · trivial
  · split
    · trivial
    · rename_i ss cs1 hs
      split
      · trivial
      · rename_i vs cs2 hv
        split
        · trivial
        · split
          · trivial
          · split
            · exact hf _ _ ‹_›
            · exact memOk_withCs_same h (((putOut_spm ..).trans (takeVSrcs_spm hv)).trans (takeSrcs_spm hs))

/-! ### Control flow -/

theorem verdictOk_rdcrBody {d : SDst} {cr : Nat} : VerdictOk (rdcrBody d cr s) := by
  unfold rdcrBody
  split
  · trivial
  · exact verdictOk_scalarBody h fun _ _ h => nomatch h

omit h in
theorem verdictOk_useBody {a : SSrc} {f : CoreSt → Word → Verdict} (hf : ∀ cs v, cs.spm = (focusCs s).spm → VerdictOk (f cs v)) :
    VerdictOk (useBody a f s) := by
  unfold useBody
  dsimp only
  split
  · trivial
  · split
    · split
      · trivial
      · exact hf _ _ (takeSrcs_spm ‹_›)
    · trivial

theorem verdictOk_wrcrBody {cr : Nat} {a : SSrc} : VerdictOk (wrcrBody cr a s) := by
  unfold wrcrBody
  split
  · trivial
  · exact verdictOk_useBody fun _ _ hc => memOk_withCs_same h ((writeCr_spm ..).trans hc)

theorem verdictOk_plainDone : VerdictOk (plainDone s) := h

theorem verdictOk_callTo {cs : CoreSt} {w : Nat} {tgt : Pc} (hc : cs.spm = (focusCs s).spm) : VerdictOk (callTo cs w tgt s) := by
  unfold callTo
  split
  · trivial
  · refine memOk_withCs_same h ?_
    split
    · exact hc
    · exact (pushReturn_spm ‹_›).trans hc

omit h in
theorem verdictOk_regTarget {v : Word} {f : Pc → Verdict} (hf : ∀ p, VerdictOk (f p)) : VerdictOk (regTarget v f) := by
  unfold regTarget
  split
  · trivial
  · exact hf _

theorem verdictOk_retBody : VerdictOk (retBody s) := by
  unfold retBody
  dsimp only
  split
  · trivial
  · exact memOk_withCs_same h (CoreSt.setStream_spm ..)

theorem verdictOk_loopBody {w : Nat} {cs : CoreSt} {n : Word} (hc : cs.spm = (focusCs s).spm) : VerdictOk (loopBody w cs n s) := by
  unfold loopBody
  dsimp only
  split
  · trivial
  · split
    · trivial
    · exact memOk_withCs_same h ((CoreSt.setStream_spm ..).trans hc)

theorem verdictOk_endlBody : VerdictOk (endlBody s) := by
  unfold endlBody
  dsimp only
  have hs (x : Stream) : memOk (withCs s ((focusCs s).setStream s.focusEng x)) = true := memOk_withCs_same h (CoreSt.setStream_spm ..)
  split
  · trivial
  · split
    · exact hs _
    · exact verdictOk_regTarget fun _ => hs _

theorem verdictOk_exitBody {status : Word} : VerdictOk (exitBody status s) := by
  unfold exitBody
  dsimp only
  split
  · trivial
  · exact h

theorem verdictOk_haltBody : VerdictOk (haltBody s) := by
  unfold haltBody
  split
  · exact verdictOk_exitBody h
  · exact h

theorem memOk_sequencerEnd : memOk (sequencerEnd s) = true := by
  unfold sequencerEnd
  dsimp only
  split
  · exact h
  · exact memOk_withCs_same h rfl

theorem memOk_abandonMma {c : Nat} : memOk (abandonMma s c) = true := by
  unfold abandonMma
  dsimp only
  split
  · exact h
  · refine memOk_setCore ?_ _ (by simpa using wf_spm h _)
    split
    · exact h
    · exact memOk_setCore_same h _ (by simp)

theorem memOk_dropMma {c : Nat} : memOk (dropMma s c) = true := by
  unfold dropMma
  split
  · split
    · exact h
    · exact memOk_abandonMma h
  · exact h

theorem memOk_withdrawTile {c : Nat} : memOk (withdrawTile s c) = true := by
  unfold withdrawTile
  dsimp only
  split
  · exact h
  · split
    · refine memOk_unlogTrap (memOk_setCore h _ ?_)
      split <;> exact wf_spm h _
    · exact h

theorem memOk_teamEvent {c : Nat} {e : Engine} {t : Trap} : memOk (teamEvent s c e t) = true := by
  unfold teamEvent
  extract_lets mark s1
  have hm {s : State} (h : memOk s = true) (c : Nat) : memOk (mark s c) = true :=
    memOk_setCore_same (memOk_dropMma (memOk_withdrawTile h)) c (noteTrap_spm ..)
  split
  · exact hm (hm h _) _
  · exact hm h _

theorem verdictOk_bkptBody {n : Nat} : VerdictOk (bkptBody n s) := memOk_withCs_same (memOk_teamEvent h) rfl

theorem verdictOk_semwBody {n : Nat} : VerdictOk (semwBody n s) := by
  unfold semwBody
  dsimp only
  split
  · exact memOk_withCs_same h (takeSem_spm ..)
  · trivial

theorem verdictOk_sempBody {n : Nat} : VerdictOk (sempBody n s) := by
  unfold sempBody
  have hs (r k : Nat) : memOk (withCs s (postAt (coreCycle s) (focusCs s) r k).1) = true := memOk_withCs_same h (postAt_spm ..)
  dsimp only
  split
  · split
    · exact hs _ _
    · split
      · exact hs _ _
      · exact memOk_semOverflow (hs _ _)
  · exact h

/-! ### Addresses and translations -/

theorem memOk_ioBad {ag : IoAgent} {pa : Nat} : memOk (ioBad s ag pa) = true := memOk_of_same h rfl rfl rfl

theorem memOk_tlbAdd {asid va : Nat} {x : Xlate} : memOk (tlbAdd s asid va x) = true := by
  unfold tlbAdd
  dsimp only
  split
  · exact h
  · exact memOk_of_same h rfl rfl rfl

theorem tryOk_reach {asid va : Nat} {kind : AccKind} : TryOk Prod.fst (reach s asid va kind) := by
  unfold reach
  split
  · exact tryOk_error
  · exact tryOk_error
  · split
    · exact tryOk_ok h
    · split
      · exact tryOk_error
      · exact tryOk_ok (memOk_tlbAdd h)

/-! ### Memory instructions -/

theorem verdictOk_rfailVerdict {r : RFail} : VerdictOk (rfailVerdict s r) := memOk_withCs_same h rfl

theorem verdictOk_startAccess {cs : CoreSt} {e : Engine} {o : MemOp} {x : MemIn} {r : MemReq} {cl : List Claim} (hc : cs.spm = (focusCs s).spm) :
    VerdictOk (startAccess s cs e o x r cl) := memOk_withCs_same h hc

theorem verdictOk_spmAccess {cs : CoreSt} {o : MemOp} {r : MemReq} {cl : List Claim} (hc : cs.spm = (focusCs s).spm) :
    VerdictOk (spmAccess s cs o r cl) := by
  unfold spmAccess
  dsimp only
  split
  · exact memOk_withCs h (wf_spmStore _ _ (hc ▸ wf_spm h _))
  · exact memOk_withCs_same h ((deliver_spm ..).trans hc)

theorem verdictOk_memAccess {cs : CoreSt} {e : Engine} {o : MemOp} {x : MemIn} {cl : List Claim} {r : MemReq} (hc : cs.spm = (focusCs s).spm) :
    VerdictOk (memAccess s cs e o x cl r) := by
  unfold memAccess
  split
  · trivial
  · split
    · split
      · trivial
      · exact verdictOk_spmAccess h hc
    · split
      · exact verdictOk_rfailVerdict h
      · exact verdictOk_startAccess h hc

theorem verdictOk_memBody {o : MemOp} {f : MemIn → Except Verdict MemReq} (hf : ∀ x v, f x = .error v → VerdictOk v) :
    VerdictOk (memBody o f s) := by
  unfold memBody
  extract_lets e cs cl
  split
  · trivial
  · rename_i ss cs1 hs
    split
    · trivial
    · rename_i v cs2 hv
      extract_lets x r es extra
      split
      · trivial
      · split
        · trivial
        · split
          · trivial
          · cases hr : r with
            | error v => exact hf x v hr
            | ok q => exact verdictOk_memAccess h (((reserveDst_spm ..).trans (takeData_spm hv)).trans (takeSrcs_spm hs))

theorem verdictOk_speculativeZero {cs : CoreSt} {d : SDst} {lat : Nat} {cl : List Claim} (hc : cs.spm = (focusCs s).spm) :
    VerdictOk (speculativeZero s cs d lat cl) := memOk_withCs_same h ((putS_spm ..).trans hc)

theorem verdictOk_ldsBody {size : Nat} {sx : Bool} {sp : Space} {hint : Nat} {d : SDst} {a : SSrc} {lit : BitVec 32} :
    VerdictOk (ldsBody size sx sp hint d a lit s) := by
  unfold ldsBody
  dsimp only
  split
  · trivial
  · rename_i hs
    have hc := takeSrcs_spm hs
    split
    · trivial
    · split
      · exact verdictOk_speculativeZero h hc
      · split
        · trivial
        · exact verdictOk_memAccess h ((reserveDst_spm ..).trans hc)

omit h in
theorem verdictOk_of_tldReq {n : Nat} {x : MemIn} {v : Verdict} (hv : tldReq n x = .error v) : VerdictOk v := by
  unfold tldReq at hv
  dsimp only at hv
  split at hv <;> cases hv
  trivial

omit h in
theorem verdictOk_of_tstReq {n : Nat} {x : MemIn} {v : Verdict} (hv : tstReq n x = .error v) : VerdictOk v := by
  unfold tstReq at hv
  dsimp only at hv
  split at hv
  · cases hv; trivial
  · split at hv <;> cases hv
    trivial

theorem verdictOk_rspBody {d : MVSrc} {a b : SSrc} {lit : BitVec 32} : VerdictOk (rspBody d a b lit s) := by
  unfold rspBody
  dsimp only
  split
  · trivial
  · rename_i ss cs1 hs
    split
    · trivial
    · rename_i v cs2 hv
      split
      · trivial
      · split
        · trivial
        · split
          · trivial
          · split
            · trivial
            · trivial
            · have h1 := memOk_withCs_same h ((takeMV_spm hv).trans (takeSrcs_spm hs))
              exact memOk_setCore_same h1 _ rfl

theorem verdictOk_prefBody {hint : Nat} {a : SSrc} {lit : BitVec 32} : VerdictOk (prefBody hint a lit s) := by
  unfold prefBody
  dsimp only
  split
  · trivial
  · split
    · trivial
    · rename_i hs
      have hc := takeSrcs_spm hs
      split <;> exact memOk_withCs_same h hc

/-! ### Team instructions -/

theorem verdictOk_qpushBody {q a : Nat} : VerdictOk (qpushBody q a s) := by
  unfold qpushBody
  dsimp only
  split
  · trivial
  · exact memOk_withCs_same h (reserveSq_spm ..)

theorem verdictOk_qpopBody {d : Nat} : VerdictOk (qpopBody d s) := by
  unfold qpopBody
  dsimp only
  split
  · trivial
  · split
    · trivial
    · rename_i hq
      exact memOk_withCs_same h ((setReg_spm ..).trans (popSq_spm hq))

theorem verdictOk_forkBody {eng sem a slot line : Nat} : VerdictOk (forkBody eng sem a slot line s) := by
  unfold forkBody
  dsimp only
  split
  · trivial
  · split
    · trivial
    · split
      · trivial
      · exact memOk_withCs_same h ((CoreSt.setStream_spm ..).trans (reserveSq_spm ..))

theorem verdictOk_launchBody {d a : Nat} : VerdictOk (launchBody d a s) := by
  unfold launchBody
  dsimp only
  split
  · trivial
  · split
    · trivial
    · split
      · trivial
      · split
        · trivial
        · split
          · trivial
          · split
            · trivial
            · exact memOk_withCs_same h rfl

theorem verdictOk_waitchBody {d a : Nat} : VerdictOk (waitchBody d a s) := by
  unfold waitchBody
  dsimp only
  split
  · trivial
  · split
    · exact h
    · split
      · trivial
      · exact memOk_withCs_same h (setReg_spm ..)

theorem memOk_setEst {c v : Nat} : memOk (setEst s c v) = true := memOk_setCore_same h _ rfl

theorem verdictOk_hintRemBody {a : Nat} : VerdictOk (hintRemBody a s) := by
  refine verdictOk_useBody fun cs v hc => ?_
  have hs : memOk (setEst (withCs s cs) s.focusCore v.toNat) = true := memOk_setEst (memOk_withCs_same h hc)
  dsimp only [VerdictOk]
  split
  · exact memOk_setEst hs
  · exact hs

/-! ### Barriers, watches and waits -/

theorem memOk_setGang {l g : Nat} {v : Gang} : memOk (setGang s l g v) = true := by
  unfold setGang
  dsimp only
  split
  · exact h
  · exact memOk_of_same h rfl rfl rfl

theorem memOk_updGang {l g : Nat} {f : Gang → Gang} : memOk (updGang s l g f) = true := by
  unfold updGang
  split
  · exact h
  · exact memOk_setGang h

theorem memOk_updTeam {l g t : Nat} {f : Team → Team} : memOk (updTeam s l g t f) = true := memOk_updGang h

theorem memOk_setCb {cs : CoreSt} {b : Nat} {v : CBar} : memOk (setCb s cs b v) = true := by
  unfold setCb
  split
  · exact h
  · split
    · exact h
    · exact memOk_setGang h

theorem verdictOk_cbaBody {d bar count : Nat} : VerdictOk (cbaBody d bar count s) := by
  unfold cbaBody
  dsimp only
  have hs (x : CBar) : memOk (setCb s (focusCs s) bar x) = true := memOk_setCb h
  split
  · trivial
  · split
    · trivial
    · split
      · trivial
      · split
        · exact memOk_setCore (hs _) _ ((setReg_spm (focusCs s) ..).symm ▸ wf_spm h _)
        · exact hs _

theorem verdictOk_cbwBody {d a bar : Nat} : VerdictOk (cbwBody d a bar s) := by
  unfold cbwBody
  dsimp only
  split
  · trivial
  · split
    · trivial
    · split
      · trivial
      · split
        · exact memOk_withCs_same h (cbwEnd_spm ..)
        · exact h

theorem verdictOk_gbarBody {d : Nat} : VerdictOk (gbarBody d s) := by
  unfold gbarBody
  dsimp only
  split
  · trivial
  · split
    · exact h
    · split
      · trivial
      · split
        · trivial
        · split
          · trivial
          · exact memOk_setGang h

theorem memOk_armWatch {c asid va : Nat} : memOk (armWatch s c asid va) = true := by
  refine memOk_setCore_same ?_ _ rfl
  exact memOk_setCore_same h _ rfl

theorem verdictOk_watchBody {a : Nat} : VerdictOk (watchBody a s) := by
  unfold watchBody
  dsimp only
  split
  · trivial
  · split
    · trivial
    · split
      · trivial
      · split
        · trivial
        · trivial
        · trivial
        · exact memOk_armWatch (memOk_tlbAdd h)

theorem verdictOk_mwaitBody {d a : Nat} : VerdictOk (mwaitBody d a s) := by
  unfold mwaitBody
  dsimp only
  split
  · trivial
  · split
    · trivial
    · split
      · split
        · exact memOk_withCs_same h (mwaitEnd_spm ..)
        · trivial
      · exact memOk_withCs_same h rfl

theorem outOk_evOut {o : Option State} (ho : EventOk o) : OutOk (evOut s o) := outOk_next (memOk_getD ho h)

theorem eventOk_mwaitWake {core : Nat} : EventOk (mwaitWake core s) := by
  unfold mwaitWake
  dsimp only
  split
  · split
    · refine eventOk_some (memOk_completeWait ?_)
      exact memOk_setCore_same h _ rfl
    · exact eventOk_none
  · exact eventOk_none

theorem eventOk_mwaitTimeout {core : Nat} : EventOk (mwaitTimeout core s) := by
  unfold mwaitTimeout
  dsimp only
  split
  · split
    · split
      · refine eventOk_some (memOk_completeWait ?_)
        exact memOk_setCore_same h _ rfl
      · exact eventOk_none
    · exact eventOk_none
  · exact eventOk_none

theorem eventOk_cbwComplete {core : Nat} : EventOk (cbwComplete core s) := by
  unfold cbwComplete
  dsimp only
  split
  · split
    · refine eventOk_some (memOk_completeWait ?_)
      exact memOk_setCore_same h _ rfl
    · exact eventOk_none
  · exact eventOk_none

theorem memOk_cbwsComplete : memOk (cbwsComplete s) = true := memOk_foldl h (fun _ _ h' => memOk_getD (eventOk_cbwComplete h') h')

theorem memOk_gbarDone {c : Nat} : memOk (gbarDone s c) = true := by
  unfold gbarDone
  split
  · refine memOk_completeWait ?_
    exact memOk_setCore_same h _ rfl
  · exact h

theorem eventOk_gbarPhase {launch gang : Nat} : EventOk (gbarPhase launch gang s) := by
  unfold gbarPhase
  dsimp only
  split
  · exact eventOk_none
  · split
    · split
      · exact eventOk_none
      · exact eventOk_some (memOk_foldl (memOk_setGang h) (fun _ _ h' => memOk_gbarDone h'))
    · split
      · exact eventOk_none
      · exact eventOk_some (memOk_foldl (memOk_setGang h) (fun _ _ h' => memOk_gbarDone h'))

theorem eventOk_waitchDone {core : Nat} : EventOk (waitchDone core s) := by
  unfold waitchDone
  dsimp only
  split
  · split
    · refine eventOk_some (memOk_completeWait ?_)
      exact memOk_setCore_same h _ rfl
    · exact eventOk_none
  · exact eventOk_none

theorem eventOk_fenceDone {core : Nat} : EventOk (fenceDone core s) := by
  unfold fenceDone
  dsimp only
  split
  · split
    · refine eventOk_some (memOk_completeWait (memOk_setCore h _ ?_))
      split <;> exact wf_spm h _
    · exact eventOk_none
  · exact eventOk_none

/-! ### Copy-queue state -/

theorem memOk_cqOverflow {c q seqNo : Nat} : memOk (cqOverflow s c q seqNo) = true := by
  unfold cqOverflow
  extract_lets go s1
  have hg {s : State} (h : memOk s = true) (d : Nat) : memOk (go s d) = true := memOk_setCore_same h d rfl
  have h1 : memOk s1 = true := memOk_teamEvent (memOk_setCore_same h c (noteCq_spm ..))
  split
  · exact h1
  · split
    · exact hg (hg h1 _) _
    · exact hg h1 _

theorem memOk_postCq {c q seqNo n : Nat} : memOk (postCq s c q seqNo n) = true := by
  unfold postCq
  extract_lets s0 x s1 y s2
  have h0 : memOk s0 = true := memOk_postsTo h
  have h1 : memOk s1 = true := memOk_setCore_same h0 _ (postAt_spm ..)
  have h2 : memOk s2 = true := memOk_setCore_same h1 _ (by simp [s1, setSem])
  split
  · exact h2
  · split
    · exact memOk_cqOverflow h1
    · split
      · exact memOk_cqOverflow h2
      · exact memOk_semOverflow h2

theorem memOk_completeHead {c q : Nat} : memOk (completeHead s c q) = true := by
  unfold completeHead
  dsimp only
  split
  · exact h
  · split
    · exact h
    · split
      · exact memOk_setCore_same h _ (by simp)
      · exact memOk_postCq (memOk_setCore_same h _ (by simp))

theorem memOk_pieceDone {c q : Nat} {seqNo i : Nat} : memOk (pieceDone s c q seqNo i) = true := by
  unfold pieceDone
  dsimp only
  split
  · split
    · exact memOk_completeHead (memOk_setCore_same h _ (by simp))
    · exact memOk_setCore_same h _ (by simp)
  · exact memOk_setCore_same h _ (by simp)

theorem memOk_copyAck {c q : Nat} {seqNo i k : Nat} : memOk (copyAck s c q seqNo i k) = true := by
  unfold copyAck
  dsimp only
  split
  · exact h
  · split
    · split
      · exact memOk_pieceDone (memOk_setCore_same h _ (by simp))
      · exact memOk_setCore_same h _ (by simp)
    · split
      · exact memOk_pieceDone (memOk_setCore_same h _ (by simp))
      · exact memOk_setCore_same h _ (by simp)

theorem memOk_cqFault {c q : Nat} {seqNo cause k : Nat} : memOk (cqFault s c q seqNo cause k) = true :=
  memOk_teamEvent (memOk_setCore_same h _ (by simp))

/-! ### The registry of cached lines -/

theorem memOk_sendMsg {c : Nat} {m : CoreMsg} : memOk (sendMsg s c m) = true := memOk_setCore_same h _ rfl

theorem memOk_answerRead {l : LlcLine} {c acc part hint : Nat} : memOk (answerRead s l c acc part hint) = true := by
  unfold answerRead
  split
  · exact h
  · extract_lets cs d cs1 skip cs2
    have h2 : cs2.spm = cs.spm := by
      unfold cs2
      split <;> simp [cs1]
    exact memOk_setCore_same h _ h2

theorem memOk_putEnt {e : OwnEnt} : memOk (putEnt s e) = true := memOk_of_same h rfl rfl rfl

theorem memOk_journalPut {off : Nat} {bs : List Byte} : memOk (journalPut s off bs) = true := by
  unfold journalPut
  dsimp only
  split
  · exact h
  · split
    · exact memOk_ioBad h
    · exact memOk_foldl (memOk_writeDram h _ _) (fun _ _ h' => memOk_setMark h' _ _)

theorem memOk_journalHeader : memOk (journalHeader s) = true := memOk_journalPut h

theorem memOk_journalEntry {e : OwnEnt} : memOk (journalEntry s e) = true := memOk_journalPut (memOk_journalPut h)

theorem memOk_journalStream {x : OwnStream} {live : Bool} : memOk (journalStream s x live) = true := memOk_journalPut h

theorem memOk_putStaged {e : OwnEnt} : memOk (putStaged s e) = true := memOk_journalEntry (memOk_putEnt h)

theorem memOk_stageFault {e : OwnEnt} {t : Trap} : memOk (stageFault s e t) = true := memOk_putStaged h

theorem memOk_stageHost {e : OwnEnt} {pa : Nat} : memOk (stageHost s e pa) = true := by
  refine memOk_putStaged ?_
  exact memOk_of_same h rfl rfl rfl

theorem memOk_atHost {e : OwnEnt} {pa : Nat} : memOk (atHost s e pa) = true := memOk_putEnt h

theorem memOk_stageHome {l : LlcLine} {x sr : Nat} : memOk (stageHome s l x sr) = true := by
  unfold stageHome
  dsimp only
  split
  · exact memOk_putLine h _
  · split
    · exact memOk_putLine h _
    · exact memOk_stageFault (memOk_putLine h _)
    · exact memOk_putLine (memOk_putStaged (memOk_tlbAdd h)) _
    · exact memOk_atHost (memOk_tlbAdd (memOk_putLine h _))

theorem memOk_keepRead {l : LlcLine} {m : BitVec 128} {x : IoAgent} : memOk (keepRead s l m x) = true := by
  unfold keepRead
  dsimp only
  split
  · split
    · exact memOk_setCore_same h _ (by simp)
    · exact h
  · exact h

theorem memOk_performReq {l0 : LlcLine} {req : LineReq} : memOk (performReq s l0 req) = true := by
  unfold performReq
  dsimp only
  split
  · split
    · exact memOk_putLine h _
    · split
      · exact memOk_sendMsg (memOk_wakeWatches (memOk_putLine h _) _ _)
      · exact memOk_sendMsg (memOk_writeLine h ..)
  · exact memOk_answerRead (memOk_putLine h _)
  · split
    · exact memOk_copyAck (memOk_writeLine h ..)
    · exact memOk_writeLine h ..
  · exact memOk_keepRead (memOk_putLine h _)
  · exact memOk_putLine h _
  · exact memOk_putLine h _
  · exact memOk_stageHome h

theorem memOk_enter {l : LlcLine} {st : LineSt} : memOk (enter s l st) = true := memOk_putLine h _

theorem memOk_askOwners {l : LlcLine} {os : List OwnSlot} {ws : BitVec 32} {f : LineKey → BitVec 32 → CoreMsg} :
    memOk (askOwners s l os ws f) = true :=
  memOk_foldl h (fun _ _ h' => memOk_sendMsg h')

theorem memOk_startReq {l : LlcLine} {req : LineReq} : memOk (startReq s l req) = true := by
  unfold startReq
  dsimp only
  split
  · exact memOk_enter h
  · split
    · exact memOk_enter h
    · split
      · exact memOk_enter h
      · split
        · exact memOk_askOwners (memOk_enter h)
        · split
          · exact memOk_askOwners (memOk_enter h)
          · exact memOk_performReq h

theorem memOk_drainLine {n : Nat} {key : LineKey} : memOk (drainLine n s key) = true := by
  induction n generalizing s with
  | zero => exact h
  | succ n ih =>
    unfold drainLine
    split
    · exact h
    · split
      · exact h
      · split
        · exact h
        · exact ih (memOk_startReq (memOk_putLine h _))

theorem memOk_settleTemp {key : LineKey} : memOk (settleTemp s key) = true := by
  unfold settleTemp
  split
  · exact h
  · split
    · refine memOk_dropLine ?_ _
      split
      · exact memOk_storeLine h ..
      · exact h
    · exact h

theorem memOk_drainAll {key : LineKey} : memOk (drainAll s key) = true := memOk_settleTemp (memOk_drainLine h)

theorem memOk_resumeReq {key : LineKey} {req : LineReq} : memOk (resumeReq s key req) = true := by
  unfold resumeReq
  split
  · exact h
  · exact memOk_drainAll (memOk_startReq h)

theorem memOk_beginReq {l : LlcLine} {req : LineReq} : memOk (beginReq s l req) = true := by
  unfold beginReq
  split
  · exact memOk_putLine h _
  · exact memOk_settleTemp (memOk_startReq (memOk_putLine h _))

theorem eventOk_submitReq {key : LineKey} {req : LineReq} : EventOk (submitReq s key req) := eventOk_mapTo fun _ _ => memOk_beginReq h

theorem eventOk_lateHit {c id part : Nat} {key : LineKey} {p : Piece} : EventOk (lateHit c id part key p s) := by
  unfold lateHit
  split
  · exact eventOk_none
  · exact eventOk_some (memOk_setCore_same h _ (by simp))

theorem eventOk_pieceRequest {c id part : Nat} {st : Bool} : EventOk (pieceRequest c id part st s) := by
  unfold pieceRequest
  dsimp only
  split
  · exact eventOk_none
  · split
    · exact eventOk_none
    · split
      · exact eventOk_lateHit h
      · split
        · exact eventOk_mapTo fun _ hx => memOk_setCore_same h _ (mseReject_spm hx)
        · exact eventOk_submitReq (memOk_setCore_same h _ (by simp))

theorem eventOk_revocation {core : Nat} {key : LineKey} : EventOk (revocation core key s) := by
  unfold revocation
  dsimp only
  split
  · split
    · exact eventOk_some (memOk_setCore_same h _ rfl)
    · exact eventOk_some (memOk_setCore_same h _ (by simp))
  · exact eventOk_none

theorem memOk_answered {l : LlcLine} {c : Nat} : memOk (answered s l c) = true := by
  unfold answered
  dsimp only
  split
  · split
    · exact memOk_resumeReq (memOk_putLine h _)
    · exact memOk_putLine h _
  · split
    · exact memOk_resumeReq (memOk_putLine h _)
    · exact memOk_putLine h _
  · split
    · exact memOk_resumeReq (memOk_putLine h _)
    · exact memOk_putLine h _
  · exact memOk_putLine h _

theorem memOk_linkWoke {c : Nat} : memOk (linkWoke s c) = true := by
  unfold linkWoke
  dsimp only
  split
  · exact h
  · exact memOk_of_same h rfl rfl rfl

theorem eventOk_revocationAnswer {core : Nat} {key : LineKey} : EventOk (revocationAnswer core key s) := by
  unfold revocationAnswer
  dsimp only
  split
  · split
    · exact eventOk_none
    · split
      · refine eventOk_some (memOk_putLine ?_ _)
        exact memOk_setCore_same h _ rfl
      · refine eventOk_some (memOk_answered ?_)
        exact memOk_setCore_same h _ rfl
  · exact eventOk_some (memOk_setCore_same h _ rfl)
  · exact eventOk_none

theorem eventOk_forwardRequest {core : Nat} {key : LineKey} : EventOk (forwardRequest core key s) := by
  unfold forwardRequest
  dsimp only
  split
  · exact eventOk_some (memOk_setCore_same h _ rfl)
  · exact eventOk_none

theorem eventOk_forwardAnswer {core : Nat} {key : LineKey} : EventOk (forwardAnswer core key s) := by
  unfold forwardAnswer
  dsimp only
  split
  · split
    · exact eventOk_none
    · refine eventOk_some (memOk_answered ?_)
      exact memOk_setCore_same h _ rfl
  · exact eventOk_none

theorem eventOk_writeBack {core : Nat} {key : LineKey} : EventOk (writeBack core key s) := by
  unfold writeBack
  dsimp only
  split
  · exact eventOk_none
  · split
    · refine eventOk_some (memOk_sendMsg ?_)
      exact memOk_setCore_same h _ rfl
    · split
      · exact eventOk_none
      · split
        · split
          · refine eventOk_some (memOk_sendMsg (memOk_answered ?_))
            exact memOk_setCore_same h _ rfl
          · refine eventOk_some (memOk_sendMsg (memOk_putLine ?_ _))
            exact memOk_setCore_same h _ rfl
        · refine eventOk_some (memOk_sendMsg (memOk_putLine ?_ _))
          exact memOk_setCore_same h _ rfl

theorem eventOk_writeBackAck {core : Nat} {key : LineKey} : EventOk (writeBackAck core key s) := by
  unfold writeBackAck
  dsimp only
  split
  · split
    · exact eventOk_some (memOk_setCore_same h _ rfl)
    · split
      · exact eventOk_some (memOk_setCore_same h _ rfl)
      · split
        · refine eventOk_some (memOk_retireFlight ?_)
          exact memOk_setCore_same h _ rfl
        · exact eventOk_some (memOk_setCore_same h _ rfl)
  · exact eventOk_some (memOk_setCore_same h _ rfl)
  · exact eventOk_none

theorem eventOk_registrationAnswer {core : Nat} {key : LineKey} : EventOk (registrationAnswer core key s) := by
  unfold registrationAnswer
  dsimp only
  split
  · exact eventOk_none
  · split
    · split
      · refine eventOk_some (memOk_settleTemp (memOk_setCore_same h _ ?_))
        split <;> simp
      · exact eventOk_some (memOk_setCore_same h _ rfl)
    · exact eventOk_none

theorem eventOk_hostWriteBack {key : LineKey} {data : LineData} : EventOk (hostWriteBack key data s) := by
  unfold hostWriteBack
  dsimp only
  split
  · exact eventOk_none
  · split
    · exact eventOk_none
    · split
      · exact eventOk_some (memOk_resumeReq (memOk_wakeWatches (memOk_putLine h _) _ _))
      · exact eventOk_some (memOk_resumeReq (memOk_wakeWatches (memOk_putLine h _) _ _))
      · exact eventOk_some (memOk_wakeWatches (memOk_putLine h _) _ _)

theorem eventOk_hostSnoopAnswer {key : LineKey} {dirty : Option LineData} : EventOk (hostSnoopAnswer key dirty s) := by
  unfold hostSnoopAnswer
  dsimp only
  split
  · exact eventOk_none
  · split
    · exact eventOk_some (memOk_resumeReq (memOk_putLine h _))
    · split
      · exact eventOk_some (memOk_resumeReq (memOk_putLine h _))
      · exact eventOk_none
    · exact eventOk_some (memOk_resumeReq (memOk_wakeWatches (memOk_putLine h _) _ _))
    · split
      · exact eventOk_some (memOk_resumeReq (memOk_putLine h _))
      · exact eventOk_none
    · exact eventOk_some (memOk_drainAll (memOk_performReq (memOk_putLine h _)))
    · exact eventOk_none

theorem eventOk_slateRecallLost {key : LineKey} : EventOk (slateRecallLost key s) := by
  unfold slateRecallLost
  dsimp only
  split
  · exact eventOk_none
  · split
    · split
      · exact eventOk_some (memOk_logHub (memOk_resumeReq (memOk_putLine h _)))
      · exact eventOk_none
    · split
      · exact eventOk_some (memOk_logHub (memOk_resumeReq (memOk_putLine h _)))
      · exact eventOk_none
    · split
      · exact eventOk_some (memOk_logHub (memOk_resumeReq (memOk_putLine h _)))
      · exact eventOk_none
    · exact eventOk_none

/-! ### Fills, evictions and migration -/

theorem memOk_pullOwner {ws : BitVec 32} {l : LlcLine} {o : OwnSlot} : memOk (pullOwner ws s l o).1 = true := by
  unfold pullOwner
  dsimp only
  split
  · exact h
  · exact memOk_setCore_same h _ (by simp)

theorem memOk_pullOwners {l : LlcLine} : memOk (pullOwners s l).1 = true := memOk_foldl_fst h fun _ _ h => memOk_pullOwner h

theorem memOk_dropOut {l : LlcLine} : memOk (dropOut s l) = true := by
  unfold dropOut
  dsimp only
  refine memOk_dropLine ?_ _
  split
  · exact memOk_storeLine (memOk_pullOwners h) ..
  · exact memOk_pullOwners h

theorem memOk_of_pullLine {l : LlcLine} {ws : BitVec 32} {r : State × LlcLine} (hr : pullLine s l ws = some r) : memOk r.1 = true := by
  simp only [pullLine, Option.ite_none_left_eq_some, Option.some.injEq] at hr
  rw [← hr.2]
  exact memOk_putLine (memOk_foldl_fst h fun _ _ h => memOk_pullOwner h) _

theorem eventOk_tried {x : Try State} (hx : TryOk id x) : EventOk (tried s x) := by
  unfold tried
  split
  · exact eventOk_some (hx _ rfl)
  · exact eventOk_submitReq h
  · exact eventOk_some (memOk_of_same h rfl rfl rfl)
  · exact eventOk_none

theorem memOk_logTimeout {pa : Nat} {store : Bool} : memOk (logTimeout s pa store) = true := memOk_logHub h

theorem tryOk_hostTry {who idx pa : Nat} {store : Bool} : TryOk Prod.fst (hostTry s who idx pa store) := by
  unfold hostTry
  extract_lets mine hub t
  have ht : memOk t = true := memOk_of_same h rfl rfl rfl
  split
  · exact tryOk_error
  · exact tryOk_error
  · exact tryOk_ok (memOk_logTimeout ht)
  · exact tryOk_ok ht

theorem tryOk_homePull {key : LineKey} {ws : BitVec 32} : TryOk Prod.fst (homePull s key ws) := by
  unfold homePull
  split
  · exact tryOk_error
  · split
    · exact tryOk_ok (memOk_of_pullLine h ‹_›)
    · exact tryOk_error

theorem memOk_dramPut {pa : Nat} {bs : List Byte} : memOk (dramPut s pa bs) = true := memOk_of_same (memOk_writeDram h _ _) rfl rfl rfl

theorem memOk_putPart {ag : IoAgent} {pa : Nat} {bs : List Byte} : memOk (putPart ag s pa bs) = true := by
  unfold putPart
  split
  · exact memOk_ioBad h
  · exact memOk_of_same h rfl rfl rfl
  · split
    · exact memOk_wakeWatches (memOk_dramPut h) _ _
    · dsimp only
      split
      · exact memOk_writeLine (memOk_of_pullLine h ‹_›) ..
      · exact memOk_beginReq h

theorem memOk_physPut {ag : IoAgent} {n pa : Nat} {bs : List Byte} : memOk (physPut ag n s pa bs) = true := by
  induction n generalizing s pa bs with
  | zero => exact h
  | succ n ih =>
    unfold physPut
    split
    · exact h
    · exact ih (memOk_putPart h)

theorem memOk_physWrite {ag : IoAgent} {pa : Nat} {bs : List Byte} : memOk (physWrite ag s pa bs) = true := memOk_physPut h

theorem tryOk_migPut {pa : Nat} {bs : List Byte} : TryOk id (migPut s pa bs) := by
  unfold migPut
  split
  · split
    · exact tryOk_mapState (tryOk_homePull h) fun _ h => memOk_writeLine h ..
    · exact tryOk_state (memOk_putPart h)
  · exact tryOk_state (memOk_putPart h)

theorem memOk_migAdvance : memOk (migAdvance s) = true := by
  unfold migAdvance
  dsimp only
  split
  · exact memOk_sendMsix (memOk_of_same h rfl rfl rfl)
  · exact memOk_of_same h rfl rfl rfl

theorem eventOk_migWrite : EventOk (migWrite s) := by
  unfold migWrite
  split
  · exact eventOk_none
  · exact eventOk_tried h (tryOk_mapState (tryOk_migPut h) fun _ h => memOk_migAdvance h)

theorem memOk_migRequest {asid va : Nat} {home st : Nat} {ch cst : Nat} : memOk (migRequest s asid va home st ch cst) = true := by
  unfold migRequest
  dsimp only
  split
  · refine memOk_logHub ?_
    exact memOk_of_same h rfl rfl rfl
  · exact memOk_getD (eventOk_migWrite (memOk_of_same h rfl rfl rfl)) (memOk_of_same h rfl rfl rfl)

theorem memOk_putRegion {r : MigRegion} : memOk (putRegion s r) = true := memOk_of_same h rfl rfl rfl

theorem memOk_migRaise {r : MigRegion} : memOk (migRaise s r) = true := by
  unfold migRaise
  dsimp only
  split
  · exact h
  · exact memOk_migRequest (memOk_putRegion h)

theorem memOk_migSweep : memOk (migSweep s) = true := memOk_foldl h (fun _ _ h' => memOk_migRaise h')

theorem eventOk_migDue : EventOk (migDue s) := eventOk_mapTo fun _ _ => memOk_migRaise h

theorem memOk_countMiss {asid va : Nat} {pa st : Nat} : memOk (countMiss s asid va pa st) = true := by
  refine memOk_migRaise (memOk_putRegion ?_)
  exact memOk_of_same h rfl rfl rfl

theorem eventOk_migInterval : EventOk (migInterval s) := by
  unfold migInterval
  dsimp only
  split
  · exact eventOk_none
  · exact eventOk_some (memOk_migSweep (memOk_of_same h rfl rfl rfl))

theorem memOk_llcRoom {key : LineKey} : memOk (llcRoom s key) = true := by
  unfold llcRoom
  dsimp only
  split
  · exact h
  · split
    · refine memOk_dropOut ?_
      exact memOk_of_same h rfl rfl rfl
    · exact memOk_of_same h rfl rfl rfl

theorem memOk_addLine {key : LineKey} {pa perm hint : Nat} : memOk (addLine s key pa perm hint) = true := by
  unfold addLine
  dsimp only
  refine memOk_putLine ?_ _
  split
  · exact h
  · exact memOk_llcRoom h

theorem memOk_allotLine {key : LineKey} {hint : Nat} : memOk (allotLine s key hint) = true := by
  unfold allotLine
  dsimp only
  split
  · exact h
  · split
    · exact memOk_putLine (memOk_llcRoom h) _
    · exact memOk_llcRoom h

theorem memOk_fillLine {key : LineKey} {pa perm hint : Nat} {st : Option Nat} : memOk (fillLine s key pa perm hint st) = true := by
  unfold fillLine
  dsimp only
  split
  · exact memOk_allotLine (memOk_putLine h _)
  · split
    · split
      · exact memOk_countMiss (memOk_addLine h)
      · exact memOk_addLine h
    · exact memOk_addLine h

theorem eventOk_llcFill {key : LineKey} : EventOk (llcFill key s) := by
  unfold llcFill
  split
  · exact eventOk_some (memOk_fillLine h)
  · exact eventOk_none

theorem eventOk_evictLlc {key : LineKey} : EventOk (evictLlc key s) := by
  unfold evictLlc
  split
  · exact eventOk_none
  · split
    · exact eventOk_some (memOk_dropOut h)
    · exact eventOk_none

theorem eventOk_evictL1 {core : Nat} {key : LineKey} : EventOk (evictL1 core key s) := by
  unfold evictL1
  dsimp only
  split
  · split
    · exact eventOk_none
    · exact eventOk_some (memOk_setCore_same h _ (by simp))
  · exact eventOk_none

theorem memOk_migRptr {v : Nat} : memOk (migRptr v s) = true := by
  unfold migRptr
  dsimp only
  split
  · exact h
  · exact memOk_of_same h rfl rfl rfl

theorem memOk_migCtl {v : Word} : memOk (migCtl v s) = true := memOk_of_same h rfl rfl rfl

theorem memOk_migBase {v : Word} : memOk (migBase v s) = true := by
  unfold migBase
  dsimp only
  split
  · exact h
  · exact memOk_of_same h rfl rfl rfl

/-! ### Context records -/

theorem memOk_putRecord {r : Record} (hr : Memory.wf r.bytes = true) : memOk (putRecord s r) = true := by
  rw [memOk_iff] at *
  obtain ⟨hd, hc, hrec⟩ := h
  refine ⟨hd, hc, ?_⟩
  simp only [List.all_eq_true] at *
  unfold putRecord
  dsimp only
  split
  · simp only [List.mem_map, forall_exists_index, and_imp, forall_apply_eq_imp_iff₂]
    intro q hq
    split
    · exact hr
    · exact hrec q hq
  · simp only [List.mem_append, List.mem_singleton]
    rintro q (hq | rfl)
    · exact hrec q hq
    · exact hr

theorem memOk_shareWake {o : Occ} : memOk (shareWake s o) = true := by
  unfold shareWake
  dsimp only
  split
  · rename_i r hr
    split
    · exact memOk_putRecord h (Memory.wf_writeBytes _ _ _ (wf_of_findRecord h hr))
    · exact h
  · exact h

theorem memOk_logRecord {r : Record} {eng code : Nat} {e : Engine} : memOk (logRecord s r eng code e) = true :=
  memOk_logStack h

theorem memOk_stopRecord {code : Occ → Nat} {r : Record} (hr : Memory.wf r.bytes = true) : memOk (stopRecord code s r) = true :=
  memOk_postReport (memOk_putRecord h (wf_recPut (wf_recPut (wf_recPut hr ..) ..) ..))

theorem memOk_stopSaved {o : Occ} {code : Occ → Nat} : memOk (stopSaved s o code) = true :=
  memOk_updTeam (memOk_foldl_mem h fun _ _ hx ht => memOk_stopRecord ht (wf_of_mem_records h (List.mem_of_mem_filter hx)))

theorem memOk_faultSaved {r : Record} {e : Engine} {code addr : Nat} (hr : Memory.wf r.bytes = true) : memOk (faultSaved s r e code addr) = true := by
  unfold faultSaved
  extract_lets x s1
  have hs : memOk s1 = true := memOk_logRecord (memOk_putRecord h (wf_recordFault hr ..))
  split
  · exact memOk_stopSaved hs
  · exact hs

theorem memOk_dropRecord {o : Occ} : memOk (dropRecord s o) = true := by
  rw [memOk_iff] at *
  obtain ⟨hd, hc, hr⟩ := h
  refine ⟨hd, hc, ?_⟩
  simp only [dropRecord, List.all_eq_true, List.mem_filter] at *
  exact fun r hm => hr r hm.1

/-! ### The requester side of remote operations -/

theorem memOk_setSlot {k : Nat} {x : ReqSlot} : memOk (setSlot s k x) = true := memOk_of_same h rfl rfl rfl

theorem memOk_sendPacket {p : Packet} : memOk (sendPacket s p) = true := memOk_of_same h rfl rfl rfl

theorem memOk_bindAt {b : Option Occ} {u : StreamUser} {owner k : Nat} : memOk (bindAt s b u owner k) = true := by
  unfold bindAt
  split
  · rename_i p hp
    exact memOk_setCore h _ ((setBindings_spm ..).symm ▸ wf_of_mem_cores h (List.mem_of_find?_eq_some hp))
  · split
    · rename_i r hr
      obtain ⟨o, _, ho⟩ := Option.bind_eq_some_iff.1 hr
      exact memOk_putRecord h (Memory.wf_writeBytes _ _ _ (wf_of_findRecord h ho))
    · exact h

theorem memOk_closeSlot {k : Nat} : memOk (closeSlot s k) = true := memOk_sendPacket (memOk_setSlot h)

theorem memOk_openSlot {b : Option Occ} {c : Nat} {u : StreamUser} {owner : Nat} : memOk (openSlot s b c u owner).1 = true := by
  unfold openSlot
  dsimp only
  split
  · refine memOk_sendPacket (memOk_bindAt (memOk_setSlot ?_))
    exact memOk_of_same h rfl rfl rfl
  · split
    · exact h
    · split
      · exact memOk_closeSlot h
      · exact h

theorem memOk_accessLeft {c id : Nat} : memOk (accessLeft s c id) = true := by
  unfold accessLeft
  dsimp only
  split
  · exact h
  · split
    · exact h
    · split
      · split
        · refine memOk_retireFlight ?_
          exact memOk_setCore_same h _ rfl
        · exact memOk_setCore_same h _ rfl
      · exact memOk_setCore_same h _ rfl

theorem memOk_notePend {k : Nat} {o : RemOp} : memOk (notePend s k o) = true := by
  unfold notePend
  dsimp only
  split
  · exact h
  · exact memOk_setCore_same h _ rfl

theorem memOk_opLeft {o : RemOp} : memOk (opLeft s o) = true := by
  unfold opLeft
  split
  · exact memOk_setCore_same h _ (by simp)
  · split
    · exact h
    · refine memOk_accessLeft ?_
      exact memOk_setCore_same h _ rfl
  · exact h

theorem eventOk_leaveOne {k : Nat} : EventOk (leaveOne s k) := by
  unfold leaveOne
  dsimp only
  split
  · split
    · exact eventOk_none
    · exact eventOk_some (memOk_opLeft (memOk_notePend (memOk_sendPacket (memOk_setSlot h))))
  · exact eventOk_none

theorem memOk_pumpSlot {n k : Nat} : memOk (pumpSlot n s k) = true := by
  induction n generalizing s with
  | zero => exact h
  | succ n ih =>
    unfold pumpSlot
    split
    · exact ih (eventOk_leaveOne h _ ‹_›)
    · exact h

theorem memOk_pump {k : Nat} : memOk (pump s k) = true := memOk_pumpSlot h

theorem memOk_handOverAs {b : Option Occ} {o : RemOp} : memOk (handOverAs b s o).1 = true := by
  unfold handOverAs
  extract_lets owner give r
  have hg {s : State} (h : memOk s = true) (k : Nat) : memOk (give s k).1 = true := memOk_pump (memOk_setSlot h)
  have hr : memOk r.1 = true := memOk_openSlot h
  clear_value r
  split
  · exact hg h _
  · split
    · exact hg hr _
    · exact hr

theorem memOk_handOver {o : RemOp} : memOk (handOver s o).1 = true := memOk_handOverAs h

theorem memOk_sendOps {l : List RemOp} {c id : Nat} : memOk (sendOps l s c id) = true := by
  induction l generalizing s with
  | nil => exact h
  | cons o t ih =>
    unfold sendOps
    have hd : memOk (setCore s c (dropOp (getCore s c) id)) = true := memOk_setCore_same h c (dropOp_spm ..)
    have hr : memOk (handOver (setCore s c (dropOp (getCore s c) id)) o).1 = true := memOk_handOver hd
    split
    · exact h
    · dsimp only
      split
      · exact ih hr
      · exact memOk_setCore_same hr _ rfl

theorem memOk_pendOver {x : ReqSlot} {p : PendRemote} {o : RemOp} {r : Outcome} : memOk (pendOver s x p o r) = true := by
  unfold pendOver
  extract_lets c cs0 cs1 cs2 cs3 s1
  have h1 : cs1.spm = (getCore s c).spm := (pieceOver_spm ..).trans (writeOut_spm ..)
  have h3 : cs3.spm = (getCore s c).spm := by
    unfold cs3
    split <;> exact h1
  have hs : memOk s1 = true := memOk_setCore_same h _ h3
  split
  · exact memOk_setCore_same h _ h1
  · split
    · exact memOk_retireFlight hs
    · exact hs

theorem memOk_savedOver {r : Record} {x : ReqSlot} {o : RemOp} {v : Outcome} (hr : Memory.wf r.bytes = true) :
    memOk (savedOver s r x o v) = true := by
  unfold savedOver
  dsimp only
  split
  · exact memOk_faultSaved h (wf_recordOver hr ..)
  · exact memOk_putRecord h (wf_recordOver hr ..)

theorem memOk_listDiscard {x : ReqSlot} {o : RemOp} : memOk (listDiscard s x o) = true := by
  unfold listDiscard
  dsimp only
  split
  · exact h
  · split
    · exact h
    · exact memOk_of_same h rfl rfl rfl

theorem memOk_dropAtoms {c : Nat} {ops : List RemOp} : memOk (dropAtoms s c ops) = true := memOk_foldl h (fun _ _ h' => memOk_setCore_same h' _ rfl)

theorem memOk_opOver {x : ReqSlot} {o : RemOp} {r : Outcome} : memOk (opOver s x o r) = true := by
  unfold opOver
  split
  · exact memOk_listDiscard h
  · split
    · split
      · exact h
      · split
        · exact memOk_copyAck h
        · exact memOk_cqFault h
    · split
      · split
        · rename_i rec' hr
          obtain ⟨b, _, hb⟩ := Option.bind_eq_some_iff.1 hr
          exact memOk_savedOver h (wf_of_findRecord h hb)
        · exact h
      · extract_lets s1 cs cs1
        have h1 : memOk s1 = true := memOk_dropAtoms h
        split
        · exact memOk_pendOver h1
        · have hc : cs1.spm = cs.spm := by
            refine (pieceOver_spm ..).trans ?_
            split <;> rfl
          split <;> exact memOk_setCore_same h1 _ hc

theorem memOk_retireSerial {k serial : Nat} : memOk (retireSerial s k serial) = true := memOk_setSlot h

theorem memOk_unbindSlot {k : Nat} : memOk (unbindSlot s k) = true := by
  unfold unbindSlot
  dsimp only
  split
  · exact memOk_setCore_same h _ (by simp)
  · exact h

theorem memOk_unbindRecord {k : Nat} : memOk (unbindRecord s k) = true := by
  unfold unbindRecord
  extract_lets x b
  cases hr : x.bound.bind (findRecord s) with
  | none => exact h
  | some r =>
    obtain ⟨o, _, ho⟩ := Option.bind_eq_some_iff.1 hr
    have hw : Memory.wf (writeBytes r.bytes b (leBytes 16 0)) = true := Memory.wf_writeBytes _ _ _ (wf_of_findRecord h ho)
    clear_value b
    dsimp only
    split
    · refine memOk_putRecord h ?_
      dsimp only
      exact hw
    · exact h

theorem memOk_freeSlot {k : Nat} : memOk (freeSlot s k) = true := memOk_setSlot (memOk_unbindRecord (memOk_unbindSlot h))

theorem memOk_parkOp {b : Option Occ} {o : RemOp} : memOk (parkOp b s o) = true := by
  unfold parkOp
  dsimp only
  split
  · exact memOk_of_same h rfl rfl rfl
  · exact h

theorem memOk_rehand {b : Option Occ} {l : List RemOp} : memOk (rehand b l s) = true := by
  induction l generalizing s with
  | nil => exact h
  | cons o t ih =>
    have hr : memOk (handOverAs b s o).1 = true := memOk_handOverAs h
    refine ih ?_
    split
    · exact hr
    · exact memOk_parkOp hr

theorem eventOk_handParked {seen l : List (Occ × RemOp)} : EventOk (handParked seen l s) := by
  induction l generalizing seen with
  | nil => exact eventOk_none
  | cons x t ih =>
    have hr : memOk (handOverAs (some x.1) s x.2).1 = true := memOk_handOverAs h
    unfold handParked
    split
    · exact ih
    · dsimp only
      split
      · exact eventOk_some (memOk_of_same hr rfl rfl rfl)
      · split
        · exact eventOk_some hr
        · exact ih

theorem memOk_failStream {k : Nat} {c : Cause} : memOk (failStream s k c) = true :=
  memOk_rehand (memOk_freeSlot (memOk_foldl h (fun _ _ h' => memOk_opOver h')))

theorem eventOk_takePacket {src : Nat} {p : Packet} : EventOk (takePacket s src p) := by
  unfold takePacket
  dsimp only
  split
  · exact eventOk_some h
  · split
    · exact eventOk_some (memOk_of_same h rfl rfl rfl)
    · exact eventOk_none

theorem memOk_hear {p : Nat} : memOk (hear s p) = true := memOk_of_same h rfl rfl rfl

theorem eventOk_fromFabric {src : Nat} {p : Packet} : EventOk (fromFabric s src p) := by
  unfold fromFabric
  dsimp only
  split
  · exact eventOk_none
  · exact eventOk_map (eventOk_takePacket h) (fun _ h' => memOk_of_same h' rfl rfl rfl)

theorem memOk_closeIfDead {k : Nat} : memOk (closeIfDead s k) = true := by
  unfold closeIfDead
  dsimp only
  split
  · exact memOk_closeSlot h
  · exact h

theorem eventOk_replyArrives {owner handle serial : Nat} {st : RStatus} {fcode : Nat} {value : List (BitVec 128)} :
    EventOk (replyArrives owner handle serial st fcode value s) := by
  unfold replyArrives
  split
  · exact eventOk_none
  · split
    · exact eventOk_some ((eventOk_fromFabric h) _ ‹_›)
    · split
      · exact eventOk_some ((eventOk_fromFabric h) _ ‹_›)
      · exact eventOk_some (memOk_failStream ((eventOk_fromFabric h) _ ‹_›))
      · exact eventOk_some (memOk_closeIfDead (memOk_pump (memOk_opOver (memOk_retireSerial ((eventOk_fromFabric h) _ ‹_›)))))
      · exact eventOk_some (memOk_closeIfDead (memOk_pump (memOk_opOver (memOk_retireSerial ((eventOk_fromFabric h) _ ‹_›)))))

theorem memOk_recordHandle {k : Nat} : memOk (recordHandle s k) = true := by
  unfold recordHandle
  dsimp only
  split
  · rename_i r hr
    obtain ⟨o, _, ho⟩ := Option.bind_eq_some_iff.1 hr
    split
    · exact memOk_putRecord h (Memory.wf_writeBytes _ _ _ (wf_of_findRecord h ho))
    · exact h
  · exact h

theorem eventOk_openedArrives {owner slot : Nat} {nonce handle : Nat} {st : RStatus} : EventOk (openedArrives owner slot nonce handle st s) := by
  unfold openedArrives
  dsimp only
  split
  · exact eventOk_none
  · split
    · exact eventOk_some (memOk_closeIfDead (memOk_pump (memOk_recordHandle (memOk_setSlot ((eventOk_fromFabric h) _ ‹_›)))))
    · exact eventOk_some ((eventOk_fromFabric h) _ ‹_›)

theorem eventOk_ackedArrives {owner handle : Nat} : EventOk (ackedArrives owner handle s) := by
  unfold ackedArrives
  split
  · exact eventOk_none
  · split
    · exact eventOk_some ((eventOk_fromFabric h) _ ‹_›)
    · split
      · exact eventOk_some ((eventOk_fromFabric h) _ ‹_›)
      · exact eventOk_some (memOk_setSlot ((eventOk_fromFabric h) _ ‹_›))

theorem eventOk_closedArrives {owner handle : Nat} : EventOk (closedArrives owner handle s) := by
  unfold closedArrives
  split
  · exact eventOk_none
  · split
    · exact eventOk_some ((eventOk_fromFabric h) _ ‹_›)
    · exact eventOk_some (memOk_rehand (memOk_freeSlot ((eventOk_fromFabric h) _ ‹_›)))

theorem eventOk_ackTimer {slot : Nat} : EventOk (ackTimer slot s) := by
  unfold ackTimer
  dsimp only
  split
  · exact eventOk_some (memOk_sendPacket (memOk_setSlot h))
  · exact eventOk_none

theorem eventOk_retransmit {slot serial : Nat} : EventOk (retransmit slot serial s) := by
  unfold retransmit
  dsimp only
  split
  · split
    · exact eventOk_some (memOk_sendPacket (memOk_setSlot h))
    · exact eventOk_none
  · split
    · split
      · exact eventOk_some (memOk_sendPacket (memOk_setSlot h))
      · exact eventOk_none
    · exact eventOk_none

theorem memOk_ownerLost {k : Nat} : memOk (ownerLost s k) = true := by
  unfold ownerLost
  dsimp only
  split
  · refine memOk_foldl (memOk_freeSlot h) (fun _ _ h' => memOk_opOver ?_)
    split
    · exact memOk_opLeft h'
    · exact h'
  · exact memOk_failStream h

theorem memOk_resetSlot {k : Nat} : memOk (resetSlot s k) = true := memOk_freeSlot (memOk_foldl h (fun _ _ h' => memOk_opOver h'))

theorem memOk_requesterReset : memOk (requesterReset s) = true :=
  memOk_foldl (memOk_foldl (memOk_foldl h (fun _ _ h' => memOk_resetSlot h')) (fun _ _ h' => memOk_sendPacket h')) (fun _ _ h' => memOk_rehand h')

/-! ### The owner side of remote operations -/

theorem eventOk_atOwner {src : Nat} {p : Packet} {f : State → Option State} (hf : ∀ s, memOk s = true → EventOk (f s)) :
    EventOk (atOwner s src p f) := by
  unfold atOwner
  have hp : EventOk (fromFabric s src p) := eventOk_fromFabric h
  cases hs : fromFabric s src p with
  | none => exact eventOk_none
  | some t =>
    have ht := hp t hs
    dsimp only [Option.bind]
    split
    · exact eventOk_some ht
    · exact hf t ht

theorem memOk_putStream {x : OwnStream} : memOk (putStream s x) = true := by
  refine memOk_journalStream ?_
  exact memOk_of_same h rfl rfl rfl

theorem memOk_newStream {src slot nonce : Nat} : memOk (newStream s src slot nonce) = true := by
  refine memOk_sendPacket (memOk_journalHeader (memOk_journalStream ?_))
  exact memOk_of_same h rfl rfl rfl

theorem eventOk_openArrives {src slot nonce : Nat} : EventOk (openArrives src slot nonce s) := by
  unfold openArrives
  dsimp only
  refine eventOk_atOwner h (fun _ h' => ?_)
  split
  · exact eventOk_some (memOk_sendPacket h')
  · split
    · refine eventOk_some (memOk_sendPacket ?_)
      split
      · exact h'
      · refine memOk_logHub ?_
        exact memOk_of_same h' rfl rfl rfl
    · split
      · exact eventOk_some (memOk_sendPacket h')
      · exact eventOk_some (memOk_newStream h')

theorem eventOk_startHome {e : OwnEnt} : EventOk (startHome s e) := by
  unfold startHome
  dsimp only
  split
  · exact eventOk_submitReq h
  · split
    · exact eventOk_none
    · exact eventOk_some (memOk_stageFault h)
    · exact eventOk_submitReq (memOk_fillLine (memOk_tlbAdd h))
    · exact eventOk_some (memOk_atHost (memOk_tlbAdd h))

theorem memOk_execute {e : OwnEnt} : memOk (execute s e) = true := memOk_getD (eventOk_startHome (memOk_putEnt h)) (memOk_putEnt h)

theorem memOk_releaseHeld {x : Nat} : memOk (releaseHeld s x) = true := by
  unfold releaseHeld
  split
  · exact h
  · refine memOk_foldl h (fun _ _ h' => ?_)
    split
    · exact memOk_execute h'
    · exact h'

theorem memOk_retireBelow {x f : Nat} : memOk (retireBelow s x f) = true := by
  unfold retireBelow
  dsimp only
  split
  · exact h
  · split
    · exact memOk_of_same (memOk_putStream h) rfl rfl rfl
    · exact h

theorem memOk_answer {dest : Nat} {e : OwnEnt} : memOk (answer s dest e) = true := memOk_sendPacket h

theorem memOk_answerWith {p : ReqPacket} {st : RStatus} : memOk (answerWith s p st) = true := memOk_sendPacket h

theorem memOk_newEntry {x : OwnStream} {p : ReqPacket} : memOk (newEntry s x p) = true := by
  unfold newEntry
  dsimp only
  split
  · split
    · exact memOk_of_same h rfl rfl rfl
    · refine memOk_execute ?_
      exact memOk_of_same h rfl rfl rfl
  · exact memOk_answerWith h

theorem eventOk_reqArrives {p : ReqPacket} : EventOk (reqArrives p s) := by
  unfold reqArrives
  dsimp only
  refine eventOk_atOwner h (fun _ h' => ?_)
  split
  · exact eventOk_some (memOk_answerWith h')
  · split
    · exact eventOk_some (memOk_answerWith h')
    · split
      · exact eventOk_some (memOk_releaseHeld (memOk_retireBelow (memOk_retireBelow h')))
      · split
        · exact eventOk_some (memOk_releaseHeld (memOk_retireBelow (memOk_retireBelow h')))
        · split
          · refine eventOk_some ?_
            split
            · exact memOk_answer (memOk_releaseHeld (memOk_retireBelow (memOk_retireBelow h')))
            · exact memOk_releaseHeld (memOk_retireBelow (memOk_retireBelow h'))
          · exact eventOk_some (memOk_newEntry (memOk_releaseHeld (memOk_retireBelow (memOk_retireBelow h'))))

theorem memOk_applyCommit {e : OwnEnt} : memOk (applyCommit s e) = true := by
  unfold applyCommit
  dsimp only
  split
  · exact h
  · split
    · exact memOk_of_same h rfl rfl rfl
    · split
      · exact h
      · split
        · exact memOk_writeLine h ..
        · exact memOk_drainAll (memOk_putLine (memOk_storeLine (memOk_writeLine h ..) ..) _)

theorem tryOk_stageAway {e : OwnEnt} {pa : Nat} : TryOk id (stageAway s e pa) := by
  unfold stageAway
  split
  · exact tryOk_state (memOk_stageHost h)
  · refine tryOk_mapState (tryOk_hostTry h) fun r hr => ?_
    split
    · exact memOk_stageHost hr
    · exact memOk_stageFault hr

theorem memOk_commitDone {pkg : Nat} {e : OwnEnt} : memOk (commitDone s pkg e) = true :=
  memOk_releaseHeld (memOk_answer (memOk_journalEntry (memOk_putEnt h)))

theorem tryOk_commitAway {pkg : Nat} {e : OwnEnt} : TryOk id (commitAway s pkg e) := by
  refine tryOk_mapState (tryOk_hostTry h) fun r hr => ?_
  split
  · exact memOk_commitDone (memOk_applyCommit hr)
  · exact memOk_commitDone hr

theorem eventOk_homeCommit {handle serial : Nat} : EventOk (homeCommit handle serial s) := by
  unfold homeCommit
  split
  · split
    · exact eventOk_none
    · split
      · split
        · exact eventOk_tried h (tryOk_commitAway h)
        · exact eventOk_some (memOk_commitDone (memOk_applyCommit h))
      · split
        · exact eventOk_tried h (tryOk_stageAway h)
        · split
          · exact eventOk_none
          · exact eventOk_startHome h
  · exact eventOk_none

theorem memOk_dropStream {x : Nat} : memOk (dropStream s x) = true := by
  unfold dropStream
  dsimp only
  refine memOk_of_same ?_ rfl rfl rfl
  split
  · exact memOk_journalStream h
  · exact h

theorem eventOk_ackArrives {src handle f : Nat} : EventOk (ackArrives src handle f s) := by
  unfold ackArrives
  refine eventOk_atOwner h (fun _ h' => ?_)
  split
  · exact eventOk_some (memOk_sendPacket (memOk_releaseHeld (memOk_retireBelow h')))
  · exact eventOk_some h'

theorem eventOk_closeArrives {src handle f : Nat} : EventOk (closeArrives src handle f s) := by
  unfold closeArrives
  refine eventOk_atOwner h (fun _ h' => ?_)
  split
  · exact eventOk_none
  · refine eventOk_some (memOk_sendPacket ?_)
    split
    · exact memOk_dropStream h'
    · exact h'

theorem eventOk_closeAllArrives {src : Nat} : EventOk (closeAllArrives src s) := by
  unfold closeAllArrives
  refine eventOk_atOwner h (fun _ h' => ?_)
  split
  · exact eventOk_some (memOk_foldl h' (fun _ _ h'' => memOk_dropStream h''))
  · exact eventOk_none

theorem memOk_recoverEnt {e : OwnEnt} : memOk (recoverEnt s e) = true := by
  unfold recoverEnt
  dsimp only
  split
  · exact memOk_journalEntry (memOk_putEnt (memOk_applyCommit h))
  · exact h

theorem memOk_forgetEntries : memOk (forgetEntries s) = true := memOk_of_same h rfl rfl rfl

theorem memOk_rouStops : memOk (rouStops s) = true :=
  memOk_foldl (memOk_forgetEntries (memOk_of_same h rfl rfl rfl)) (fun _ _ h' => memOk_drainAll h')

theorem memOk_rouRecovery : memOk (rouRecovery s) = true :=
  memOk_foldl (memOk_of_same (memOk_foldl h (fun _ _ h' => memOk_recoverEnt h')) rfl rfl rfl) (fun _ _ h' => memOk_drainAll h')

theorem eventOk_recoveryDue : EventOk (recoveryDue s) := by
  unfold recoveryDue
  split
  · split
    · exact eventOk_some (memOk_rouRecovery h)
    · exact eventOk_none
  · exact eventOk_none

theorem eventOk_remoteLoad {src va n : Nat} : EventOk (remoteLoad src va n s) := by
  unfold remoteLoad
  split
  · exact eventOk_none
  · extract_lets rou s1 send
    have h1 : memOk s1 = true := memOk_of_same h rfl rfl rfl
    have hr : TryOk Prod.fst (reach s1 0 va .load) := tryOk_reach h1
    split
    · exact eventOk_some (memOk_sendPacket h1)
    · rename_i s2 x _ _ he
      have h2 : memOk s2 = true := hr _ he
      extract_lets key s3
      have h3 : memOk s3 = true := memOk_fillLine h2
      split
      · exact eventOk_none
      · exact eventOk_tried h3 (tryOk_mapTo fun _ => memOk_sendPacket h3)
    · rename_i s2 x _ _ he
      have h2 : memOk s2 = true := hr _ he
      refine eventOk_tried h2 (tryOk_mapState (tryOk_hostTry h2) fun r hr => ?_)
      split
      · refine memOk_sendPacket ?_
        exact memOk_of_same hr rfl rfl rfl
      · exact memOk_sendPacket hr

theorem eventOk_pkgLost {pkg : Nat} : EventOk (pkgLost pkg s) := by
  unfold pkgLost
  dsimp only
  split
  · exact eventOk_none
  · refine eventOk_some (memOk_foldl (memOk_foldl (memOk_logHub ?_) (fun _ _ h' => memOk_dropStream h')) (fun _ _ h' => memOk_ownerLost h'))
    exact memOk_of_same h rfl rfl rfl

/-! ### Atomic operations -/

theorem verdictOk_startAtom {cs0 cs : CoreSt} {o : AtomOp} {x : AtomIn} {gs : List AtomGroup} {cl : List Claim} (hc : cs.spm = (focusCs s).spm) :
    VerdictOk (startAtom s cs0 cs o x gs cl) := memOk_withCs_same h ((reserveDst_spm ..).trans hc)

theorem verdictOk_atomBody {o : AtomOp} {f : AtomIn → List AtomGroup} : VerdictOk (atomBody o f s) := by
  unfold atomBody
  dsimp only
  split
  · trivial
  · rename_i hs
    split
    · trivial
    · split
      · trivial
      · split
        · trivial
        · split
          · trivial
          · split
            · trivial
            · split
              · exact verdictOk_rfailVerdict h
              · exact verdictOk_startAtom h (takeSrcs_spm hs)

/-! ### Row mode -/

theorem memOk_writeRow {c bank row : Nat} {d : RowData} {n : Nat} : memOk (writeRow s c bank row d n) = true := by
  induction n generalizing s with
  | zero => exact h
  | succ n ih => exact ih (memOk_storeLine h ..)

theorem memOk_precharge {c bank : Nat} {m : BankMode} {t : Nat} {counts : Bool} : memOk (precharge s c bank m t counts) = true := by
  unfold precharge
  dsimp only
  refine memOk_setCore_same ?_ _ rfl
  split
  · exact memOk_writeRow h
  · exact h

theorem memOk_closeRows {c : Nat} : memOk (closeRows s c) = true := memOk_foldl h (fun _ _ h' => memOk_precharge h')

theorem memOk_closeGroup {c g : Nat} : memOk (closeGroup s c g) = true := memOk_setCore_same (memOk_foldl h (fun _ _ h' => memOk_precharge h')) _ rfl

theorem eventOk_refreshStart {core bank : Nat} : EventOk (refreshStart core bank s) := by
  unfold refreshStart
  dsimp only
  split
  · exact eventOk_none
  · split
    · exact eventOk_some (memOk_setCore_same h _ rfl)
    · exact eventOk_none

theorem memOk_refreshGo {core bank : Nat} : memOk (refreshGo core bank s) = true := by
  unfold refreshGo
  dsimp only
  refine memOk_getD (eventOk_refreshStart ?_) ?_
  · split
    · split
      · exact memOk_precharge h
      · exact h
    · exact h
  · split
    · split
      · exact memOk_precharge h
      · exact h
    · exact h

theorem eventOk_leaseExpiry {core bank : Nat} : EventOk (leaseExpiry core bank s) := by
  unfold leaseExpiry
  dsimp only
  split
  · refine eventOk_some (memOk_refreshGo ?_)
    exact memOk_setCore_same h _ rfl
  · exact eventOk_none

theorem eventOk_refreshDue {core bank : Nat} : EventOk (refreshDue core bank s) := by
  unfold refreshDue
  dsimp only
  split
  · exact eventOk_none
  · split
    · split
      · exact eventOk_some (memOk_setCore_same h _ rfl)
      · refine eventOk_some (memOk_refreshGo ?_)
        exact memOk_setCore_same h _ rfl
    · exact eventOk_none

theorem eventOk_refreshEnds {core bank : Nat} : EventOk (refreshEnds core bank s) := by
  unfold refreshEnds
  dsimp only
  split
  · split
    · exact eventOk_some (memOk_setCore_same h _ rfl)
    · exact eventOk_none
  · exact eventOk_none

theorem memOk_settleBank {core bank n : Nat} : memOk (settleBank core bank n s) = true := by
  induction n generalizing s with
  | zero => exact h
  | succ n ih =>
    unfold settleBank
    split
    · rename_i hs
      refine ih (eventOk_orElse (eventOk_refreshEnds h) ?_ _ hs)
      exact eventOk_orElse (eventOk_refreshDue h) (eventOk_orElse (eventOk_leaseExpiry h) (eventOk_refreshStart h))
    · exact h

theorem memOk_settleBanks {core : Nat} {bks : List Nat} : memOk (settleBanks core bks s) = true := memOk_foldl h (fun _ _ h' => memOk_settleBank h')

omit h in
theorem verdictOk_of_rowRangeCheck {cs : CoreSt} {vs : List SVal} {banks : List Nat} {row : Nat} {v : Verdict}
    (hv : rowRangeCheck s cs vs banks row = some v) : VerdictOk v := by
  unfold rowRangeCheck at hv
  dsimp only at hv
  split at hv
  · cases hv; trivial
  · split at hv
    · cases hv; trivial
    · split at hv
      · cases hv; trivial
      · split at hv <;> cases hv
        trivial

theorem memOk_meetBanks {bks : List Nat} : memOk (meetBanks s bks) = true := memOk_settleBanks h

theorem verdictOk_actWhenFree {bk row : Nat} : VerdictOk (actWhenFree s bk row) := by
  unfold actWhenFree
  dsimp only
  split
  · trivial
  · exact memOk_withCs_same h (actBank_spm ..)

theorem verdictOk_rowActBody {a b : SSrc} : VerdictOk (rowActBody a b s) := by
  unfold rowActBody
  dsimp only
  split
  · trivial
  · split
    · trivial
    · rename_i hs
      have hm (l : List Nat) := memOk_meetBanks (memOk_withCs_same h (takeSrcs_spm hs)) (bks := l)
      split
      · exact verdictOk_actWhenFree (hm _)
      · split
        · exact verdictOk_of_rowRangeCheck ‹_›
        · split
          · trivial
          · exact verdictOk_actWhenFree (hm _)

theorem verdictOk_rowConBody {d : Nat} {srcs : List SSrc} {q : Nat} : VerdictOk (rowConBody d srcs q s) := by
  unfold rowConBody
  dsimp only
  split
  · trivial
  · split
    · trivial
    · rename_i hs
      have hm (l : List Nat) := memOk_meetBanks (memOk_withCs_same h (takeSrcs_spm hs)) (bks := l)
      split
      · exact verdictOk_of_rowRangeCheck ‹_›
      · split
        · trivial
        · split
          · trivial
          · exact memOk_withCs_same (hm _) (fillQuads_spm ..)

theorem verdictOk_rowPutBody {d : Nat} {a : SSrc} {q : Nat} : VerdictOk (rowPutBody d a q s) := by
  unfold rowPutBody
  dsimp only
  split
  · trivial
  · split
    · trivial
    · rename_i hs
      have hm (l : List Nat) := memOk_meetBanks (memOk_withCs_same h (takeSrcs_spm hs)) (bks := l)
      split
      · exact verdictOk_of_rowRangeCheck ‹_›
      · split
        · trivial
        · split
          · trivial
          · split
            · trivial
            · exact memOk_withCs_same (hm _) (setBank_spm ..)

theorem memOk_preBank {b : Nat} : memOk (preBank s b) = true := by
  unfold preBank
  dsimp only
  refine memOk_withCs_same ?_ rfl
  split
  · exact h
  · exact memOk_withCs_same h rfl
  · exact memOk_precharge h

theorem verdictOk_rowPreBody {a : SSrc} : VerdictOk (rowPreBody a s) := by
  unfold rowPreBody
  dsimp only
  split
  · trivial
  · split
    · trivial
    · rename_i hs
      have hm (l : List Nat) := memOk_meetBanks (memOk_withCs_same h (takeSrcs_spm hs)) (bks := l)
      split
      · exact verdictOk_of_rowRangeCheck ‹_›
      · split
        · trivial
        · split
          · trivial
          · exact memOk_preBank (hm _)

theorem eventOk_rowJobDone {act : Bool} {core bank : Nat} : EventOk (rowJobDone act core bank s) := by
  unfold rowJobDone
  dsimp only
  split
  · exact eventOk_none
  · refine eventOk_some (memOk_setCore h _ ?_)
    split <;> exact wf_spm h _

theorem memOk_setStack {k : Nat} {u : StackUnit} : memOk (setStack s k u) = true := memOk_of_same h rfl rfl rfl

theorem memOk_setTemp {k : Nat} {x : Bool} : memOk (setTemp s k x) = true := memOk_setStack h

/-! ### Fences and ranges -/

theorem verdictOk_fenceBody {kind : WaitKind} {rel : Bool} : VerdictOk (fenceBody kind rel s) := by
  unfold fenceBody
  split
  · exact verdictOk_rfailVerdict h
  · exact h

theorem verdictOk_rangeBody {a b : SSrc} {f : CoreSt → Nat → Nat → Verdict} (hf : ∀ cs x n, cs.spm = (focusCs s).spm → VerdictOk (f cs x n)) :
    VerdictOk (rangeBody a b f s) := by
  unfold rangeBody
  dsimp only
  split
  · trivial
  · split
    · trivial
    · rename_i hs
      have hc := takeSrcs_spm hs
      split
      · trivial
      · split
        · trivial
        · split
          · exact memOk_withCs_same h hc
          · exact hf _ _ _ hc

theorem verdictOk_cwbRange {cs : CoreSt} {x n : Nat} (hc : cs.spm = (focusCs s).spm) : VerdictOk (cwbRange s cs x n) := by
  unfold cwbRange
  dsimp only
  split
  · trivial
  · exact memOk_withCs_same h hc

theorem verdictOk_acqrRange {cs : CoreSt} {x n : Nat} (hc : cs.spm = (focusCs s).spm) : VerdictOk (acqrRange s cs x n) := memOk_withCs_same h hc

/-! ### Copy queues -/

theorem verdictOk_cqBody {mcast : Bool} {a q : Nat} {post : Option Nat} : VerdictOk (cqBody mcast a q post s) := by
  unfold cqBody
  dsimp only
  split
  · trivial
  · split
    · trivial
    · split
      · trivial
      · split
        · trivial
        · exact memOk_withCs_same h rfl

theorem verdictOk_cqFenceBody {q mask : Nat} {post : Option Nat} : VerdictOk (cqFenceBody q mask post s) := by
  unfold cqFenceBody
  dsimp only
  split
  · trivial
  · exact memOk_withCs_same h (appendCq_spm ..)

theorem memOk_putAsk {c q : Nat} {x : CqEntry} {i va n : Nat} : memOk (putAsk s c q x i va n) = true := memOk_setCore_same h _ (by simp)

omit h in
theorem gotOk_pieceFault {x : Trap} {asid va : Nat} {kind : AccKind} : GotOk (pieceFault x asid va kind) := by
  unfold pieceFault
  split <;> trivial

theorem gotOk_readHome {c q : Nat} {key : LineKey} {pa i n : Nat} {x : CqEntry} : GotOk (readHome s c q key pa i n x) := by
  unfold readHome
  split
  · trivial
  · split
    · exact memOk_setCore_same h _ (updEntry_spm ..)
    · extract_lets r
      split
      · trivial
      · split
        · trivial
        · split
          · exact memOk_settleTemp (memOk_putLine h _)
          · exact memOk_beginReq h

theorem gotOk_readGlobal {c q asid i va n : Nat} {x : CqEntry} : GotOk (readGlobal s c q asid i va n x) := by
  unfold readGlobal
  split
  · split
    · exact h
    · split
      · exact memOk_sendPacket (memOk_putAsk h)
      · rename_i p _ _ _
        have hp : memOk (hear s p) = true := memOk_hear h
        exact memOk_of_same hp rfl rfl rfl
  · split
    · exact gotOk_pieceFault
    · exact gotOk_readHome (memOk_fillLine (tryOk_reach h _ ‹_›))
    · have hr : memOk _ = true := tryOk_reach h _ ‹_›
      split
      · exact memOk_putAsk hr
      · trivial
      · trivial
      · exact memOk_of_same hr rfl rfl rfl

theorem gotOk_readParts {c q asid i : Nat} {x : CqEntry} {l : List Piece} {bs : List Byte} {bad : List Bool} :
    GotOk (readParts c q asid i x l s bs bad) := by
  induction l generalizing s bs bad with
  | nil => exact h
  | cons p t ih =>
    have hg : GotOk (readGlobal s c q asid i p.va p.n x) := gotOk_readGlobal h
    unfold readParts
    split
    · rename_i hr
      rw [hr] at hg
      exact ih hg
    · exact hg

theorem gotOk_readSource {c q : Nat} {x : CqEntry} {i n : Nat} : GotOk (readSource s c q x i n) := by
  unfold readSource
  dsimp only
  split
  · exact h
  · exact gotOk_readParts h

theorem memOk_sendDests {c q : Nat} {x : CqEntry} {i : Nat} {bs : List Byte} {bad : List Bool} {l : List (Nat × Nat)} :
    memOk (sendDests c q x i bs bad l s) = true := by
  induction l generalizing s with
  | nil => exact h
  | cons p t ih =>
    refine ih ?_
    split
    · exact h
    · exact memOk_handOver h

theorem memOk_pauseEntry {c q : Nat} {x : CqEntry} {x' : HaltRec} : memOk (pauseEntry s c q x x') = true :=
  memOk_postReport (memOk_setCore_same h _ (by simp))

theorem eventOk_writeGlobal {c q : Nat} {x : CqEntry} {i va : Nat} {bs : List Byte} {bad : List Bool} :
    EventOk (writeGlobal s c q x i va bs bad) := by
  unfold writeGlobal
  extract_lets asid
  split
  · split
    · exact eventOk_some (memOk_pauseEntry h)
    · exact eventOk_some (memOk_cqFault h)
  · rename_i s1 y _ _ hr
    have h1 : memOk s1 = true := tryOk_reach h _ hr
    exact eventOk_submitReq (memOk_setCore_same (memOk_fillLine h1) c (updEntry_spm ..))
  · rename_i s1 y _ _ hr
    have h1 : memOk s1 = true := tryOk_reach h _ hr
    split
    · exact eventOk_some (memOk_setCore_same (memOk_putAsk h1) c (updEntry_spm ..))
    · exact eventOk_none
    · exact eventOk_some (memOk_cqFault (memOk_logTimeout h1))
    · extract_lets s2
      have h2 : memOk s2 = true := memOk_setCore_same h1 c (updEntry_spm ..)
      refine eventOk_some (memOk_copyAck ?_)
      exact memOk_of_same h2 rfl rfl rfl

theorem eventOk_writePiece {c q : Nat} {x : CqEntry} {i : Nat} {bs : List Byte} {bad : List Bool} : EventOk (writePiece s c q x i bs bad) := by
  unfold writePiece
  dsimp only
  split
  · exact eventOk_some (memOk_copyAck (memOk_setCore h _ (wf_spmPut (wf_spm h _) ..)))
  · split
    · exact eventOk_writeGlobal h
    · exact eventOk_some (memOk_setCore_same (memOk_sendDests h) _ (updEntry_spm ..))

theorem gotOk_heldPiece {x : CqEntry} {i : Nat} {g : Got} (hg : GotOk g) : GotOk ((heldPiece s x i).getD g) := by
  unfold heldPiece
  split
  · split
    · exact h
    · exact hg
  · exact hg

theorem memOk_dropAsks {c q i : Nat} {x : CqEntry} : memOk (dropAsks s c q i x) = true := by
  unfold dropAsks
  split
  · exact h
  · exact memOk_setCore_same h _ (by simp)

theorem eventOk_copyPiece {core q piece : Nat} : EventOk (copyPiece core q piece s) := by
  unfold copyPiece
  dsimp only
  split
  · exact eventOk_none
  · rename_i x _ _
    have hg := gotOk_heldPiece h (x := x) (i := piece) (gotOk_readSource h (c := core) (q := q) (x := x) (i := piece) (n := pieceLen x piece))
    split
    · exact eventOk_none
    · split
      · split
        · exact eventOk_some (memOk_completeHead h)
        · exact eventOk_none
      · split
        · split
          · exact eventOk_some (memOk_completeHead h)
          · exact eventOk_none
        · split
          · exact eventOk_none
          · split
            · rename_i hr
              rw [hr] at hg
              exact eventOk_writePiece (memOk_dropAsks hg)
            · rename_i hr
              rw [hr] at hg
              exact eventOk_some hg
            · exact eventOk_none
            · exact eventOk_some (memOk_pauseEntry h)
            · exact eventOk_some (memOk_cqFault h)
            · exact eventOk_some (memOk_cqFault (memOk_logTimeout h))

theorem memOk_areaPut {a : Occ × Nat} {pa : Nat} {bs : List Byte} : memOk (areaPut s a pa bs) = true := by
  unfold areaPut
  split
  · exact memOk_putRecord h (Memory.wf_writeBytes _ _ _ (wf_of_findRecord h ‹_›))
  · exact memOk_dramPut h

theorem eventOk_ioWrite {ag : IoAgent} {pa : Nat} {data : List Byte} : EventOk (ioWrite ag pa data s) := by
  unfold ioWrite
  dsimp only
  split
  · exact eventOk_none
  · split
    · exact eventOk_some (memOk_areaPut h)
    · split
      · exact eventOk_some (memOk_ioBad h)
      · split
        · exact eventOk_submitReq h
        · exact eventOk_some (memOk_wakeWatches (memOk_dramPut h) _ _)

theorem eventOk_ioRead {ag : IoAgent} {pa n : Nat} : EventOk (ioRead ag pa n s) := by
  unfold ioRead
  dsimp only
  split
  · exact eventOk_none
  · split
    · exact eventOk_some h
    · split
      · exact eventOk_some (memOk_ioBad h)
      · split
        · exact eventOk_submitReq h
        · exact eventOk_some h

theorem memOk_windowLine {key : LineKey} {pa : Nat} : memOk (windowLine s key pa) = true := by
  unfold windowLine
  split
  · exact memOk_allotLine h
  · exact memOk_addLine h

theorem eventOk_hostRequest {key : LineKey} {req : LineReq} : EventOk (hostRequest key req s) := by
  unfold hostRequest
  dsimp only
  split
  · exact eventOk_none
  · split
    · exact eventOk_some h
    · split
      · exact eventOk_some (memOk_ioBad h)
      · exact eventOk_submitReq (memOk_windowLine h)

/-! ### Vector arithmetic -/

theorem verdictOk_laneBody {k : Ctl} {t : ElemType} {lat : Nat} {d : VDst} {srcs : List VSrc} {readD : Bool} {f : LaneFn} :
    VerdictOk (laneBody k t lat d srcs readD f s) := verdictOk_vecBody h fun _ _ h => nomatch h

/-! ### Lanes and masks -/

omit h in
theorem verdictOk_of_withMask {x : VIn} {f : BitVec 512 → VOut} {v : Verdict} (hv : withMask x f = .error v) : VerdictOk v := by
  unfold withMask at hv
  split at hv <;> cases hv
  trivial

theorem verdictOk_maskBody {k : Ctl} {d a b : Nat} {f : BitVec 512 → BitVec 512 → BitVec 512} :
    VerdictOk (maskBody k d a b f s) := verdictOk_vecBody h fun _ _ h => nomatch h

theorem verdictOk_redBody {k : Ctl} {op : RedOp} {t : ElemType} {d : SDst} {a : VSrc} :
    VerdictOk (redBody k op t d a s) := verdictOk_vecBody h fun _ _ h => nomatch h

theorem verdictOk_voteBody {k : Ctl} {t : ElemType} {d : SDst} {a : VSrc} {f : VIn → Bool} :
    VerdictOk (voteBody k t d a f s) := verdictOk_vecBody h fun _ _ h => nomatch h

/-! ### Matrix instructions -/

theorem verdictOk_mtxBody {reads writes : List Nat} {acc : Option Nat} {lat : Nat} {chk : CoreSt → Option Trap} {eff : CoreSt → CoreSt × Flags}
    (he : ∀ cs, (eff cs).1.spm = cs.spm) : VerdictOk (mtxBody reads writes acc lat chk eff s) := by
  unfold mtxBody
  dsimp only
  split
  · trivial
  · split
    · trivial
    · split
      · trivial
      · exact memOk_withCs_same h (he _)

omit h in
theorem tsetTile_spm {d : Nat} {v : Word} {cs cs' : CoreSt} (ht : tsetTile d v cs = .inr cs') : cs'.spm = cs.spm := by
  unfold tsetTile at ht
  dsimp only at ht
  split at ht <;> cases ht
  rfl

omit h in
theorem verdictOk_tsetTile {d : Nat} {v : Word} {cs : CoreSt} {x : Verdict} (ht : tsetTile d v cs = .inl x) : VerdictOk x := by
  unfold tsetTile at ht
  dsimp only at ht
  split at ht <;> cases ht
  trivial

omit h in
theorem tsetAcc_spm {d : Nat} {v : Word} {cs cs' : CoreSt} (ht : tsetAcc d v cs = .inr cs') : cs'.spm = cs.spm := by
  unfold tsetAcc at ht
  dsimp only at ht
  split at ht <;> cases ht
  rfl

omit h in
theorem verdictOk_tsetAcc {d : Nat} {v : Word} {cs : CoreSt} {x : Verdict} (ht : tsetAcc d v cs = .inl x) : VerdictOk x := by
  unfold tsetAcc at ht
  dsimp only at ht
  split at ht <;> cases ht
  trivial

theorem verdictOk_tsetBody {acc : Bool} {d : Nat} {a : SSrc} : VerdictOk (tsetBody acc d a s) := by
  unfold tsetBody
  dsimp only
  split
  · trivial
  · split
    · trivial
    · split
      · trivial
      · refine verdictOk_useBody fun cs v hc => ?_
        cases acc with
        | true =>
          split
          · exact verdictOk_tsetAcc ‹_›
          · exact memOk_withCs_same h ((tsetAcc_spm ‹_›).trans hc)
        | false =>
          split
          · exact verdictOk_tsetTile ‹_›
          · exact memOk_withCs_same h ((tsetTile_spm ‹_›).trans hc)

omit h in
theorem verdictOk_addClaims {cl : List Claim} {v : Verdict} (hv : VerdictOk v) : VerdictOk (addClaims cl v) := by
  cases v <;> exact hv

theorem verdictOk_mmaBody {sat : Bool} {n d a b : Nat} : VerdictOk (mmaBody sat n d a b s) := by
  unfold mmaBody
  dsimp only
  split
  · trivial
  · split
    · trivial
    · split
      · trivial
      · split
        · trivial
        · exact memOk_withCs_same h (mmaHalf_spm ..)

theorem verdictOk_pairTrap {r : FaultRec} : VerdictOk (pairTrap s r) := memOk_setCore_same h _ rfl

theorem verdictOk_mmaPBody {sat : Bool} {d a b : Nat} : VerdictOk (mmaPBody sat d a b s) := by
  unfold mmaPBody
  dsimp only
  split
  · exact verdictOk_pairTrap h
  · split
    · trivial
    · split
      · trivial
      · split
        · exact verdictOk_pairTrap h
        · split
          · trivial
          · refine memOk_setCore (memOk_withCs_same h (mmaHalf_spm ..)) _ ?_
            rw [followerIn_spm, mmaHalf_spm]
            exact wf_spm h _

theorem memOk_poisonAbandon {c : Nat} : memOk (poisonAbandon s c) = true := by
  unfold poisonAbandon
  dsimp only
  split
  · exact h
  · refine memOk_raiseTrap ?_ ..
    exact memOk_setCore_same (memOk_abandonMma h) _ rfl

theorem memOk_usedFresh : memOk (usedFresh s) = true := memOk_of_same h rfl rfl rfl

theorem eventOk_tileEcc {core : Nat} {w : MatrixErr} : EventOk (tileEcc core w s) := by
  unfold tileEcc
  dsimp only
  split
  · split
    · refine eventOk_some ?_
      split
      · refine memOk_poisonAbandon (memOk_usedFresh ?_)
        exact memOk_setCore_same h _ rfl
      · exact memOk_usedFresh (memOk_setCore_same h _ rfl)
    · exact eventOk_none
  · split
    · exact eventOk_some (memOk_usedFresh (memOk_setCore_same h _ rfl))
    · exact eventOk_none
  · split
    · split
      · exact eventOk_some (memOk_usedFresh (memOk_setCore_same h _ rfl))
      · exact eventOk_none
    · exact eventOk_none

/-! ### Memory events -/

theorem eventOk_retire {core : Nat} {e : Engine} : EventOk (retire core e s) := eventOk_mapTo fun _ _ => memOk_retireFlight (memOk_postsTo h)

theorem memOk_undoAccess {c : Nat} {a : Access} : memOk (undoAccess s c a) = true := memOk_setCore_same h _ (by simp)

theorem memOk_faultAccess {c : Nat} {a : Access} {r : FaultRec} : memOk (faultAccess s c a r) = true := by
  unfold faultAccess
  dsimp only
  split
  · exact memOk_setStream (memOk_undoAccess h) ..
  · exact memOk_raiseTrap (memOk_undoAccess h) ..

theorem memOk_haltAccess {c : Nat} {a : Access} {x : HaltRec} : memOk (haltAccess s c a x) = true := memOk_haltStream (memOk_undoAccess h)

theorem memOk_endAccess {c : Nat} {a : Access} {cs : CoreSt} {fills : List Fill} (hc : Memory.wf cs.spm = true) :
    memOk (endAccess s c a cs fills) = true := by
  unfold endAccess
  extract_lets cs1 s1
  have h1 : memOk s1 = true := memOk_setCore h c hc
  split
  · exact memOk_retireFlight h1
  · exact h1

theorem memOk_specFails {c : Nat} {a : Access} : memOk (specFails s c a) = true := by
  unfold specFails
  dsimp only
  refine memOk_endAccess h ?_
  split
  · simpa using wf_spm h _
  · exact wf_spm h _

theorem memOk_clearFails {c : Nat} {a : Access} {t : Trap} {va : Nat} {kind : AccKind} : memOk (clearFails s c a t va kind) = true := by
  unfold clearFails
  dsimp only
  split
  · exact memOk_setCore_same h _ rfl
  · split
    · exact memOk_specFails h
    · split
      · exact memOk_haltAccess h
      · exact memOk_haltAccess h
      · exact memOk_faultAccess h

theorem memOk_grantPerms {c : Nat} {key : LineKey} {x : Xlate} : memOk (grantPerms s c key x) = true := by
  unfold grantPerms
  dsimp only
  split
  · refine memOk_setCore_same ?_ _ (by simp)
    split
    · exact memOk_putLine h _
    · exact h
  · split
    · exact memOk_putLine h _
    · exact h

theorem memOk_settle {c : Nat} {a : Access} {p : Piece} {x : Place} : memOk (settle s c a p x).1 = true := by
  unfold settle
  split
  · exact memOk_setCore_same h _ (hitPiece_spm ..)
  · dsimp only
    split
    · exact h
    · exact memOk_allotLine h
  · exact memOk_grantPerms (memOk_tlbAdd h)
  · exact memOk_tlbAdd h
  · split
    · exact h
    · exact memOk_sendPacket h

theorem memOk_settleAll {c : Nat} {a : Access} {l : List (Piece × Place)} : memOk (settleAll c a l s).1 = true := by
  induction l generalizing s with
  | nil => exact h
  | cons p t ih => exact ih (memOk_settle h)

theorem memOk_performHits {c id : Nat} : memOk (performHits s c id) = true := by
  unfold performHits
  split
  · exact h
  · split
    · exact h
    · exact memOk_setCore_same h _ (hitParts_spm ..)

theorem memOk_clearLocal {c : Nat} {a : Access} : memOk (clearLocal s c a) = true := by
  unfold clearLocal
  dsimp only
  split
  · exact memOk_setCore_same h _ rfl
  · exact h

theorem memOk_withEntries {c id : Nat} : memOk (withEntries s c id) = true := by
  unfold withEntries
  split
  · exact h
  · exact memOk_setCore_same h _ (by simp)

theorem memOk_clearAccess {c id : Nat} : memOk (clearAccess s c id) = true := by
  unfold clearAccess
  dsimp only
  split
  · exact h
  · split
    · split
      · refine memOk_retireFlight ?_
        exact memOk_setCore_same h _ rfl
      · exact memOk_setCore_same h _ rfl
    · exact memOk_setCore_same h _ rfl

theorem memOk_afterClear {c id : Nat} : memOk (afterClear s c id) = true := by
  unfold afterClear
  dsimp only
  split
  · exact h
  · split
    · exact h
    · split
      · split
        · split
          · exact memOk_setCore_same (memOk_withEntries (memOk_performHits h)) _ rfl
          · exact memOk_withEntries (memOk_performHits h)
        · split
          · exact memOk_sendOps (memOk_dropAtoms (memOk_clearLocal (memOk_withEntries (memOk_performHits h))))
          · exact memOk_clearAccess (memOk_withEntries (memOk_performHits h))
      · split
        · split
          · exact memOk_setCore_same (memOk_withEntries h) _ rfl
          · exact memOk_withEntries h
        · split
          · exact memOk_sendOps (memOk_dropAtoms (memOk_clearLocal (memOk_withEntries h)))
          · exact memOk_clearAccess (memOk_withEntries h)

theorem eventOk_clearOne {core id : Nat} : EventOk (clearOne core id s) := by
  unfold clearOne
  dsimp only
  split
  · exact eventOk_none
  · split
    · split
      · exact eventOk_some (memOk_afterClear h)
      · exact eventOk_none
    · split
      · exact eventOk_none
      · split
        · exact eventOk_none
        · split
          · exact eventOk_some (memOk_clearFails h)
          · split
            · exact eventOk_some (memOk_setCore_same h _ rfl)
            · refine eventOk_some (memOk_afterClear ?_)
              exact memOk_setCore_same (memOk_settleAll h) _ rfl

theorem eventOk_accessClear {core id : Nat} : EventOk (accessClear core id s) := by
  unfold accessClear
  split
  · exact eventOk_none
  · split
    · exact eventOk_none
    · exact eventOk_clearOne h

theorem memOk_submitChild {c : Nat} {a : Access} {d : Nat} {bs : List Byte} : memOk (submitChild s c a d bs) = true := by
  refine memOk_endAccess ?_ (wf_spm h _)
  exact memOk_of_same h rfl rfl rfl

theorem memOk_placeCommand {c : Nat} {a : Access} {q : Nat} {mcast : Bool} {desc : List Byte} {list : List Nat} {post : Option Nat} :
    memOk (placeCommand s c a q mcast desc list post) = true := by
  unfold placeCommand
  split
  · exact memOk_faultAccess h
  · exact memOk_endAccess h (by simpa using wf_spm h _)

theorem memOk_loadList {c : Nat} {a : Access} {q : Nat} {desc : List Byte} {post : Option Nat} : memOk (loadList s c a q desc post) = true := by
  unfold loadList
  dsimp only
  split
  · exact memOk_faultAccess h
  · split
    · exact memOk_placeCommand h
    · exact memOk_setCore_same h _ rfl

theorem memOk_loadEnds {c : Nat} {a : Access} {ps : List Piece} : memOk (loadEnds s c a ps) = true := by
  unfold loadEnds
  dsimp only
  split
  · split
    · exact memOk_faultAccess h
    · exact memOk_submitChild h
  · split
    · exact memOk_faultAccess h
    · split
      · exact memOk_loadList h
      · exact memOk_placeCommand h
  · split
    · exact memOk_faultAccess h
    · exact memOk_placeCommand h
  · refine memOk_endAccess h ?_
    split <;> simpa using wf_spm h _

theorem memOk_hearPiece {p : Piece} : memOk (hearPiece s p) = true := by
  unfold hearPiece
  split
  · split
    · exact h
    · exact memOk_hear h
  · exact h

theorem eventOk_loadReturn {core id : Nat} : EventOk (loadReturn core id s) := by
  unfold loadReturn
  split
  · exact eventOk_none
  · rename_i a _
    extract_lets host ps s0 s1 b
    have h1 : memOk s1 = true := by
      unfold s1
      split
      · exact h
      · have h0 : memOk s0 = true := memOk_foldl h fun _ _ h => memOk_hearPiece h
        exact memOk_of_same h0 rfl rfl rfl
    have hb : memOk (setCore s1 core (putAccess (getCore s1 core) b)) = true := memOk_setCore_same h1 core (putAccess_spm ..)
    split
    · exact eventOk_none
    · split
      · exact eventOk_none
      · split
        · exact eventOk_some (memOk_loadEnds hb)
        · split
          · exact eventOk_some (memOk_afterClear hb)
          · exact eventOk_none

theorem eventOk_apertureStore {core id : Nat} : EventOk (apertureStore core id s) := by
  unfold apertureStore
  dsimp only
  split
  · exact eventOk_none
  · split
    · exact eventOk_none
    · refine eventOk_some (memOk_afterClear ?_)
      refine memOk_setCore_same ?_ _ rfl
      exact memOk_of_same h rfl rfl rfl

theorem eventOk_slateTimeout {core id : Nat} : EventOk (slateTimeout core id s) := by
  unfold slateTimeout
  split
  · exact eventOk_none
  · split
    · exact eventOk_none
    · split
      · refine eventOk_some (memOk_logHub ?_)
        split
        · exact memOk_specFails h
        · exact memOk_faultAccess h
      · exact eventOk_none

theorem tryOk_codeBytes {c asid va : Nat} {x : Xlate} : TryOk Prod.fst (codeBytes s c asid va x) := by
  unfold codeBytes
  dsimp only
  split
  · exact tryOk_error
  · exact tryOk_mapTo fun _ => memOk_fillLine h

theorem memOk_setAsk {c : Nat} {e : Engine} {a : Option LoadAsk} : memOk (setAsk s c e a) = true := memOk_setCore_same h _ (by simp)

theorem eventOk_lineFetch {core : Nat} {e : Engine} : EventOk (lineFetch core e s) := by
  unfold lineFetch
  dsimp only
  split
  · exact eventOk_none
  · split
    · exact eventOk_none
    · split
      · refine eventOk_some (memOk_haltStream ?_)
        split
        · exact h
        · exact memOk_setAsk h
      · split
        · split
          · exact eventOk_some (memOk_setCore_same h _ (by simp))
          · split
            · exact eventOk_some (memOk_sendPacket (memOk_setAsk h))
            · rename_i p _ _ _
              have hp : memOk (hear s p) = true := memOk_hear h
              have hf : memOk { hear s p with fresh := s.fresh + 1 } = true := memOk_of_same hp rfl rfl rfl
              exact eventOk_some (memOk_setCore hf _ (by simpa using wf_spm h core))
        · split
          · refine eventOk_some ?_
            split
            · refine memOk_haltStream ?_
              split
              · exact h
              · exact memOk_setAsk h
            · refine memOk_haltStream ?_
              split
              · exact h
              · exact memOk_setAsk h
            · refine memOk_raiseTrap ?_ ..
              split
              · exact h
              · exact memOk_setAsk h
          · split
            · exact eventOk_some (memOk_setAsk ((tryOk_reach h) _ ‹_›))
            · exact eventOk_none
            · refine eventOk_some (memOk_logTimeout (memOk_raiseTrap ?_ ..))
              split
              · exact h
              · exact memOk_setAsk h
            · refine eventOk_some ?_
              refine memOk_setCore ?_ _ (by simpa using wf_spm ((tryOk_reach h) _ ‹_›) _)
              exact memOk_of_same ((tryOk_reach h) _ ‹_›) rfl rfl rfl
          · rename_i s1 x _ _ hr
            have h1 : memOk s1 = true := tryOk_reach h _ hr
            exact eventOk_tried h (tryOk_mapState (tryOk_codeBytes h1) fun _ h => memOk_setCore_same h _ (putCode_spm ..))

theorem eventOk_rspWrite {target : Nat} : EventOk (rspWrite target s) := by
  unfold rspWrite
  dsimp only
  split
  · exact eventOk_none
  · refine eventOk_some (memOk_setCore h _ ?_)
    split
    · exact memOk_spmWrite (wf_spm h target) _ _
    · exact wf_spm h target

theorem eventOk_regError {core : Nat} {w : RegErr} : EventOk (regError core w s) := by
  unfold regError
  dsimp only
  split
  · split
    · exact eventOk_some (memOk_usedFresh (memOk_setCore_same h _ (by simp)))
    · exact eventOk_none
  · split
    · split
      · exact eventOk_some (memOk_usedFresh (memOk_setCore_same h _ (by simp)))
      · exact eventOk_none
    · exact eventOk_none
  · split
    · exact eventOk_some (memOk_usedFresh (memOk_setCore_same h _ rfl))
    · exact eventOk_none
  · split
    · split
      · exact eventOk_some (memOk_usedFresh (memOk_setCore_same h _ rfl))
      · exact eventOk_none
    · exact eventOk_none
  · split
    · exact eventOk_some (memOk_usedFresh (memOk_setCore_same h _ rfl))
    · exact eventOk_none

theorem eventOk_stateEcc {core : Nat} : EventOk (stateEcc core s) := by
  unfold stateEcc
  split
  · exact eventOk_some (memOk_teamEvent h)
  · exact eventOk_none

theorem memOk_shootStart {mode : ShootMode} : memOk (shootStart mode s) = true := by
  unfold shootStart
  dsimp only
  split
  · exact h
  · split
    · exact memOk_foldl (memOk_of_same h rfl rfl rfl) (fun _ _ h' => memOk_getD (eventOk_submitReq h') h')
    · exact memOk_of_same h rfl rfl rfl

theorem memOk_shootLine {mode : ShootMode} {l : LlcLine} : memOk (shootLine mode s l) = true := by
  unfold shootLine
  dsimp only
  split
  · exact memOk_dropLine h _
  · exact memOk_dropOut h
  · refine memOk_putLine ?_ _
    split
    · exact memOk_storeLine (memOk_pullOwners h) ..
    · exact memOk_pullOwners h

theorem eventOk_shootDone : EventOk (shootDone s) := by
  unfold shootDone
  dsimp only
  split
  · exact eventOk_none
  · rename_i x _
    split
    · exact eventOk_submitReq h
    · split
      · exact eventOk_none
      · have hs := memOk_foldl h (fun s l hs => memOk_shootLine hs (mode := x.mode) (l := l)) (l := s.hub.llc.filter fun l => inShoot x l.key)
        have hm := memOk_mapCores hs (fun p => shootL1 x p.2) fun _ => shootL1_spm ..
        exact eventOk_some (memOk_of_same hm rfl rfl rfl)

theorem memOk_dropHomed {gone : Nat → Bool} : memOk (dropHomed gone s) = true :=
  memOk_of_same (memOk_mapCores h (fun p => endPieces gone p.2) fun _ => endPieces_spm ..) rfl rfl rfl

/-! ### Placement of teams -/

theorem memOk_setLaunch {n : Nat} {l : Launch} : memOk (setLaunch s n l) = true := memOk_of_same h rfl rfl rfl

theorem memOk_setSched {k : Nat} {x : Scheduler} : memOk (setSched s k x) = true := memOk_of_same h rfl rfl rfl

theorem memOk_callRound : memOk (callRound s) = true := memOk_of_same h rfl rfl rfl

theorem memOk_unplace {l g : Nat} : memOk (unplace s l g) = true := memOk_of_same (memOk_updGang h) rfl rfl rfl

theorem memOk_placeGang {r : GangRef} {at' : List (Nat × Nat)} : memOk (placeGang s r at') = true :=
  memOk_foldl (memOk_updGang h) (fun _ _ h' => memOk_setSched h')

theorem memOk_placeReserved {r : GangRef} : memOk (placeReserved s r) = true := by
  unfold placeReserved
  split
  · split
    · exact memOk_placeGang h
    · exact h
  · exact h

theorem memOk_reserveFree {r : GangRef} : memOk (reserveFree s r) = true := by
  unfold reserveFree
  dsimp only
  split
  · exact memOk_setGang h
  · exact h

theorem memOk_reserveAndPlace {r : GangRef} : memOk (reserveAndPlace s r) = true := memOk_placeReserved (memOk_reserveFree h)

theorem memOk_placeIfFits {r : GangRef} : memOk (placeIfFits s r) = true := by
  unfold placeIfFits
  split
  · split
    · exact h
    · split
      · exact memOk_placeGang h
      · exact h
  · exact h

theorem memOk_endDrains : memOk (endDrains s) = true := memOk_of_same h rfl rfl rfl

theorem memOk_placePart {act : GangRef → State → State} (ha : ∀ r s, memOk s = true → memOk (act r s) = true) : memOk (placePart act s) = true := by
  unfold placePart
  extract_lets order
  split
  · extract_lets limit s0 s1 s2 rest
    have h0 : memOk s0 = true := memOk_reserveAndPlace h
    have h1 : memOk s1 = true := by
      unfold s1
      split
      · exact memOk_reserveAndPlace h0
      · exact h0
    exact memOk_foldl (ha _ _ h1) fun _ _ h => memOk_placeIfFits h
  · exact h

/-! ### Team start, save and restore -/

theorem memOk_mapSlots {f : ReqSlot → ReqSlot} : memOk (mapSlots s f) = true := memOk_of_same h rfl rfl rfl

theorem memOk_parkAccess {c : Nat} {a : Access} : memOk (parkAccess s c a) = true :=
  memOk_mapSlots (memOk_setCore_same (memOk_undoAccess h) _ (by simp))

theorem memOk_retireLeft {c : Nat} {a : Access} : memOk (retireLeft s c a) = true := by
  unfold retireLeft
  split
  · exact h
  · split
    · exact memOk_retireFlight h
    · exact h

theorem memOk_parkRest {c : Nat} : memOk (parkRest s c) = true := memOk_of_same h rfl rfl rfl

theorem memOk_cutCore {c : Nat} : memOk (cutCore s c) = true := by
  unfold cutCore
  extract_lets s1 s2 s3 s4 cs post cs'
  have h1 : memOk s1 = true := by
    unfold s1
    split
    · exact memOk_abandonMma h
    · exact h
  have h2 : memOk s2 = true := memOk_foldl h1 fun _ _ h => memOk_parkAccess h
  have h3 : memOk s3 = true := memOk_foldl h2 fun _ _ h => memOk_retireLeft h
  have h4 : memOk s4 = true := memOk_parkRest h3
  have hc : cs'.spm = cs.spm := rfl
  exact memOk_mapSlots (memOk_setCore_same h4 c hc)

theorem memOk_recordCore {c : Nat} {o : Occ} {st : Nat} : memOk (recordCore s c o st) = true := by
  have hb (l : List Nat) : memOk (settleBanks c l s) = true := memOk_settleBanks h
  exact memOk_closeRows (memOk_updTeam (memOk_shareWake (memOk_putRecord (hb _) (wf_makeRecord (hb _) ..))))

theorem memOk_clearVictim {l g : Nat} : memOk (clearVictim s l g) = true := memOk_of_same h rfl rfl rfl

theorem memOk_saveBars {l g : Nat} {x : Gang} : memOk (saveBars s l g x) = true := by
  unfold saveBars
  split
  · exact h
  · split
    · exact h
    · exact memOk_setGang (memOk_putRecord h (wf_putFields (wf_of_findRecord h ‹_›) _))

theorem memOk_endSwap {l g : Nat} : memOk (endSwap s l g) = true := by
  unfold endSwap
  dsimp only
  split
  · exact h
  · split
    · exact memOk_callRound (memOk_clearVictim (memOk_saveBars (memOk_setGang h)))
    · exact h

theorem memOk_beginSwap {l g age : Nat} {asleep : Bool} : memOk (beginSwap s l g age asleep) = true := by
  unfold beginSwap
  dsimp only
  split
  · exact memOk_updGang (memOk_unplace h)
  · refine memOk_endSwap (memOk_foldl (memOk_updGang (memOk_unplace h)) (fun _ _ h' => ?_))
    split
    · split
      · exact h'
      · exact memOk_teamEvent h'
    · exact h'

theorem memOk_freeSaved {c : Nat} {o : Occ} : memOk (freeSaved s c o) = true := by
  unfold freeSaved
  extract_lets s1 s2 other s3
  have h1 : memOk s1 = true := by
    unfold s1
    split
    · exact memOk_updTeam h
    · exact h
  have h2 : memOk s2 = true := memOk_callRound (memOk_setCore h1 _ rfl)
  refine memOk_endSwap ?_
  unfold s3
  split
  · exact h2
  · exact memOk_updTeam h2

theorem eventOk_contextSave {core : Nat} : EventOk (contextSave core s) := by
  unfold contextSave
  dsimp only
  split
  · exact eventOk_none
  · split
    · exact eventOk_none
    · split
      · exact eventOk_some (memOk_freeSaved h)
      · split
        · exact eventOk_some (memOk_freeSaved (memOk_recordCore (memOk_cutCore h)))
        · exact eventOk_none

theorem memOk_logStop {c : Nat} : memOk (logStop s c) = true := by
  unfold logStop
  dsimp only
  split
  · exact h
  · exact memOk_logTrap h ..

theorem memOk_stopCore {c : Nat} : memOk (stopCore s c) = true := by
  unfold stopCore
  split
  · exact h
  · extract_lets s1 cs s2
    have h1 : memOk s1 = true := memOk_recordCore (memOk_logStop (memOk_cutCore h))
    have h2 : memOk s2 = true := by
      refine memOk_setCore_same h1 c ?_
      dsimp only
      exact stopEngines_spm (getCore s1 c) s1
    exact memOk_postReport h2

theorem eventOk_teamStop {core : Nat} : EventOk (teamStop core s) := by
  unfold teamStop
  dsimp only
  split
  · exact eventOk_none
  · split
    · exact eventOk_some (memOk_updTeam (memOk_foldl h (fun _ _ h' => memOk_stopCore h')))
    · exact eventOk_none

theorem eventOk_drainLimit {core : Nat} : EventOk (drainLimit core s) := by
  unfold drainLimit
  dsimp only
  split
  · split
    · exact eventOk_some (memOk_foldl h (fun _ _ h' => memOk_setCore_same h' _ rfl))
    · exact eventOk_none
  · exact eventOk_none

theorem eventOk_watchdog {core : Nat} {e : Engine} : EventOk (watchdog core e s) := by
  unfold watchdog
  dsimp only
  split
  · exact eventOk_some (memOk_teamEvent h)
  · exact eventOk_none

theorem memOk_reserveArea {o : Occ} {c mask : Nat} : memOk (reserveArea s o c mask) = true := by
  unfold reserveArea
  dsimp only
  split
  · exact h
  · split
    · exact memOk_dropHomed (memOk_of_same h rfl rfl rfl)
    · exact h

theorem memOk_freeAreas {out : Occ → Bool} : memOk (freeAreas s out) = true := memOk_of_same h rfl rfl rfl

theorem memOk_moveAreas {c g : Nat} : memOk (moveAreas s c g) = true := memOk_foldl h (fun _ _ h' => memOk_reserveArea (memOk_freeAreas h'))

theorem memOk_startPhases {c g : Nat} : memOk (startPhases s c g) = true := memOk_foldl h (fun _ _ h' => memOk_setCore_same h' _ rfl)

theorem tryOk_allotGroup {launch c g : Nat} : TryOk id (allotGroup launch s c g) := by
  unfold allotGroup
  split
  · split
    · exact tryOk_ok h
    · exact tryOk_error
  · extract_lets ls s1 s2 s3 hub s4
    split
    · exact tryOk_error
    · split
      · exact tryOk_error
      · split
        · exact tryOk_error
        · have h1 : memOk s1 = true := memOk_foldl h fun _ _ h => memOk_shootLine h
          have h2 : memOk s2 = true := memOk_mapCores h1 _ fun _ => rfl
          have h3 : memOk s3 = true := memOk_closeGroup h2
          have h4 : memOk s4 = true := memOk_of_same h3 rfl rfl rfl
          exact tryOk_state (memOk_startPhases (memOk_moveAreas h4))

theorem tryOk_allotGroups {launch c : Nat} {l : List Nat} : TryOk id (allotGroups launch c l s) := by
  induction l generalizing s with
  | nil => exact tryOk_ok h
  | cons g t ih => exact tryOk_bind (tryOk_allotGroup h) fun _ hs => ih hs

theorem tryOk_allotTeam {launch mask : Nat} {l : List Nat} : TryOk id (allotTeam launch mask l s) := by
  induction l generalizing s with
  | nil => exact tryOk_ok h
  | cons c t ih => exact tryOk_bind (tryOk_allotGroups h) fun _ hs => ih hs

theorem memOk_reclaimGroup {c g : Nat} : memOk (reclaimGroup s c g) = true := memOk_of_same (memOk_closeGroup h) rfl rfl rfl

theorem memOk_takeRun {core : Nat} : memOk (takeRun s core) = true := memOk_setSched h

theorem memOk_teamResident {l g : Nat} {t core : Nat} : memOk (teamResident s l g t core) = true := memOk_updGang (memOk_updTeam h)

theorem memOk_restoreBars {l g : Nat} : memOk (restoreBars s l g) = true := memOk_updGang h

theorem eventOk_teamStart {core : Nat} : EventOk (teamStart core s) := by
  unfold teamStart
  dsimp only
  split
  · exact eventOk_none
  · split
    · split
      · exact eventOk_none
      · split
        · exact eventOk_none
        · split
          · exact eventOk_some (memOk_beginSwap h)
          · split
            · exact eventOk_tried h tryOk_error
            · have h1 : memOk _ = true := tryOk_allotTeam h _ ‹_›
              refine eventOk_some (memOk_teamResident (memOk_foldl (memOk_foldl ?_ ?_) fun _ _ h => memOk_reserveArea h))
              · exact memOk_restoreBars (memOk_takeRun h1)
              · exact fun _ _ h => memOk_setCore h _ (wf_freshCore ..)
    · exact eventOk_none

theorem memOk_closeIdle {o : Occ} : memOk (closeIdle s o) = true := memOk_foldl h (fun _ _ h' => memOk_closeIfDead (memOk_setSlot h'))

theorem memOk_dropRequester {o : Occ} : memOk (dropRequester s o) = true := by
  unfold dropRequester
  extract_lets s1
  have h1 : memOk s1 = true := memOk_mapSlots h
  refine memOk_closeIdle ?_
  exact memOk_of_same h1 rfl rfl rfl

theorem memOk_killCore {n c : Nat} : memOk (killCore n s c) = true := by
  unfold killCore
  split
  · exact h
  · split
    · exact h
    · exact memOk_setCore (memOk_dropRequester (memOk_closeRows h)) _ rfl

theorem memOk_killTeam {n : Nat} {paired : Bool} {t : Team} : memOk (killTeam n paired s t) = true := by
  unfold killTeam
  split
  · exact memOk_foldl h (fun _ _ h' => memOk_killCore h')
  · exact h

theorem memOk_filterRecords {f : Record → Bool} : memOk { s with fw := { s.fw with records := s.fw.records.filter f } } = true := by
  rw [memOk_iff] at *
  obtain ⟨hd, hc, hr⟩ := h
  refine ⟨hd, hc, ?_⟩
  simp only [List.all_eq_true, List.mem_filter] at *
  exact fun r hm => hr r hm.1

theorem memOk_killLaunch {n code : Nat} : memOk (killLaunch s n code) = true := by
  unfold killLaunch
  split
  · exact h
  · rename_i l _
    split
    · exact h
    · extract_lets s1 s2 firm s3 s4 s5 dead
      have h1 : memOk s1 = true := memOk_foldl h fun _ _ h => memOk_foldl h fun _ _ h => memOk_killTeam h
      have h2 : memOk s2 = true := memOk_foldl h1 fun _ _ h => memOk_dropRequester h
      have h3 : memOk s3 = true := memOk_filterRecords h2
      have h4 : memOk s4 = true := memOk_freeAreas (memOk_foldl h3 fun _ _ h => memOk_unplace h)
      have h5 : memOk s5 = true := memOk_callRound (memOk_reserveArea h4)
      split
      · exact h5
      · exact memOk_setLaunch h5

theorem memOk_resumeParked {o : Occ} {c : Nat} : memOk (resumeParked s o c) = true := memOk_of_same h rfl rfl rfl

theorem memOk_restoreCore {c : Nat} {r : Record} {lead : List Host.Cell} {own : Bool} (hr : Memory.wf r.bytes = true) :
    memOk (restoreCore s c r lead own) = true := by
  unfold restoreCore
  extract_lets now s0 ended old base saved open' cs cs1 t s1
  have h0 : memOk s0 = true := memOk_settleBanks h
  have hb : Memory.wf base.spm = true := wf_coreFrom hr
  have hc : cs1.spm = base.spm := (foldl_spm (fun _ _ => restoreBank_spm ..) _ _).trans (calmBanks_spm ..)
  have h1 : memOk s1 = true := memOk_setCore h0 c (hc.symm ▸ hb)
  exact memOk_resumeParked (memOk_mapSlots (memOk_dropRecord h1))

theorem memOk_occupyStopped {c : Nat} {o : Occ} {r : Option Record} : memOk (occupyStopped s c o r) = true := memOk_setCore h c rfl

theorem memOk_joinHalves {rs : List (Nat × Option Record)} {ftz : Option Bool} : memOk (joinHalves s rs ftz) = true := by
  unfold joinHalves
  extract_lets n s1
  have h1 : memOk s1 = true := memOk_foldl h fun _ _ h => memOk_setCore_same h _ rfl
  clear_value s1
  split
  · split
    · exact memOk_setCore_same h1 _ rfl
    · exact h1
  · exact h1

theorem memOk_restoreTeam {l g n : Nat} {rs : List (Nat × Option Record)} (hrs : ∀ p ∈ rs, ∀ r, p.2 = some r → Memory.wf r.bytes = true) :
    memOk (restoreTeam s l g n rs) = true := by
  refine memOk_joinHalves (memOk_foldl_mem (memOk_restoreBars h) fun s p hp hs => ?_)
  cases hr : p.2 with
  | none => exact hs
  | some r => exact memOk_restoreCore hs (hrs p hp r hr)

theorem wf_teamRecords {l g n : Nat} {cores : List Nat} :
    ∀ p ∈ teamRecords s l g n cores, ∀ r, p.2 = some r → Memory.wf r.bytes = true := by
  intro p hp r hr
  obtain ⟨i, _, rfl⟩ := List.mem_mapIdx.1 hp
  exact wf_of_findRecord h hr

theorem eventOk_contextRestore {core : Nat} : EventOk (contextRestore core s) := by
  unfold contextRestore
  split
  · exact eventOk_none
  · split
    · extract_lets cores rs s1 s2
      have h1 : memOk s1 = true := memOk_restoreBars (memOk_takeRun h)
      have h2 : memOk s2 = true := memOk_foldl h1 fun _ _ h => memOk_occupyStopped h
      split
      · exact eventOk_none
      · split
        · exact eventOk_some (memOk_updTeam (memOk_teamResident h2))
        · split
          · exact eventOk_some (memOk_teamResident (memOk_restoreTeam (memOk_takeRun h) (wf_teamRecords h)))
          · exact eventOk_some (memOk_killLaunch h)
    · exact eventOk_none

theorem eventOk_streamRestart {core : Nat} : EventOk (streamRestart core s) := by
  unfold streamRestart
  dsimp only
  split
  · exact eventOk_none
  · split
    · exact eventOk_none
    · exact eventOk_some (memOk_foldl h (fun _ _ h' => memOk_setCore_same h' _ rfl))

theorem memOk_reportUnraised {c : Nat} {o : Occ} : memOk (reportUnraised s c o) = true := by
  unfold reportUnraised
  split
  · exact h
  · exact memOk_postReport h

theorem memOk_exitCore {c : Nat} {o : Occ} {v : Word} : memOk (exitCore s c o v) = true := by
  refine memOk_postOpt ?_
  exact memOk_setCore_same (memOk_closeIdle (memOk_reportUnraised (memOk_closeRows h))) _ rfl

theorem eventOk_teamRetire {launch gang team : Nat} : EventOk (teamRetire launch gang team s) := by
  unfold teamRetire
  split
  · split
    · extract_lets cores occ ready s1 done s2 s3
      have h1 : memOk s1 = true := memOk_foldl h fun _ _ h => memOk_exitCore h
      have h2 : memOk s2 = true := memOk_foldl (memOk_callRound (memOk_freeAreas h1)) fun _ _ h => memOk_setCore h _ rfl
      split
      · split
        · exact eventOk_none
        · exact eventOk_some h1
      · exact eventOk_some (memOk_endSwap (memOk_updTeam h2))
    · exact eventOk_none
  · exact eventOk_none

theorem eventOk_sliceExpiry {launch gang : Nat} : EventOk (sliceExpiry launch gang s) := by
  unfold sliceExpiry
  dsimp only
  split
  · exact eventOk_none
  · split
    · exact eventOk_none
    · split
      · split
        · exact eventOk_some (memOk_beginSwap h)
        · split
          · exact eventOk_some (memOk_setGang h)
          · exact eventOk_none
      · split
        · exact eventOk_some (memOk_beginSwap h)
        · split
          · exact eventOk_some (memOk_setGang h)
          · exact eventOk_none

theorem verdictOk_yieldBody {d : Nat} : VerdictOk (yieldBody d s) := by
  unfold yieldBody
  dsimp only
  split
  · trivial
  · split
    · trivial
    · split
      · exact memOk_beginSwap (memOk_withCs_same h (setReg_spm ..))
      · exact memOk_withCs_same h (setReg_spm ..)

/-! ### Schedulers -/

theorem memOk_checkpointLaunch {n : Nat} {l : Launch} : memOk (checkpointLaunch s n l) = true := by
  unfold checkpointLaunch
  refine memOk_foldl h (fun _ _ h' => ?_)
  split
  · split
    · exact h'
    · exact memOk_beginSwap h'
  · exact h'

theorem memOk_preemptOne {r : GangRef} {n : Nat} : memOk (preemptOne r s n) = true := by
  unfold preemptOne
  dsimp only
  split
  · exact h
  · split
    · exact memOk_killLaunch h
    · exact memOk_checkpointLaunch (memOk_updGang h)
    · exact memOk_setLaunch (memOk_updGang h)

theorem memOk_spendTokens {q n : Nat} : memOk (spendTokens s q n) = true := memOk_of_same h rfl rfl rfl

theorem memOk_preempt {r : GangRef} : memOk (preempt s r) = true := by
  unfold preempt
  dsimp only
  split
  · split
    · exact h
    · split
      · exact memOk_foldl (memOk_spendTokens h) (fun _ _ h' => memOk_preemptOne h')
      · exact h
  · exact h

theorem memOk_ageGang {r : GangRef} : memOk (ageGang s r) = true := by
  unfold ageGang
  split
  · split
    · exact memOk_setGang h
    · exact h
  · exact h

theorem memOk_awake {r : GangRef} : memOk (awake s r) = true := memOk_updGang h

theorem eventOk_placementRound : EventOk (placementRound s) := by
  unfold placementRound
  dsimp only
  split
  · exact eventOk_none
  · refine eventOk_some (memOk_foldl (memOk_foldl ?_ fun _ _ h => memOk_awake h) fun _ _ h => memOk_ageGang h)
    refine memOk_placePart (memOk_endDrains ?_) fun _ _ h => memOk_preempt h
    exact memOk_of_same h rfl rfl rfl

theorem eventOk_gangSteal {stack launch gang : Nat} : EventOk (gangSteal stack launch gang s) := by
  unfold gangSteal
  dsimp only
  split
  · exact eventOk_none
  · split
    · split
      · exact eventOk_some h
      · split
        · exact eventOk_some h
        · exact eventOk_some (memOk_callRound (memOk_placeGang (memOk_unplace h)))
    · exact eventOk_none

theorem eventOk_heartbeat {stack : Nat} : EventOk (heartbeat stack s) := by
  unfold heartbeat
  dsimp only
  split
  · exact eventOk_none
  · exact eventOk_some (memOk_setSched h)

theorem memOk_adoptList {k : Nat} : memOk (adoptList s k) = true := memOk_logHub (memOk_setSched h)

theorem eventOk_schedAdopt {stack : Nat} : EventOk (schedAdopt stack s) := by
  unfold schedAdopt
  dsimp only
  split
  · exact eventOk_none
  · exact eventOk_some (memOk_foldl (memOk_adoptList h) (fun _ _ h' => memOk_adoptList h'))

theorem eventOk_schedReturn {stack : Nat} : EventOk (schedReturn stack s) := by
  unfold schedReturn
  dsimp only
  split
  · exact eventOk_none
  · exact eventOk_some (memOk_logHub (memOk_setSched h))

theorem eventOk_workerFails {w : Nat} : EventOk (workerFails w s) := by
  unfold workerFails
  dsimp only
  split
  · exact eventOk_none
  · exact eventOk_some (memOk_of_same h rfl rfl rfl)

theorem eventOk_quartzMismatch {pc : Nat} : EventOk (quartzMismatch pc s) := by
  unfold quartzMismatch
  dsimp only
  split
  · exact eventOk_none
  · refine eventOk_some (memOk_logHubSev ?_)
    exact memOk_of_same h rfl rfl rfl

theorem eventOk_quartzRestart : EventOk (quartzRestart s) := by
  unfold quartzRestart
  dsimp only
  split
  · exact eventOk_some (memOk_of_same h rfl rfl rfl)
  · exact eventOk_none

/-! ### Dispatch queues, graphs and launches -/

theorem memOk_setQ {q : Nat} {x : DispQ} : memOk (setQ s q x) = true := memOk_of_same h rfl rfl rfl

theorem eventOk_dispQwptr {q v : Nat} : EventOk (dispQwptr q v s) := by
  unfold dispQwptr
  dsimp only
  split
  · exact eventOk_none
  · exact eventOk_some (memOk_setQ h)

theorem eventOk_dispQctl {q : Nat} {v : Word} : EventOk (dispQctl q v s) := by
  unfold dispQctl
  dsimp only
  split
  · exact eventOk_none
  · exact eventOk_some (memOk_setQ h)

theorem eventOk_tokenTick : EventOk (tokenTick s) := by
  unfold tokenTick
  dsimp only
  split
  · exact eventOk_none
  · exact eventOk_some (memOk_of_same h rfl rfl rfl)

theorem tryOk_signalPut {n asid va status : Nat} : TryOk id (signalPut s n asid va status) := by
  unfold signalPut
  split
  · exact tryOk_state h
  · split
    · refine tryOk_state ?_
      split
      · exact h
      · exact memOk_sendPacket h
    · split
      · exact tryOk_error
      · exact tryOk_state (memOk_logHub h)
      · rename_i s1 x _ _ hr
        have h1 : memOk s1 = true := tryOk_reach h _ hr
        dsimp only
        split
        · exact tryOk_error
        · rename_i s2 l hq
          have h2 : memOk s2 = true := tryOk_homePull (memOk_fillLine h1) _ hq
          exact tryOk_state (memOk_writeLine h2 ..)
      · rename_i s1 x _ _ hr
        have h1 : memOk s1 = true := tryOk_reach h _ hr
        refine tryOk_mapState (tryOk_hostTry h1) fun r hr => ?_
        dsimp only
        split
        · exact memOk_logHub hr
        · exact memOk_of_same hr rfl rfl rfl

theorem memOk_takeNumber : memOk (takeNumber s).1 = true := memOk_of_same h rfl rfl rfl

theorem memOk_reportFailure {n asid status : Nat} : memOk (reportFailure s n asid status) = true := memOk_postReport h

theorem memOk_addLaunch {n : Nat} {l : Launch} {v : Variant} : memOk (addLaunch s n l v) = true := by
  unfold addLaunch
  dsimp only
  split
  · exact memOk_logHub (memOk_setLaunch h)
  · exact memOk_callRound (memOk_setLaunch h)

theorem memOk_setGraph {n : Nat} {g : Graph} : memOk (setGraph s n g) = true := memOk_of_same h rfl rfl rfl

theorem tryOk_launchNode {n i : Nat} {g : Graph} {x : GNode} : TryOk id (launchNode s n i g x) := by
  unfold launchNode
  have h1 : memOk (takeNumber s).1 = true := memOk_takeNumber h
  dsimp only
  have hf (st : Nat) : TryOk id ((signalPut (reportFailure (takeNumber s).1 (takeNumber s).2 g.asid st) (takeNumber s).2 g.asid x.pkt.signal st).map
      fun s => setGraph s n (endNode g i st)) := tryOk_mapState (tryOk_signalPut (memOk_reportFailure h1)) fun _ h => memOk_setGraph h
  split
  · split
    · exact hf _
    · exact tryOk_mapState (tryOk_signalPut h1) fun _ h => memOk_setGraph h
  · split
    · exact hf _
    · split
      · exact hf _
      · exact tryOk_state (memOk_setGraph (memOk_addLaunch h1))

theorem tryOk_cancelNode {n i : Nat} {g : Graph} {x : GNode} {st : Nat} : TryOk id (cancelNode s n i g x st) :=
  tryOk_mapState (tryOk_signalPut h) fun _ h => memOk_setGraph h

theorem tryOk_stallNodes {n : Nat} {g : Graph} : TryOk id (stallNodes s n g) :=
  tryOk_foldl (tryOk_state (memOk_setGraph h)) fun _ _ hr => tryOk_bind hr fun _ h => tryOk_signalPut h

theorem tryOk_runGraph {k n : Nat} : TryOk id (runGraph k s n) := by
  induction k generalizing s with
  | zero => exact tryOk_state h
  | succ k ih =>
    unfold runGraph
    split
    · exact tryOk_state h
    · split
      · exact tryOk_bind (tryOk_launchNode h) fun _ h => ih h
      · split
        · exact tryOk_bind (tryOk_cancelNode h) fun _ h => ih h
        · split
          · exact tryOk_state h
          · split
            · exact tryOk_bind (tryOk_stallNodes h) fun _ h => ih h
            · exact tryOk_mapState (tryOk_signalPut h) fun _ h => memOk_of_same h rfl rfl rfl

theorem tryOk_goGraph {n : Nat} : TryOk id (goGraph s n) := tryOk_runGraph h

theorem tryOk_readTable {asid va n : Nat} : TryOk Prod.fst (readTable asid va n s) := by
  induction n generalizing s va with
  | zero => exact tryOk_ok h
  | succ n ih =>
    unfold readTable
    split
    · exact tryOk_ok h
    · rename_i s1 x _ _ hr
      have h1 : memOk s1 = true := tryOk_reach h _ hr
      dsimp only
      split
      · exact tryOk_error
      · split
        · exact tryOk_error
        · exact tryOk_map (ih (memOk_fillLine h1)) fun _ h => h
    · rename_i s1 x _ _ hr
      have h1 : memOk s1 = true := tryOk_reach h _ hr
      split
      · exact tryOk_error
      · exact tryOk_ok (tryOk_hostTry h1 _ ‹_›)
      · rename_i s2 hq
        have h2 : memOk s2 = true := tryOk_hostTry h1 _ hq
        have h3 : memOk { s2 with fresh := s2.fresh + 1 } = true := memOk_of_same h2 rfl rfl rfl
        exact tryOk_map (ih h3) fun _ h => h

theorem tryOk_startGraph {n q asid : Nat} {p : DPacket} : TryOk id (startGraph s n q asid p) := by
  unfold startGraph
  dsimp only
  split
  · exact tryOk_signalPut (memOk_reportFailure h)
  · split
    · exact tryOk_error
    · rename_i s1 hr
      have h1 : memOk s1 = true := tryOk_readTable h _ hr
      exact tryOk_signalPut (memOk_reportFailure h1)
    · rename_i s1 _ hr
      have h1 : memOk s1 = true := tryOk_readTable h _ hr
      split
      · exact tryOk_goGraph (memOk_setGraph h1)
      · exact tryOk_signalPut (memOk_reportFailure h1)

theorem tryOk_ringPacket {x : DispQ} : TryOk Prod.fst (ringPacket s x) := by
  unfold ringPacket
  extract_lets pa lost
  have hl {s : State} (h : memOk s = true) : memOk (lost s).1 = true := memOk_of_same h rfl rfl rfl
  split
  · exact tryOk_ok (hl h)
  · split
    · refine tryOk_map (tryOk_hostTry h) fun r hr => ?_
      dsimp only
      split
      · exact memOk_of_same hr rfl rfl rfl
      · exact hl hr
    · split
      · exact tryOk_ok h
      · exact tryOk_mapTo fun _ => h

theorem tryOk_takePacketOf {q : Nat} {p : DPacket} : TryOk id (takePacketOf s q p) := by
  unfold takePacketOf
  have h1 : memOk (takeNumber s).1 = true := memOk_takeNumber h
  dsimp only
  have hf (st : Nat) : TryOk id (signalPut (reportFailure (takeNumber s).1 (takeNumber s).2 (getQ s q).asid st) (takeNumber s).2 (getQ s q).asid p.signal st) :=
    tryOk_signalPut (memOk_reportFailure h1)
  split
  · split
    · exact hf _
    · exact tryOk_state (memOk_addLaunch h1)
  · exact tryOk_startGraph h1
  · split
    · exact tryOk_signalPut h1
    · exact hf _
  · exact hf _

theorem eventOk_packetCopy {q : Nat} : EventOk (packetCopy q s) := by
  unfold packetCopy
  dsimp only
  split
  · exact eventOk_none
  · split
    · exact eventOk_tried h tryOk_error
    · rename_i s1 _ hr
      have h1 : memOk s1 = true := tryOk_ringPacket h _ hr
      split
      · split
        · exact eventOk_none
        · exact eventOk_some (memOk_of_same h rfl rfl rfl)
      · exact eventOk_tried h (tryOk_takePacketOf (memOk_setQ h1))

theorem memOk_childDone {o : Occ} {id status : Nat} : memOk (childDone s o id status) = true := by
  unfold childDone
  extract_lets upd cores slot recs
  rw [memOk_iff] at *
  obtain ⟨hd, hc, hr⟩ := h
  refine ⟨hd, ?_, ?_⟩
  · simp only [cores, List.all_map, List.all_eq_true, Function.comp_apply] at *
    intro p hp
    split <;> exact hc p hp
  · simp only [recs, List.all_map, List.all_eq_true, Function.comp_apply] at *
    intro r hm
    split
    · split
      · exact wf_recPut (wf_recPut (hr r hm) ..) ..
      · exact hr r hm
    · exact hr r hm

theorem eventOk_childDispatch {parent child : Nat} : EventOk (childDispatch parent child s) := by
  unfold childDispatch
  split
  · exact eventOk_none
  · split
    · exact eventOk_none
    · rename_i p l g i k id _ _ pl _
      have h1 : memOk (takeNumber { s with disp := { s.disp with children := s.disp.children.erase (p, l, g, i, k, id) } }).1 = true := by
        refine memOk_takeNumber ?_
        exact memOk_of_same h rfl rfl rfl
      dsimp only
      split
      · exact eventOk_tried h (tryOk_mapState (tryOk_signalPut (memOk_reportFailure h1)) fun _ h => memOk_childDone h)
      · exact eventOk_some (memOk_addLaunch h1)

theorem memOk_reclaimAll {n : Nat} : memOk (reclaimAll s n) = true := memOk_foldl h (fun _ _ h' => memOk_reclaimGroup h')

theorem memOk_reportKill {n : Nat} {l : Launch} : memOk (reportKill s n l) = true := by
  unfold reportKill
  dsimp only
  split
  · exact h
  · refine memOk_postReport ?_
    split
    · exact memOk_writeDram h _ _
    · exact h

theorem eventOk_launchRetire {launch : Nat} : EventOk (launchRetire launch s) := by
  unfold launchRetire
  split
  · exact eventOk_none
  · split
    · exact eventOk_none
    · refine eventOk_tried h (tryOk_bind (tryOk_signalPut (memOk_reclaimAll (memOk_reportKill h))) fun s0 h0 => ?_)
      extract_lets disp s1 s2 s3
      have h1 : memOk s1 = true := memOk_of_same h0 rfl rfl rfl
      have h2 : memOk s2 = true := by
        unfold s2
        split
        · exact h1
        · exact memOk_freeAreas h1
      have h3 : memOk s3 = true := by
        unfold s3
        split
        · exact memOk_childDone h2
        · exact h2
      split
      · exact tryOk_state h3
      · split
        · exact tryOk_goGraph (memOk_setGraph h3)
        · exact tryOk_state h3

/-! ### Mailbox requests -/

theorem memOk_copySlot {slot : Nat} : memOk (copySlot s slot) = true := memOk_of_same h rfl rfl rfl

theorem memOk_putSlot {slot off : Nat} {n v : Nat} : memOk (putSlot s slot off n v) = true := memOk_of_same h rfl rfl rfl

theorem memOk_answerSlot {slot status : Nat} : memOk (answerSlot s slot status) = true := by
  unfold answerSlot
  extract_lets s1 firm s2
  have h1 : memOk s1 = true := memOk_putSlot h
  have h2 : memOk s2 = true := memOk_of_same h1 rfl rfl rfl
  split
  · exact memOk_sendMsix h2
  · exact h2

theorem memOk_ringDoorbell {slot : Nat} : memOk (ringDoorbell s slot) = true := by
  unfold ringDoorbell
  dsimp only
  split
  · exact h
  · split
    · refine memOk_copySlot ?_
      exact memOk_of_same h rfl rfl rfl
    · refine memOk_answerSlot (memOk_copySlot ?_)
      exact memOk_of_same h rfl rfl rfl

theorem eventOk_served {slot action : Nat} {f : Except Nat State} (hf : TryOk id f) : EventOk (served slot action s f) := by
  unfold served
  split
  · exact eventOk_none
  · split
    · exact eventOk_some (memOk_answerSlot (hf _ rfl))
    · exact eventOk_some (memOk_answerSlot h)

theorem eventOk_allotRequest {slot : Nat} : EventOk (allotRequest slot s) := by
  unfold allotRequest
  dsimp only
  split
  · exact eventOk_none
  · split
    · exact eventOk_some (memOk_answerSlot h)
    · split
      · exact eventOk_some (memOk_answerSlot h)
      · split
        · exact eventOk_some (memOk_answerSlot h)
        · exact eventOk_tried h (tryOk_mapState (tryOk_allotGroups h) fun _ h => memOk_answerSlot h)

theorem eventOk_reclaimRequest {slot : Nat} : EventOk (reclaimRequest slot s) := by
  unfold reclaimRequest
  dsimp only
  refine eventOk_served h ?_
  split
  · exact tryOk_error
  · split
    · exact tryOk_error
    · split
      · exact tryOk_error
      · split
        · exact tryOk_error
        · exact tryOk_state (memOk_foldl h (fun _ _ h' => memOk_reclaimGroup h'))

theorem memOk_resumeTeam {n g i : Nat} {tm : Team} : memOk (resumeTeam s n g i tm) = true := by
  unfold resumeTeam
  extract_lets go clear
  have hgo {s : State} (h : memOk s = true) : memOk (go s) = true := memOk_updTeam h
  split
  · extract_lets rs
    split
    · exact hgo (memOk_restoreTeam h (wf_teamRecords h))
    · exact memOk_killLaunch h
  · refine hgo (memOk_mapRecords h _ fun r hr => ?_)
    unfold clear
    split
    · exact wf_recPut (wf_recPut hr ..) ..
    · exact hr

theorem eventOk_resumeRequest {slot : Nat} : EventOk (resumeRequest slot s) := by
  unfold resumeRequest
  dsimp only
  split
  · exact eventOk_none
  · refine eventOk_served h ?_
    split
    · split
      · exact tryOk_state (memOk_resumeTeam h)
      · exact tryOk_error
    · exact tryOk_error

theorem eventOk_killRequest {slot : Nat} : EventOk (killRequest slot s) := by
  unfold killRequest
  dsimp only
  split
  · exact eventOk_none
  · refine eventOk_served h ?_
    split
    · exact tryOk_state (memOk_killLaunch h)
    · exact tryOk_error

theorem eventOk_pageResume {slot : Nat} : EventOk (pageResume slot s) := by
  unfold pageResume
  extract_lets r
  split
  · exact eventOk_none
  · have hc := memOk_mapCores h (fun p => unpage s r p.2) fun _ => unpage_spm ..
    have hr := memOk_mapRecords hc (unpageRecord s r) fun _ h => wf_unpageRecord h s r
    exact eventOk_served h (tryOk_state (memOk_of_same hr rfl rfl rfl))

theorem memOk_declineEngine {r : PageRange} {c : Nat} {e : Engine} : memOk (declineEngine r c s e) = true := by
  unfold declineEngine
  dsimp only
  split
  · exact memOk_raiseTrap (memOk_setCore_same h _ (by simp)) ..
  · exact h

theorem memOk_declineQueue {r : PageRange} {c q : Nat} : memOk (declineQueue r c s q) = true := by
  unfold declineQueue
  split
  · exact memOk_cqFault (memOk_setCore_same h _ (by simp))
  · exact h

theorem memOk_declineCore {r : PageRange} {c : Nat} : memOk (declineCore r s c) = true :=
  memOk_foldl (memOk_foldl h (fun _ _ h' => memOk_declineEngine h')) (fun _ _ h' => memOk_declineQueue h')

theorem memOk_declineRecord {r : PageRange} {rec : Record} (hrec : Memory.wf rec.bytes = true) : memOk (declineRecord r s rec) = true := by
  unfold declineRecord
  extract_lets es ps x1 x s1
  have h1 : Memory.wf x1.bytes = true := wf_foldl (by exact hrec) fun _ _ h => wf_recordFault h ..
  have hx : Memory.wf x.bytes = true := wf_foldl h1 fun _ _ h => wf_recordFail h ..
  have hs : memOk s1 = true := memOk_foldl (memOk_putRecord h hx) fun _ _ h => memOk_logRecord h
  split
  · split
    · exact memOk_logRecord hs
    · exact hs
  · exact hs

theorem memOk_stopDeclined {codes : List (Occ × Nat)} {o : Occ} : memOk (stopDeclined codes s o) = true := memOk_stopSaved h

theorem memOk_declineRecords {r : PageRange} : memOk (declineRecords r s) = true := by
  refine memOk_foldl (memOk_foldl_mem h fun _ x hx hs => ?_) fun _ _ h => memOk_stopDeclined h
  exact memOk_declineRecord hs (wf_of_mem_records h (List.mem_of_mem_filter hx))

theorem eventOk_pageDecline {slot : Nat} : EventOk (pageDecline slot s) := by
  unfold pageDecline
  dsimp only
  split
  · exact eventOk_none
  · exact eventOk_served h (tryOk_state (memOk_declineRecords (memOk_foldl h (fun _ _ h' => memOk_declineCore h'))))

/-! ### Modules and images -/

theorem tryOk_fwRead {pa n : Nat} : TryOk Prod.fst (fwRead s pa n) := by
  unfold fwRead
  extract_lets s1
  have h1 : memOk s1 = true := memOk_of_same h rfl rfl rfl
  split
  · exact tryOk_map (tryOk_hostTry h) fun _ h => memOk_of_same h rfl rfl rfl
  · exact tryOk_mapTo fun _ => h1

theorem tryOk_pullAll {keys : List LineKey} :
    TryOk id (keys.foldl (fun (r : Try State) k => r.bind fun s => (homePull s k (BitVec.allOnes 32)).map (·.1)) (.ok s)) :=
  tryOk_foldl (tryOk_state h) fun _ _ hr => tryOk_bind hr fun _ h => tryOk_map (tryOk_homePull h) fun _ h => h

theorem tryOk_fwWrite {pa : Nat} {bs : List Byte} : TryOk id (fwWrite s pa bs) := tryOk_mapState (tryOk_pullAll h) fun _ h => memOk_physWrite h

theorem eventOk_modreg {slot : Nat} : EventOk (modreg slot s) := by
  unfold modreg
  dsimp only
  split
  · exact eventOk_none
  · split
    · exact eventOk_some (memOk_answerSlot h)
    · split
      · exact eventOk_tried h tryOk_error
      · rename_i s1 _ hr
        have h1 : memOk s1 = true := tryOk_fwRead h _ hr
        split
        · exact eventOk_some (memOk_answerSlot h1)
        · refine eventOk_some (memOk_answerSlot ?_)
          exact memOk_of_same h1 rfl rfl rfl

theorem eventOk_modunreg {slot : Nat} : EventOk (modunreg slot s) := by
  unfold modunreg
  dsimp only
  refine eventOk_served h ?_
  split
  · exact tryOk_error
  · split
    · exact tryOk_error
    · exact tryOk_state (memOk_of_same h rfl rfl rfl)

theorem memOk_onShards {f : Shard → Shard} : memOk (onShards s f) = true := memOk_of_same h rfl rfl rfl

theorem memOk_logLoadFail {x : Shard} {chunk cause : Nat} : memOk (logLoadFail s x chunk cause) = true := memOk_logHub h

theorem memOk_failShard {cause : Nat} {x : Shard} : memOk (failShard cause s x) = true := memOk_logLoadFail (memOk_onShards h)

theorem memOk_releaseHeldLaunches : memOk (releaseHeldLaunches s) = true := by
  unfold releaseHeldLaunches
  dsimp only
  split
  · exact h
  · exact memOk_callRound (memOk_of_same h rfl rfl rfl)

theorem memOk_finishLoad {r : LoadReq} : memOk (finishLoad s r) = true := by
  unfold finishLoad
  dsimp only
  split
  · exact h
  · split
    · refine memOk_answerSlot ?_
      exact memOk_of_same h rfl rfl rfl
    · split
      · refine memOk_releaseHeldLaunches (memOk_answerSlot ?_)
        exact memOk_of_same h rfl rfl rfl
      · refine memOk_answerSlot (memOk_putSlot (memOk_putSlot ?_))
        exact memOk_of_same h rfl rfl rfl

theorem memOk_finishLoads : memOk (finishLoads s) = true := memOk_foldl h (fun _ _ h' => memOk_finishLoad h')

theorem memOk_startShard {nblk : Nat} {x : Shard} : memOk (startShard nblk s x) = true := by
  unfold startShard
  split
  · exact memOk_failShard (memOk_onShards h)
  · exact memOk_onShards h

theorem eventOk_loadimg {slot : Nat} : EventOk (loadimg slot s) := by
  unfold loadimg
  dsimp only
  split
  · exact eventOk_none
  · split
    · exact eventOk_some (memOk_answerSlot h)
    · split
      · exact eventOk_some (memOk_answerSlot h)
      · exact eventOk_some (memOk_finishLoads (memOk_foldl (memOk_of_same h rfl rfl rfl) (fun _ _ h' => memOk_startShard h')))

theorem tryOk_copyChunk {x : Shard} {bs : List Byte} : TryOk id (copyChunk s x bs) :=
  tryOk_foldl (tryOk_state h) fun _ _ hr => tryOk_bind hr fun _ h => tryOk_fwWrite h

theorem memOk_chunkChecked {x : Shard} {good : Bool} : memOk (chunkChecked s x good) = true := by
  unfold chunkChecked
  split
  · exact memOk_onShards h
  · split
    · exact memOk_onShards h
    · exact memOk_failShard h

theorem eventOk_chunkCopy {module shard chunk : Nat} : EventOk (chunkCopy module shard chunk s) := by
  unfold chunkCopy
  generalize module * 2 ^ 32 + shard = key
  cases loadingChunk s module shard chunk with
  | none => exact eventOk_none
  | some p =>
    obtain ⟨x, r⟩ := p
    dsimp only
    split
    · exact eventOk_none
    · have ht : TryOk Prod.fst (hostTry s 6 key r.hosttab false) := tryOk_hostTry h
      cases hr : hostTry s 6 key r.hosttab false with
      | error b => exact eventOk_tried h tryOk_error
      | ok p =>
        have h1 : memOk p.1 = true := ht _ hr
        obtain ⟨s1, b⟩ := p
        cases b with
        | false => exact eventOk_some (memOk_finishLoads (memOk_chunkChecked h1))
        | true =>
          have h2 : memOk { s1 with fresh := s1.fresh + 1 } = true := memOk_of_same h1 rfl rfl rfl
          cases chunkBytes s r x with
          | none => exact eventOk_some (memOk_finishLoads (memOk_chunkChecked h2))
          | some bs => exact eventOk_tried h (tryOk_mapState (tryOk_copyChunk h2) fun _ h => memOk_onShards h)

theorem eventOk_chunkVerify {module shard chunk : Nat} : EventOk (chunkVerify module shard chunk s) := by
  unfold chunkVerify
  split
  · exact eventOk_none
  · split
    · exact eventOk_some (memOk_finishLoads (memOk_chunkChecked h))
    · exact eventOk_none

theorem eventOk_loadTimeout {slot : Nat} : EventOk (loadTimeout slot s) := by
  unfold loadTimeout
  split
  · exact eventOk_none
  · split
    · exact eventOk_none
    · exact eventOk_some (memOk_finishLoads (memOk_foldl h (fun _ _ h' => memOk_failShard h')))

theorem eventOk_unloadimg {slot : Nat} : EventOk (unloadimg slot s) := by
  unfold unloadimg
  dsimp only
  refine eventOk_served h ?_
  split
  · exact tryOk_error
  · split
    · exact tryOk_error
    · exact tryOk_state (memOk_onShards h)

/-! ### Units, stacks and columns -/

theorem memOk_setGalena {g : Nat} {u : GalenaUnit} : memOk (setGalena s g u) = true := memOk_of_same h rfl rfl rfl

theorem memOk_rewriteSummary : memOk (rewriteSummary s) = true := memOk_of_same h rfl rfl rfl

theorem memOk_domainNow : memOk (domainNow s) = true := memOk_of_same h rfl rfl rfl

theorem memOk_changeUnit {u : Nat} {t : UnitSt} : memOk (changeUnit s u t) = true := by
  unfold changeUnit
  dsimp only
  split
  · refine memOk_rewriteSummary ?_
    split
    · exact memOk_setStack h
    · exact memOk_domainNow (memOk_setGalena h)
  · split
    · refine memOk_logHub ?_
      split
      · refine memOk_postReport (memOk_rewriteSummary ?_)
        split
        · exact memOk_setStack h
        · exact memOk_domainNow (memOk_setGalena h)
      · refine memOk_rewriteSummary ?_
        split
        · exact memOk_setStack h
        · exact memOk_domainNow (memOk_setGalena h)
    · split
      · refine memOk_postReport (memOk_rewriteSummary ?_)
        split
        · exact memOk_setStack h
        · exact memOk_domainNow (memOk_setGalena h)
      · refine memOk_rewriteSummary ?_
        split
        · exact memOk_setStack h
        · exact memOk_domainNow (memOk_setGalena h)

theorem memOk_regrade {u : Nat} : memOk (regrade s u) = true := by
  unfold regrade
  split
  · exact memOk_changeUnit h
  · exact memOk_rewriteSummary h

theorem memOk_moveColumns {k : Nat} {m : List (Option Nat)} : memOk (moveColumns s k m) = true := by
  unfold moveColumns
  split
  · exact h
  · extract_lets s1
    have h1 : memOk s1 = true := memOk_dropHomed h
    obtain ⟨_, hc, hr⟩ := (memOk_iff _).1 h1
    refine (memOk_iff _).2 ⟨wf_foldl_cells rfl fun d x hd => ?_, hc, hr⟩
    split
    · exact Memory.wf_writeByte _ _ _ hd
    · exact hd

theorem memOk_mapCores_capTable {c : CapTable} : memOk (mapCores s c) = true := by
  unfold mapCores
  extract_lets m s1 firm s2
  have h1 : memOk s1 = true := memOk_moveColumns h
  have h2 : memOk s2 = true := memOk_of_same h1 rfl rfl rfl
  refine memOk_foldl h2 fun s p hs => ?_
  have hp : memOk (setCore s p.1 { ({} : CoreSt) with inService := p.2.isSome }) = true := memOk_setCore hs _ rfl
  exact memOk_of_same hp rfl rfl rfl

theorem memOk_restartPhases {core : Nat} : memOk (restartPhases s core) = true := memOk_foldl h (fun _ _ h' => memOk_startPhases h')

theorem memOk_leaveOut {u : Nat} {c : Option CapTable} : memOk (leaveOut s u c) = true := by
  unfold leaveOut
  dsimp only
  refine memOk_changeUnit ?_
  split
  · refine memOk_setStack ?_
    exact memOk_of_same h rfl rfl rfl
  · refine memOk_setGalena ?_
    exact memOk_of_same h rfl rfl rfl

theorem memOk_resetUnit {c : CapTable} : memOk (resetUnit s c) = true := by
  unfold resetUnit
  extract_lets firm s1 s2 s3
  have h1 : memOk s1 = true := memOk_of_same h rfl rfl rfl
  have h2 : memOk s2 = true := memOk_foldl (memOk_mapCores_capTable h1) fun _ _ h => memOk_restartPhases h
  split
  · exact memOk_setStack (memOk_setSched h2)
  · exact memOk_setGalena h1

theorem memOk_joinUnit {c : CapTable} : memOk (joinUnit s c) = true := by
  unfold joinUnit
  extract_lets firm s1 s2 s3
  have h1 : memOk s1 = true := memOk_of_same h rfl rfl rfl
  have h3 : memOk s3 = true := memOk_changeUnit (memOk_resetUnit h1)
  split
  · exact memOk_leaveOut h1
  · split
    · exact memOk_leaveOut h1
    · split
      · exact memOk_leaveOut (memOk_logHub h1)
      · split
        · exact memOk_callRound h3
        · exact h3

theorem memOk_enumUnit {caps : List CapTable} {u : Nat} : memOk (enumUnit caps s u) = true := by
  unfold enumUnit
  dsimp only
  split
  · exact memOk_joinUnit h
  · refine memOk_leaveOut ?_
    exact memOk_of_same h rfl rfl rfl

theorem memOk_readHubTable {caps : List CapTable} : memOk (readHubTable caps s) = true := by
  unfold readHubTable
  dsimp only
  split
  · split
    · refine memOk_logHub ?_
      exact memOk_of_same h rfl rfl rfl
    · exact memOk_of_same h rfl rfl rfl
  · exact h

theorem memOk_enumerate {caps : List CapTable} : memOk (enumerate caps s) = true :=
  memOk_domainNow (memOk_of_same (memOk_foldl (memOk_readHubTable h) (fun _ _ h' => memOk_enumUnit h')) rfl rfl rfl)

theorem memOk_clearStack {k : Nat} : memOk (clearStack s k) = true := memOk_foldl h (fun _ _ h' => memOk_beginSwap h')

theorem eventOk_drainStack {k : Nat} : EventOk (drainStack s k) := by
  unfold drainStack
  dsimp only
  split
  · exact eventOk_none
  · exact eventOk_some (memOk_foldl h fun _ _ h => memOk_putLine (memOk_foldl_fst h fun _ _ h => memOk_pullOwner h) _)

theorem eventOk_isolate {slot : Nat} : EventOk (isolate slot s) := by
  unfold isolate
  dsimp only
  split
  · exact eventOk_none
  · split
    · exact eventOk_some (memOk_answerSlot h)
    · split
      · exact eventOk_some (memOk_answerSlot h)
      · split
        · exact eventOk_some (memOk_answerSlot (memOk_changeUnit (memOk_setGalena h)))
        · split
          · exact eventOk_some (memOk_clearStack (memOk_setStack h))
          · split
            · exact eventOk_some (memOk_clearStack h)
            · split
              · exact eventOk_none
              · exact eventOk_map (eventOk_drainStack h) (fun _ h' => memOk_answerSlot (memOk_changeUnit (memOk_setStack h')))

theorem memOk_filterDram {f : Host.Cell → Bool} {p : NMap Unit} :
    memOk { s with hub := { s.hub with dram := s.hub.dram.filter f, dramPoison := p } } = true := by
  obtain ⟨hd, hc, hr⟩ := (memOk_iff _).1 h
  exact (memOk_iff _).2 ⟨Memory.wf_filter _ _ hd, hc, hr⟩

theorem memOk_wipeStack {k : Nat} : memOk (wipeStack s k) = true := memOk_filterDram (memOk_onShards h)

theorem eventOk_rejoin {slot : Nat} {caps : List CapTable} : EventOk (rejoin slot caps s) := by
  unfold rejoin
  dsimp only
  split
  · exact eventOk_none
  · split
    · exact eventOk_some (memOk_answerSlot h)
    · split
      · exact eventOk_some (memOk_answerSlot (memOk_enumUnit h))
      · refine eventOk_some (memOk_answerSlot (memOk_enumUnit ?_))
        split
        · exact memOk_wipeStack h
        · exact h
      · exact eventOk_some (memOk_answerSlot h)

theorem eventOk_linkWakeSlow {stack module : Nat} : EventOk (linkWakeSlow stack module s) := by
  unfold linkWakeSlow
  dsimp only
  split
  · exact eventOk_none
  · split
    · exact eventOk_none
    · exact eventOk_some (memOk_logHub (memOk_setStack h))

theorem memOk_loseOwners {k : Nat} {key : LineKey} : memOk (loseOwners k s key) = true := by
  unfold loseOwners
  dsimp only
  split
  · exact h
  · refine memOk_foldl (memOk_putLine h _) (fun _ _ h' => ?_)
    split
    · exact memOk_answered h'
    · exact h'

theorem memOk_killOnStack {k : Nat} : memOk (killOnStack s k) = true := memOk_foldl h (fun _ _ h' => memOk_killLaunch h')

theorem memOk_loseJournal : memOk (loseJournal s) = true := memOk_of_same h rfl rfl rfl

theorem memOk_loseShards {k : Nat} : memOk (loseShards s k) = true :=
  memOk_finishLoads (memOk_of_same (memOk_foldl (memOk_onShards h) (fun _ _ h' => memOk_failShard h')) rfl rfl rfl)

theorem memOk_answerIsolates {k : Nat} : memOk (answerIsolates s k) = true := memOk_foldl h (fun _ _ h' => memOk_answerSlot h')

theorem memOk_emptyCores {k : Nat} : memOk (emptyCores s k) = true := memOk_foldl h fun _ _ h => memOk_setCore h _ rfl

theorem memOk_loseStack {k : Nat} : memOk (loseStack k s) = true := by
  unfold loseStack
  extract_lets leaving _ _ s2 s3 s4 s5
  have h2 : memOk s2 = true := memOk_foldl (memOk_setStack h) fun _ _ h => memOk_loseOwners h
  have h3 : memOk s3 = true := memOk_emptyCores (memOk_clearStack (memOk_killOnStack (memOk_changeUnit (memOk_dropHomed h2))))
  have h4 : memOk s4 = true := memOk_loseShards (memOk_loseJournal h3)
  refine memOk_logHub ?_
  unfold s5
  split
  · exact memOk_answerIsolates h4
  · exact h4

theorem eventOk_stackLost {stack : Nat} : EventOk (stackLost stack s) := by
  unfold stackLost
  split
  · exact eventOk_none
  · exact eventOk_some (memOk_loseStack h)

theorem eventOk_inTime {core : Nat} {f : State → Option State} (hf : ∀ s, memOk s = true → EventOk (f s)) : EventOk (inTime core f s) := by
  unfold inTime
  split
  · exact eventOk_stackLost h
  · exact hf _ (memOk_linkWoke h)

theorem eventOk_commitInTime {handle serial : Nat} : EventOk (commitInTime handle serial s) := by
  unfold commitInTime
  split
  · split
    · exact eventOk_stackLost h
    · exact eventOk_homeCommit (memOk_linkWoke h)
  · exact eventOk_homeCommit h

theorem eventOk_moduleRetrain {unit module : Nat} {half : Bool} : EventOk (moduleRetrain unit module half s) := by
  unfold moduleRetrain
  dsimp only
  split
  · split
    · exact eventOk_none
    · split
      · exact eventOk_some (memOk_regrade (memOk_setStack h))
      · exact eventOk_some (memOk_loseStack (memOk_setStack h))
  · split
    · exact eventOk_none
    · split
      · exact eventOk_some (memOk_regrade (memOk_setGalena h))
      · exact eventOk_some (memOk_changeUnit (memOk_setGalena (memOk_setGalena h)))

theorem memOk_dropAreas {core : Nat} : memOk (dropAreas s core) = true := by
  unfold dropAreas
  extract_lets gone live firm s1
  have h1 : memOk s1 = true := memOk_filterRecords h
  exact memOk_foldl (memOk_freeAreas h1) fun _ _ h => memOk_reserveArea h

theorem memOk_dropColumn {core : Nat} : memOk (dropColumn s core) = true := memOk_filterDram (memOk_dropHomed (memOk_dropAreas h))

theorem memOk_useSpare {core : Nat} : memOk (useSpare core s) = true := memOk_of_same h rfl rfl rfl

theorem eventOk_coreFailure {core : Nat} : EventOk (coreFailure core s) := by
  unfold coreFailure
  dsimp only
  split
  · exact eventOk_none
  · split
    · have hd : memOk (useSpare core (dropColumn s core)) = true := memOk_useSpare (memOk_dropColumn h)
      have hc : memOk (setCore (useSpare core (dropColumn s core)) core {}) = true := memOk_setCore hd _ rfl
      exact eventOk_some (memOk_callRound (memOk_regrade (memOk_setStack (memOk_restartPhases hc))))
    · split
      · have hc : memOk (setCore s core { getCore s core with inService := false }) = true := memOk_setCore_same h _ rfl
        exact eventOk_some (memOk_regrade (memOk_dropColumn hc))
      · exact eventOk_none

theorem eventOk_portSet {g port : Nat} {up : Bool} : EventOk (portSet g port up s) := by
  unfold portSet
  dsimp only
  split
  · exact eventOk_none
  · exact eventOk_some (memOk_regrade (memOk_logGalena (memOk_setGalena h)))

theorem eventOk_linkUp {accepts : Bool} {gts width : Nat} : EventOk (linkUp accepts gts width s) := by
  unfold linkUp
  dsimp only
  split
  · exact eventOk_none
  · exact eventOk_some (memOk_of_same h rfl rfl rfl)

/-! ### Reset, boot and attestation -/

theorem memOk_mrExtend {i : Nat} {d : BitVec 384} : memOk (mrExtend s i d) = true := memOk_of_same h rfl rfl rfl

theorem memOk_logReject {kind slot : Nat} {svn reason : Nat} : memOk (logReject s kind slot svn reason) = true := memOk_logHub h

theorem memOk_setKey {i : Nat} {k : KeySlot} : memOk (setKey s i k) = true := by
  refine memOk_mrExtend ?_
  exact memOk_of_same h rfl rfl rfl

theorem memOk_keyRequest {enrol : Bool} {slot t : Nat} {bs : List Byte} : memOk (keyRequest enrol slot t bs s) = true := by
  unfold keyRequest
  dsimp only
  split
  · exact memOk_answerSlot h
  · split
    · exact memOk_answerSlot h
    · split
      · exact memOk_answerSlot h
      · split
        · exact memOk_answerSlot (memOk_logReject h)
        · split <;> exact memOk_answerSlot (memOk_setKey h)

theorem eventOk_keyAction {enrol : Bool} {slot : Nat} : EventOk (keyAction enrol slot s) := by
  unfold keyAction
  dsimp only
  split
  · split
    · exact eventOk_none
    · split
      · exact eventOk_some (memOk_answerSlot h)
      · split
        · exact eventOk_tried h tryOk_error
        · rename_i s1 _ hr
          have h1 : memOk s1 = true := tryOk_fwRead h _ hr
          exact eventOk_some (memOk_keyRequest h1)
  · split
    · exact eventOk_none
    · split
      · exact eventOk_some (memOk_answerSlot h)
      · split
        · exact eventOk_tried h tryOk_error
        · rename_i s1 _ hr
          have h1 : memOk s1 = true := tryOk_fwRead h _ hr
          exact eventOk_some (memOk_keyRequest h1)

theorem eventOk_extend {slot : Nat} : EventOk (extend slot s) := by
  unfold extend
  dsimp only
  split
  · exact eventOk_none
  · split
    · exact eventOk_some (memOk_answerSlot h)
    · split
      · exact eventOk_some (memOk_answerSlot h)
      · split
        · exact eventOk_tried h tryOk_error
        · rename_i s1 _ hr
          have h1 : memOk s1 = true := tryOk_fwRead h _ hr
          exact eventOk_some (memOk_answerSlot (memOk_mrExtend h1))

theorem bootOk_bootImage {imgs : List Image} {kind : Nat} : BootOk (bootImage imgs kind s) := by
  unfold bootImage
  split
  · exact memOk_logReject h
  · split
    · exact memOk_logReject h
    · extract_lets firm s1
      have h1 : memOk s1 = true := by
        refine memOk_mrExtend ?_
        exact memOk_of_same h rfl rfl rfl
      dsimp only [BootOk]
      split
      · exact h1
      · exact memOk_of_same h1 rfl rfl rfl

theorem bootOk_bootImages {imgs : List Image} {l : List Nat} : BootOk (bootImages imgs l s) := by
  induction l generalizing s with
  | nil => exact h
  | cons k t ih =>
    have hk : BootOk (bootImage imgs k s) := bootOk_bootImage h
    unfold bootImages
    cases hb : bootImage imgs k s with
    | error x => rw [hb] at hk; exact hk
    | ok x => rw [hb] at hk; exact ih hk

theorem memOk_advanceSvn : memOk (advanceSvn s) = true := memOk_of_same h rfl rfl rfl

theorem memOk_setBoot {p : BootPhase} : memOk (setBoot s p) = true := memOk_of_same h rfl rfl rfl

theorem memOk_reserveJournal : memOk (reserveJournal s) = true := by
  unfold reserveJournal
  dsimp only
  split
  · exact h
  · exact memOk_journalHeader (memOk_of_same h rfl rfl rfl)

omit h in
theorem memOk_coldStart : memOk (coldStart s) = true := memOk_of_same resetMemoryCanonical rfl rfl rfl

theorem memOk_releaseAll : memOk (releaseAll s) = true := memOk_of_same h rfl rfl rfl

theorem memOk_bootRest {imgs : List Image} : memOk (bootRest imgs s) = true := by
  have hb : BootOk (bootImages imgs laterKinds s) := bootOk_bootImages h
  unfold bootRest
  split
  · rename_i hr; rw [hr] at hb; exact memOk_setBoot hb
  · rename_i hr; rw [hr] at hb; exact memOk_setBoot (memOk_advanceSvn (memOk_releaseAll hb))

omit h in
theorem memOk_coldReset {imgs : List Image} {caps : List CapTable} : memOk (coldReset imgs caps s) = true := by
  have hb : BootOk (bootImages imgs firstKinds (mrExtend (coldStart s) 0 Config.bootRomDigest)) := bootOk_bootImages (memOk_mrExtend memOk_coldStart)
  unfold coldReset
  split
  · rename_i hr; rw [hr] at hb; exact memOk_setBoot hb
  · rename_i hr; rw [hr] at hb; exact memOk_bootRest (memOk_reserveJournal (memOk_enumerate hb))

theorem eventOk_warmReset {imgs : List Image} : EventOk (warmReset imgs s) := by
  unfold warmReset
  dsimp only
  split
  · exact eventOk_none
  · refine eventOk_some (memOk_bootRest ?_)
    exact memOk_of_same h rfl rfl rfl

theorem memOk_respond {r : SpdmResp} : memOk (respond s r) = true := memOk_of_same h rfl rfl rfl

theorem eventOk_answerSpdm {r : SpdmResp} : EventOk (answerSpdm r s) := by
  unfold answerSpdm
  split
  · exact eventOk_some (memOk_respond h)
  · exact eventOk_none

theorem memOk_noteVca {fresh : Bool} {req : List Byte} {r : SpdmResp} : memOk (noteVca fresh req r s) = true := memOk_of_same h rfl rfl rfl

theorem memOk_noteCerts {req : List Byte} {r : SpdmResp} : memOk (noteCerts req r s) = true := memOk_of_same h rfl rfl rfl

theorem eventOk_getVersion : EventOk (getVersion s) := eventOk_answerSpdm (memOk_noteVca h)

theorem eventOk_getCapabilities : EventOk (getCapabilities s) := eventOk_answerSpdm (memOk_noteVca h)

theorem eventOk_negotiate {sig : Nat} : EventOk (negotiate sig s) := by
  unfold negotiate
  dsimp only
  split
  · exact eventOk_answerSpdm h
  · refine eventOk_answerSpdm (memOk_noteVca ?_)
    exact memOk_of_same h rfl rfl rfl

theorem eventOk_getDigests : EventOk (getDigests s) := eventOk_answerSpdm (memOk_noteCerts h)

theorem eventOk_getCertificate {slot : Nat} : EventOk (getCertificate slot s) := by
  unfold getCertificate
  split
  · exact eventOk_answerSpdm (memOk_noteCerts h)
  · exact eventOk_answerSpdm h

theorem eventOk_signed {transcript : List Byte} {f : Nat → Nat → SpdmResp} : EventOk (signed s transcript f) := by
  unfold signed
  split <;> exact eventOk_answerSpdm h

theorem eventOk_challenge {slot nonce : Nat} : EventOk (challenge slot nonce s) := by
  unfold challenge
  dsimp only
  split
  · refine eventOk_map (eventOk_signed h) (fun _ h' => ?_)
    split
    · exact memOk_of_same h' rfl rfl rfl
    · exact h'
  · exact eventOk_answerSpdm h

/-! ### Registers -/

theorem memOk_trapRptr {v : Nat} : memOk (trapRptr v s) = true := by
  unfold trapRptr
  dsimp only
  split
  · exact h
  · refine memOk_drainReports (memOk_freeAreas ?_)
    exact memOk_of_same h rfl rfl rfl

theorem eventOk_galenaFlush {g : Nat} {v : Word} : EventOk (galenaFlush g v s) := by
  unfold galenaFlush
  dsimp only
  split
  · exact eventOk_none
  · refine eventOk_some ?_
    split
    · exact memOk_foldl (memOk_setGalena h) (fun _ _ h' => memOk_physWrite h')
    · exact h

theorem eventOk_galenaFlushed {g : Nat} : EventOk (galenaFlushed g s) := by
  unfold galenaFlushed
  dsimp only
  split
  · exact eventOk_none
  · exact eventOk_some (memOk_setGalena h)

theorem memOk_writeDisp {r : Nat} {v : Word} : memOk (writeDisp s r v) = true := by
  unfold writeDisp
  dsimp only
  split
  · exact memOk_of_same h rfl rfl rfl
  · split
    · exact memOk_of_same h rfl rfl rfl
    · split
      · exact memOk_of_same h rfl rfl rfl
      · split
        · exact memOk_of_same h rfl rfl rfl
        · split
          · split
            · exact memOk_setQ h
            · exact memOk_getD (eventOk_dispQctl h) h
            · exact memOk_getD (eventOk_dispQwptr h) h
            · exact h
          · exact h

theorem memOk_writeMbx {r : Nat} {v : Word} : memOk (writeMbx s r v) = true := by
  unfold writeMbx
  dsimp only
  split
  · exact memOk_ringDoorbell h
  · split
    · exact memOk_of_same h rfl rfl rfl
    · split
      · exact memOk_of_same h rfl rfl rfl
      · split
        · exact memOk_of_same h rfl rfl rfl
        · split
          · exact memOk_trapRptr h
          · split
            · exact memOk_of_same h rfl rfl rfl
            · exact h

theorem memOk_writeShootCtl {v : Word} : memOk (writeShootCtl s v) = true := by
  unfold writeShootCtl
  dsimp only
  split
  · refine memOk_of_same ?_ rfl rfl rfl
    split
    · split
      · refine memOk_shootStart ?_
        exact memOk_of_same h rfl rfl rfl
      · refine memOk_shootStart ?_
        exact memOk_of_same h rfl rfl rfl
      · refine memOk_shootStart ?_
        exact memOk_of_same h rfl rfl rfl
      · exact memOk_of_same h rfl rfl rfl
    · exact memOk_of_same h rfl rfl rfl
  · split
    · split
      · refine memOk_shootStart ?_
        exact memOk_of_same h rfl rfl rfl
      · refine memOk_shootStart ?_
        exact memOk_of_same h rfl rfl rfl
      · refine memOk_shootStart ?_
        exact memOk_of_same h rfl rfl rfl
      · exact memOk_of_same h rfl rfl rfl
    · exact memOk_of_same h rfl rfl rfl

theorem memOk_writeTrans {r : Nat} {v : Word} : memOk (writeTrans s r v) = true := by
  unfold writeTrans
  dsimp only
  split
  · exact memOk_of_same h rfl rfl rfl
  · exact memOk_of_same h rfl rfl rfl
  · exact memOk_of_same h rfl rfl rfl
  · exact memOk_of_same h rfl rfl rfl
  · exact memOk_writeShootCtl h
  · exact memOk_migSweep (memOk_of_same h rfl rfl rfl)
  · exact memOk_migSweep (memOk_of_same h rfl rfl rfl)
  · exact memOk_migSweep (memOk_of_same h rfl rfl rfl)
  · exact memOk_migBase h
  · exact memOk_migCtl h
  · exact memOk_migRptr h
  · exact h

theorem memOk_writeRegister {off : Nat} {v : Word} : memOk (writeRegister s off v) = true := by
  unfold writeRegister
  dsimp only
  split
  · exact memOk_writeDisp h
  · split
    · exact memOk_writeMbx h
    · split
      · exact memOk_writeTrans h
      · split
        · exact memOk_of_same h rfl rfl rfl
        · split
          · exact memOk_of_same h rfl rfl rfl
          · split
            · exact memOk_getD (eventOk_galenaFlush h) h
            · exact h

theorem memOk_noteHost {who : Requester} : memOk (noteHost s who) = true := by
  unfold noteHost
  dsimp only
  split
  · exact memOk_of_same h rfl rfl rfl
  · exact h

theorem memOk_registerPut {who : Requester} {off : Nat} {w64 : Bool} {v : Word} : memOk (registerPut who off w64 v s) = true := by
  unfold registerPut
  split
  · exact h
  · exact memOk_writeRegister (memOk_noteHost h)

theorem memOk_regBad {who : Requester} {off : Nat} : memOk (regBad s who off) = true := memOk_of_same h rfl rfl rfl

theorem eventOk_registerWrite {who : Requester} {off : Nat} {w64 : Bool} {v : Word} : EventOk (registerWrite who off w64 v s) := by
  unfold registerWrite
  split
  · exact eventOk_none
  · split
    · exact eventOk_some h
    · split
      · split
        · exact eventOk_some (memOk_regBad h)
        · split
          · exact eventOk_some (memOk_logHub h)
          · exact eventOk_some (memOk_registerPut h)
      · split
        · exact eventOk_some (memOk_regBad h)
        · split
          · exact eventOk_some (memOk_logHub h)
          · exact eventOk_some (memOk_registerPut h)

theorem eventOk_hostWrite {off : Nat} {v : Word} : EventOk (hostWrite off v s) := eventOk_registerWrite h

/-! ### Every instruction and every event of the core -/

theorem outOk_execTrap {n : Nat} : OutOk (execTrap n s) := outOk_issue h fun _ h => h

theorem outOk_execBr {p : Pred} {slot line : Nat} : OutOk (execBr p slot line s) := outOk_issue h fun _ h => h

theorem outOk_execFenceAcq {k : Ctl} : OutOk (execFenceAcq k s) := outOk_issue h fun _ h => verdictOk_fenceBody h

theorem outOk_exec {i : Instr} : OutOk (exec i s) := by
  cases i with
  | nop | nopL64 => exact outOk_issue h fun _ h => verdictOk_plainDone h
  | ret => exact outOk_issue h fun _ h => verdictOk_retBody h
  | halt => exact outOk_issue h fun _ h => verdictOk_haltBody h
  | endl => exact outOk_issue h fun _ h => verdictOk_endlBody h
  | brReg => exact outOk_issue h fun _ h => verdictOk_useBody fun _ _ hc => verdictOk_regTarget fun _ => memOk_withCs_same h hc
  | callReg => exact outOk_issue h fun _ h => verdictOk_useBody fun _ _ hc => verdictOk_regTarget fun _ => verdictOk_callTo h hc
  | chk | brc => exact outOk_issue h fun _ h => verdictOk_useBody fun _ _ hc => memOk_withCs_same h hc
  | trap => exact outOk_execTrap h
  | br => exact outOk_execBr h
  | bkpt => exact outOk_issue h fun _ h => verdictOk_bkptBody h
  | rdcr => exact outOk_issue h fun _ h => verdictOk_rdcrBody h
  | wrcr => exact outOk_issue h fun _ h => verdictOk_wrcrBody h
  | semw | semwL64 => exact outOk_issue h fun _ h => verdictOk_semwBody h
  | semp | sempL64 => exact outOk_issue h fun _ h => verdictOk_sempBody h
  | call => exact outOk_issue h fun _ h => verdictOk_callTo h rfl
  | loopReg => exact outOk_issue h fun _ h => verdictOk_useBody fun _ _ hc => verdictOk_loopBody h hc
  | loopImm => exact outOk_issue h fun _ h => verdictOk_loopBody h rfl
  | add | sub | mul | mulh | mulhu | div | divu | rem | remu | and | or | xor | andn | shl | shr | sar | rotr | min | minu | max | maxu | clz
    | ctz | popc | cmp | mov | addi | andi | ori | xori | shlImm | shrImm | sarImm | rotrImm | movi | moviHi | addiX96 | andiX96 | oriX96 |
    xoriX96 | ext | ins | sel | rdid => exact outOk_issue h fun _ h => verdictOk_scalarBody h fun _ _ h => nomatch h
  | lds | sts | lda | sta | vld | vst | vlds | vsts | vgath | vscat => exact outOk_issue h fun _ h => verdictOk_memBody h fun _ _ h => nomatch h
  | qpush => exact outOk_issue h fun _ h => verdictOk_qpushBody h
  | qpop => exact outOk_issue h fun _ h => verdictOk_qpopBody h
  | fork => exact outOk_issue h fun _ h => verdictOk_forkBody h
  | launch => exact outOk_issue h fun _ h => verdictOk_launchBody h
  | waitch => exact outOk_issue h fun _ h => verdictOk_waitchBody h
  | exit => exact outOk_issue h fun _ h => verdictOk_ite trivial (verdictOk_exitBody h)
  | yield => exact outOk_issue h fun _ h => verdictOk_yieldBody h
  | hintRem => exact outOk_issue h fun _ h => verdictOk_hintRemBody h
  | cba => exact outOk_issue h fun _ h => verdictOk_cbaBody h
  | cbw => exact outOk_issue h fun _ h => verdictOk_cbwBody h
  | gbar => exact outOk_issue h fun _ h => verdictOk_gbarBody h
  | watch => exact outOk_issue h fun _ h => verdictOk_watchBody h
  | mwait => exact outOk_issue h fun _ h => verdictOk_mwaitBody h
  | cqPut | cqMcast => exact outOk_issue h fun _ h => verdictOk_cqBody h
  | cqFence => exact outOk_issue h fun _ h => verdictOk_cqFenceBody h
  | tld => exact outOk_issue h fun _ h => verdictOk_memBody h fun _ _ => verdictOk_of_tldReq
  | tst => exact outOk_issue h fun _ h => verdictOk_memBody h fun _ _ => verdictOk_of_tstReq
  | ldS => exact outOk_issue h fun _ h => verdictOk_ldsBody h
  | rspSt => exact outOk_issue h fun _ h => verdictOk_rspBody h
  | pref => exact outOk_issue h fun _ h => verdictOk_prefBody h
  | fenceAcq => exact outOk_execFenceAcq h
  | fenceRel | fenceSc => exact outOk_issue h fun _ h => verdictOk_fenceBody h
  | acqr => exact outOk_issue h fun _ h => verdictOk_rangeBody h fun _ _ _ hc => verdictOk_acqrRange h hc
  | cwb => exact outOk_issue h fun _ h => verdictOk_rangeBody h fun _ _ _ hc => verdictOk_cwbRange h hc
  | rowStat =>
    refine outOk_issue h fun _ h => ?_
    exact verdictOk_scalarBody (memOk_meetBanks h) fun _ _ h => nomatch h
  | rowAct => exact outOk_issue h fun _ h => verdictOk_rowActBody h
  | rowCon | rowCon2 => exact outOk_issue h fun _ h => verdictOk_rowConBody h
  | rowPut => exact outOk_issue h fun _ h => verdictOk_rowPutBody h
  | rowPre => exact outOk_issue h fun _ h => verdictOk_rowPreBody h
  | rowWait | mfence => exact outOk_issue h fun _ h => verdictOk_ite h trivial
  | amoAdd | amoSub | amoMin | amoMax | amoMinu | amoMaxu | amoAnd | amoOr | amoXor | amoSwp | amoCas | amoFadd | amoFmin | amoFmax | acas128
    | redAdd | redSub | redMin | redMax | redMinu | redMaxu | redAnd | redOr | redXor | redFadd | redFmin | redFmax | vamoAdd | vamoSub |
    vamoMin | vamoMax | vamoMinu | vamoMaxu | vamoAnd | vamoOr | vamoXor | vamoSwp | vamoFadd | vamoFmin | vamoFmax =>
    exact outOk_issue h fun _ h => verdictOk_atomBody h
  | vadd | vsub | vmul | vfma | vfms | vfnma | vmin | vmax | vabs | vneg | vadds | vsubs | vmulh | vdiv | vsqrt | vrcp | vrsq | vexp2 | vlog2
    | vsinp | vcosp | vand | vor | vxor | vnot | vshl | vshr | vsar | vclz | vpopc => exact outOk_issue h fun _ h => verdictOk_laneBody h
  | vcvt | vqnt | vdqnt | vmov | vbcast | vcmp | knot | kpop | kmovMask | kmovFromVector | kmovToVector | vshuf | vxswp |
    vvoteBallot | vbperm => exact outOk_issue h fun _ h => verdictOk_vecBody h fun _ _ h => nomatch h
  | vscan => exact outOk_issue h fun _ h => verdictOk_vecBody h fun _ _ h => by cases h
  | vextr | vins | vrot | vbpload =>
    refine outOk_issue h fun _ h => verdictOk_vecBody h fun _ _ hv => ?_
    split at hv <;> cases hv
    trivial
  | kand | kor | kxor => exact outOk_issue h fun _ h => verdictOk_maskBody h
  | vredsum | vredmax | vredmin => exact outOk_issue h fun _ h => verdictOk_redBody h
  | vvoteAny | vvoteAll => exact outOk_issue h fun _ h => verdictOk_voteBody h
  | vsel | vcompress | vexpand => exact outOk_issue h fun _ h => verdictOk_vecBody h fun _ _ => verdictOk_of_withMask
  | tset => exact outOk_issue h fun _ h => verdictOk_tsetBody h
  | tget => exact outOk_issue h fun _ h => verdictOk_ite trivial (verdictOk_addClaims (verdictOk_scalarBody h fun _ _ h => nomatch h))
  | tzero | azero => exact outOk_issue h fun _ h => verdictOk_mtxBody h fun _ => rfl
  | tmov => exact outOk_issue h fun _ h => verdictOk_mtxBody h fun _ => putRows_spm ..
  | ttr | tcvt | tacc | atile => exact outOk_issue h fun _ h => verdictOk_mtxBody h fun _ => by simp
  | mma | mmaSp => exact outOk_issue h fun _ h => verdictOk_mmaBody h
  | mmaP => exact outOk_issue h fun _ h => verdictOk_mmaPBody h
  | retire => exact outOk_evOut h (eventOk_retire h)
  | lineFetch => exact outOk_evOut h (eventOk_lineFetch h)
  | accessClear => exact outOk_evOut h (eventOk_accessClear h)
  | loadReturn => exact outOk_evOut h (eventOk_loadReturn h)
  | llcFill => exact outOk_evOut h (eventOk_llcFill h)
  | migIntervalExpiry => exact outOk_evOut h (eventOk_migInterval h)
  | coreStoreRequest | coreReadRequest => exact outOk_evOut h (eventOk_pieceRequest h)
  | ioCoherentWrite => exact outOk_evOut h (eventOk_ioWrite h)
  | ioCoherentRead => exact outOk_evOut h (eventOk_ioRead h)
  | revocation => exact outOk_evOut h (eventOk_revocation h)
  | revocationAnswer => exact outOk_evOut h (eventOk_inTime h fun _ h => eventOk_revocationAnswer h)
  | forwardRequest => exact outOk_evOut h (eventOk_forwardRequest h)
  | forwardAnswer => exact outOk_evOut h (eventOk_inTime h fun _ h => eventOk_forwardAnswer h)
  | writeBack => exact outOk_evOut h (eventOk_inTime h fun _ h => eventOk_writeBack h)
  | registrationAnswer => exact outOk_evOut h (eventOk_registrationAnswer h)
  | writeBackAck => exact outOk_evOut h (eventOk_writeBackAck h)
  | mwaitWake => exact outOk_evOut h (eventOk_mwaitWake h)
  | mwaitTimeout => exact outOk_evOut h (eventOk_mwaitTimeout h)
  | cbwComplete => exact outOk_evOut h (eventOk_cbwComplete h)
  | gbarPhaseComplete => exact outOk_evOut h (eventOk_gbarPhase h)
  | waitchComplete => exact outOk_evOut h (eventOk_waitchDone h)
  | fenceComplete => exact outOk_evOut h (eventOk_fenceDone h)
  | rowActComplete | rowPreComplete => exact outOk_evOut h (eventOk_rowJobDone h)
  | leaseExpiry => exact outOk_evOut h (eventOk_leaseExpiry h)
  | refreshDue => exact outOk_evOut h (eventOk_refreshDue h)
  | refreshEnd => exact outOk_evOut h (eventOk_refreshEnds h)
  | tempHot | tempNormal => exact outOk_evOut h (eventOk_ite (eventOk_some (memOk_setTemp h)) eventOk_none)
  | activationWindowSet | matrixIssueGapSet => exact outOk_evOut h (eventOk_ite (eventOk_some (memOk_of_same h rfl rfl rfl)) eventOk_none)
  | tileEccError => exact outOk_evOut h (eventOk_tileEcc h)
  | stateEcc => exact outOk_evOut h (eventOk_stateEcc h)
  | teamStart => exact outOk_evOut h (eventOk_ite (eventOk_teamStart h) eventOk_none)
  | contextRestore => exact outOk_evOut h (eventOk_ite (eventOk_contextRestore h) eventOk_none)
  | streamRestart => exact outOk_evOut h (eventOk_streamRestart h)
  | contextSave => exact outOk_evOut h (eventOk_ite (eventOk_contextSave h) eventOk_none)
  | teamRetire => exact outOk_evOut h (eventOk_teamRetire h)
  | launchRetire => exact outOk_evOut h (eventOk_launchRetire h)
  | teamStop => exact outOk_evOut h (eventOk_teamStop h)
  | trapDrainLimit => exact outOk_evOut h (eventOk_drainLimit h)
  | watchdog => exact outOk_evOut h (eventOk_watchdog h)
  | sliceExpiry => exact outOk_evOut h (eventOk_ite (eventOk_sliceExpiry h) eventOk_none)
  | placementRound => exact outOk_evOut h (eventOk_placementRound h)
  | gangSteal => exact outOk_evOut h (eventOk_gangSteal h)
  | schedulerHeartbeat => exact outOk_evOut h (eventOk_heartbeat h)
  | schedAdopt => exact outOk_evOut h (eventOk_schedAdopt h)
  | schedulerReturn => exact outOk_evOut h (eventOk_schedReturn h)
  | workerFailover => exact outOk_evOut h (eventOk_workerFails h)
  | quartzMismatch => exact outOk_evOut h (eventOk_quartzMismatch h)
  | quartzRestart => exact outOk_evOut h (eventOk_quartzRestart h)
  | dispQwptr | dispQctl | galenaFlush => exact outOk_evOut h (eventOk_ite eventOk_none (eventOk_hostWrite h))
  | packetCopy => exact outOk_evOut h (eventOk_packetCopy h)
  | childDispatch => exact outOk_evOut h (eventOk_childDispatch h)
  | tokenTick => exact outOk_evOut h (eventOk_tokenTick h)
  | openPkt => exact outOk_evOut h (eventOk_openArrives h)
  | opened => exact outOk_evOut h (eventOk_openedArrives h)
  | req => exact outOk_evOut h (eventOk_reqArrives h)
  | homeCommit => exact outOk_evOut h (eventOk_commitInTime h)
  | reply => exact outOk_evOut h (eventOk_replyArrives h)
  | ack => exact outOk_evOut h (eventOk_ackArrives h)
  | acked => exact outOk_evOut h (eventOk_ite (eventOk_ackedArrives h) eventOk_none)
  | close => exact outOk_evOut h (eventOk_closeArrives h)
  | closed => exact outOk_evOut h (eventOk_closedArrives h)
  | closeAll => exact outOk_evOut h (eventOk_closeAllArrives h)
  | ackTimer => exact outOk_evOut h (eventOk_ackTimer h)
  | retransmit => exact outOk_evOut h (eventOk_retransmit h)
  | rouRecovery => exact outOk_evOut h (eventOk_some (memOk_rouRecovery h))
  | requesterHubReset => exact outOk_evOut h (eventOk_some (memOk_requesterReset h))
  | remoteLoad => exact outOk_evOut h (eventOk_remoteLoad h)
  | fabPkgLost => exact outOk_evOut h (eventOk_pkgLost h)
  | fabAgeDrop => exact outOk_evOut h (eventOk_ite (eventOk_some (memOk_logGalena h)) eventOk_none)
  | fabPortDown | fabPortUp => exact outOk_evOut h (eventOk_portSet h)
  | copyPiece => exact outOk_evOut h (eventOk_copyPiece h)
  | allot => exact outOk_evOut h (eventOk_allotRequest h)
  | reclaim => exact outOk_evOut h (eventOk_reclaimRequest h)
  | isolate => exact outOk_evOut h (eventOk_isolate h)
  | rejoin => exact outOk_evOut h (eventOk_rejoin h)
  | loadimg => exact outOk_evOut h (eventOk_loadimg h)
  | unloadimg => exact outOk_evOut h (eventOk_unloadimg h)
  | resume => exact outOk_evOut h (eventOk_resumeRequest h)
  | kill => exact outOk_evOut h (eventOk_killRequest h)
  | pageResume => exact outOk_evOut h (eventOk_pageResume h)
  | pageDecline => exact outOk_evOut h (eventOk_pageDecline h)
  | enroll | disable => exact outOk_evOut h (eventOk_keyAction h)
  | extend => exact outOk_evOut h (eventOk_extend h)
  | modreg => exact outOk_evOut h (eventOk_modreg h)
  | modunreg => exact outOk_evOut h (eventOk_modunreg h)
  | chunkVerify => exact outOk_evOut h (eventOk_chunkVerify h)
  | loadimgTimeout => exact outOk_evOut h (eventOk_loadTimeout h)
  | shootdownUnmap | shootdownWrprotect | shootdownInval | migRingRptr | migRingCtl | migRingBase | trapRptr =>
    exact outOk_evOut h (eventOk_hostWrite h)
  | shootdownDone => exact outOk_evOut h (eventOk_shootDone h)
  | galenaFlushDone => exact outOk_evOut h (eventOk_galenaFlushed h)
  | registerWrite => exact outOk_evOut h (eventOk_registerWrite h)
  | hostReadShared | hostReadExclusive => exact outOk_evOut h (eventOk_hostRequest h)
  | hostWriteBack => exact outOk_evOut h (eventOk_hostWriteBack h)
  | hostSnoopAnswer => exact outOk_evOut h (eventOk_hostSnoopAnswer h)
  | slateRecallLost => exact outOk_evOut h (eventOk_slateRecallLost h)
  | slateTimeout => exact outOk_evOut h (eventOk_slateTimeout h)
  | linkUp => exact outOk_evOut h (eventOk_linkUp h)
  | linkWakeSlow => exact outOk_evOut h (eventOk_linkWakeSlow h)
  | stackLost => exact outOk_evOut h (eventOk_stackLost h)
  | moduleRetrain => exact outOk_evOut h (eventOk_moduleRetrain h)
  | coreFailure => exact outOk_evOut h (eventOk_coreFailure h)
  | coldReset => exact outOk_evOut h (eventOk_some memOk_coldReset)
  | warmReset => exact outOk_evOut h (eventOk_warmReset h)
  | getVersion => exact outOk_evOut h (eventOk_getVersion h)
  | getCapabilities => exact outOk_evOut h (eventOk_getCapabilities h)
  | negotiateAlgorithms => exact outOk_evOut h (eventOk_negotiate h)
  | getDigests => exact outOk_evOut h (eventOk_getDigests h)
  | getCertificate => exact outOk_evOut h (eventOk_getCertificate h)
  | challenge => exact outOk_evOut h (eventOk_challenge h)
  | getMeasurements => exact outOk_evOut h (eventOk_ite (eventOk_signed h) (eventOk_answerSpdm h))
  | spdmUnsupported => exact outOk_evOut h (eventOk_answerSpdm h)
  | registerUncorrectableError => exact outOk_evOut h (eventOk_regError h)
  | incomingRspStWrite => exact outOk_evOut h (eventOk_rspWrite h)
  | apertureStoreDelivered => exact outOk_evOut h (eventOk_apertureStore h)
  | refreshStart => exact outOk_evOut h (eventOk_refreshStart h)

/-! ### Events that are due by themselves -/

omit h in
theorem eventsOk_dueRetire {c : Nat} {cs : CoreSt} : EventsOk (dueRetire s c cs) := by
  unfold dueRetire
  cases cs.flights.find? fun f => mayRetire s cs f with
  | none => exact eventsOk_nil
  | some f => exact eventsOk_cons (fun _ h => eventOk_retire h) eventsOk_nil

omit h in
theorem eventsOk_dueAccess {c : Nat} {a : Access} : EventsOk (dueAccess s c a) := by
  refine eventsOk_append (eventsOk_append ?_ (eventsOk_flatMap fun i => ?_)) (eventsOk_cons (fun _ h => eventOk_loadReturn h) eventsOk_nil)
  · exact eventsOk_ite (eventsOk_cons (fun _ h => eventOk_accessClear h) eventsOk_nil) eventsOk_nil
  · split
    · refine eventsOk_ite (eventsOk_cons (fun _ h => eventOk_llcFill h) (eventsOk_cons ?_ eventsOk_nil)) eventsOk_nil
      split <;> exact fun _ h => eventOk_pieceRequest h
    · exact eventsOk_nil

omit h in
theorem eventsOk_dueMessages {c : Nat} {cs : CoreSt} : EventsOk (dueMessages c cs) := by
  refine eventsOk_append (eventsOk_append (eventsOk_append (eventsOk_map fun m => ?_) ?_) ?_) ?_
  · cases m with
    | revoke => exact fun _ h => eventOk_revocation h
    | forward => exact fun _ h => eventOk_forwardRequest h
    | registered => exact fun _ h => eventOk_registrationAnswer h
    | wbAck => exact fun _ h => eventOk_writeBackAck h
  · exact eventsOk_map fun _ _ h => eventOk_writeBack (memOk_linkWoke h)
  · exact eventsOk_map fun _ _ h => eventOk_revocationAnswer (memOk_linkWoke h)
  · exact eventsOk_map fun _ _ h => eventOk_forwardAnswer (memOk_linkWoke h)

omit h in
theorem eventsOk_dueBanks {c : Nat} {cs : CoreSt} : EventsOk (dueBanks c cs) := by
  refine eventsOk_flatMap fun p => eventsOk_append (eventsOk_append (eventsOk_append ?_ ?_) ?_) ?_
  · exact eventsOk_ite (eventsOk_cons (fun _ h => eventOk_refreshEnds h) eventsOk_nil) eventsOk_nil
  · exact eventsOk_ite (eventsOk_cons (fun _ h => eventOk_leaseExpiry h) eventsOk_nil) eventsOk_nil
  · exact eventsOk_ite (eventsOk_cons (fun _ h => eventOk_refreshDue h) eventsOk_nil) eventsOk_nil
  · exact eventsOk_ite (eventsOk_cons (fun _ h => eventOk_refreshStart h) eventsOk_nil) eventsOk_nil

omit h in
theorem eventsOk_dueWaits {c : Nat} {cs : CoreSt} : EventsOk (dueWaits c cs) := by
  refine eventsOk_append (eventsOk_append (eventsOk_append (eventsOk_ite (eventsOk_append ?_ ?_) eventsOk_nil) (eventsOk_flatMap fun j => ?_)) ?_) ?_
  · exact eventsOk_cons (fun _ h => eventOk_mwaitWake h) <| eventsOk_cons (fun _ h => eventOk_mwaitTimeout h) <|
      eventsOk_cons (fun _ h => eventOk_cbwComplete h) <| eventsOk_cons (fun _ h => eventOk_waitchDone h) <|
      eventsOk_cons (fun _ h => eventOk_fenceDone h) eventsOk_nil
  · split
    · exact eventsOk_cons (fun _ h => eventOk_gbarPhase h) eventsOk_nil
    · exact eventsOk_nil
  · exact eventsOk_cons (fun _ h => eventOk_rowJobDone h) (eventsOk_cons (fun _ h => eventOk_rowJobDone h) eventsOk_nil)
  · exact eventsOk_ite eventsOk_nil (eventsOk_cons (fun _ h => eventOk_copyPiece h) eventsOk_nil)
  · exact eventsOk_ite eventsOk_nil (eventsOk_cons (fun _ h => eventOk_copyPiece h) eventsOk_nil)

omit h in
theorem eventsOk_dueTeam {c : Nat} {cs : CoreSt} : EventsOk (dueTeam c cs) := by
  refine eventsOk_append (eventsOk_ite (eventsOk_cons (fun _ h => eventOk_streamRestart h) eventsOk_nil) eventsOk_nil) ?_
  split
  · exact eventsOk_cons (fun _ h => eventOk_drainLimit h) eventsOk_nil
  · exact eventsOk_nil

omit h in
theorem eventsOk_dueFetch {c : Nat} {cs : CoreSt} : EventsOk (dueFetch c cs) := by
  refine eventsOk_flatMap fun e => ?_
  split
  · exact eventsOk_ite (eventsOk_cons (fun _ h => eventOk_lineFetch h) eventsOk_nil) eventsOk_nil
  · exact eventsOk_nil

theorem eventOk_stackSilent {k : Nat} : EventOk (stackSilent k s) := by
  unfold stackSilent
  split
  · exact eventOk_stackLost h
  · exact eventOk_none

omit h in
theorem eventsOk_dueOf {c : Nat} {cs : CoreSt} : EventsOk (dueOf s c cs) :=
  eventsOk_append (eventsOk_append (eventsOk_append (eventsOk_append (eventsOk_append (eventsOk_append eventsOk_dueRetire
    (eventsOk_flatMap fun _ => eventsOk_dueAccess)) eventsOk_dueMessages) eventsOk_dueBanks) eventsOk_dueWaits) eventsOk_dueTeam) eventsOk_dueFetch

theorem eventOk_dueEvent : EventOk (dueEvent s) := by
  refine eventOk_firstEvent h (eventsOk_append (eventsOk_append (eventsOk_append (eventsOk_append (eventsOk_append (eventsOk_append
    (eventsOk_append ?_ ?_) ?_) ?_) ?_) ?_) ?_) ?_)
  · exact eventsOk_ite eventsOk_nil (eventsOk_cons (fun _ h => eventOk_tokenTick h) (eventsOk_map fun _ _ h => eventOk_stackSilent h))
  · exact eventsOk_ite eventsOk_nil (eventsOk_cons (fun _ h => eventOk_migInterval h) eventsOk_nil)
  · exact eventsOk_ite eventsOk_nil (eventsOk_cons (fun _ h => eventOk_migDue h) eventsOk_nil)
  · exact eventsOk_ite (eventsOk_cons (fun _ h => eventOk_recoveryDue h) eventsOk_nil) eventsOk_nil
  · exact eventsOk_ite eventsOk_nil (eventsOk_cons (fun _ h => eventOk_migWrite h) eventsOk_nil)
  · exact eventsOk_map fun _ _ h => eventOk_commitInTime h
  · exact eventsOk_ite eventsOk_nil (eventsOk_cons (fun _ h => eventOk_handParked h) eventsOk_nil)
  · exact eventsOk_flatMap fun _ => eventsOk_dueOf

/-! ### Events of the environment -/

theorem eventOk_registerRead {who : Requester} {off : Nat} {w64 : Bool} : EventOk (registerRead who off w64 s) := by
  unfold registerRead
  dsimp only
  split
  · exact eventOk_none
  · split
    · exact eventOk_some h
    · split
      · split
        · exact eventOk_some (memOk_regBad h)
        · refine eventOk_some ?_
          split
          · exact memOk_of_same h rfl rfl rfl
          · refine memOk_logHub ?_
            exact memOk_of_same h rfl rfl rfl
      · split
        · exact eventOk_some (memOk_regBad h)
        · refine eventOk_some ?_
          split
          · exact memOk_of_same h rfl rfl rfl
          · refine memOk_logHub ?_
            exact memOk_of_same h rfl rfl rfl

theorem eventOk_registerWidth {who : Requester} {off n : Nat} : EventOk (registerWidth who off n s) := by
  unfold registerWidth
  split
  · exact eventOk_none
  · split
    · exact eventOk_some h
    · exact eventOk_some (memOk_regBad h)

theorem eventOk_bar2Resize {n : Nat} : EventOk (bar2Resize n s) := by
  unfold bar2Resize
  dsimp only
  split
  · exact eventOk_some (memOk_of_same h rfl rfl rfl)
  · exact eventOk_none

theorem eventOk_recordWrite {o : Occ} {off : Nat} {bs : List Byte} : EventOk (recordWrite o off bs s) := by
  unfold recordWrite
  split
  · split
    · exact eventOk_some (memOk_putRecord h (Memory.wf_writeBytes _ _ _ (wf_of_findRecord h ‹_›)))
    · exact eventOk_none
  · exact eventOk_none

theorem eventOk_corrected {k struct : Nat} {core addr : Nat} : EventOk (corrected k struct core addr s) := by
  unfold corrected
  split
  · exact eventOk_some (memOk_logCorrected h)
  · split
    · exact eventOk_some (memOk_logHub h)
    · exact eventOk_none

theorem eventOk_spmError {core gran : Nat} : EventOk (spmError core gran s) := by
  unfold spmError
  dsimp only
  split
  · exact eventOk_some (memOk_setCore_same h _ rfl)
  · exact eventOk_none

theorem eventOk_dramError {pa : Nat} : EventOk (dramError pa s) := by
  unfold dramError
  split
  · exact eventOk_some (memOk_setMark h _ _)
  · exact eventOk_none

theorem eventOk_checkDrop {port n : Nat} : EventOk (checkDrop port n s) := by
  unfold checkDrop
  split
  · exact eventOk_some (memOk_logGalena h)
  · exact eventOk_none

theorem eventOk_kindDrop {src kind n : Nat} : EventOk (kindDrop src kind n s) := by
  unfold kindDrop
  split
  · exact eventOk_some (memOk_logHub (memOk_hear h))
  · exact eventOk_none

theorem eventOk_loadAgain {core acc part : Nat} : EventOk (loadAgain core acc part s) := by
  unfold loadAgain
  split
  · split
    · split
      · exact eventOk_none
      · exact eventOk_some (memOk_setCore_same (memOk_sendPacket h) _ rfl)
    · exact eventOk_none
  · exact eventOk_none

theorem eventOk_askAgain {core va : Nat} : EventOk (askAgain core va s) := by
  unfold askAgain
  dsimp only
  split
  · exact eventOk_some (memOk_setCore_same (memOk_sendPacket h) _ rfl)
  · exact eventOk_none

theorem memOk_rouRestart : memOk (rouRestart s) = true := memOk_rouStops h

theorem eventOk_packetWrite {g pa : Nat} {bs : List Byte} : EventOk (packetWrite g pa bs s) := by
  unfold packetWrite
  dsimp only
  split
  · exact eventOk_none
  · split
    · exact eventOk_some h
    · exact eventOk_some (memOk_setGalena h)

theorem eventOk_envEvent {e : EnvEvent} : EventOk (envEvent e s) := by
  unfold envEvent
  split
  · exact eventOk_registerRead h
  · exact eventOk_registerWidth h
  · exact eventOk_bar2Resize h
  · exact eventOk_chunkCopy h
  · exact eventOk_recordWrite h
  · exact eventOk_corrected h
  · exact eventOk_spmError h
  · exact eventOk_dramError h
  · exact eventOk_checkDrop h
  · exact eventOk_kindDrop h
  · exact eventOk_loadAgain h
  · exact eventOk_askAgain h
  · exact eventOk_some (memOk_rouRestart h)
  · exact eventOk_packetWrite h

/-! ### Streams that act -/

theorem memOk_tick {n : Nat} : memOk (tick n s) = true := memOk_of_same h rfl rfl rfl

theorem memOk_pass {n : Nat} : memOk (pass n s) = true := by
  unfold pass
  dsimp only
  split
  · exact memOk_tick h
  · split
    · exact memOk_tick (memOk_cbwsComplete h)
    · refine memOk_of_same (memOk_cbwsComplete ?_) rfl rfl rfl
      exact memOk_of_same (memOk_cbwsComplete h) rfl rfl rfl

omit h in
theorem outOk_mapNext {f : State → State} {o : Out} (ho : OutOk o) (hf : ∀ s, memOk s = true → memOk (f s) = true) : OutOk (mapNext f o) := by
  cases o with
  | next t => exact outOk_next (hf t (ho t rfl))
  | fault r => exact outOk_fault
  | refused r => exact fun _ h => nomatch h

omit h in
theorem memOk_withTags {t : State} {c : Nat} {e : Engine} (ht : memOk t = true) : memOk (withTags s t c e) = true := by
  unfold withTags
  split
  · exact ht
  · exact memOk_setCore_same ht _ (by simp)

theorem outOk_streamAct : OutOk (streamAct s) := by
  unfold streamAct
  extract_lets c e cs st
  split
  · exact outOk_next h
  · split
    · refine outOk_next ?_
      split
      · exact memOk_sequencerEnd h
      · exact h
    · split
      · exact outOk_next h
      · exact outOk_next (memOk_raiseTrap h ..)
      · exact outOk_next (memOk_endStream (memOk_setStream h ..))
      · exact outOk_mapNext (outOk_exec (memOk_setStream h ..)) fun _ ht => memOk_withTags ht

theorem memOk_passEmpty {n : Nat} : memOk (passEmpty n s) = true := by
  induction n generalizing s with
  | zero => exact h
  | succ n ih =>
    have ho : OutOk (streamAct s) := outOk_streamAct h
    change memOk (if atEmpty s then
      match streamAct s with | .next t => passEmpty n t | _ => s else s) = true
    generalize streamAct s = o at ho ⊢
    split
    · cases o with
      | next t => exact ih (ho t rfl)
      | fault _ => exact h
      | refused _ => exact h
    · exact h

theorem memOk_pastEmpty : memOk (pastEmpty s) = true := memOk_passEmpty h

theorem outOk_streamStep : OutOk (streamStep s) := by
  have ho : OutOk (streamAct s) := outOk_streamAct h
  unfold streamStep
  extract_lets o
  split
  · split
    · exact outOk_next h
    · exact ho
  · exact ho

theorem outOk_actorStep {a : Actor} : OutOk (actorStep a s) := by
  cases a with
  | stream c e =>
    refine outOk_streamStep ?_
    exact memOk_of_same h rfl rfl rfl
  | event i =>
    unfold actorStep
    dsimp only
    split
    · exact outOk_exec h
    · exact outOk_next h
  | evictL1 c k => exact outOk_evOut h (eventOk_evictL1 h)
  | evictLlc k => exact outOk_evOut h (eventOk_evictLlc h)
  | env e => exact outOk_evOut h (eventOk_envEvent h)

theorem eventOk_stopDue : EventOk (stopDue s) := by
  intro s1 hs
  obtain ⟨_, p, _, _, hp, _⟩ := List.findSome?_eq_some_iff.1 hs
  split at hp
  · exact eventOk_teamStop h _ hp
  · cases hp

theorem outOk_freeStep : OutOk (freeStep s) := by
  unfold freeStep
  split
  · exact outOk_next (eventOk_orElse (eventOk_dueEvent h) (eventOk_stopDue h) _ ‹_›)
  · exact outOk_mapNext (outOk_streamStep (memOk_pastEmpty h)) fun _ h => memOk_tick h

/-! ### A step -/

theorem outOk_step : OutOk (step s) := by
  unfold step
  split
  · refine outOk_actorStep (memOk_pass ?_)
    exact memOk_of_same h rfl rfl rfl
  · exact outOk_freeStep h

end

end Sys2Proof.Machine

section
open Sys2Proof Sys2Proof.Machine

/-- Settles O52: a step is made of updates that each keep the canonical form; what writes bytes does so through `writeByte`, or moves them in order. -/
theorem stepKeepsMemoryCanonical : Obligations.StepKeepsMemoryCanonical := by
  unfold Obligations.StepKeepsMemoryCanonical
  exact fun s t h ht => outOk_step h t ht

end
end

section
/-! SUPPORT. Which bytes of a scratchpad a store changes (R248, R254 to R257), and the obligation about the frame of the stores. -/

namespace Sys2Proof.Machine

/-! ### The bytes of a store -/

@[simp] theorem length_leBytes (n x : Nat) : (leBytes n x).length = n := by
  induction n generalizing x with
  | zero => rfl
  | succ n ih => simp [leBytes, ih]

/-- A store replaces the scratchpad and its marks. -/
theorem spmStore_eq (data : Nat) (es : List Elem) (cs : CoreSt) : ∃ m p, spmStore cs data es = { cs with spm := m, spmPoison := p } := by
  induction es generalizing cs with
  | nil => exact ⟨cs.spm, cs.spmPoison, rfl⟩
  | cons x t ih => exact ih (spmWrite cs x.va (sliceBytes data x.off x.n))

/-- A byte outside every element of a store keeps its value. -/
theorem readByte_spmStore_out {a : Nat} (data : Nat) {es : List Elem} (h : ∀ e ∈ es, a < e.va ∨ e.va + e.n ≤ a) (cs : CoreSt) :
    readByte (spmStore cs data es).spm a = readByte cs.spm a := by
  induction es generalizing cs with
  | nil => rfl
  | cons x t ih =>
    obtain ⟨hx, ht⟩ := List.forall_mem_cons.1 h
    have hw : readByte (spmWrite cs x.va (sliceBytes data x.off x.n)).spm a = readByte cs.spm a :=
      readByte_writeBytes_out _ _ _ _ (by rwa [sliceBytes, length_leBytes])
    exact (ih ht _).trans hw

/-! ### What a store's body answers -/

@[simp] theorem bareCore_reserveDst (cs : CoreSt) (now id : Nat) (sd : Option SDst) (vd : Option MVDst) :
    bareCore (reserveDst cs now id sd vd) = bareCore cs := by
  unfold reserveDst
  dsimp only
  split <;> split <;> simp

theorem bareCore_takeMV {cs cs' : CoreSt} {w : Nat} {x : MVSrc} {v : VVal} (h : takeMV cs w x = some (v, cs')) : bareCore cs' = bareCore cs := by
  cases x with
  | sq n => exact bareCore_popDq h
  | reg _ | zero | lane => cases h; rfl

theorem bareCore_takeData {cs cs' : CoreSt} {o : MemOp} {v : VVal} (h : takeData cs o = some (v, cs')) : bareCore cs' = bareCore cs := by
  unfold takeData at h
  split at h
  · cases h; rfl
  · exact bareCore_takeMV h

/-- A verdict of a store: nothing but queues and accesses has changed, or in scratchpad space the elements of the request have been written. -/
def StoresAt (o : MemOp) (r : MemReq) (s : State) (v : Verdict) : Prop :=
  Quiet s v ∨ ∃ d cs, v = .done d ∧ d.s = withCs s (spmStore cs r.data r.es) ∧ bareCore cs = bareCore (focusCs s) ∧ o.space = .spm

theorem storesAt_memAccess {s : State} {cs : CoreSt} {e : Engine} {o : MemOp} {x : MemIn} {cl : List Claim} {r : MemReq}
    (hc : bareCore cs = bareCore (focusCs s)) (hr : r.store = true) : StoresAt o r s (memAccess s cs e o x cl r) := by
  unfold memAccess
  split
  · exact .inl trivial
  · split
    · rename_i hs
      split
      · exact .inl trivial
      · exact .inr ⟨_, cs, if_pos hr, rfl, hc, hs⟩
    · split
      · exact .inl (sameBare_withCs rfl)
      · exact .inl (sameBare_withCs hc)

/-- A store whose operands are ready waits, faults, or stores. -/
theorem storesAt_memBody {o : MemOp} {f : MemIn → MemReq} {g : MemIn → Except Verdict MemReq} (hg : ∀ x, g x = .ok (f x))
    (hf : ∀ x, (f x).store = true) {s : State} {x : MemIn} {cs2 : CoreSt} (hm : MemReady o s x cs2 (f x)) :
    StoresAt o (f x) s (memBody o g s) := by
  obtain ⟨⟨cs1, ss, v, ht, hd, rfl⟩, hz, hd', ha, hu⟩ := hm
  have hc : bareCore (reserveDst cs2 (coreCycle s) (focusCs s).nextId o.sd o.vd) = bareCore (focusCs s) :=
    (bareCore_reserveDst ..).trans ((bareCore_takeData hd).trans (bareCore_takeSrcs _ _ ht))
  simp only [memBody, ht, hd, hg, hz, hd', ha, hu, Bool.not_true, Bool.or_self, Bool.false_eq_true, if_false]
  split
  · exact .inl trivial
  · exact storesAt_memAccess hc (hf _)

/-! ### The frame -/

/-- An instruction whose conditions hold and whose body has no effect but the issue's own leaves everything as it was that an issue keeps. -/
theorem issue_quiet {i : Instr} {s s1 t : State} {w : Bool} {body : State → Verdict} (hi : Issues i s s1 w) (hq : Quiet s1 (body s1))
    (h : issue i s body = .next t) : SameBare s t := by
  obtain ⟨h1, h2, h3, h4, h5⟩ := hi
  have hs : SameBare s s1 := sameBare_takeWait h4
  simp only [focusCs] at h2 h5
  simp only [issue, h1, h2, h3, h4, h5, Bool.not_true, Bool.false_eq_true, if_false] at h
  split at h <;> cases h
  · exact SameBare.refl s
  · exact sameBare_markPending ..
  · exact hs.trans (sameBare_raiseTrap ..)
  · rename_i u r hb
    have hu : Quiet s1 (.trapIn u r) := hb ▸ hq
    exact (hs.trans hu).trans (sameBare_raiseTrap ..)
  · exact hs.trans (sameBare_haltStream ..)
  · rename_i d hb
    have hd : Quiet s1 (.done d) := hb ▸ hq
    exact (hs.trans hd).trans (sameBare_finish ..)

/-- What follows the effect of an instruction keeps what the effect keeps. -/
theorem issue_done {i : Instr} {s s1 t : State} {w : Bool} {body : State → Verdict} {d : Done} (hi : Issues i s s1 w) (hb : body s1 = .done d)
    (h : issue i s body = .next t) : SameBare d.s t := by
  rw [issue_goes hi hb] at h
  cases h
  exact sameBare_finish ..

theorem spm_of_bareCore {a b : CoreSt} (h : bareCore a = bareCore b) : a.spm = b.spm := by
  obtain ⟨-, -, -, -, hs, -⟩ := bareCore_parts h
  exact hs

/-- Stores of the same bytes in two cores that agree. -/
theorem bareCore_withSpm {a b : CoreSt} (h : bareCore a = bareCore b) (m : List Host.Cell) (p : NMap Unit) :
    bareCore { a with spm := m, spmPoison := p } = bareCore { b with spm := m, spmPoison := p } :=
  show { bareCore a with spm := m, spmPoison := p } = { bareCore b with spm := m, spmPoison := p } by rw [h]

/-- The frame of a store. -/
theorem storeFrame_of {i : Instr} {o : MemOp} {f : MemIn → MemReq} {g : MemIn → Except Verdict MemReq}
    (he : ∀ s, exec i s = issue i s (memBody o g)) (hg : ∀ x, g x = .ok (f x)) (hf : ∀ x, (f x).store = true) : StoreFrame i o f := by
  intro s s1 t w x cs2 hi hm h
  rw [he] at h
  obtain hq | ⟨d, cs, hb, hd, hc, hsp⟩ := storesAt_memBody hg hf hm
  · have ht : SameBare s t := issue_quiet hi hq h
    obtain ⟨hO, hF⟩ := keeps_of_sameBare ht
    exact ⟨hO, hF, fun a _ => congrArg (readByte · a) (spm_of_bareCore (bareCore_of_sameBare ht _))⟩
  · have hs : SameBare s s1 := by
      obtain ⟨-, -, -, hw, -⟩ := hi
      exact sameBare_takeWait hw
    obtain ⟨hO, hF⟩ := keeps_withCs hs (hd ▸ issue_done hi hb h)
    have hcs : bareCore cs = bareCore (focusCs s) := hc.trans (bareCore_focusCs hs)
    refine ⟨hO, .inr ?_, fun a ha => ?_⟩
    · obtain ⟨m, p, hmp⟩ := spmStore_eq (f x).data (f x).es cs
      exact ⟨_, ⟨m, p, rfl⟩, hF.trans (hmp ▸ bareCore_withSpm hcs m p)⟩
    · have hout : ∀ e ∈ (f x).es, a < e.va ∨ e.va + e.n ≤ a := ha.resolve_left (by rw [hsp]; nofun)
      rw [spm_of_bareCore hF, readByte_spmStore_out _ hout, spm_of_bareCore hcs]

end Sys2Proof.Machine

section
open Sys2Proof Sys2Proof.Machine

/-- Settles O58: each store by the shared frame of its shape and the request that it forms. -/
theorem storesFrame : Obligations.StoresFrame := by
  unfold Obligations.StoresFrame
  refine ⟨?_, ?_, ?_, ?_, ?_⟩
  · exact fun k size rel hint a b lit => storeFrame_of (fun _ => rfl) (fun _ => rfl) fun _ => rfl
  · exact fun k size rel sp hint a b lit => storeFrame_of (fun _ => rfl) (fun _ => rfl) fun _ => rfl
  · exact fun k rel sp hint d a lit => storeFrame_of (fun _ => rfl) (fun _ => rfl) fun _ => rfl
  · exact fun k size rel sp hint d a lit => storeFrame_of (fun _ => rfl) (fun _ => rfl) fun _ => rfl
  · exact fun k size rel sp hint d a b => storeFrame_of (fun _ => rfl) (fun _ => rfl) fun _ => rfl

end
end

section
/-! SUPPORT. The faults of memory accesses, and the obligations about them and about the atomic instructions (R252, R321 to R326). -/

namespace Sys2Proof.Machine

/-- The SIZE and SUBF that a store reports (R308) take no part in the checks of its address. -/
theorem accessFaults_of_type {i : Instr} {o : MemOp} {f : MemIn → MemReq} (n : Nat) (h : AccessFaults i { o with type := n } f) :
    AccessFaults i o f := h

end Sys2Proof.Machine

section
open Sys2Proof Sys2Proof.Machine

/-- Settles O16: each access by the shared shape of memory instructions and the request that it forms. -/
theorem accessFaultChecks : Obligations.AccessFaultChecks := by
  unfold Obligations.AccessFaultChecks
  refine ⟨?_, ?_, ?_, ?_⟩
  · exact fun k size sx acq sp hint d a lit => accessFaults_of (fun _ => rfl) fun _ => rfl
  · exact fun k size rel sp hint a b lit => accessFaults_of_type size (accessFaults_of (fun _ => rfl) fun _ => rfl)
  · exact fun k acq sp hint d a lit => accessFaults_of (fun _ => rfl) fun _ => rfl
  · exact fun k rel sp hint d a lit => accessFaults_of_type (storeType 5 d) (accessFaults_of (fun _ => rfl) fun _ => rfl)

/-- Settles O17: each instruction by the shared shape of atomics and the one operation that it forms. -/
theorem atomicResults : Obligations.AtomicResults := by
  unfold Obligations.AtomicResults
  refine ⟨?_, ?_, ?_, ?_, ?_, ?_, ?_, ?_, ?_, ?_, ?_, ?_, ?_, ?_, ?_⟩
  all_goals
    intros
    exact atomic_of fun _ => rfl

/-- Settles O18: each instruction by the shared shape of atomics and the one operation that it forms. -/
theorem reductionAtomicResults : Obligations.ReductionAtomicResults := by
  unfold Obligations.ReductionAtomicResults
  refine ⟨?_, ?_, ?_, ?_, ?_, ?_, ?_, ?_, ?_, ?_, ?_, ?_⟩
  all_goals
    intros
    exact atomic_of fun _ => rfl

/-- Settles O19: each instruction by the shared shape of atomics and the groups of its lanes. -/
theorem vectorAtomicResults : Obligations.VectorAtomicResults := by
  unfold Obligations.VectorAtomicResults
  refine ⟨?_, ?_, ?_, ?_, ?_, ?_, ?_, ?_, ?_, ?_, ?_, ?_, ?_⟩
  all_goals
    intros
    exact atomic_of fun _ => rfl

end
end

section
/-! SUPPORT. What taking a precise fault does to the core in which it is raised (R366, R367, R371, R379), and the obligation about it. -/

namespace Sys2Proof.Machine

theorem pairOf_ne (c : Nat) : pairOf c ≠ c := by
  unfold pairOf
  split <;> omega

/-- The note of a trap concerns the team and none of its streams. -/
@[simp] theorem noteTrap_stream (s : State) (cs : CoreSt) (e f : Engine) (code prio : Nat) :
    (noteTrap s cs e code prio).stream f = cs.stream f := by
  unfold noteTrap
  split
  · cases f <;> rfl
  · split
    · cases f <;> rfl
    · rfl
  · rfl

/-- The first trap of a running half starts its drain. -/
theorem noteTrap_running (s : State) {cs : CoreSt} (h : cs.run = .running) (e : Engine) (code prio : Nat) :
    noteTrap s cs e code prio = { cs with run := .draining (coreCycle s), tcode := code, tcodePrio := prio, tcodeEng := e } := by
  simp only [noteTrap, h]

/-- The other half's drain leaves this core as it is. -/
theorem getCore_drainPair_self (s : State) (c : Nat) : getCore (drainPair s c) c = getCore s c := by
  unfold drainPair
  split
  · dsimp only
    split
    · rw [getCore_setCore, if_neg (pairOf_ne c).symm]
    · rfl
  · rfl

/-- A stream that has taken a fault. -/
def faulted (x : Stream) (r : FaultRec) (w : Bool) (pc : Pc) : Stream := { x with fault := some r, waitDone := w, pc := pc, pending := none }

section
variable (s : State) (c : Nat) (e : Engine) (r : FaultRec) (w : Bool) (pc : Pc)

theorem getCore_raiseTrap_self : getCore (raiseTrap s c e r w pc) c =
    noteTrap s ((getCore s c).setStream e (faulted ((getCore s c).stream e) r w pc)) e (trapCode r.trap) (trapPrio (trapCode r.trap)) :=
  (getCore_drainPair_self _ c).trans (by rw [getCore_setCore, if_pos rfl]; rfl)

theorem getStream_raiseTrap (f : Engine) : getStream (raiseTrap s c e r w pc) c f =
    if f = e then faulted ((getCore s c).stream e) r w pc else (getCore s c).stream f := by
  rw [getStream, getCore_raiseTrap_self, noteTrap_stream, CoreSt.stream_setStream]

end

theorem not_runnable_of_fault {s : State} {c : Nat} {e : Engine} {r : FaultRec} (h : (getStream s c e).fault = some r) :
    runnable s c e = false := by
  rw [getStream] at h
  simp [runnable, h]

end Sys2Proof.Machine

section
open Sys2Proof Sys2Proof.Machine

/-- Settles O48: the core's streams and its drain by what it is after the fault, and all that is kept by the shared frame of faults. -/
theorem trapEntry : Obligations.TrapEntry := by
  unfold Obligations.TrapEntry
  intro s c e r w pc
  obtain ⟨hhub, hrou, hdisp, -, -, -, hcores⟩ := sameBare_raiseTrap s c e r w pc
  have he : getStream (raiseTrap s c e r w pc) c e = faulted ((getCore s c).stream e) r w pc := by rw [getStream_raiseTrap, if_pos rfl]
  refine ⟨he, fun f hf => ?_, not_runnable_of_fault (congrArg Stream.fault he), fun hr => ?_, hcores c, hhub, hrou, hdisp, fun d _ => hcores d⟩
  · rw [getStream_raiseTrap, if_neg hf]
  · rw [getCore_raiseTrap_self, noteTrap_running s (by rw [CoreSt.setStream_run, hr])]
    exact ⟨rfl, rfl, rfl⟩

end
end

section
/-! SUPPORT. LD.S, RSP.ST and PREF, the fences and the range instructions (R258 to R262, R282 to R284, R344, R345), and the obligation about
their results. -/

namespace Sys2Proof.Machine

/-! ### LD.S (R258) -/

section
variable {s : State} {cs : CoreSt} {e : Engine} {o : MemOp} {x : MemIn} {cl : List Claim} {r : MemReq} (hmis : misaligned r = none)
include hmis

theorem memAccess_spm (hs : o.space = .spm) (ho : outOfSpm r = none) : memAccess s cs e o x cl r = spmAccess s cs o r cl := by
  simp only [memAccess, hmis, hs, ho]

theorem memAccess_global (hs : o.space = .global) (hf : rfailTrap s cs o.rel (piecesOf r.es) = none) :
    memAccess s cs e o x cl r = startAccess s cs e o x r cl := by
  simp only [memAccess, hmis, hs, hf]

end

theorem spmAccess_done (s : State) (cs : CoreSt) (o : MemOp) (r : MemReq) :
    spmAccess s (reserved s o cs) o r (claimsOf (o.reads s.focusEng) (o.writes s.focusEng)) = .done (spmDone o s cs r) := by
  unfold spmAccess spmDone
  dsimp only
  split <;> rfl

theorem startAccess_done (s : State) (cs : CoreSt) (o : MemOp) (x : MemIn) (r : MemReq) :
    startAccess s (reserved s o cs) s.focusEng o x r (claimsOf (o.reads s.focusEng) (o.writes s.focusEng)) = .done (globalDone o s cs x r) := rfl

/-- The operands of LD.S. -/
def specOp (sp : Space) (hint : Nat) (d : SDst) (a : SSrc) : MemOp := { srcs := [a], sd := some d, space := sp, hint := hint, lat := 4 }

/-- The request of LD.S. -/
def specReq (size : Nat) (sx : Bool) (d : SDst) (lit : BitVec 32) (x : MemIn) : MemReq :=
  { store := false, es := [⟨baseAddr x lit.toInt, 2 ^ size, 0⟩], dst := .scalar .mem d size sx true, align := 2 ^ size }

section
variable {s : State} {size : Nat} {sx : Bool} {sp : Space} {hint : Nat} {d : SDst} {a : SSrc} {lit : BitVec 32} {x : MemIn} {cs1 : CoreSt}
  (he : s.focusEng = .mem) (hm : MemReady (specOp sp hint d a) s x cs1 (specReq size sx d lit x))
  (hmis : misaligned (specReq size sx d lit x) = none)
include he hm hmis

/-- LD.S whose operands are ready and aligned: outside the scratchpad it gives the poisoned zero, and else it accesses memory. -/
theorem ldsBody_ready : ldsBody size sx sp hint d a lit s =
    if sp = .spm && (outOfSpm (specReq size sx d lit x)).isSome then
      speculativeZero s cs1 d 4 (claimsOf ((specOp sp hint d a).reads s.focusEng) ((specOp sp hint d a).writes s.focusEng))
    else if sp = .global && accessStalls s (focusCs s) .mem false (piecesOf (specReq size sx d lit x).es) then .stall
    else memAccess s (reserved s (specOp sp hint d a) cs1) s.focusEng (specOp sp hint d a) x
      (claimsOf ((specOp sp hint d a).reads s.focusEng) ((specOp sp hint d a).writes s.focusEng)) (specReq size sx d lit x) := by
  obtain ⟨⟨cs0, ss, v, ht, hd, rfl⟩, hz, hr, hp, hu⟩ := hm
  cases hd
  rw [he] at ht hz hp hu ⊢
  replace ht : takeSrcs (focusCs s) .mem [a] = some (ss, cs1) := ht
  replace hz : hazard s (focusCs s) .mem (claimsOf ((specOp sp hint d a).reads .mem) ((specOp sp hint d a).writes .mem)) 4 = false := hz
  replace hr : roomDst (focusCs s) (some d) none = true := hr
  replace hu : readTag { cs := focusCs s, ss := ss, v := {}, ix := {} } = none := hu
  have hreq (y : MemIn) : { store := false, es := oneElem (baseAddr y (litOff lit)) size, dst := .scalar .mem d size sx true, align := 2 ^ size } =
      specReq size sx d lit y := rfl
  have hop : { srcs := [a], sd := some d, space := sp, hint := hint, lat := 4 } = specOp sp hint d a := rfl
  unfold ldsBody
  simp only [ht, hop, hz, hr, hp, hu, hreq]
  rw [show misaligned (specReq size sx d lit { cs := focusCs s, ss := ss, v := {}, ix := {} }) = none from hmis]
  rfl

theorem ldsBody_spm (hs : sp = .spm) (ho : outOfSpm (specReq size sx d lit x) = none) :
    ldsBody size sx sp hint d a lit s = .done (spmDone (specOp sp hint d a) s cs1 (specReq size sx d lit x)) := by
  have hsp : (specOp sp hint d a).space = .spm := hs
  rw [ldsBody_ready he hm hmis, if_neg (by simp [ho]), if_neg (by simp [hs]), memAccess_spm hmis hsp ho, spmAccess_done]

theorem ldsBody_spmRange (hs : sp = .spm) (ho : outOfSpm (specReq size sx d lit x) ≠ none) :
    ldsBody size sx sp hint d a lit s =
      speculativeZero s cs1 d 4 (claimsOf ((specOp sp hint d a).reads .mem) ((specOp sp hint d a).writes .mem)) := by
  rw [ldsBody_ready he hm hmis, if_pos (by simp [hs, Option.isSome_iff_ne_none.2 ho]), he]

theorem ldsBody_global (hs : sp = .global) (ha : accessStalls s (focusCs s) .mem false (piecesOf (specReq size sx d lit x).es) = false) :
    ldsBody size sx sp hint d a lit s = .done (globalDone (specOp sp hint d a) s cs1 x (specReq size sx d lit x)) := by
  have hsp : (specOp sp hint d a).space = .global := hs
  rw [ldsBody_ready he hm hmis, if_neg (by simp [hs]), if_neg (by simp [ha]), memAccess_global hmis hsp rfl, startAccess_done]

end

/-! ### RSP.ST and PREF (R259 to R262) -/

/-- The operands of RSP.ST. -/
def rspOp (d : MVSrc) (a b : SSrc) : MemOp := { srcs := [a, b], vsrc := some d, space := .spm, lat := 2 }

/-- The request of RSP.ST, in the scratchpad of its target. -/
def rspReq (lit : BitVec 32) (x : MemIn) : MemReq := { store := true, es := [⟨baseAddr x lit.toInt, 512, 0⟩], data := x.v.data.toNat, align := 64 }

theorem rspBody_sends {s : State} {d : MVSrc} {a b : SSrc} {lit : BitVec 32} {x : MemIn} {cs2 : CoreSt} {t : Nat} (he : s.focusEng = .mem)
    (hm : MemReady (rspOp d a b) s x cs2 (rspReq lit x)) (ht : rspTarget s (x.ss.getD 1 {}).val.toNat = some t)
    (hmis : misaligned (rspReq lit x) = none) (ho : outOfSpm (rspReq lit x) = none) :
    rspBody d a b lit s = .done
      { s := setCore (withCs s cs2) t { getCore (withCs s cs2) t with
          rspIn := (getCore (withCs s cs2) t).rspIn ++ [(s.focusCore, baseAddr x lit.toInt, x.v.data)] }
        lat := 2, claims := claimsOf ((rspOp d a b).reads .mem) [] } := by
  obtain ⟨⟨cs1, ss, v, hs, hd, rfl⟩, hz, -, hp, hu⟩ := hm
  rw [he] at hs hz hp hu
  replace hs : takeSrcs (focusCs s) .mem [a, b] = some (ss, cs1) := hs
  replace hd : takeMV cs1 32 d = some (v, cs2) := hd
  replace hz : hazard s (focusCs s) .mem (claimsOf ((rspOp d a b).reads .mem) []) 2 = false := hz
  replace hu : readTag { cs := focusCs s, ss := ss, v := v, ix := {} } = none := hu
  replace ht : rspTarget s (ss.getD 1 {}).val.toNat = some t := ht
  have hreq (y : MemIn) : vecStore y (wholeElem y lit) 64 = rspReq lit y := rfl
  have hop : { srcs := [a, b], vsrc := some d, space := .spm, lat := 2 } = rspOp d a b := rfl
  unfold rspBody
  simp only [hs, hd, hop, hz, hp, hu, ht, hreq]
  rw [show misaligned (rspReq lit { cs := focusCs s, ss := ss, v := v, ix := {} }) = none from hmis,
    show outOfSpm (rspReq lit { cs := focusCs s, ss := ss, v := v, ix := {} }) = none from ho]
  rfl

/-- A vector without tags has none to read. -/
theorem tagsFrom_empty (g n : Nat) : tagsFrom {} g n = none := by
  have hg (k : Nat) : granTag (({} : VVal).tags.toNat) k = none := by simp [granTag, laneOf, nibTag]
  induction n generalizing g with
  | zero => rfl
  | succ n ih => rw [tagsFrom, hg, ih]; rfl

/-- The access of a PREF. -/
def prefetch (s : State) (cs : CoreSt) (hint va : Nat) : Access :=
  { id := cs.nextId, eng := .mem, store := false, flight := cs.nextId, asid := asidOf s (focusCs s), hint := hint, issuedAt := coreCycle s,
    pref := true, pieces := [{ va := lineBase va, n := 128, off := 0 }] }

theorem prefBody_asks {s : State} {hint : Nat} {a : SSrc} {lit : BitVec 32} {v : Word} {cs1 : CoreSt} (he : s.focusEng = .mem)
    (hr : UseReady s a v cs1) : prefBody hint a lit s =
      .done { s := withCs s { cs1 with accesses := cs1.accesses ++ [prefetch s cs1 hint (wrap64 (v.toNat + lit.toInt))] } } := by
  obtain ⟨hz, ht⟩ := hr
  rw [he] at hz ht
  have hu : readTag { cs := focusCs s, ss := [{ val := v }], v := {}, ix := {} } = none := by
    rw [readTag, tagsFrom_empty]
    rfl
  simp only [prefBody, hz, ht, hu]
  rfl

/-! ### The fences (R344, R345) -/

theorem fenceBody_waits {s : State} (k : WaitKind) {rel : Bool} (h : rel = true → (focusCs s).rfail = none) :
    fenceBody k rel s = .done { s := s, flow := .wait k } := by
  have hr : (if rel then (focusCs s).rfail else none) = none := by
    split
    · exact h ‹_›
    · rfl
  simp only [fenceBody, hr]

/-! ### CWB and ACQR (R282 to R284) -/

/-- A range of some bytes that can be read is worked on. -/
theorem rangeBody_range {s : State} {a b : SSrc} {x n : Word} {cs1 : CoreSt} (h : RangeReady s a b x n cs1) (hn : n ≠ 0)
    (f : CoreSt → Nat → Nat → Verdict) : rangeBody a b f s = f cs1 x.toNat n.toNat := by
  obtain ⟨hz, ht, hle⟩ := h
  have h0 : n.toNat ≠ 0 := fun h => hn (BitVec.eq_of_toNat_eq h)
  have hv : [({ val := x } : SVal), { val := n }].foldl (fun t v => maxTag t v.tag) none = none := rfl
  have hgt : ¬ 2 ^ 64 < x.toNat + n.toNat := Nat.not_lt.2 hle
  simp only [rangeBody, hz, ht, hv, Bool.false_eq_true, if_false]
  exact (if_neg hgt).trans (if_neg h0)

theorem cwbRange_writesBack {s : State} {cs : CoreSt} {x n : Nat} (ho : overlapping s cs .mem [{ va := x, n := n, off := 0 }] = false)
    (hl : (cs.l1.any fun l => (l.owned &&& rangeWords l.key.va x n) != 0 && lineAsked cs l.key) = false) :
    cwbRange s cs x n =
      let r := cs.l1.map (cwbLine cs.nextId x n)
      .done { s := withCs s { cs with l1 := r.map (·.1), wbOut := cs.wbOut ++ r.flatMap (·.2) }, openEnd := !(r.flatMap (·.2)).isEmpty } := by
  simp only [cwbRange, ho, hl, Bool.or_self, Bool.false_eq_true, if_false]

end Sys2Proof.Machine

section
open Sys2Proof Sys2Proof.Machine

/-- Settles O15: each instruction by what its body answers where its operands are ready. -/
theorem otherAccessResults : Obligations.OtherAccessResults := by
  unfold Obligations.OtherAccessResults
  refine ⟨?_, ?_, ?_, ?_, ?_, ?_, ?_, ?_⟩
  · exact fun k size sx sp hint d a lit s s1 w x cs1 hi he hm hmis =>
      ⟨fun hs ho => issue_goes hi (ldsBody_spm he hm hmis hs ho), fun hs ho => issue_goes hi (ldsBody_spmRange he hm hmis hs ho),
        fun hs ha => issue_goes hi (ldsBody_global he hm hmis hs ha)⟩
  · exact fun k hint d a b lit s s1 w x cs2 t hi he hm ht hmis ho => issue_goes hi (rspBody_sends he hm ht hmis ho)
  · exact fun k hint a lit s s1 w v cs1 hi he hr => issue_goes hi (prefBody_asks he hr)
  · exact fun k => plain_of (fun _ => rfl) fun s _ => fenceBody_waits (rel := false) .fenceAcq fun h => absurd h Bool.false_ne_true
  · exact fun k => plain_of (fun _ => rfl) fun s h => fenceBody_waits (rel := true) .fenceRel fun _ => h
  · exact fun k => plain_of (fun _ => rfl) fun s h => fenceBody_waits (rel := true) .fenceSc fun _ => h
  · exact fun k a b s s1 w x n cs1 hi hr hn ho hl => issue_goes hi ((rangeBody_range hr hn _).trans (cwbRange_writesBack ho hl))
  · exact fun k a b s s1 w x n cs1 hi hr hn => issue_goes hi (rangeBody_range hr hn _)

end
end

section
/-! SUPPORT. Barriers, watches and the copy queues at issue (R291 to R300, R347, R358, R359), and the obligation about them. -/

namespace Sys2Proof.Machine

section
variable {s : State}

/-! ### CBA, CBW and GBAR (R293, R294, R296) -/

theorem cbaBody_arrives {d bar n : Nat} {tok : Word} (hz : hazard s (focusCs s) .seq (claimsOf [] [.sreg .seq d]) 1 = false)
    (hg : inBarrierGang s (focusCs s) = true) (hr : seqReleased s s.focusCore = true)
    (ha : (arriveCb (getCb s (focusCs s) bar) n (coreCycle s)).2 = some tok) :
    cbaBody d bar n s = .done { s := withCs (setCb s (focusCs s) bar (arriveCb (getCb s (focusCs s) bar) n (coreCycle s)).1)
                                       (setReg (focusCs s) .seq d { val := tok }) } := by
  simp only [cbaBody, hz, hg, hr, ha, Bool.not_true, Bool.false_eq_true, if_false]

theorem cbwBody_answers {d a bar : Nat} {tok : Word} (hz : hazard s (focusCs s) .seq (claimsOf [.sreg .seq a] [.sreg .seq d]) 1 = false)
    (hg : inBarrierGang s (focusCs s) = true) (hv : readReg (focusCs s).seq .seq a = { val := tok }) :
    cbwBody d a bar s = .done
      (if cbwReady s (focusCs s) bar (tok.getLsbD 0) (tok.getLsbD 1) then { s := withCs s (cbwEnd s (focusCs s) d bar (tok.getLsbD 1)) }
       else { s := s, flow := .wait (.cbw d bar (tok.getLsbD 0) (tok.getLsbD 1)) }) := by
  simp only [cbwBody, hz, hg, hv, Bool.not_true, Bool.false_eq_true, if_false]
  split <;> rfl

theorem gbarBody_arrives {d : Nat} {o : Occ} {g : Gang} (hz : hazard s (focusCs s) .seq (claimsOf [] [.sreg .seq d]) 1 = false)
    (ha : (focusCs s).seq.arrived = false) (hr : seqReleased s s.focusCore = true) (ho : (focusCs s).occ = some o)
    (hg : getGang s o.launch o.gang = some g) :
    gbarBody d s = .done { s := setGang s o.launch o.gang { g with gbar := g.gbar ++ [(o.team, o.half)] }, flow := .wait (.gbar d) } := by
  simp only [gbarBody, hz, ha, hr, ho, hg, Bool.not_true, Bool.false_eq_true, if_false]

/-! ### WATCH and MWAIT (R298, R300) -/

theorem watchBody_arms {a : Nat} {va : Word} {asid : Nat} {x : Xlate} {h : PaKind}
    (hz : hazard s (focusCs s) .seq (claimsOf [.sreg .seq a] []) 1 = false) (hv : readReg (focusCs s).seq .seq a = { val := va })
    (h8 : va.toNat % 8 = 0) (hx : resolve s (asidOf s (focusCs s)) va.toNat .load = .ok (asid, x, h)) :
    watchBody a s = .done { s := armWatch (tlbAdd s asid va.toNat x) s.focusCore (asidOf s (focusCs s)) va.toNat } := by
  simp only [watchBody, hz, hv, h8, hx, ne_eq, not_true_eq_false, Bool.false_eq_true, if_false]

section
variable {d a : Nat} {t : Word} (hz : hazard s (focusCs s) .seq (claimsOf [.sreg .seq a] [.sreg .seq d]) 1 = false)
  (hv : readReg (focusCs s).seq .seq a = { val := t })
include hz hv

theorem mwaitBody_waits (ho : (focusCs s).overflow = false) (hw : (focusCs s).watch.isSome = true) :
    mwaitBody d a s = .done
      { s := withCs s { focusCs s with deadline := mwaitDeadline s (focusCs s) t.toNat }, flow := .wait (.mwait d) } := by
  have hn : (focusCs s).watch.isNone = false := Option.isNone_eq_false_iff.2 hw
  simp only [mwaitBody, hz, hv, ho, hn, Bool.or_self, Bool.false_eq_true, if_false]

/-- Without an entry MWAIT does not wait. -/
theorem mwaitBody_ends (hn : (focusCs s).overflow = true ∨ (focusCs s).watch = none) (hl : loadsDone (focusCs s) .seq = true) :
    mwaitBody d a s = .done { s := withCs s (mwaitEnd (focusCs s) d (if (focusCs s).overflow then 2 else 0)) } := by
  have hw : ((focusCs s).overflow || (focusCs s).watch.isNone) = true := by simpa using hn
  simp only [mwaitBody, hz, hv, hw, hl, Bool.false_eq_true, if_false, if_true]

end

/-! ### The copy queues (R347, R358, R359) -/

/-- The load of a copy command's descriptor. -/
def descriptorLoad (s : State) (mcast : Bool) (q : Nat) (post : Option Nat) (va : Word) : Access :=
  { id := (focusCs s).nextId, eng := .seq, store := false, flight := (focusCs s).nextId, asid := asidOf s (focusCs s),
    issuedAt := coreCycle s, dst := .cqDesc q mcast post, pieces := piecesOf [⟨va.toNat, 64, 0⟩] }

theorem cqBody_loads {mcast : Bool} {a q : Nat} {post : Option Nat} {va : Word}
    (hz : hazard s (focusCs s) .seq (claimsOf [.sreg .seq a] []) 1 = false) (hv : readReg (focusCs s).seq .seq a = { val := va })
    (h64 : va.toNat % 64 = 0) (hr : seqReleased s s.focusCore = true) (hq : (getCq (focusCs s) q).length < 32) :
    cqBody mcast a q post s = .done
      { s := withCs s { focusCs s with accesses := (focusCs s).accesses ++ [descriptorLoad s mcast q post va] }
        openEnd := true, claims := claimsOf [.sreg .seq a] [] } := by
  simp only [cqBody, descriptorLoad, hz, hv, h64, hr, Nat.not_le.2 hq, ne_eq, not_true_eq_false, Bool.not_true, decide_false,
    Bool.or_self, Bool.false_eq_true, if_false]

theorem cqFenceBody_appends {q mask : Nat} {post : Option Nat} (hq : (getCq (focusCs s) q).length < 32) :
    cqFenceBody q mask post s = .done
      { s := withCs s (appendCq (focusCs s) q { kind := .fence, seqNo := 0, post := post, waits := fenceWaits (focusCs s) mask }) } :=
  if_neg (Nat.not_le.2 hq)

end

end Sys2Proof.Machine

section
open Sys2Proof Sys2Proof.Machine

/-- Settles O22: each instruction by what its body answers where its conditions hold; the two copy commands load their descriptor alike. -/
theorem synchronisationResults : Obligations.SynchronisationResults := by
  unfold Obligations.SynchronisationResults
  refine ⟨?_, ?_, ?_, ?_, ?_, ?_, ?_, ?_, ?_⟩
  · exact fun k d bar n tok => plain_of (fun _ => rfl) fun s ⟨hz, hg, hr, ha⟩ => cbaBody_arrives hz hg hr ha
  · exact fun k d a bar tok => plain_of (fun _ => rfl) fun s ⟨hz, hg, hv⟩ => cbwBody_answers hz hg hv
  · exact fun k d o g => plain_of (fun _ => rfl) fun s ⟨hz, ha, hr, ho, hg⟩ => gbarBody_arrives hz ha hr ho hg
  · exact fun k a va asid x h => plain_of (fun _ => rfl) fun s ⟨hz, hv, h8, hx⟩ => watchBody_arms hz hv h8 hx
  · exact fun k d a t => plain_of (fun _ => rfl) fun s ⟨hz, hv, ho, hw⟩ => mwaitBody_waits hz hv ho hw
  · exact fun k d a t => plain_of (fun _ => rfl) fun s ⟨hz, hv, hn, hl⟩ => mwaitBody_ends hz hv hn hl
  · exact fun k q a post va => plain_of (fun _ => rfl) fun s ⟨hz, hv, h64, hr, hq⟩ => cqBody_loads hz hv h64 hr hq
  · exact fun k q a post va => plain_of (fun _ => rfl) fun s ⟨hz, hv, h64, hr, hq⟩ => cqBody_loads hz hv h64 hr hq
  · exact fun k q mask post => plain_of (fun _ => rfl) fun s hq => cqFenceBody_appends hq

end
end

section
/-! SUPPORT. Cold and warm reset and the requests of attestation (R418 to R422), and the obligation about them. -/

namespace Sys2Proof.Machine

/-! ### Boot and the resets (R419) -/

section
variable {imgs : List Image}

section
variable {s t : State}

/-- A later image that is rejected leaves the package in recovery. -/
theorem bootRest_recovers (h : bootImages imgs laterKinds s = .error t) : bootRest imgs s = setBoot t .recovery := by
  simp only [bootRest, h]

theorem bootRest_runs (h : bootImages imgs laterKinds s = .ok t) : bootRest imgs s = setBoot (advanceSvn (releaseAll t)) .running := by
  simp only [bootRest, h]

end

section
variable {caps : List CapTable} {s s1 : State}

/-- An image that Obsidian's boot rejects leaves the package in recovery. -/
theorem coldReset_recovers (h : bootImages imgs firstKinds (mrExtend (coldStart s) 0 Config.bootRomDigest) = .error s1) :
    coldReset imgs caps s = setBoot s1 .recovery := by
  simp only [coldReset, h]

theorem coldReset_continues (h : bootImages imgs firstKinds (mrExtend (coldStart s) 0 Config.bootRomDigest) = .ok s1) :
    coldReset imgs caps s = bootRest imgs (reserveJournal (enumerate caps s1)) := by
  simp only [coldReset, h]

end

theorem warmReset_repeats {s : State} (h1 : 1 ∈ s.fw.released) (h2 : 2 ∈ s.fw.released) : warmReset imgs s =
    some (bootRest imgs { s with fw := { s.fw with mrs := s.fw.mrs.filter fun p => p.1 < 3, released := firstKinds } }) := by
  have h : (s.fw.released.contains 1 && s.fw.released.contains 2) = true := by simp [h1, h2]
  simp only [warmReset, h, Bool.not_true, Bool.false_eq_true, if_false]

end

/-! ### Attestation (R422) -/

theorem answerSpdm_up {s : State} (h : obsidianUp s = true) (r : SpdmResp) : answerSpdm r s = some (respond s r) := if_pos h

/-! What is noted of an exchange leaves Obsidian's firmware running. -/

theorem answerSpdm_noteVca {s : State} (h : obsidianUp s = true) (fresh : Bool) (req : List Byte) (r : SpdmResp) :
    answerSpdm r (noteVca fresh req r s) = some (respond (noteVca fresh req r s) r) := answerSpdm_up (s := noteVca fresh req r s) h r

theorem answerSpdm_noteCerts {s : State} (h : obsidianUp s = true) (req : List Byte) (r : SpdmResp) :
    answerSpdm r (noteCerts req r s) = some (respond (noteCerts req r s) r) := answerSpdm_up (s := noteCerts req r s) h r

section
variable {s : State} (hup : obsidianUp s = true)
include hup

theorem negotiate_agrees {a : Nat} (ha : a < 2) : negotiate a s =
    some (respond (noteVca false (spdmRequest 0xE3 0 0 (leBytes 4 a)) (.algorithms 384 a) { s with fw := { s.fw with spdmSig := some a } })
      (.algorithms 384 a)) :=
  (if_neg (Nat.not_le.2 ha)).trans (answerSpdm_noteVca (s := { s with fw := { s.fw with spdmSig := some a } }) hup ..)

theorem getCertificate_invalid {n : Nat} (hn : n ≠ 0) : getCertificate n s = some (respond s (.error spdmInvalid)) :=
  (if_neg hn).trans (answerSpdm_up hup _)

theorem challenge_invalid {n : Nat} (hn : n ≠ 0) (x : Nat) : challenge n x s = some (respond s (.error spdmInvalid)) :=
  (if_neg hn).trans (answerSpdm_up hup _)

/-! A signed response needs a negotiated algorithm, and carries the signatures in both. -/

theorem signed_unexpected (hs : s.fw.spdmSig = none) (log : List Byte) (f : Nat → Nat → SpdmResp) :
    signed s log f = some (respond s (.error spdmUnexpected)) := by
  simp only [signed, hs, answerSpdm_up hup]

theorem signed_signs {a : Nat} (hs : s.fw.spdmSig = some a) (log : List Byte) (f : Nat → Nat → SpdmResp) :
    signed s log f = some (respond s (f (signAs s a log) (signAs s (1 - a) log))) := by
  simp only [signed, hs, answerSpdm_up hup]

theorem challenge_unexpected (hs : s.fw.spdmSig = none) (x : Nat) : challenge 0 x s = some (respond s (.error spdmUnexpected)) := by
  simp only [challenge, signed_unexpected hup hs, hs, Option.map_some, Option.isSome_none, Bool.false_eq_true, if_false, if_true]

/-- A challenge spends the exchanges about certificates. -/
theorem challenge_signs {a : Nat} (hs : s.fw.spdmSig = some a) (x : Nat) :
    let t := respond s (.challengeAuth 0 x (signAs s a (challengeLog s x)) (signAs s (1 - a) (challengeLog s x)))
    challenge 0 x s = some { t with fw := { t.fw with spdmCerts := [] } } := by
  simp only [challenge, signed_signs hup hs, hs, Option.map_some, Option.isSome_some, if_true]

end

/-- An index of a block, or of all of them, is answered with a signed response. -/
theorem getMeasurements_signed {i : Nat} (hi : i ≤ 16 ∨ i = 0xFF) (s : State) : exec (.getMeasurements i) s =
    evOut s (signed s (measLog s i) fun a b => .measurements i (measBlocks s i) a b) := by
  have h : (decide (i ≤ 16) || decide (i = 0xFF)) = true := by simpa using hi
  exact congrArg (evOut s) (if_pos h)

end Sys2Proof.Machine

section
open Sys2Proof Sys2Proof.Machine

/-- Settles O35: the resets by what each of their boot stages answers, and each request of attestation by its own lemma. -/
theorem bootAndAttestationResults : Obligations.BootAndAttestationResults := by
  unfold Obligations.BootAndAttestationResults
  refine ⟨?_, ?_, ?_, ?_, ?_, ?_⟩
  · exact fun imgs caps s => ⟨fun s1 h => evOut_some (congrArg some (coldReset_recovers h)),
      fun s1 h => ⟨fun s4 h4 => evOut_some (congrArg some ((coldReset_continues h).trans (bootRest_recovers h4))),
        fun s4 h4 => evOut_some (congrArg some ((coldReset_continues h).trans (bootRest_runs h4)))⟩⟩
  · exact fun imgs s h1 h2 => ⟨fun s1 h => evOut_some ((warmReset_repeats h1 h2).trans (congrArg some (bootRest_runs h))),
      fun s1 h => evOut_some ((warmReset_repeats h1 h2).trans (congrArg some (bootRest_recovers h)))⟩
  · refine fun s hup => ⟨evOut_some (answerSpdm_noteVca hup ..), evOut_some (answerSpdm_noteVca hup ..), ?_, ?_,
      fun _ => evOut_some (answerSpdm_up hup _), fun a ha => evOut_some (negotiate_agrees hup ha)⟩
    · rintro r rfl
      exact evOut_some (answerSpdm_noteCerts hup ..)
    · rintro r rfl
      exact evOut_some (answerSpdm_noteCerts hup ..)
  · exact fun s n hup hn => ⟨evOut_some (getCertificate_invalid hup hn), fun x => evOut_some (challenge_invalid hup hn x)⟩
  · exact fun s hup hs => ⟨fun x => evOut_some (challenge_unexpected hup hs x),
      fun i hi => (getMeasurements_signed (.inl hi) s).trans (evOut_some (signed_unexpected hup hs _ _))⟩
  · exact fun s a hup hs => ⟨fun n => evOut_some (challenge_signs hup hs n),
      fun i hi => (getMeasurements_signed hi s).trans (evOut_some (signed_signs hup hs _ _))⟩

end
end

section
/-! SUPPORT. The owner's side of remote operation streams, loads for other packages and the fabric (R305, R309 to R315, R318, R363 to R365), and
the obligation about their events. -/

namespace Sys2Proof.Machine

/-! ### Packets at the owner (R318) -/

theorem atOwner_runs {s s1 : State} {src : Nat} {p : Packet} (hf : fromFabric s src p = some s1) (hr : s1.rou.recovering = none)
    (f : State → Option State) : atOwner s src p f = f s1 := by
  simp only [atOwner, hf, hr, Option.bind_some, Option.isSome_none, Bool.false_eq_true, if_false]

/-- A packet that arrives while the ROU recovers is dropped. -/
theorem atOwner_recovers {s s1 : State} {src : Nat} {p : Packet} (hf : fromFabric s src p = some s1) (hr : s1.rou.recovering.isSome = true)
    (f : State → Option State) : atOwner s src p f = some s1 := by
  simp only [atOwner, hf, hr, Option.bind_some, if_true]

/-! ### OPEN (R305) -/

section
variable {s s1 : State} {src slot nonce : Nat} (hf : fromFabric s src (.openPkt s.pkg slot nonce) = some s1) (hr : s1.rou.recovering = none)
include hf hr

theorem openArrives_known {x : OwnStream} (hx : (s1.rou.streams.find? fun x => x.pkg == src && x.nonce == nonce) = some x) :
    openArrives src slot nonce s = some (sendPacket s1 (.opened src slot nonce x.handle .done)) :=
  (atOwner_runs hf hr _).trans (by simp only [hx])

section
variable (hx : (s1.rou.streams.find? fun x => x.pkg == src && x.nonce == nonce) = none) (hh : s1.rou.nextHandle ≤ maxHandle)
include hx hh

theorem openArrives_new (hn : s1.rou.streams.length < maxStreams) : openArrives src slot nonce s = some (newStream s1 src slot nonce) :=
  (atOwner_runs hf hr _).trans (by simp only [hx, gt_iff_lt, ge_iff_le, Nat.not_lt.2 hh, Nat.not_le.2 hn, if_false])

theorem openArrives_busy (hn : maxStreams ≤ s1.rou.streams.length) :
    openArrives src slot nonce s = some (sendPacket s1 (.opened src slot nonce 0 .busy)) :=
  (atOwner_runs hf hr _).trans (by simp only [hx, gt_iff_lt, ge_iff_le, Nat.not_lt.2 hh, hn, if_false, if_true])

end

end

/-! ### REQ (R309) -/

/-- The state in which a request of a live stream looks for its entry: FLOOR has risen to the packet's and to the window's, and held operations
have been released. -/
def afterAck (s : State) (p : ReqPacket) : State :=
  releaseHeld (retireBelow (retireBelow s p.handle p.ack) p.handle ((p.serial + 2 ^ 32 - 4095) % 2 ^ 32)) p.handle

section
variable {s s1 : State} {p : ReqPacket} (hf : fromFabric s p.src (.req s.pkg p) = some s1) (hr : s1.rou.recovering = none)
include hf hr

theorem reqArrives_unknown (hx : findStream s1 p.handle = none) : reqArrives p s = some (answerWith s1 p .streamLost) :=
  (atOwner_runs hf hr _).trans (by simp only [hx])

section
variable {x y : OwnStream} (hx : findStream s1 p.handle = some x) (hp : x.pkg = p.src) (hl : x.lost = false)
  (hy : findStream (afterAck s1 p) p.handle = some y)
include hx hp hl hy

theorem reqArrives_below (h : serialBefore p.serial y.floor = true) : reqArrives p s = some (afterAck s1 p) := by
  unfold afterAck at hy ⊢
  exact (atOwner_runs hf hr _).trans (by
    simp only [hx, hp, hl, hy, h, ne_eq, not_true_eq_false, Bool.false_eq_true, or_self, if_false, if_true])

section
variable (h : serialBefore p.serial y.floor = false)
include h

theorem reqArrives_entry {e : OwnEnt} (he : findEnt (afterAck s1 p) p.handle p.serial = some e) :
    reqArrives p s = some (if e.st = .done then answer (afterAck s1 p) p.src e else afterAck s1 p) := by
  unfold afterAck at hy he ⊢
  exact (atOwner_runs hf hr _).trans (by
    simp only [hx, hp, hl, hy, h, he, ne_eq, not_true_eq_false, Bool.false_eq_true, or_self, if_false])

theorem reqArrives_new (he : findEnt (afterAck s1 p) p.handle p.serial = none) : reqArrives p s = some (newEntry (afterAck s1 p) y p) := by
  unfold afterAck at hy he ⊢
  exact (atOwner_runs hf hr _).trans (by
    simp only [hx, hp, hl, hy, h, he, ne_eq, not_true_eq_false, Bool.false_eq_true, or_self, if_false])

end

end

end

/-! ### HOME_COMMIT (R311, R383) -/

@[simp] theorem linkWoke_rou (s : State) (c : Nat) : (linkWoke s c).rou = s.rou := by
  unfold linkWoke
  dsimp only
  split <;> rfl

@[simp] theorem wokeBy_rou (s : State) (o : Option Nat) : (wokeBy s o).rou = s.rou := by
  cases o with
  | none => rfl
  | some k => exact linkWoke_rou ..

/-- A commit whose stack answers in time is made. -/
theorem commitInTime_woke {s : State} {h n : Nat} (hl : ∀ k, commitStack s h n = some k → stackLate s k = false) :
    commitInTime h n s = homeCommit h n (wokeBy s (commitStack s h n)) := by
  unfold commitInTime
  split
  · rename_i k hk
    rw [if_neg (Bool.eq_false_iff.1 (hl k hk)), hk]
    rfl
  · rename_i hk
    rw [hk]
    rfl

section
variable {s : State} {h n : Nat} {e : OwnEnt} {x : OwnStream} (he : findEnt s h n = some e) (hx : findStream s h = some x)
  (hs : e.st = .executing) (hj : e.journaled = true) (hr : s.rou.recovering = none)
include he hx hs hj hr

theorem homeCommit_applies (hk : ¬(e.status = .done ∧ e.commit.key = none)) :
    homeCommit h n s = some (commitDone (applyCommit s e) x.pkg e) := by
  have hk' : (decide (e.status = .done) && e.commit.key.isNone) = false := by simpa [Option.isSome_iff_ne_none] using hk
  simp only [homeCommit, he, hx, hs, hj, hr, hk', ne_eq, not_true_eq_false, Option.isSome_none, Bool.false_eq_true, or_self, if_false, if_true]

theorem homeCommit_away {r : State} (hd : e.status = .done) (hk : e.commit.key = none) (hc : commitAway s x.pkg e = .ok r) :
    homeCommit h n s = some r := by
  simp only [homeCommit, he, hx, hs, hj, hr, hd, hk, hc, ne_eq, not_true_eq_false, Option.isSome_none, Option.isNone_none, Bool.false_eq_true,
    or_self, decide_true, Bool.and_self, if_false, if_true]
  rfl

end

/-! ### ACK, CLOSE and CLOSEALL (R312) -/

section
variable {s s1 : State} {src h f : Nat} (hr : s1.rou.recovering = none)
include hr

section
variable (hf : fromFabric s src (.ack s.pkg h f) = some s1)
include hf

theorem ackArrives_owned (ho : ownedBy s1 src h = true) :
    ackArrives src h f s = some (sendPacket (releaseHeld (retireBelow s1 h f) h) (.acked src h)) :=
  (atOwner_runs hf hr _).trans (if_pos ho)

theorem ackArrives_stray (ho : ownedBy s1 src h = false) : ackArrives src h f s = some s1 :=
  (atOwner_runs hf hr _).trans (if_neg (Bool.eq_false_iff.1 ho))

end

section
variable (hf : fromFabric s src (.close s.pkg h f) = some s1)
include hf

theorem closeArrives_owned (ho : ownedBy s1 src h = true) (hi : streamIdle s1 h = true) :
    closeArrives src h f s = some (sendPacket (dropStream s1 h) (.closed src h)) :=
  (atOwner_runs hf hr _).trans (by simp only [ho, hi, Bool.not_true, Bool.and_false, Bool.false_eq_true, if_false, if_true])

theorem closeArrives_stray (ho : ownedBy s1 src h = false) : closeArrives src h f s = some (sendPacket s1 (.closed src h)) :=
  (atOwner_runs hf hr _).trans (by simp only [ho, Bool.false_and, Bool.false_eq_true, if_false])

end

theorem closeAllArrives_idle (hf : fromFabric s src (.closeAll s.pkg) = some s1) (hi : ∀ h ∈ handlesOf s1 src, streamIdle s1 h = true) :
    closeAllArrives src s = some ((handlesOf s1 src).foldl dropStream s1) :=
  (atOwner_runs hf hr _).trans (if_pos (List.all_eq_true.2 hi))

end

/-! ### Loads for other packages (R363) -/

section
variable {s : State} {src va n : Nat} (hp : src ≠ s.pkg) (hd : s.fw.inDomain = true) (hs : src ∈ s.fw.domain) (hn : va % 128 + n ≤ 128)
  (hw : vaClass s va = .window)
include hp hd hs hn hw

/-- A load that faults is answered without data. -/
theorem remoteLoad_faults {t : Trap} (ht : reach (hear s src) 0 va .load = .error t) :
    remoteLoad src va n s = some (sendPacket (hear s src) (.loadReply src va [] [])) := by
  have hc : ¬(src = s.pkg ∨ (!(s.fw.inDomain && s.fw.domain.contains src)) = true ∨ va % 128 + n > 128 ∨ vaClass s va ≠ .window) := by
    simp [hp, hd, hs, hw, hn]
  unfold hear at ht ⊢
  simp only [remoteLoad, hc, ht, if_false]

theorem remoteLoad_reads {s1 : State} {x : Xlate} {y z : Nat} {l : LlcLine} {d : LineData × BitVec 128}
    (ht : reach (hear s src) 0 va .load = .ok (s1, x, .dram y z))
    (hl : getLine (fillLine s1 (keyOf s1 0 va) x.pa (permBits x) 0 none) (keyOf s1 0 va) = some l)
    (hh : homePeek (fillLine s1 (keyOf s1 0 va) x.pa (permBits x) 0 none) l = .ok d) :
    remoteLoad src va n s = some (sendPacket (fillLine s1 (keyOf s1 0 va) x.pa (permBits x) 0 none)
      (.loadReply src va (lineBytes d.1 (va % 128) n) (lineBad d.2 (va % 128) n))) := by
  have hc : ¬(src = s.pkg ∨ (!(s.fw.inDomain && s.fw.domain.contains src)) = true ∨ va % 128 + n > 128 ∨ vaClass s va ≠ .window) := by
    simp [hp, hd, hs, hw, hn]
  unfold hear at ht
  simp only [remoteLoad, hc, ht, hl, hh, if_false]
  rfl

end

/-! ### The fabric (R364, R365) -/

theorem pkgLost_declares {s : State} {p : Nat} (hp : p ≠ s.pkg) (hl : longPending s p = true) (hs : silent s p = true)
    (hi : ∀ h ∈ handlesOf s p, streamIdle s h = true) :
    pkgLost p s =
      let s1 := logHub { s with rou := { s.rou with lostPkgs := p :: s.rou.lostPkgs.filter (· != p) } } 0x0809 [(2, p)]
      let s2 := (handlesOf s1 p).foldl dropStream s1
      some ((slotsTo s2 p).foldl ownerLost s2) := by
  have hc : ¬(p = s.pkg ∨ (!longPending s p) = true ∨ (!silent s p) = true ∨ (!(handlesOf s p).all (streamIdle s)) = true) := by
    simp only [hp, hl, hs, List.all_eq_true.2 hi, Bool.not_true, Bool.false_eq_true, or_self, not_false_eq_true]
  exact if_neg hc

section
variable {s : State} {g port : Nat} (hg : g < 2) (hp : port < 18) (hu : unitState s (8 + g) = .inService ∨ unitState s (8 + g) = .degraded)
include hg hp hu

/-- A port that changes its training. -/
theorem portSet_changes {up : Bool} (hb : (galenaUnit s g).ports.getLsbD port = !up) : portSet g port up s =
    some (regrade (logGalena (setGalena s g { galenaUnit s g with
      ports := if up then (galenaUnit s g).ports ||| BitVec.ofNat 18 (2 ^ port) else (galenaUnit s g).ports &&& ~~~BitVec.ofNat 18 (2 ^ port) }) g
      (if up then 0x0805 else 0x0804) [(1, port)]) (8 + g)) := by
  have hst : ((galenaUnit s g).st == .inService || (galenaUnit s g).st == .degraded) = true := by simpa [unitState] using hu
  have hc : ¬(g ≥ 2 ∨ port ≥ 18 ∨ (galenaUnit s g).ports.getLsbD port = up ∨
      (!((galenaUnit s g).st == .inService || (galenaUnit s g).st == .degraded)) = true) := by
    rw [hst, hb]
    simp [Nat.not_le.2 hg, Nat.not_le.2 hp]
  exact if_neg hc

end

end Sys2Proof.Machine

section
open Sys2Proof Sys2Proof.Machine

/-- Settles O31: each event by its own lemma. -/
theorem ownerEventResults : Obligations.OwnerEventResults := by
  unfold Obligations.OwnerEventResults
  refine ⟨?_, ?_, ?_, ?_, ?_, ?_, ?_, ?_, ?_, ?_, ?_, ?_, ?_, ?_⟩
  · exact fun src slot nonce s s1 hf hr => ⟨fun x hx => evOut_some (openArrives_known hf hr hx),
      fun hx hh => ⟨fun hn => evOut_some (openArrives_new hf hr hx hh hn), fun hn => evOut_some (openArrives_busy hf hr hx hh hn)⟩⟩
  · exact fun p s s1 hf hr hx => evOut_some (reqArrives_unknown hf hr hx)
  · exact fun p s s1 x y hf hr hx hp hl hy => ⟨fun h => evOut_some (reqArrives_below hf hr hx hp hl hy h),
      fun h => ⟨fun e he hd => evOut_some ((reqArrives_entry hf hr hx hp hl hy h he).trans (congrArg some (if_pos hd))),
        fun e he hd => evOut_some ((reqArrives_entry hf hr hx hp hl hy h he).trans (congrArg some (if_neg hd))),
        fun he => evOut_some (reqArrives_new hf hr hx hp hl hy h he)⟩⟩
  · intro h n s e x he hx hs hj hr hl s0
    have hrou : s0.rou = s.rou := wokeBy_rou ..
    have he0 : findEnt s0 h n = some e := by rw [findEnt, hrou]; exact he
    have hx0 : findStream s0 h = some x := by rw [findStream, hrou]; exact hx
    have hr0 : s0.rou.recovering = none := by rw [hrou, hr]
    exact ⟨fun hk => evOut_some ((commitInTime_woke hl).trans (homeCommit_applies he0 hx0 hs hj hr0 hk)),
      fun r hd hk hc => evOut_some ((commitInTime_woke hl).trans (homeCommit_away he0 hx0 hs hj hr0 hd hk hc))⟩
  · exact fun src h f s s1 hf hr => ⟨fun ho => evOut_some (ackArrives_owned hr hf ho), fun ho => evOut_some (ackArrives_stray hr hf ho)⟩
  · exact fun src h f s s1 hf hr => ⟨fun ho hi => evOut_some (closeArrives_owned hr hf ho hi), fun ho => evOut_some (closeArrives_stray hr hf ho)⟩
  · exact fun src s s1 hf hr hi => evOut_some (closeAllArrives_idle hr hf hi)
  · refine fun src s s1 hr => ⟨fun slot nonce hf => ?_, ?_, fun h f hf => ?_, fun h f hf => ?_, fun hf => ?_⟩
    · exact evOut_some (atOwner_recovers hf hr _)
    · rintro p rfl hf
      exact evOut_some (atOwner_recovers hf hr _)
    · exact evOut_some (atOwner_recovers hf hr _)
    · exact evOut_some (atOwner_recovers hf hr _)
    · exact evOut_some (atOwner_recovers hf hr _)
  · exact fun s => rfl
  · exact fun src va n s t hp hd hs hn hw ht => evOut_some (remoteLoad_faults hp hd hs hn hw ht)
  · exact fun src va n s s1 x y z l d hp hd hs hn hw ht hl hh => evOut_some (remoteLoad_reads hp hd hs hn hw ht hl hh)
  · exact fun p s hp hl hs hi => evOut_some (pkgLost_declares hp hl hs hi)
  · exact fun port n s hp => evOut_some (if_pos hp)
  · exact fun g port s hg hp hu => ⟨fun hb => evOut_some (portSet_changes (up := false) hg hp hu hb),
      fun hb => evOut_some (portSet_changes (up := true) hg hp hu hb)⟩

end
end

section
/-! SUPPORT. The first answer of a stream that a saved team's record binds (R304, R305, R377), and a host request beyond BAR2 (R351, R410): what the
statements about the events of the requester and of the registry leave out. -/

namespace Sys2Proof.Machine

/-! ### OPENED for a saved team -/

/-- The answer that an opening slot awaits binds the handle in the slot and in a saved record that names it. -/
theorem openedArrives_binds {s s1 : State} {owner slot nonce h : Nat} (hf : fromFabric s owner (.opened s.pkg slot nonce h .done) = some s1)
    (hs : (getSlot s1 slot).st = .opening) (ho : (getSlot s1 slot).owner = owner) (hn : (getSlot s1 slot).nonce = nonce) :
    openedArrives owner slot nonce h .done s = some (closeIfDead (pump (recordHandle
      (setSlot s1 slot { getSlot s1 slot with st := .isOpen, handle := h, lastUse := s1.time, ctlTries := 0 }) slot) slot) slot) := by
  simp only [openedArrives, hf, hs, ho, hn, and_self, if_true]

/-- A team whose record binds slot 0 to package 3 has been saved while the slot was opening. -/
def openingForSaved : State :=
  { State.reset with
    rou := { State.reset.rou with slots := [(0, { st := .opening, owner := 3, bound := some ⟨0, 0, 0, 0⟩ })] }
    fw := { State.reset.fw with inDomain := true, domain := [0, 3],
                                      records := [{ occ := ⟨0, 0, 0, 0⟩, core := 0, bytes := [(bindOff .core 3, 1)] }] } }

/-- The low byte of the handle that each record holds for package 3. -/
def recordedHandles (s : State) : List Byte := s.fw.records.map fun r => readByte r.bytes (bindOff .core 3 + 8)

/-- The handles in the records of what an event answers. -/
def handlesAfter : Out → List Byte
  | .next s => recordedHandles s
  | _ => []

/-! ### A host request beyond BAR2 -/

/-- The host reaches no line that BAR2 does not show. -/
theorem hostRequest_outsideBar2 {s : State} {key : LineKey} (h : inBar2 s .host (key.va - winBase s.pkg) 128 = false) (req : LineReq) :
    hostRequest key req s = none := by
  simp only [hostRequest, h, Bool.not_false, Bool.or_true, if_true]

/-- The Slate link is up, and BAR2 shows the first GiB of device memory. -/
def smallBar2 : State := { State.reset with fw := { State.reset.fw with linkUp := true, slate := true, bar2 := 2 ^ 30 } }

/-- The first line beyond it. -/
def lineBeyond : LineKey := { asid := 0, va := winBase 0 + 2 ^ 30 }

end Sys2Proof.Machine

section
open Sys2Proof Sys2Proof.Machine

/-- Refutes O30: the answer to an OPEN also enters the handle in a saved record that binds the slot (R377), which the stated next state leaves as it
was: handle 7 in the record of `openingForSaved`. -/
theorem not_requesterEventResults : ¬ Obligations.RequesterEventResults := by
  unfold Obligations.RequesterEventResults
  rintro ⟨hopened, -⟩
  obtain ⟨hbinds, -⟩ := hopened 3 0 0 7 openingForSaved _ rfl
  have hstated : exec (.opened 3 0 0 7 .done) openingForSaved = .next _ := hbinds rfl rfl rfl
  have hmodel : exec (.opened 3 0 0 7 .done) openingForSaved = .next _ := evOut_some (openedArrives_binds rfl rfl rfl rfl)
  have hsame := congrArg handlesAfter (hmodel.symm.trans hstated)
  exact absurd hsame (by decide +kernel)

/-- Refutes O24: a host request for a line that BAR2 does not show does not happen (R410), where the statement has it reach the line: the first line
beyond 1 GiB in `smallBar2`. -/
theorem not_registryEventResults : ¬ Obligations.RegistryEventResults := by
  unfold Obligations.RegistryEventResults
  rintro ⟨-, -, -, -, -, -, -, -, -, -, -, hshared, -⟩
  have hlines : (submitReq (windowLine smallBar2 lineBeyond (2 ^ 30)) lineBeyond .hostShared).map (·.hub.llc.length) = some 1 := by decide +kernel
  obtain ⟨t, ht, hlen⟩ := Option.map_eq_some_iff.1 hlines
  have hstated : exec (.hostReadShared lineBeyond) smallBar2 = .next t :=
    hshared lineBeyond smallBar2 t rfl rfl rfl (by decide +kernel) (by decide +kernel) (by decide +kernel) ht
  have hmodel : exec (.hostReadShared lineBeyond) smallBar2 = .next smallBar2 :=
    congrArg (evOut smallBar2) (hostRequest_outsideBar2 (by decide +kernel) .hostShared)
  cases hmodel.symm.trans hstated
  exact absurd hlen (by decide +kernel)

end
end

section
/-! SUPPORT. The words of each format read back field by field (R62 to R67). -/

namespace Sys2Proof.Machine

/-! ### What the decoder looks at (R62) -/

/-- These words, whatever follows them, are read as `c`. -/
def ReadsAs (e : Engine) (ws : List Nat) (c : Option Instr) : Prop := ∀ rest, decode e (ws ++ rest) = accept e ws c

theorem readsAs_s32 {e : Engine} {w : Nat} (h : w % 4 = 0) : ReadsAs e [w] (cand32 e w) := fun _ => by
  simp only [decode, List.cons_append, h, if_true]

theorem readsAs_l64 {e : Engine} {w0 w1 : Nat} (h : w0 % 4 = 1) : ReadsAs e [w0, w1] (cand64 e (w0 / 4 % 256) 1 (rawOf w0 w1 0)) := fun _ => by
  simp only [decode, List.cons_append, h, Nat.one_ne_zero, if_true, if_false]

theorem readsAs_x96 {e : Engine} {w0 w1 w2 : Nat} (h : w0 % 4 = 2) :
    ReadsAs e [w0, w1, w2] (cand64 e (w0 / 4 % 256) 2 (rawOf w0 w1 w2)) := fun _ => by
  simp only [decode, List.cons_append, h, OfNat.ofNat_ne_zero, OfNat.ofNat_ne_one, if_true, if_false]

/-! ### Words of S32 (R64) -/

section
variable {e : Engine} {f b a d op : Nat} (hf : f < 32) (hb : b < 64) (ha : a < 64) (hd : d < 64) (hop : op < 128)
include hf hb ha hd hop

theorem cand32_r32 : cand32 e (r32 f b a d op) =
    if op < 0x10 then common32 e op a d (64 * f + b) else if op < 0x40 ∧ e ≠ .mtx then int32 e op f b a d (64 * f + b) else none := by
  have hfop : r32 f b a d op / 4 % 128 = op := by unfold r32; omega
  have hF : r32 f b a d op / 2 ^ 27 % 32 = f := by unfold r32; omega
  have hB : r32 f b a d op / 2 ^ 21 % 64 = b := by unfold r32; omega
  have hA : r32 f b a d op / 2 ^ 15 % 64 = a := by unfold r32; omega
  have hD : r32 f b a d op / 2 ^ 9 % 64 = d := by unfold r32; omega
  have hI : r32 f b a d op / 2 ^ 21 % 2 ^ 11 = 64 * f + b := by unfold r32; omega
  simp only [cand32, hfop, hF, hB, hA, hD, hI]

end

theorem readsAs_r32 {e : Engine} (f b a d op : Nat) : ReadsAs e [r32 f b a d op] (cand32 e (r32 f b a d op)) := readsAs_s32 (by unfold r32; omega)

/-- IMM11 of S32-I lies over F and B of S32-R. -/
theorem i32_eq_r32 (imm a d op : Nat) : i32 imm a d op = r32 (imm / 64) (imm % 64) a d op := by unfold i32 r32; omega

/-- A word of the common group (R75). -/
theorem readsAs_common {e : Engine} {imm a d op : Nat} {i : Instr} (hm : common32 e op a d imm = some i) (hi : imm < 2048) (ha : a < 64)
    (hd : d < 64) (hop : op < 0x10 := by decide) : ReadsAs e [i32 imm a d op] (some i) := by
  have hf : imm / 64 < 32 := by omega
  have hb : imm % 64 < 64 := Nat.mod_lt _ (by decide)
  have hr := readsAs_r32 (e := e) (imm / 64) (imm % 64) a d op
  rwa [cand32_r32 hf hb ha hd (Nat.lt_trans hop (by decide)), if_pos hop, Nat.div_add_mod, hm, ← i32_eq_r32] at hr

/-- A word of the integer group (R77). -/
theorem readsAs_int {e : Engine} {f b a d op : Nat} {i : Instr} (he : hasInt e = true) (hm : int32 e op f b a d (64 * f + b) = some i)
    (hf : f < 32) (hb : b < 64) (ha : a < 64) (hd : d < 64) (hlo : 0x10 ≤ op := by decide) (hhi : op < 0x40 := by decide) :
    ReadsAs e [r32 f b a d op] (some i) := by
  have hop : op < 128 := Nat.lt_trans hhi (by decide)
  have hr := readsAs_r32 (e := e) f b a d op
  rwa [cand32_r32 hf hb ha hd hop, if_neg (Nat.not_lt.2 hlo), if_pos ⟨hhi, bne_iff_ne.1 he⟩, hm] at hr

/-! ### Words of L64 and X96 (R65, R67) -/

/-- The sync fields and the predicate fit their fields. -/
def CtlFits (k : Ctl) : Prop := okSem k.wait = true ∧ okSem k.post = true ∧ k.pred.idx < 8

/-- The fields that `l64` and `x96` write, read back; COND, SLOT and LINE overlap those of word 1. -/
def fieldsOf (k : Ctl) (a d hint c b lit : Nat) : Raw :=
  { ctl := k, a := a, d := d, hint := hint, c := c, b := b, lit := lit, cond := w1Of k hint c b / 2 ^ 28 % 16,
    slot := w1Of k hint c b / 2 ^ 24 % 16, line := w1Of k hint c b % 2 ^ 24 }

section
variable {e : Engine} {k : Ctl} {a d op hint c b lit : Nat} {i : Instr} (hk : CtlFits k)
  (hf : a < 512 ∧ d < 512 ∧ hint < 4 ∧ c < 512 ∧ b < 512) (hop : op < 256)
include hk hf hop

theorem rawOf_fieldsOf {len : Nat} (hl : len < 4) :
    rawOf (w0Of k.pred a d op len) (w1Of k hint c b) lit = fieldsOf k a d hint c b lit := by
  obtain ⟨hw, hp, hi⟩ := hk
  obtain ⟨ha, hd, hh, hc, hb⟩ := hf
  obtain ⟨hwb, hws⟩ := semOf_semBits hw
  obtain ⟨hpb, hps⟩ := semOf_semBits hp
  obtain ⟨-, -, hfd, hfa, hfi, hfn⟩ := w0Of_fields ha hd hi hop hl
  obtain ⟨hfb, hfc, hfw, hfp, hfh⟩ := w1Of_fields (k := k) hwb hpb hh hc hb
  have hneg : (k.pred.neg.toNat == 1) = k.pred.neg := by cases k.pred.neg <;> rfl
  simp only [rawOf, fieldsOf, hfa, hfd, hfc, hfb, hfh, hfi, hfn, hfw, hfp, hws, hps, hneg]

theorem readsAs_of_l64 (hm : cand64 e op 1 (fieldsOf k a d hint c b 0) = some i) : ReadsAs e (l64 k a d op hint c b) (some i) := by
  obtain ⟨hlen, hfop, -⟩ := w0Of_fields (len := 1) hf.1 hf.2.1 hk.2.2 hop (by decide)
  have hr := readsAs_l64 (e := e) (w1 := w1Of k hint c b) hlen
  rwa [hfop, rawOf_fieldsOf hk hf hop (by decide), hm] at hr

theorem readsAs_of_x96 (hm : cand64 e op 2 (fieldsOf k a d hint c b lit) = some i) : ReadsAs e (x96 k a d op hint c b lit) (some i) := by
  obtain ⟨hlen, hfop, -⟩ := w0Of_fields (len := 2) hf.1 hf.2.1 hk.2.2 hop (by decide)
  have hr := readsAs_x96 (e := e) (w1 := w1Of k hint c b) (w2 := lit) hlen
  rwa [hfop, rawOf_fieldsOf hk hf hop (by decide), hm] at hr

end

end Sys2Proof.Machine
end

section
/-! SUPPORT. Operand fields and codes read back (R8, R66, R68, R69, R71, R82, R321, R358). -/

namespace Sys2Proof.Machine

/-! ### Predicates and sync fields (R68, R69) -/

theorem okCtl_ctlFits {e : Engine} {k : Ctl} (h : okCtl e k = true) : CtlFits k := okCtl_fits h
theorem okLane_ctlFits {k : Ctl} (h : okLane k = true) : CtlFits k := okLane_fits h

theorem okPlain_ctlFits {k : Ctl} (h : okPlain k = true) : CtlFits k := by
  simp only [okPlain, okSync, noPred, Bool.and_eq_true, beq_iff_eq] at h
  obtain ⟨⟨hw, hp⟩, hi, -⟩ := h
  exact ⟨hw, hp, by omega⟩

theorem okBrPred_idx {e : Engine} {p : Pred} (h : okBrPred e p = true) : p.idx < 8 := by
  unfold okBrPred at h
  split at h
  · simp only [okPred, Bool.and_eq_true, decide_eq_true_eq] at h
    exact h.1
  · simp only [noPred, Bool.and_eq_true, beq_iff_eq] at h
    omega

/-! ### Operands (R71, R245) -/

theorem src_reads {e : Engine} {a : SSrc} (h : okSrc e a = true) : sv e a < 512 ∧ srcOf e (sv e a) = a :=
  ⟨Nat.lt_of_lt_of_le (sv_lt_field h) (by decide), srcOf_sv h⟩

theorem dst_reads {e : Engine} {d : SDst} (h : okDst e d = true) : dv e d < 512 ∧ dstOf e (dv e d) = d :=
  ⟨Nat.lt_of_lt_of_le (dv_lt_field h) (by decide), dstOf_dv h⟩

/-- A read-modify-write destination is a register (R79). -/
theorem okRmw_lt {e : Engine} {d : Nat} (h : okRmw e d = true) : d < 512 := by
  simp only [okRmw, Bool.and_eq_true, decide_eq_true_eq] at h
  have := lastScalar_lt_field e
  omega

/-- The numbers above the vector registers are those of the queues and constants (R71). -/
theorem vsOf_reg {n : Nat} (h : n < 384) : vsOf n = .reg n := by
  unfold vsOf
  rw [if_neg (by omega), if_neg (by omega), if_neg (by omega)]

theorem vsOf_lq {n : Nat} (h : n < 4) : vsOf (384 + n) = .lq n := by
  unfold vsOf
  rw [if_neg (by omega), if_neg (by omega), if_pos (by omega), Nat.add_sub_cancel_left]

theorem vsrc_reads {a : VSrc} (h : okVSrc a = true) : vsv a < 512 ∧ vsOf (vsv a) = a := by
  cases a with
  | reg n =>
    have hn : n < 384 := of_decide_eq_true h
    exact ⟨Nat.lt_trans hn (by decide), vsOf_reg hn⟩
  | lq n =>
    have hn : n < 4 := of_decide_eq_true h
    exact ⟨Nat.lt_trans (Nat.add_lt_add_left hn 384) (by decide), vsOf_lq hn⟩
  | zero | lane => decide

theorem mvdst_reads {d : MVDst} (h : okMVDst d = true) : mvdD d < 512 ∧ mvdSub d < 4 ∧ mvdOf (mvdSub d) (mvdD d) = d := by
  cases d with
  | reg n => exact ⟨Nat.lt_trans (of_decide_eq_true h : n < 384) (by decide), Nat.zero_lt_succ _, rfl⟩
  | lq n => exact ⟨Nat.lt_trans (of_decide_eq_true h : n < 4) (by decide), Nat.one_lt_succ_succ _, rfl⟩

theorem mvsOf_reg {n : Nat} (h : n < 384) : mvsOf 0 n = .reg n := by
  unfold mvsOf
  rw [if_neg (by decide), if_neg (by omega), if_neg (by omega)]

theorem mvsrc_reads {d : MVSrc} (h : okMVSrc d = true) : mvsD d < 512 ∧ mvsSub d < 4 ∧ mvsOf (mvsSub d) (mvsD d) = d := by
  cases d with
  | reg n =>
    have hn : n < 384 := of_decide_eq_true h
    exact ⟨Nat.lt_trans hn (by decide), Nat.zero_lt_succ _, mvsOf_reg hn⟩
  | sq n => exact ⟨Nat.lt_trans (of_decide_eq_true h : n < 2) (by decide), Nat.one_lt_succ_succ _, rfl⟩
  | zero | lane => decide

theorem vixOf_reg {n : Nat} (h : n < 384) : vixOf n = .reg n := by
  unfold vixOf
  rw [if_neg (by omega), if_neg (by omega)]

theorem vidx_reads {b : VIdx} (h : okVIdx b = true) : vix b < 512 ∧ vixOf (vix b) = b := by
  cases b with
  | reg n =>
    have hn : n < 384 := of_decide_eq_true h
    exact ⟨Nat.lt_trans hn (by decide), vixOf_reg hn⟩
  | zero | lane => decide

/-! ### Codes -/

theorem ord_reads (o : Ord) : ordCode o < 8 ∧ ordOf (ordCode o) = o := by cases o <;> decide
theorem cond_reads (c : Cond) : condCode c < 8 ∧ condOf (condCode c) = c := by cases c <;> decide

/-- The fields of C in layout L64-M (R66). -/
theorem cM_fields {subf ord space size : Nat} (hf : subf < 4) (ho : ord < 8) (hp : space < 2) (hs : size < 8) :
    cM subf ord space size < 512 ∧ cM subf ord space size / 128 = subf ∧ cM subf ord space size / 16 % 8 = ord ∧
    cM subf ord space size / 8 % 2 = space ∧ cM subf ord space size % 8 = size := by
  unfold cM
  omega

/-- A flag of one bit is the comparison with 1. -/
theorem toNat_beq_one (b : Bool) : (b.toNat == 1) = b := by cases b <;> rfl

/-- The release bit of ORD (R251). -/
theorem two_toNat_beq_two (b : Bool) : (2 * b.toNat == 2) = b := by cases b <;> rfl

/-- The semaphore that a copy-queue command posts, and what stands below it in C (R358). -/
theorem cpost_reads {q : Nat} {o : Option Nat} (hq : q < 8) (ho : okSem o = true) :
    q + cpostBits o < 512 ∧ (q + cpostBits o) % 8 = q ∧ cpostOf (q + cpostBits o) = o := by
  cases o with
  | none =>
    have hbit : q / 8 % 2 = 0 := by omega
    simp only [cpostBits, cpostOf, Nat.add_zero, hbit]
    exact ⟨by omega, by omega, rfl⟩
  | some n =>
    have hn : n < 32 := of_decide_eq_true ho
    have hbit : (q + (8 + 16 * n)) / 8 % 2 = 1 := by omega
    have hnum : (q + (8 + 16 * n)) / 16 = n := by omega
    simp only [cpostBits, cpostOf, hbit, hnum, if_true, and_true]
    omega

end Sys2Proof.Machine
end

section
/-! SUPPORT. The words of the common and the integer group are read back (R74 to R79). -/

namespace Sys2Proof.Machine

/-! ### Common group, S32 (R75) -/

section
variable {e : Engine} {a d op : Nat} {i : Instr}

theorem r32_zero_eq_i32 (a d op : Nat) : r32 0 0 a d op = i32 0 a d op := (i32_eq_r32 0 a d op).symm

theorem readsAs_common_r32 (hm : common32 e op a d 0 = some i) (ha : a < 64) (hd : d < 64) (hop : op < 0x10 := by decide) :
    ReadsAs e [r32 0 0 a d op] (some i) := r32_zero_eq_i32 a d op ▸ readsAs_common hm (by decide) ha hd hop

/-- An instruction that uses one source. -/
theorem readsAs_common_src {mk : SSrc → Instr} {a : SSrc} (hm : ∀ n, common32 e op n 0 0 = some (mk (srcOf e n))) (h : okSrc e a = true)
    (hop : op < 0x10 := by decide) : ReadsAs e [r32 0 0 (sv e a) 0 op] (some (mk a)) :=
  readsAs_common_r32 ((hm _).trans (by rw [srcOf_sv h])) (sv_lt_field h) (by decide) hop

/-- An instruction with a number in IMM11. -/
theorem readsAs_common_imm {n : Nat} {mk : Nat → Instr} (hm : ∀ n, common32 e op 0 0 n = some (mk n)) (hn : n < 2048) (hop : op < 0x10 := by decide) :
    ReadsAs e [i32 n 0 0 op] (some (mk n)) := readsAs_common (hm n) hn (by decide) (by decide) hop

end

theorem okCr_lt {e : Engine} {cr : Nat} (h : okCr e cr = true) : cr < 2048 := by
  simp only [okCr, Bool.or_eq_true, Bool.and_eq_true, decide_eq_true_eq] at h
  omega

theorem okCrW_lt {e : Engine} {cr : Nat} (h : okCrW e cr = true) : cr < 2048 := by
  simp only [okCrW, Bool.or_eq_true, Bool.and_eq_true, decide_eq_true_eq, beq_iff_eq] at h
  omega

theorem readsAs_rdcr {e : Engine} {d : SDst} {cr : Nat} (h : wellFormed e (.rdcr d cr) = true) :
    ReadsAs e (encode e (.rdcr d cr)) (some (.rdcr d cr)) := by
  obtain ⟨hd, hcr⟩ := Bool.and_eq_true_iff.1 h
  exact readsAs_common (congrArg some (congrArg (Instr.rdcr · cr) (dstOf_dv hd))) (okCr_lt hcr) (by decide) (dv_lt_field hd)

theorem readsAs_wrcr {e : Engine} {a : SSrc} {cr : Nat} (h : wellFormed e (.wrcr cr a) = true) :
    ReadsAs e (encode e (.wrcr cr a)) (some (.wrcr cr a)) := by
  obtain ⟨hcr, ha⟩ := Bool.and_eq_true_iff.1 h
  exact readsAs_common (congrArg some (congrArg (Instr.wrcr cr ·) (srcOf_sv ha))) (okCrW_lt hcr) (sv_lt_field ha) (by decide)

/-! ### Integer group, S32 (R77, R78) -/

section
variable {e : Engine} {d : SDst} {a b : SSrc} {f op : Nat}

/-- An instruction of two sources; F may hold a shift or a condition. -/
theorem readsAs_int3 {mk : SDst → SSrc → SSrc → Instr} (hm : ∀ b a d imm, int32 e op f b a d imm = some (mk (dstOf e d) (srcOf e a) (srcOf e b)))
    (h : okInt3 e d a b = true) (hf : f < 32 := by decide) (hlo : 0x10 ≤ op := by decide) (hhi : op < 0x40 := by decide) :
    ReadsAs e [r32 f (sv e b) (sv e a) (dv e d) op] (some (mk d a b)) := by
  simp only [okInt3, Bool.and_eq_true] at h
  obtain ⟨⟨⟨he, hd⟩, ha⟩, hb⟩ := h
  exact readsAs_int he ((hm ..).trans (by rw [dstOf_dv hd, srcOf_sv ha, srcOf_sv hb])) hf (sv_lt_field hb) (sv_lt_field ha) (dv_lt_field hd) hlo hhi

/-- An instruction of one source and a number in IMM11. -/
theorem readsAs_int_imm {n : Nat} {mk : SDst → SSrc → Nat → Instr}
    (hm : ∀ f b a d n, int32 e op f b a d n = some (mk (dstOf e d) (srcOf e a) n)) (h : okInt2 e d a = true) (hn : n < 2048)
    (hlo : 0x10 ≤ op := by decide) (hhi : op < 0x40 := by decide) : ReadsAs e [i32 n (sv e a) (dv e d) op] (some (mk d a n)) := by
  simp only [okInt2, Bool.and_eq_true] at h
  obtain ⟨⟨he, hd⟩, ha⟩ := h
  have hread : int32 e op (n / 64) (n % 64) (sv e a) (dv e d) (64 * (n / 64) + n % 64) = some (mk d a n) := by
    rw [hm, dstOf_dv hd, srcOf_sv ha, Nat.div_add_mod]
  exact i32_eq_r32 .. ▸ readsAs_int he hread (by omega) (Nat.mod_lt _ (by decide)) (sv_lt_field ha) (dv_lt_field hd) hlo hhi

/-- An instruction of one source. -/
theorem readsAs_int2 {mk : SDst → SSrc → Instr} (hm : ∀ f b a d n, int32 e op f b a d n = some (mk (dstOf e d) (srcOf e a)))
    (h : okInt2 e d a = true) (hlo : 0x10 ≤ op := by decide) (hhi : op < 0x40 := by decide) :
    ReadsAs e [r32 0 0 (sv e a) (dv e d) op] (some (mk d a)) :=
  r32_zero_eq_i32 .. ▸ readsAs_int_imm (mk := fun d a _ => mk d a) hm h (by decide) hlo hhi

/-- An instruction of one source and an 11-bit immediate (R145). -/
theorem readsAs_int_bits {imm : BitVec 11} {mk : SDst → SSrc → BitVec 11 → Instr}
    (hm : ∀ f b a d n, int32 e op f b a d n = some (mk (dstOf e d) (srcOf e a) (BitVec.ofNat 11 n))) (h : okInt2 e d a = true)
    (hlo : 0x10 ≤ op := by decide) (hhi : op < 0x40 := by decide) : ReadsAs e [i32 imm.toNat (sv e a) (dv e d) op] (some (mk d a imm)) := by
  have hr := readsAs_int_imm (mk := fun d a n => mk d a (BitVec.ofNat 11 n)) hm h imm.isLt hlo hhi
  rwa [BitVec.ofNat_toNat, BitVec.setWidth_eq] at hr

/-- An instruction of one source and a shift amount below 64. -/
theorem readsAs_int_shift {n : Nat} {mk : SDst → SSrc → Nat → Instr}
    (hm : ∀ f b a d n, int32 e op f b a d n = some (mk (dstOf e d) (srcOf e a) n)) (h : (okInt2 e d a && decide (n < 64)) = true)
    (hlo : 0x10 ≤ op := by decide) (hhi : op < 0x40 := by decide) : ReadsAs e [i32 n (sv e a) (dv e d) op] (some (mk d a n)) := by
  obtain ⟨h, hn⟩ := Bool.and_eq_true_iff.1 h
  exact readsAs_int_imm hm h (Nat.lt_trans (of_decide_eq_true hn) (by decide)) hlo hhi

/-- ADD and SUB: F holds the shift of the second source (R142). -/
theorem readsAs_int_scaled {n : Nat} {mk : SDst → SSrc → SSrc → Nat → Instr}
    (hm : ∀ n b a d imm, int32 e op n b a d imm = some (mk (dstOf e d) (srcOf e a) (srcOf e b) n))
    (h : (okInt3 e d a b && decide (n < 32)) = true) (hlo : 0x10 ≤ op := by decide) (hhi : op < 0x40 := by decide) :
    ReadsAs e [r32 n (sv e b) (sv e a) (dv e d) op] (some (mk d a b n)) := by
  obtain ⟨h, hn⟩ := Bool.and_eq_true_iff.1 h
  exact readsAs_int3 (mk := fun d a b => mk d a b n) (hm n) h (of_decide_eq_true hn) hlo hhi

theorem readsAs_cmp {c : CmpCond} (h : okInt3 e d a b = true) : ReadsAs e (encode e (.cmp c d a b)) (some (.cmp c d a b)) :=
  readsAs_int3 (mk := .cmp c) (fun _ _ _ _ => congrArg (Option.map _) (cmpOf_cmpCode c)) h (cmpCode_lt c)

end

/-! ### Branches (R67) -/

/-- The fields of L64-B read back. -/
theorem readsAs_lB {e : Engine} {p : Pred} {a op cond slot line : Nat} {i : Instr} (hp : okBrPred e p = true) (ha : a < 512) (hc : cond < 16)
    (ht : okTgt slot line = true) (hop : op < 256)
    (hm : ∀ r : Raw, r.ctl.pred = p → r.a = a → r.cond = cond → r.slot = slot → r.line = line → cand64 e op 1 r = some i) :
    ReadsAs e (lB p a op cond slot line) (some i) := by
  simp only [okTgt, Bool.and_eq_true, decide_eq_true_eq] at ht
  obtain ⟨⟨-, hs⟩, hl⟩ := ht
  obtain ⟨hlen, hfop, -, hfa, hfi, hfn⟩ := w0Of_fields (len := 1) (d := 0) ha (by decide) (okBrPred_idx hp) hop (by decide)
  have hneg : (p.neg.toNat == 1) = p.neg := toNat_beq_one _
  have hr := readsAs_l64 (e := e) (w1 := cond * 2 ^ 28 + slot * 2 ^ 24 + line) hlen
  rwa [hfop, hm (rawOf ..) (by simp only [rawOf, hfi, hfn, hneg]) hfa (by simp only [rawOf]; omega) (by simp only [rawOf]; omega)
    (by simp only [rawOf]; omega)] at hr

section
variable {e : Engine} {p : Pred} {slot line op : Nat}

/-- BR and CALL (R75, R135). -/
theorem readsAs_br {mk : Pred → Nat → Nat → Instr} (hm : ∀ r, cand64 e op 1 r = some (mk r.ctl.pred r.slot r.line))
    (h : (okBrPred e p && okTgt slot line) = true) (hop : op < 256 := by decide) : ReadsAs e (lB p 0 op 0 slot line) (some (mk p slot line)) := by
  obtain ⟨hp, ht⟩ := Bool.and_eq_true_iff.1 h
  exact readsAs_lB hp (by decide) (by decide) ht hop fun r hrp _ _ hrs hrl => by rw [hm, hrp, hrs, hrl]

theorem readsAs_brc {cc : Cond} {a : SSrc} (h : wellFormed e (.brc p cc a slot line) = true) :
    ReadsAs e (encode e (.brc p cc a slot line)) (some (.brc p cc a slot line)) := by
  obtain ⟨h, ht⟩ := Bool.and_eq_true_iff.1 h
  obtain ⟨hp, ha⟩ := Bool.and_eq_true_iff.1 h
  obtain ⟨hav, hao⟩ := src_reads ha
  obtain ⟨hc, hco⟩ := cond_reads cc
  refine readsAs_lB hp hav (Nat.lt_trans hc (by decide)) ht (by decide) fun r hrp hra hrc hrs hrl => ?_
  calc cand64 e 0x1 1 r = some (.brc r.ctl.pred (condOf r.cond) (srcOf e r.a) r.slot r.line) := rfl
    _ = some (.brc p cc a slot line) := by rw [hrp, hra, hrc, hrs, hrl, hao, hco]

end

/-! ### Common group, L64 and X96 (R75) -/

section
variable {e : Engine} {k : Ctl} {op : Nat}

/-- An instruction with nothing but sync fields. -/
theorem readsAs_ctl {mk : Ctl → Instr} (hm : ∀ r, cand64 e op 1 r = some (mk r.ctl)) (hk : okCtl e k = true) (hop : op < 256 := by decide) :
    ReadsAs e (l64 k 0 0 op 0 0 0) (some (mk k)) := readsAs_of_l64 (okCtl_ctlFits hk) (by decide) hop (hm _)

/-- An instruction that uses one scalar source. -/
theorem readsAs_src {mk : Ctl → SSrc → Instr} {a : SSrc} (hm : ∀ r, cand64 e op 1 r = some (mk r.ctl (srcOf e r.a)))
    (h : (okCtl e k && okSrc e a) = true) (hop : op < 256 := by decide) : ReadsAs e (l64 k (sv e a) 0 op 0 0 0) (some (mk k a)) := by
  obtain ⟨hk, ha⟩ := Bool.and_eq_true_iff.1 h
  obtain ⟨hav, hao⟩ := src_reads ha
  exact readsAs_of_l64 (okCtl_ctlFits hk) ⟨hav, by decide, by decide, by decide, by decide⟩ hop ((hm _).trans (by simp only [fieldsOf, hao]))

/-- SEMW and SEMP with sync fields (R289). -/
theorem readsAs_sem {mk : Ctl → Nat → Instr} {n : Nat} (hm : ∀ r, cand64 e op 1 r = some (mk r.ctl r.c))
    (h : (okCtl e k && decide (n < 32)) = true) (hop : op < 256 := by decide) : ReadsAs e (l64 k 0 0 op 0 n 0) (some (mk k n)) := by
  obtain ⟨hk, hn⟩ := Bool.and_eq_true_iff.1 h
  have hc : n < 512 := Nat.lt_trans (of_decide_eq_true hn) (by decide)
  exact readsAs_of_l64 (okCtl_ctlFits hk) ⟨by decide, by decide, by decide, hc, by decide⟩ hop (hm _)

theorem ofNat_toNat_self {w : Nat} (x : BitVec w) : BitVec.ofNat w x.toNat = x := by rw [BitVec.ofNat_toNat, BitVec.setWidth_eq]

theorem readsAs_loopImm {n : BitVec 32} (hk : okCtl e k = true) : ReadsAs e (encode e (.loopImm k n)) (some (.loopImm k n)) :=
  readsAs_of_x96 (okCtl_ctlFits hk) (by decide) (by decide) (congrArg some (congrArg (Instr.loopImm k) (ofNat_toNat_self n)))

end

/-! ### Integer group, L64 and X96 (R79) -/

section
variable {e : Engine} {k : Ctl} {op : Nat} {d : SDst} {a : SSrc}

/-- An engine with an integer group reads its opcodes in that group's map (R74). -/
theorem cand64_int {len : Nat} (he : hasInt e = true) (r : Raw) (hlo : 0x20 ≤ op := by decide) (hhi : op < 0x40 := by decide) :
    cand64 e op len r = int64 e op len r := by
  unfold cand64
  rw [if_neg (Nat.not_lt.2 hlo), if_pos hhi, if_neg (bne_iff_ne.1 he)]

/-- An instruction of one source and a literal. -/
theorem readsAs_intLit {mk : Ctl → SDst → SSrc → BitVec 32 → Instr} {lit : BitVec 32}
    (hm : ∀ r, int64 e op 2 r = some (mk r.ctl (dstOf e r.d) (srcOf e r.a) (BitVec.ofNat 32 r.lit))) (h : (okCtl e k && okInt2 e d a) = true)
    (hlo : 0x20 ≤ op := by decide) (hhi : op < 0x40 := by decide) :
    ReadsAs e (x96 k (sv e a) (dv e d) op 0 0 0 lit.toNat) (some (mk k d a lit)) := by
  simp only [okInt2, Bool.and_eq_true] at h
  obtain ⟨hk, ⟨he, hd⟩, ha⟩ := h
  obtain ⟨hav, hao⟩ := src_reads ha
  obtain ⟨hdv, hdo⟩ := dst_reads hd
  refine readsAs_of_x96 (okCtl_ctlFits hk) ⟨hav, hdv, by decide, by decide, by decide⟩ (Nat.lt_trans hhi (by decide)) ?_
  rw [cand64_int he _ hlo hhi, hm]
  simp only [fieldsOf, hao, hdo, ofNat_toNat_self]

theorem readsAs_movi {lit : BitVec 32} (h : wellFormed e (.movi k d lit) = true) : ReadsAs e (encode e (.movi k d lit)) (some (.movi k d lit)) := by
  replace h : (hasInt e && okCtl e k && okDst e d) = true := h
  simp only [Bool.and_eq_true] at h
  obtain ⟨⟨he, hk⟩, hd⟩ := h
  obtain ⟨hdv, hdo⟩ := dst_reads hd
  refine readsAs_of_x96 (okCtl_ctlFits hk) ⟨by decide, hdv, by decide, by decide, by decide⟩ (by decide) ?_
  rw [cand64_int he]
  exact congrArg some (congrArg₂ (Instr.movi k) hdo (ofNat_toNat_self lit))

theorem readsAs_moviHi {d : Nat} {lit : BitVec 32} (h : wellFormed e (.moviHi k d lit) = true) :
    ReadsAs e (encode e (.moviHi k d lit)) (some (.moviHi k d lit)) := by
  replace h : (hasInt e && okCtl e k && okRmw e d) = true := h
  simp only [Bool.and_eq_true] at h
  obtain ⟨⟨he, hk⟩, hd⟩ := h
  refine readsAs_of_x96 (okCtl_ctlFits hk) ⟨by decide, okRmw_lt hd, by decide, by decide, by decide⟩ (by decide) ?_
  rw [cand64_int he]
  exact congrArg some (congrArg (Instr.moviHi k d) (ofNat_toNat_self lit))

theorem readsAs_ext {sx : Bool} {pos width : Nat} (h : wellFormed e (.ext k sx d a pos width) = true) :
    ReadsAs e (encode e (.ext k sx d a pos width)) (some (.ext k sx d a pos width)) := by
  replace h : (okCtl e k && okInt2 e d a && decide (pos < 64) && decide (1 ≤ width) && decide (pos + width ≤ 64)) = true := h
  simp only [okInt2, Bool.and_eq_true, decide_eq_true_eq] at h
  obtain ⟨⟨⟨⟨hk, ⟨he, hd⟩, ha⟩, hp⟩, -⟩, hw⟩ := h
  obtain ⟨hav, hao⟩ := src_reads ha
  obtain ⟨hdv, hdo⟩ := dst_reads hd
  have hsx : sx.toNat < 2 := sx.toNat_lt
  have hbit : (width + 128 * sx.toNat) / 128 % 2 = sx.toNat := by omega
  have hlow : (width + 128 * sx.toNat) % 128 = width := by omega
  refine readsAs_of_l64 (okCtl_ctlFits hk) ⟨hav, hdv, by decide, by omega, by omega⟩ (by decide) ?_
  rw [cand64_int he]
  refine congrArg some ?_
  simp only [fieldsOf, hbit, hlow, toNat_beq_one, hao, hdo]

theorem readsAs_ins {d pos width : Nat} (h : wellFormed e (.ins k d a pos width) = true) :
    ReadsAs e (encode e (.ins k d a pos width)) (some (.ins k d a pos width)) := by
  replace h : (hasInt e && okCtl e k && okRmw e d && okSrc e a && decide (pos < 64) && decide (1 ≤ width) && decide (pos + width ≤ 64)) = true := h
  simp only [Bool.and_eq_true, decide_eq_true_eq] at h
  obtain ⟨⟨⟨⟨⟨⟨he, hk⟩, hd⟩, ha⟩, hp⟩, -⟩, hw⟩ := h
  obtain ⟨hav, hao⟩ := src_reads ha
  refine readsAs_of_l64 (okCtl_ctlFits hk) ⟨hav, okRmw_lt hd, by decide, by omega, by omega⟩ (by decide) ?_
  rw [cand64_int he]
  exact congrArg some (congrArg (Instr.ins k d · pos width) hao)

theorem readsAs_sel {b c : SSrc} (h : wellFormed e (.sel k d a b c) = true) : ReadsAs e (encode e (.sel k d a b c)) (some (.sel k d a b c)) := by
  replace h : (okCtl e k && okInt3 e d a b && okSrc e c) = true := h
  simp only [okInt3, Bool.and_eq_true] at h
  obtain ⟨⟨hk, ⟨⟨he, hd⟩, ha⟩, hb⟩, hc⟩ := h
  obtain ⟨hav, hao⟩ := src_reads ha
  obtain ⟨hbv, hbo⟩ := src_reads hb
  obtain ⟨hcv, hco⟩ := src_reads hc
  obtain ⟨hdv, hdo⟩ := dst_reads hd
  refine readsAs_of_l64 (okCtl_ctlFits hk) ⟨hav, hdv, by decide, hcv, hbv⟩ (by decide) ?_
  rw [cand64_int he]
  refine congrArg some ?_
  simp only [fieldsOf, hao, hbo, hco, hdo]

end

end Sys2Proof.Machine
end

section
/-! SUPPORT. The words of the sequencer's map are read back (R80). -/

namespace Sys2Proof.Machine

section
variable {e : Engine} {k : Ctl} {op a d : Nat}

theorem okS_lt {n : Nat} (h : okS n = true) : n < 512 := Nat.lt_trans (of_decide_eq_true h) (by decide)

theorem readsAs_seq_dst_src {mk : Ctl → Nat → Nat → Instr} (hm : ∀ r, cand64 .seq op 1 r = some (mk r.ctl r.d r.a))
    (h : (e == .seq && okCtl e k && okS d && okS a) = true) (hop : op < 256 := by decide) :
    ReadsAs e (l64 k a d op 0 0 0) (some (mk k d a)) := by
  simp only [Bool.and_eq_true, beq_iff_eq] at h
  obtain ⟨⟨⟨rfl, hk⟩, hd⟩, ha⟩ := h
  exact readsAs_of_l64 (okCtl_ctlFits hk) ⟨okS_lt ha, okS_lt hd, by decide, by decide, by decide⟩ hop (hm _)

theorem readsAs_seq_src {mk : Ctl → Nat → Instr} (hm : ∀ r, cand64 .seq op 1 r = some (mk r.ctl r.a))
    (h : (e == .seq && okCtl e k && okS a) = true) (hop : op < 256 := by decide) : ReadsAs e (l64 k a 0 op 0 0 0) (some (mk k a)) := by
  simp only [Bool.and_eq_true, beq_iff_eq] at h
  obtain ⟨⟨rfl, hk⟩, ha⟩ := h
  exact readsAs_of_l64 (okCtl_ctlFits hk) ⟨okS_lt ha, by decide, by decide, by decide, by decide⟩ hop (hm _)

theorem readsAs_seq_dst {mk : Ctl → Nat → Instr} (hm : ∀ r, cand64 .seq op 1 r = some (mk r.ctl r.d))
    (h : (e == .seq && okCtl e k && okS d) = true) (hop : op < 256 := by decide) : ReadsAs e (l64 k 0 d op 0 0 0) (some (mk k d)) := by
  simp only [Bool.and_eq_true, beq_iff_eq] at h
  obtain ⟨⟨rfl, hk⟩, hd⟩ := h
  exact readsAs_of_l64 (okCtl_ctlFits hk) ⟨by decide, okS_lt hd, by decide, by decide, by decide⟩ hop (hm _)

theorem readsAs_lds {size hint : Nat} {sx acq : Bool} {lit : BitVec 32} (h : wellFormed e (.lds k size sx acq hint d a lit) = true) :
    ReadsAs e (encode e (.lds k size sx acq hint d a lit)) (some (.lds k size sx acq hint d a lit)) := by
  replace h : (e == .seq && okCtl e k && okSize size && okHint hint && okS d && okS a) = true := h
  simp only [Bool.and_eq_true, beq_iff_eq, okSize, okHint, decide_eq_true_eq] at h
  obtain ⟨⟨⟨⟨⟨rfl, hk⟩, hs⟩, hh⟩, hd⟩, ha⟩ := h
  obtain ⟨hc, hcf, hco, -, hcs⟩ := cM_fields (Nat.lt_trans sx.toNat_lt (by decide)) (Nat.lt_trans acq.toNat_lt (by decide)) (space := 0)
    (by decide) (Nat.lt_trans hs (by decide))
  refine readsAs_of_x96 (okCtl_ctlFits hk) ⟨okS_lt ha, okS_lt hd, hh, hc, by decide⟩ (by decide) (congrArg some ?_)
  simp only [fieldsOf, Raw.size, Raw.subOne, Raw.subf, Raw.isAcq, hcf, hco, hcs, toNat_beq_one, ofNat_toNat_self]

theorem readsAs_sts {size hint b : Nat} {rel : Bool} {lit : BitVec 32} (h : wellFormed e (.sts k size rel hint a b lit) = true) :
    ReadsAs e (encode e (.sts k size rel hint a b lit)) (some (.sts k size rel hint a b lit)) := by
  replace h : (e == .seq && okCtl e k && okSize size && okHint hint && okS a && okS b) = true := h
  simp only [Bool.and_eq_true, beq_iff_eq, okSize, okHint, decide_eq_true_eq] at h
  obtain ⟨⟨⟨⟨⟨rfl, hk⟩, hs⟩, hh⟩, ha⟩, hb⟩ := h
  have hrel : rel.toNat < 2 := rel.toNat_lt
  obtain ⟨hc, -, hco, -, hcs⟩ := cM_fields (subf := 0) (ord := 2 * rel.toNat) (space := 0) (by decide) (by omega) (by decide)
    (Nat.lt_trans hs (by decide))
  refine readsAs_of_x96 (okCtl_ctlFits hk) ⟨okS_lt ha, by decide, hh, hc, okS_lt hb⟩ (by decide) (congrArg some ?_)
  simp only [fieldsOf, Raw.size, Raw.isRel, hco, hcs, two_toNat_beq_two, ofNat_toNat_self]

theorem readsAs_qpush {q : Nat} (h : wellFormed e (.qpush k q a) = true) : ReadsAs e (encode e (.qpush k q a)) (some (.qpush k q a)) := by
  replace h : (e == .seq && okCtl e k && decide (q < 3) && okS a) = true := h
  simp only [Bool.and_eq_true, beq_iff_eq, decide_eq_true_eq] at h
  obtain ⟨⟨⟨rfl, hk⟩, hq⟩, ha⟩ := h
  exact readsAs_of_l64 (okCtl_ctlFits hk) ⟨okS_lt ha, by decide, by decide, Nat.lt_trans hq (by decide), by decide⟩ (by decide) rfl

theorem readsAs_fork {eng sem slot line : Nat} (h : wellFormed e (.fork k eng sem a slot line) = true) :
    ReadsAs e (encode e (.fork k eng sem a slot line)) (some (.fork k eng sem a slot line)) := by
  replace h : (e == .seq && okCtl e k && decide (1 ≤ eng) && decide (eng ≤ 3) && decide (sem < 32) && okS a && okTgt slot line) = true := h
  simp only [Bool.and_eq_true, beq_iff_eq, okTgt, decide_eq_true_eq] at h
  obtain ⟨⟨⟨⟨⟨⟨rfl, hk⟩, -⟩, he⟩, hn⟩, ha⟩, -, hl⟩ := h
  have hce : (32 * eng + sem) / 32 = eng := by omega
  have hcn : (32 * eng + sem) % 32 = sem := by omega
  have hls : (slot * 2 ^ 24 + line) / 2 ^ 24 = slot := by omega
  have hll : (slot * 2 ^ 24 + line) % 2 ^ 24 = line := by omega
  refine readsAs_of_x96 (okCtl_ctlFits hk) ⟨okS_lt ha, by decide, by decide, by omega, by decide⟩ (by decide) (congrArg some ?_)
  simp only [fieldsOf, hce, hcn, hls, hll]

theorem readsAs_rdid {sel : Nat} (h : wellFormed e (.rdid k d sel) = true) : ReadsAs e (encode e (.rdid k d sel)) (some (.rdid k d sel)) := by
  replace h : (e == .seq && okCtl e k && okS d && decide (sel < 10)) = true := h
  simp only [Bool.and_eq_true, beq_iff_eq, decide_eq_true_eq] at h
  obtain ⟨⟨⟨rfl, hk⟩, hd⟩, hs⟩ := h
  exact readsAs_of_l64 (okCtl_ctlFits hk) ⟨by decide, okS_lt hd, by decide, Nat.lt_trans hs (by decide), by decide⟩ (by decide) rfl

theorem readsAs_cba {bar n : Nat} (h : wellFormed e (.cba k d bar n) = true) : ReadsAs e (encode e (.cba k d bar n)) (some (.cba k d bar n)) := by
  replace h : (e == .seq && okCtl e k && okS d && decide (bar < 16) && decide (1 ≤ n) && decide (n ≤ 8)) = true := h
  simp only [Bool.and_eq_true, beq_iff_eq, decide_eq_true_eq] at h
  obtain ⟨⟨⟨⟨⟨rfl, hk⟩, hd⟩, hb⟩, -⟩, hn⟩ := h
  have hcb : (16 * n + bar) % 16 = bar := by omega
  have hcn : (16 * n + bar) / 16 = n := by omega
  exact readsAs_of_l64 (okCtl_ctlFits hk) ⟨by decide, okS_lt hd, by decide, by omega, by decide⟩ (by decide)
    (congrArg some (congrArg₂ (Instr.cba k d) hcb hcn))

theorem readsAs_cbw {bar : Nat} (h : wellFormed e (.cbw k d a bar) = true) : ReadsAs e (encode e (.cbw k d a bar)) (some (.cbw k d a bar)) := by
  replace h : (e == .seq && okCtl e k && okS d && okS a && decide (bar < 16)) = true := h
  simp only [Bool.and_eq_true, beq_iff_eq, decide_eq_true_eq] at h
  obtain ⟨⟨⟨⟨rfl, hk⟩, hd⟩, ha⟩, hb⟩ := h
  exact readsAs_of_l64 (okCtl_ctlFits hk) ⟨okS_lt ha, okS_lt hd, by decide, Nat.lt_trans hb (by decide), by decide⟩ (by decide) rfl

/-- CQ.PUT and CQ.MCAST (R358). -/
theorem readsAs_cq {q : Nat} {cpost : Option Nat} {mk : Ctl → Nat → Nat → Option Nat → Instr}
    (hm : ∀ r, cand64 .seq op 1 r = some (mk r.ctl (r.c % 2) r.a (cpostOf r.c)))
    (h : (e == .seq && okCtl e k && decide (q < 2) && okS a && okSem cpost) = true) (hop : op < 256 := by decide) :
    ReadsAs e (l64 k a 0 op 0 (q + cpostBits cpost) 0) (some (mk k q a cpost)) := by
  simp only [Bool.and_eq_true, beq_iff_eq, decide_eq_true_eq] at h
  obtain ⟨⟨⟨⟨rfl, hk⟩, hq⟩, ha⟩, hp⟩ := h
  obtain ⟨hc, hcq, hcp⟩ := cpost_reads (Nat.lt_trans hq (by decide)) hp
  have hq2 : (q + cpostBits cpost) % 2 = q := by omega
  exact readsAs_of_l64 (okCtl_ctlFits hk) ⟨okS_lt ha, by decide, by decide, hc, by decide⟩ hop ((hm _).trans (by simp only [fieldsOf, hq2, hcp]))

theorem readsAs_cqFence {q mask : Nat} {cpost : Option Nat} (h : wellFormed e (.cqFence k q mask cpost) = true) :
    ReadsAs e (encode e (.cqFence k q mask cpost)) (some (.cqFence k q mask cpost)) := by
  replace h : (e == .seq && okCtl e k && decide (q < 2) && decide (1 ≤ mask) && decide (mask ≤ 3) && okSem cpost) = true := h
  simp only [Bool.and_eq_true, beq_iff_eq, decide_eq_true_eq] at h
  obtain ⟨⟨⟨⟨⟨rfl, hk⟩, hq⟩, -⟩, hm⟩, hp⟩ := h
  obtain ⟨hc, hcl, hcp⟩ := cpost_reads (q := q + 2 * mask) (by omega) hp
  have hq2 : (q + 2 * mask + cpostBits cpost) % 2 = q := by omega
  have hm4 : (q + 2 * mask + cpostBits cpost) / 2 % 4 = mask := by omega
  refine readsAs_of_l64 (okCtl_ctlFits hk) ⟨by decide, by decide, by decide, hc, by decide⟩ (by decide) (congrArg some ?_)
  simp only [fieldsOf, hq2, hm4, hcp]

end

end Sys2Proof.Machine
end

section
/-! SUPPORT. The words of the access engine's map are read back (R81). -/

namespace Sys2Proof.Machine

section
variable {e : Engine} {k : Ctl} {size hint op : Nat} {a b : SSrc} {d : SDst} {lit : BitVec 32} {sp : Space} {sx acq rel : Bool}

/-! ### Loads and stores (R254 to R262) -/

theorem size_lt_field {n : Nat} (h : okSize n = true) : n < 8 := Nat.lt_trans (of_decide_eq_true h) (by decide)

theorem size23_lt_field {n : Nat} (h : okSize23 n = true) : n < 8 := by
  simp only [okSize23, Bool.or_eq_true, beq_iff_eq] at h
  omega

/-- The fields that were written. -/
theorem fieldsOf_fields (k : Ctl) (a d hint c b lit : Nat) : (fieldsOf k a d hint c b lit).ctl = k ∧ (fieldsOf k a d hint c b lit).a = a ∧
    (fieldsOf k a d hint c b lit).d = d ∧ (fieldsOf k a d hint c b lit).hint = hint ∧ (fieldsOf k a d hint c b lit).c = c ∧
    (fieldsOf k a d hint c b lit).b = b ∧ (fieldsOf k a d hint c b lit).lit = lit := ⟨rfl, rfl, rfl, rfl, rfl, rfl, rfl⟩

/-- C of a load or a store in layout L64-M with SUBF `f` is read back by these fields (R66). -/
structure ReadsM (c f : Nat) (sp : Space) (size : Nat) : Prop where
  fits : c < 512
  subf k a d hint b lit : (fieldsOf k a d hint c b lit).subf = f
  space k a d hint b lit : (fieldsOf k a d hint c b lit).space = sp
  size k a d hint b lit : (fieldsOf k a d hint c b lit).size = size

theorem Raw.space_of {r : Raw} {sp : Space} (h : r.c / 8 % 2 = spCode sp) : r.space = sp := by
  simp only [Raw.space, h]
  cases sp <;> rfl

theorem cM_readsM {f o n : Nat} (hf : f < 4) (ho : o < 8) (sp : Space) (hn : n < 8) :
    ReadsM (cM f o (spCode sp) n) f sp n ∧ cM f o (spCode sp) n / 16 % 8 = o := by
  have hsp : spCode sp < 2 := by cases sp <;> decide
  obtain ⟨hc, hcf, hco, hcp, hcs⟩ := cM_fields hf ho hsp hn
  exact ⟨⟨hc, fun _ _ _ _ _ _ => hcf, fun _ _ _ _ _ _ => Raw.space_of hcp, fun _ _ _ _ _ _ => hcs⟩, hco⟩

/-- A load's C: ORD says whether it acquires (R251). -/
theorem cM_load {f n : Nat} (hf : f < 4) (hn : n < 8) (acq : Bool) (sp : Space) :
    let c := cM f acq.toNat (spCode sp) n
    ReadsM c f sp n ∧ ∀ k a d hint b lit, (fieldsOf k a d hint c b lit).isAcq = acq := by
  obtain ⟨hc, hco⟩ := cM_readsM hf (Nat.lt_trans acq.toNat_lt (by decide)) sp hn
  exact ⟨hc, fun _ _ _ _ _ _ => (congrArg (· == 1) hco).trans (toNat_beq_one acq)⟩

/-- A store's C: ORD says whether it releases (R251). -/
theorem cM_store {f n : Nat} (hf : f < 4) (hn : n < 8) (rel : Bool) (sp : Space) :
    let c := cM f (2 * rel.toNat) (spCode sp) n
    ReadsM c f sp n ∧ ∀ k a d hint b lit, (fieldsOf k a d hint c b lit).isRel = rel := by
  have hrel : rel.toNat < 2 := rel.toNat_lt
  obtain ⟨hc, hco⟩ := cM_readsM hf (o := 2 * rel.toNat) (by omega) sp hn
  exact ⟨hc, fun _ _ _ _ _ _ => (congrArg (· == 2) hco).trans (two_toNat_beq_two rel)⟩

theorem readsAs_lda (h : wellFormed e (.lda k size sx acq sp hint d a lit) = true) :
    ReadsAs e (encode e (.lda k size sx acq sp hint d a lit)) (some (.lda k size sx acq sp hint d a lit)) := by
  replace h : (e == .mem && okCtl e k && okSize size && okAcq acq sp && okHint hint && okDst e d && okSrc e a) = true := h
  simp only [Bool.and_eq_true, beq_iff_eq, okHint, decide_eq_true_eq] at h
  obtain ⟨⟨⟨⟨⟨⟨rfl, hk⟩, hs⟩, -⟩, hh⟩, hd⟩, ha⟩ := h
  obtain ⟨hav, hao⟩ := src_reads ha
  obtain ⟨hdv, hdo⟩ := dst_reads hd
  obtain ⟨hc, hco⟩ := cM_load (Nat.lt_trans sx.toNat_lt (by decide)) (size_lt_field hs) acq sp
  refine readsAs_of_x96 (okCtl_ctlFits hk) ⟨hav, hdv, hh, hc.fits, by decide⟩ (by decide) (congrArg some ?_)
  simp only [fieldsOf_fields, Raw.subOne, hc.subf, hco, hc.space, hc.size, toNat_beq_one, hao, hdo, ofNat_toNat_self]

theorem readsAs_sta (h : wellFormed e (.sta k size rel sp hint a b lit) = true) :
    ReadsAs e (encode e (.sta k size rel sp hint a b lit)) (some (.sta k size rel sp hint a b lit)) := by
  replace h : (e == .mem && okCtl e k && okSize size && okAcq rel sp && okHint hint && okSrc e a && okSrc e b) = true := h
  simp only [Bool.and_eq_true, beq_iff_eq, okHint, decide_eq_true_eq] at h
  obtain ⟨⟨⟨⟨⟨⟨rfl, hk⟩, hs⟩, -⟩, hh⟩, ha⟩, hb⟩ := h
  obtain ⟨hav, hao⟩ := src_reads ha
  obtain ⟨hbv, hbo⟩ := src_reads hb
  obtain ⟨hc, hco⟩ := cM_store (f := 0) (by decide) (size_lt_field hs) rel sp
  refine readsAs_of_x96 (okCtl_ctlFits hk) ⟨hav, by decide, hh, hc.fits, hbv⟩ (by decide) (congrArg some ?_)
  simp only [fieldsOf_fields, hco, hc.space, hc.size, hao, hbo, ofNat_toNat_self]

theorem readsAs_vld {d : MVDst} (h : wellFormed e (.vld k acq sp hint d a lit) = true) :
    ReadsAs e (encode e (.vld k acq sp hint d a lit)) (some (.vld k acq sp hint d a lit)) := by
  replace h : (e == .mem && okCtl e k && okAcq acq sp && okHint hint && okMVDst d && okSrc e a) = true := h
  simp only [Bool.and_eq_true, beq_iff_eq, okHint, decide_eq_true_eq] at h
  obtain ⟨⟨⟨⟨⟨rfl, hk⟩, -⟩, hh⟩, hd⟩, ha⟩ := h
  obtain ⟨hav, hao⟩ := src_reads ha
  obtain ⟨hdv, hdf, hdo⟩ := mvdst_reads hd
  obtain ⟨hc, hco⟩ := cM_load hdf (n := 5) (by decide) acq sp
  refine readsAs_of_x96 (okCtl_ctlFits hk) ⟨hav, hdv, hh, hc.fits, by decide⟩ (by decide) (congrArg some ?_)
  simp only [fieldsOf_fields, hc.subf, hco, hc.space, hao, hdo, ofNat_toNat_self]

theorem readsAs_vst {d : MVSrc} (h : wellFormed e (.vst k rel sp hint d a lit) = true) :
    ReadsAs e (encode e (.vst k rel sp hint d a lit)) (some (.vst k rel sp hint d a lit)) := by
  replace h : (e == .mem && okCtl e k && okAcq rel sp && okHint hint && okMVSrc d && okSrc e a) = true := h
  simp only [Bool.and_eq_true, beq_iff_eq, okHint, decide_eq_true_eq] at h
  obtain ⟨⟨⟨⟨⟨rfl, hk⟩, -⟩, hh⟩, hd⟩, ha⟩ := h
  obtain ⟨hav, hao⟩ := src_reads ha
  obtain ⟨hdv, hdf, hdo⟩ := mvsrc_reads hd
  obtain ⟨hc, hco⟩ := cM_store hdf (n := 5) (by decide) rel sp
  refine readsAs_of_x96 (okCtl_ctlFits hk) ⟨hav, hdv, hh, hc.fits, by decide⟩ (by decide) (congrArg some ?_)
  simp only [fieldsOf_fields, hc.subf, hco, hc.space, hao, hdo, ofNat_toNat_self]

theorem readsAs_vlds {d : MVDst} (h : wellFormed e (.vlds k size acq sp hint d a lit) = true) :
    ReadsAs e (encode e (.vlds k size acq sp hint d a lit)) (some (.vlds k size acq sp hint d a lit)) := by
  replace h : (e == .mem && okCtl e k && okSize size && okAcq acq sp && okHint hint && okMVDst d && okSrc e a) = true := h
  simp only [Bool.and_eq_true, beq_iff_eq, okHint, decide_eq_true_eq] at h
  obtain ⟨⟨⟨⟨⟨⟨rfl, hk⟩, hs⟩, -⟩, hh⟩, hd⟩, ha⟩ := h
  obtain ⟨hav, hao⟩ := src_reads ha
  obtain ⟨hdv, hdf, hdo⟩ := mvdst_reads hd
  obtain ⟨hc, hco⟩ := cM_load hdf (size_lt_field hs) acq sp
  refine readsAs_of_x96 (okCtl_ctlFits hk) ⟨hav, hdv, hh, hc.fits, by decide⟩ (by decide) (congrArg some ?_)
  simp only [fieldsOf_fields, hc.subf, hco, hc.space, hc.size, hao, hdo, ofNat_toNat_self]

theorem readsAs_vsts {d : MVSrc} (h : wellFormed e (.vsts k size rel sp hint d a lit) = true) :
    ReadsAs e (encode e (.vsts k size rel sp hint d a lit)) (some (.vsts k size rel sp hint d a lit)) := by
  replace h : (e == .mem && okCtl e k && okSize size && okAcq rel sp && okHint hint && okMVSrc d && okSrc e a) = true := h
  simp only [Bool.and_eq_true, beq_iff_eq, okHint, decide_eq_true_eq] at h
  obtain ⟨⟨⟨⟨⟨⟨rfl, hk⟩, hs⟩, -⟩, hh⟩, hd⟩, ha⟩ := h
  obtain ⟨hav, hao⟩ := src_reads ha
  obtain ⟨hdv, hdf, hdo⟩ := mvsrc_reads hd
  obtain ⟨hc, hco⟩ := cM_store hdf (size_lt_field hs) rel sp
  refine readsAs_of_x96 (okCtl_ctlFits hk) ⟨hav, hdv, hh, hc.fits, by decide⟩ (by decide) (congrArg some ?_)
  simp only [fieldsOf_fields, hc.subf, hco, hc.space, hc.size, hao, hdo, ofNat_toNat_self]

theorem readsAs_vgath {d : MVDst} {b : VIdx} (h : wellFormed e (.vgath k size acq sp hint d a b) = true) :
    ReadsAs e (encode e (.vgath k size acq sp hint d a b)) (some (.vgath k size acq sp hint d a b)) := by
  replace h : (e == .mem && okCtl e k && okSize23 size && okAcq acq sp && okHint hint && okMVDst d && okSrc e a && okVIdx b &&
    sameCluster (clusterMVDst d) (clusterVIdx b)) = true := h
  simp only [Bool.and_eq_true, beq_iff_eq, okHint, decide_eq_true_eq] at h
  obtain ⟨⟨⟨⟨⟨⟨⟨⟨rfl, hk⟩, hs⟩, -⟩, hh⟩, hd⟩, ha⟩, hb⟩, -⟩ := h
  obtain ⟨hav, hao⟩ := src_reads ha
  obtain ⟨hdv, hdf, hdo⟩ := mvdst_reads hd
  obtain ⟨hbv, hbo⟩ := vidx_reads hb
  obtain ⟨hc, hco⟩ := cM_load hdf (size23_lt_field hs) acq sp
  refine readsAs_of_l64 (okCtl_ctlFits hk) ⟨hav, hdv, hh, hc.fits, hbv⟩ (by decide) (congrArg some ?_)
  simp only [fieldsOf_fields, hc.subf, hco, hc.space, hc.size, hao, hbo, hdo]

theorem readsAs_vscat {d : MVSrc} {b : VIdx} (h : wellFormed e (.vscat k size rel sp hint d a b) = true) :
    ReadsAs e (encode e (.vscat k size rel sp hint d a b)) (some (.vscat k size rel sp hint d a b)) := by
  replace h : (e == .mem && okCtl e k && okSize23 size && okAcq rel sp && okHint hint && okMVSrc d && okSrc e a && okVIdx b &&
    sameCluster (clusterMVSrc d) (clusterVIdx b)) = true := h
  simp only [Bool.and_eq_true, beq_iff_eq, okHint, decide_eq_true_eq] at h
  obtain ⟨⟨⟨⟨⟨⟨⟨⟨rfl, hk⟩, hs⟩, -⟩, hh⟩, hd⟩, ha⟩, hb⟩, -⟩ := h
  obtain ⟨hav, hao⟩ := src_reads ha
  obtain ⟨hdv, hdf, hdo⟩ := mvsrc_reads hd
  obtain ⟨hbv, hbo⟩ := vidx_reads hb
  obtain ⟨hc, hco⟩ := cM_store hdf (size23_lt_field hs) rel sp
  refine readsAs_of_l64 (okCtl_ctlFits hk) ⟨hav, hdv, hh, hc.fits, hbv⟩ (by decide) (congrArg some ?_)
  simp only [fieldsOf_fields, hc.subf, hco, hc.space, hc.size, hao, hbo, hdo]

theorem okTile_lt {n : Nat} (h : okTile n = true) : n < 512 := Nat.lt_trans (of_decide_eq_true h) (by decide)

theorem readsAs_tld {d : Nat} (h : wellFormed e (.tld k acq sp hint d a b) = true) :
    ReadsAs e (encode e (.tld k acq sp hint d a b)) (some (.tld k acq sp hint d a b)) := by
  replace h : (e == .mem && okCtl e k && okAcq acq sp && okHint hint && okTile d && okSrc e a && okSrc e b) = true := h
  simp only [Bool.and_eq_true, beq_iff_eq, okHint, decide_eq_true_eq] at h
  obtain ⟨⟨⟨⟨⟨⟨rfl, hk⟩, -⟩, hh⟩, hd⟩, ha⟩, hb⟩ := h
  obtain ⟨hav, hao⟩ := src_reads ha
  obtain ⟨hbv, hbo⟩ := src_reads hb
  obtain ⟨hc, hco⟩ := cM_load (f := 0) (n := 5) (by decide) (by decide) acq sp
  refine readsAs_of_l64 (okCtl_ctlFits hk) ⟨hav, okTile_lt hd, hh, hc.fits, hbv⟩ (by decide) (congrArg some ?_)
  simp only [fieldsOf_fields, hco, hc.space, hao, hbo]

theorem readsAs_tst {d : Nat} (h : wellFormed e (.tst k rel sp hint d a b) = true) :
    ReadsAs e (encode e (.tst k rel sp hint d a b)) (some (.tst k rel sp hint d a b)) := by
  replace h : (e == .mem && okCtl e k && okAcq rel sp && okHint hint && okTile d && okSrc e a && okSrc e b) = true := h
  simp only [Bool.and_eq_true, beq_iff_eq, okHint, decide_eq_true_eq] at h
  obtain ⟨⟨⟨⟨⟨⟨rfl, hk⟩, -⟩, hh⟩, hd⟩, ha⟩, hb⟩ := h
  obtain ⟨hav, hao⟩ := src_reads ha
  obtain ⟨hbv, hbo⟩ := src_reads hb
  obtain ⟨hc, hco⟩ := cM_store (f := 0) (n := 5) (by decide) (by decide) rel sp
  refine readsAs_of_l64 (okCtl_ctlFits hk) ⟨hav, okTile_lt hd, hh, hc.fits, hbv⟩ (by decide) (congrArg some ?_)
  simp only [fieldsOf_fields, hco, hc.space, hao, hbo]

theorem readsAs_ldS (h : wellFormed e (.ldS k size sx sp hint d a lit) = true) :
    ReadsAs e (encode e (.ldS k size sx sp hint d a lit)) (some (.ldS k size sx sp hint d a lit)) := by
  replace h : (e == .mem && okCtl e k && okSize size && okHint hint && okDst e d && okSrc e a) = true := h
  simp only [Bool.and_eq_true, beq_iff_eq, okHint, decide_eq_true_eq] at h
  obtain ⟨⟨⟨⟨⟨rfl, hk⟩, hs⟩, hh⟩, hd⟩, ha⟩ := h
  obtain ⟨hav, hao⟩ := src_reads ha
  obtain ⟨hdv, hdo⟩ := dst_reads hd
  obtain ⟨hc, -⟩ := cM_readsM (o := 0) (Nat.lt_trans sx.toNat_lt (by decide)) (by decide) sp (size_lt_field hs)
  refine readsAs_of_x96 (okCtl_ctlFits hk) ⟨hav, hdv, hh, hc.fits, by decide⟩ (by decide) (congrArg some ?_)
  simp only [fieldsOf_fields, Raw.subOne, hc.subf, hc.space, hc.size, toNat_beq_one, hao, hdo, ofNat_toNat_self]

theorem readsAs_rspSt {d : MVSrc} (h : wellFormed e (.rspSt k hint d a b lit) = true) :
    ReadsAs e (encode e (.rspSt k hint d a b lit)) (some (.rspSt k hint d a b lit)) := by
  replace h : (e == .mem && okCtl e k && okHint hint && okMVSrc d && okSrc e a && okSrc e b) = true := h
  simp only [Bool.and_eq_true, beq_iff_eq, okHint, decide_eq_true_eq] at h
  obtain ⟨⟨⟨⟨⟨rfl, hk⟩, hh⟩, hd⟩, ha⟩, hb⟩ := h
  obtain ⟨hav, hao⟩ := src_reads ha
  obtain ⟨hbv, hbo⟩ := src_reads hb
  obtain ⟨hdv, hdf, hdo⟩ := mvsrc_reads hd
  have hc : ReadsM (cM (mvsSub d) 0 1 5) (mvsSub d) .spm 5 := (cM_readsM hdf (by decide) .spm (by decide)).1
  refine readsAs_of_x96 (okCtl_ctlFits hk) ⟨hav, hdv, hh, hc.fits, hbv⟩ (by decide) (congrArg some ?_)
  simp only [fieldsOf_fields, hc.subf, hao, hbo, hdo, ofNat_toNat_self]

theorem readsAs_pref (h : wellFormed e (.pref k hint a lit) = true) : ReadsAs e (encode e (.pref k hint a lit)) (some (.pref k hint a lit)) := by
  replace h : (e == .mem && okCtl e k && okHint hint && okSrc e a) = true := h
  simp only [Bool.and_eq_true, beq_iff_eq, okHint, decide_eq_true_eq] at h
  obtain ⟨⟨⟨rfl, hk⟩, hh⟩, ha⟩ := h
  obtain ⟨hav, hao⟩ := src_reads ha
  exact readsAs_of_x96 (okCtl_ctlFits hk) ⟨hav, by decide, hh, by decide, by decide⟩ (by decide)
    (congrArg some (congrArg₂ (Instr.pref k hint) hao (ofNat_toNat_self lit)))

/-! ### Fences, ranges and rows (R231 to R236, R282 to R284, R344) -/

/-- FENCE: C names its kind (R344). -/
theorem readsAs_fence {c : Nat} {mk : Ctl → Instr} (hm : ∀ r : Raw, r.c = c → cand64 .mem 0x4d 1 r = some (mk r.ctl))
    (h : (e == .mem && okCtl e k) = true) (hc : c < 512 := by decide) : ReadsAs e (l64 k 0 0 0x4d 0 c 0) (some (mk k)) := by
  simp only [Bool.and_eq_true, beq_iff_eq] at h
  obtain ⟨rfl, hk⟩ := h
  exact readsAs_of_l64 (okCtl_ctlFits hk) ⟨by decide, by decide, by decide, hc, by decide⟩ (by decide) (hm _ rfl)

theorem readsAs_mem_src_src {mk : Ctl → SSrc → SSrc → Instr} (hm : ∀ r, cand64 .mem op 1 r = some (mk r.ctl (srcOf .mem r.a) (srcOf .mem r.b)))
    (h : (e == .mem && okCtl e k && okSrc e a && okSrc e b) = true) (hop : op < 256 := by decide) :
    ReadsAs e (l64 k (sv e a) 0 op 0 0 (sv e b)) (some (mk k a b)) := by
  simp only [Bool.and_eq_true, beq_iff_eq] at h
  obtain ⟨⟨⟨rfl, hk⟩, ha⟩, hb⟩ := h
  obtain ⟨hav, hao⟩ := src_reads ha
  obtain ⟨hbv, hbo⟩ := src_reads hb
  exact readsAs_of_l64 (okCtl_ctlFits hk) ⟨hav, by decide, by decide, by decide, hbv⟩ hop ((hm _).trans (by simp only [fieldsOf, hao, hbo]))

/-- ROW.CON and ROW.PUT (R232, R233). -/
theorem readsAs_row {d quad : Nat} {mk : Ctl → Nat → SSrc → Nat → Instr} (hm : ∀ r, cand64 .mem op 1 r = some (mk r.ctl r.d (srcOf .mem r.a) r.c))
    (h : (e == .mem && okCtl e k && okTile d && okSrc e a && decide (quad < 32)) = true) (hop : op < 256 := by decide) :
    ReadsAs e (l64 k (sv e a) d op 0 quad 0) (some (mk k d a quad)) := by
  simp only [Bool.and_eq_true, beq_iff_eq, decide_eq_true_eq] at h
  obtain ⟨⟨⟨⟨rfl, hk⟩, hd⟩, ha⟩, hq⟩ := h
  obtain ⟨hav, hao⟩ := src_reads ha
  exact readsAs_of_l64 (okCtl_ctlFits hk) ⟨hav, okTile_lt hd, by decide, Nat.lt_trans hq (by decide), by decide⟩ hop
    ((hm _).trans (by simp only [fieldsOf, hao]))

theorem readsAs_rowCon2 {d quad : Nat} (h : wellFormed e (.rowCon2 k d a b quad) = true) :
    ReadsAs e (encode e (.rowCon2 k d a b quad)) (some (.rowCon2 k d a b quad)) := by
  replace h : (e == .mem && okCtl e k && okTile d && okSrc e a && okSrc e b && decide (quad < 31)) = true := h
  simp only [Bool.and_eq_true, beq_iff_eq, decide_eq_true_eq] at h
  obtain ⟨⟨⟨⟨⟨rfl, hk⟩, hd⟩, ha⟩, hb⟩, hq⟩ := h
  obtain ⟨hav, hao⟩ := src_reads ha
  obtain ⟨hbv, hbo⟩ := src_reads hb
  refine readsAs_of_l64 (okCtl_ctlFits hk) ⟨hav, okTile_lt hd, by decide, Nat.lt_trans hq (by decide), hbv⟩ (by decide) (congrArg some ?_)
  simp only [fieldsOf, hao, hbo]

theorem readsAs_rowPre (h : wellFormed e (.rowPre k a) = true) : ReadsAs e (encode e (.rowPre k a)) (some (.rowPre k a)) := by
  replace h : (e == .mem && okCtl e k && okSrc e a) = true := h
  simp only [Bool.and_eq_true, beq_iff_eq] at h
  obtain ⟨⟨rfl, hk⟩, ha⟩ := h
  exact readsAs_src (fun _ => rfl) (Bool.and_eq_true_iff.2 ⟨hk, ha⟩)

theorem readsAs_rowStat {sel : Nat} (h : wellFormed e (.rowStat k d sel) = true) :
    ReadsAs e (encode e (.rowStat k d sel)) (some (.rowStat k d sel)) := by
  replace h : (e == .mem && okCtl e k && okDst e d && decide (sel < 4)) = true := h
  simp only [Bool.and_eq_true, beq_iff_eq, decide_eq_true_eq] at h
  obtain ⟨⟨⟨rfl, hk⟩, hd⟩, hs⟩ := h
  obtain ⟨hdv, hdo⟩ := dst_reads hd
  exact readsAs_of_l64 (okCtl_ctlFits hk) ⟨by decide, hdv, by decide, Nat.lt_trans hs (by decide), by decide⟩ (by decide)
    (congrArg some (congrArg (Instr.rowStat k · sel) hdo))

theorem readsAs_rowWait (h : wellFormed e (.rowWait k) = true) : ReadsAs e (encode e (.rowWait k)) (some (.rowWait k)) := by
  replace h : (e == .mem && okCtl e k) = true := h
  simp only [Bool.and_eq_true, beq_iff_eq] at h
  obtain ⟨rfl, hk⟩ := h
  exact readsAs_ctl (fun _ => rfl) hk

end

end Sys2Proof.Machine
end

section
/-! SUPPORT. The words of atomic instructions are read back (R81, R321). -/

namespace Sys2Proof.Machine

/-- An atomic's C: SUBF, ORD and SIZE. -/
theorem cM_atom {f n : Nat} (hf : f < 4) (hn : n < 8) (o : Ord) :
    let c := cM f (ordCode o) 0 n
    ReadsM c f .global n ∧ ∀ k a d hint b lit, (fieldsOf k a d hint c b lit).ord = o := by
  obtain ⟨ho, hoo⟩ := ord_reads o
  obtain ⟨hc, hco⟩ := cM_readsM hf ho .global hn
  exact ⟨hc, fun _ _ _ _ _ _ => (congrArg ordOf hco).trans hoo⟩

/-- SUBF and SIZE of a floating-point atomic name its type. -/
theorem ReadsM.amoT {c : Nat} {t : AmoF} {sp : Space} (hc : ReadsM c (amoSub t) sp (amoSize t)) (k : Ctl) (a d hint b lit : Nat) :
    (fieldsOf k a d hint c b lit).amoT = t := by
  simp only [Raw.amoT, hc.subf, hc.size]
  cases t <;> rfl

theorem amoSub_lt (t : AmoF) : amoSub t < 4 := by cases t <;> decide
theorem amoSize_lt (t : AmoF) : amoSize t < 8 := by cases t <;> decide

section
variable {e : Engine} {k : Ctl} {size hint op : Nat} {a b : SSrc} {o : Ord}

theorem of_okAmo {d : SDst} (h : okAmo e k hint d a b = true) :
    e = .mem ∧ okCtl e k = true ∧ hint < 4 ∧ okDst e d = true ∧ okSrc e a = true ∧ okSrc e b = true := by
  simp only [okAmo, okHint, Bool.and_eq_true, beq_iff_eq, decide_eq_true_eq] at h
  obtain ⟨⟨⟨⟨⟨he, hk⟩, hh⟩, hd⟩, ha⟩, hb⟩ := h
  exact ⟨he, hk, hh, hd, ha, hb⟩

theorem of_okRed (h : okRed e k o hint a b = true) :
    e = .mem ∧ okCtl e k = true ∧ hint < 4 ∧ okSrc e a = true ∧ okSrc e b = true := by
  simp only [okRed, okHint, Bool.and_eq_true, beq_iff_eq, decide_eq_true_eq] at h
  obtain ⟨⟨⟨⟨⟨he, hk⟩, -⟩, hh⟩, ha⟩, hb⟩ := h
  exact ⟨he, hk, hh, ha, hb⟩

theorem of_okVamo {d : Nat} {b : VIdx} (h : okVamo e k hint d a b = true) :
    e = .mem ∧ okCtl e k = true ∧ hint < 4 ∧ d < 512 ∧ okSrc e a = true ∧ okVIdx b = true := by
  simp only [okVamo, okHint, Bool.and_eq_true, beq_iff_eq, decide_eq_true_eq] at h
  obtain ⟨⟨⟨⟨⟨⟨he, hk⟩, hh⟩, hd⟩, ha⟩, hb⟩, -⟩ := h
  exact ⟨he, hk, hh, Nat.lt_trans hd (by decide), ha, hb⟩

theorem readsAs_amo {d : SDst} {mk : Ctl → Nat → Ord → Nat → SDst → SSrc → SSrc → Instr}
    (hm : ∀ r, cand64 .mem op 1 r = some (mk r.ctl r.size r.ord r.hint (dstOf .mem r.d) (srcOf .mem r.a) (srcOf .mem r.b)))
    (h : (okAmo e k hint d a b && okSize23 size) = true) (hop : op < 256 := by decide) :
    ReadsAs e (l64 k (sv e a) (dv e d) op hint (cM 0 (ordCode o) 0 size) (sv e b)) (some (mk k size o hint d a b)) := by
  obtain ⟨h, hs⟩ := Bool.and_eq_true_iff.1 h
  obtain ⟨rfl, hk, hh, hd, ha, hb⟩ := of_okAmo h
  obtain ⟨hav, hao⟩ := src_reads ha
  obtain ⟨hbv, hbo⟩ := src_reads hb
  obtain ⟨hdv, hdo⟩ := dst_reads hd
  obtain ⟨hc, hco⟩ := cM_atom (f := 0) (by decide) (size23_lt_field hs) o
  refine readsAs_of_l64 (okCtl_ctlFits hk) ⟨hav, hdv, hh, hc.fits, hbv⟩ hop ((hm _).trans ?_)
  simp only [fieldsOf_fields, hc.size, hco, hao, hbo, hdo]

theorem readsAs_amoF {t : AmoF} {d : SDst} {mk : Ctl → AmoF → Ord → Nat → SDst → SSrc → SSrc → Instr}
    (hm : ∀ r, cand64 .mem op 1 r = some (mk r.ctl r.amoT r.ord r.hint (dstOf .mem r.d) (srcOf .mem r.a) (srcOf .mem r.b)))
    (h : okAmo e k hint d a b = true) (hop : op < 256 := by decide) :
    ReadsAs e (l64 k (sv e a) (dv e d) op hint (cM (amoSub t) (ordCode o) 0 (amoSize t)) (sv e b)) (some (mk k t o hint d a b)) := by
  obtain ⟨rfl, hk, hh, hd, ha, hb⟩ := of_okAmo h
  obtain ⟨hav, hao⟩ := src_reads ha
  obtain ⟨hbv, hbo⟩ := src_reads hb
  obtain ⟨hdv, hdo⟩ := dst_reads hd
  obtain ⟨hc, hco⟩ := cM_atom (amoSub_lt t) (amoSize_lt t) o
  refine readsAs_of_l64 (okCtl_ctlFits hk) ⟨hav, hdv, hh, hc.fits, hbv⟩ hop ((hm _).trans ?_)
  simp only [fieldsOf_fields, hc.amoT, hco, hao, hbo, hdo]

theorem readsAs_amoCas {d : Nat} (h : wellFormed e (.amoCas k size o hint d a b) = true) :
    ReadsAs e (encode e (.amoCas k size o hint d a b)) (some (.amoCas k size o hint d a b)) := by
  obtain ⟨h, hs⟩ := Bool.and_eq_true_iff.1 h
  obtain ⟨rfl, hk, hh, hd, ha, hb⟩ := of_okAmo h
  obtain ⟨hav, hao⟩ := src_reads ha
  obtain ⟨hbv, hbo⟩ := src_reads hb
  obtain ⟨hc, hco⟩ := cM_atom (f := 0) (by decide) (size23_lt_field hs) o
  refine readsAs_of_l64 (okCtl_ctlFits hk) ⟨hav, (dst_reads hd).1, hh, hc.fits, hbv⟩ (by decide) (congrArg some ?_)
  simp only [fieldsOf_fields, hc.size, hco, hao, hbo]

theorem readsAs_acas128 {d b : Nat} (h : wellFormed e (.acas128 k o hint d a b) = true) :
    ReadsAs e (encode e (.acas128 k o hint d a b)) (some (.acas128 k o hint d a b)) := by
  obtain ⟨h, -⟩ := Bool.and_eq_true_iff.1 h
  obtain ⟨h, -⟩ := Bool.and_eq_true_iff.1 h
  obtain ⟨rfl, hk, hh, hd, ha, hb⟩ := of_okAmo h
  obtain ⟨hav, hao⟩ := src_reads ha
  obtain ⟨hc, hco⟩ := cM_atom (f := 0) (n := 4) (by decide) (by decide) o
  refine readsAs_of_l64 (okCtl_ctlFits hk) ⟨hav, (dst_reads hd).1, hh, hc.fits, (src_reads hb).1⟩ (by decide) (congrArg some ?_)
  simp only [fieldsOf_fields, hco, hao]

theorem readsAs_red {mk : Ctl → Nat → Ord → Nat → SSrc → SSrc → Instr}
    (hm : ∀ r, cand64 .mem op 1 r = some (mk r.ctl r.size r.ord r.hint (srcOf .mem r.a) (srcOf .mem r.b)))
    (h : (okRed e k o hint a b && okSize23 size) = true) (hop : op < 256 := by decide) :
    ReadsAs e (l64 k (sv e a) 0 op hint (cM 0 (ordCode o) 0 size) (sv e b)) (some (mk k size o hint a b)) := by
  obtain ⟨h, hs⟩ := Bool.and_eq_true_iff.1 h
  obtain ⟨rfl, hk, hh, ha, hb⟩ := of_okRed h
  obtain ⟨hav, hao⟩ := src_reads ha
  obtain ⟨hbv, hbo⟩ := src_reads hb
  obtain ⟨hc, hco⟩ := cM_atom (f := 0) (by decide) (size23_lt_field hs) o
  refine readsAs_of_l64 (okCtl_ctlFits hk) ⟨hav, by decide, hh, hc.fits, hbv⟩ hop ((hm _).trans ?_)
  simp only [fieldsOf_fields, hc.size, hco, hao, hbo]

theorem readsAs_redF {t : AmoF} {mk : Ctl → AmoF → Ord → Nat → SSrc → SSrc → Instr}
    (hm : ∀ r, cand64 .mem op 1 r = some (mk r.ctl r.amoT r.ord r.hint (srcOf .mem r.a) (srcOf .mem r.b)))
    (h : okRed e k o hint a b = true) (hop : op < 256 := by decide) :
    ReadsAs e (l64 k (sv e a) 0 op hint (cM (amoSub t) (ordCode o) 0 (amoSize t)) (sv e b)) (some (mk k t o hint a b)) := by
  obtain ⟨rfl, hk, hh, ha, hb⟩ := of_okRed h
  obtain ⟨hav, hao⟩ := src_reads ha
  obtain ⟨hbv, hbo⟩ := src_reads hb
  obtain ⟨hc, hco⟩ := cM_atom (amoSub_lt t) (amoSize_lt t) o
  refine readsAs_of_l64 (okCtl_ctlFits hk) ⟨hav, by decide, hh, hc.fits, hbv⟩ hop ((hm _).trans ?_)
  simp only [fieldsOf_fields, hc.amoT, hco, hao, hbo]

theorem readsAs_vamo {d : Nat} {b : VIdx} {mk : Ctl → Nat → Ord → Nat → Nat → SSrc → VIdx → Instr}
    (hm : ∀ r, cand64 .mem op 1 r = some (mk r.ctl r.size r.ord r.hint r.d (srcOf .mem r.a) (vixOf r.b)))
    (h : (okVamo e k hint d a b && okSize23 size) = true) (hop : op < 256 := by decide) :
    ReadsAs e (l64 k (sv e a) d op hint (cM 0 (ordCode o) 0 size) (vix b)) (some (mk k size o hint d a b)) := by
  obtain ⟨h, hs⟩ := Bool.and_eq_true_iff.1 h
  obtain ⟨rfl, hk, hh, hd, ha, hb⟩ := of_okVamo h
  obtain ⟨hav, hao⟩ := src_reads ha
  obtain ⟨hbv, hbo⟩ := vidx_reads hb
  obtain ⟨hc, hco⟩ := cM_atom (f := 0) (by decide) (size23_lt_field hs) o
  refine readsAs_of_l64 (okCtl_ctlFits hk) ⟨hav, hd, hh, hc.fits, hbv⟩ hop ((hm _).trans ?_)
  simp only [fieldsOf_fields, hc.size, hco, hao, hbo]

theorem readsAs_vamoF {d : Nat} {b : VIdx} {t : AmoF} {mk : Ctl → AmoF → Ord → Nat → Nat → SSrc → VIdx → Instr}
    (hm : ∀ r, cand64 .mem op 1 r = some (mk r.ctl r.amoT r.ord r.hint r.d (srcOf .mem r.a) (vixOf r.b)))
    (h : okVamo e k hint d a b = true) (hop : op < 256 := by decide) :
    ReadsAs e (l64 k (sv e a) d op hint (cM (amoSub t) (ordCode o) 0 (amoSize t)) (vix b)) (some (mk k t o hint d a b)) := by
  obtain ⟨rfl, hk, hh, hd, ha, hb⟩ := of_okVamo h
  obtain ⟨hav, hao⟩ := src_reads ha
  obtain ⟨hbv, hbo⟩ := vidx_reads hb
  obtain ⟨hc, hco⟩ := cM_atom (amoSub_lt t) (amoSize_lt t) o
  refine readsAs_of_l64 (okCtl_ctlFits hk) ⟨hav, hd, hh, hc.fits, hbv⟩ hop ((hm _).trans ?_)
  simp only [fieldsOf_fields, hc.amoT, hco, hao, hbo]

end

end Sys2Proof.Machine
end

section
/-! SUPPORT. The words of the vector map are read back (R82). -/

namespace Sys2Proof.Machine

/-- TYPE below another field of C, both read back. -/
theorem ty_reads {n : Nat} (hn : n < 32) (t : ElemType) :
    16 * n + t.code < 512 ∧ (16 * n + t.code) / 16 = n ∧ ElemType.ofCode ((16 * n + t.code) % 16) = t := by
  obtain ⟨ht, hto⟩ := ofCode_code t
  have hlow : (16 * n + t.code) % 16 = t.code := by omega
  exact ⟨by omega, by omega, by rw [hlow, hto]⟩

/-- TYPE alone in C. -/
theorem code_reads (t : ElemType) : t.code < 512 ∧ ElemType.ofCode (t.code % 16) = t := by
  obtain ⟨ht, hto⟩ := ofCode_code t
  exact ⟨Nat.lt_trans ht (by decide), by rw [Nat.mod_eq_of_lt ht, hto]⟩

section
variable {e : Engine} {k : Ctl} {t : ElemType} {op : Nat} {d : VDst} {a b : VSrc} {p q : Bool}

/-! ### Lane-wise forms (R162) -/

theorem readsAs_vTwo {mk : Ctl → ElemType → VDst → VSrc → VSrc → Instr}
    (hm : ∀ r, cand64 .vec op 1 r = some (mk r.ctl r.ty (vdOf r.d) (vsOf r.a) (vsOf r.b)))
    (h : (e == .vec && okLane k && p && okVTwo d a b) = true) (hop : op < 256 := by decide) :
    ReadsAs e (l64 k (vsv a) (vdv d) op 0 t.code (vsv b)) (some (mk k t d a b)) := by
  simp only [okVTwo, Bool.and_eq_true, beq_iff_eq] at h
  obtain ⟨⟨⟨rfl, hk⟩, -⟩, ⟨⟨hd, ha⟩, hb⟩, -⟩ := h
  obtain ⟨hav, hao⟩ := vsrc_reads ha
  obtain ⟨hbv, hbo⟩ := vsrc_reads hb
  obtain ⟨hdv, hdo⟩ := vdOf_vdv hd
  obtain ⟨hc, hco⟩ := code_reads t
  refine readsAs_of_l64 (okLane_ctlFits hk) ⟨hav, hdv, by decide, hc, hbv⟩ hop ((hm _).trans ?_)
  simp only [fieldsOf_fields, Raw.ty, hco, hao, hbo, hdo]

theorem readsAs_vRmw {d : Nat} {mk : Ctl → ElemType → Nat → VSrc → VSrc → Instr}
    (hm : ∀ r, cand64 .vec op 1 r = some (mk r.ctl r.ty r.d (vsOf r.a) (vsOf r.b)))
    (h : (e == .vec && okLane k && p && okVRmw d a b) = true) (hop : op < 256 := by decide) :
    ReadsAs e (l64 k (vsv a) d op 0 t.code (vsv b)) (some (mk k t d a b)) := by
  simp only [okVRmw, Bool.and_eq_true, beq_iff_eq, decide_eq_true_eq] at h
  obtain ⟨⟨⟨rfl, hk⟩, -⟩, ⟨⟨hd, ha⟩, hb⟩, -⟩ := h
  obtain ⟨hav, hao⟩ := vsrc_reads ha
  obtain ⟨hbv, hbo⟩ := vsrc_reads hb
  obtain ⟨hc, hco⟩ := code_reads t
  refine readsAs_of_l64 (okLane_ctlFits hk) ⟨hav, Nat.lt_trans hd (by decide), by decide, hc, hbv⟩ hop ((hm _).trans ?_)
  simp only [fieldsOf_fields, Raw.ty, hco, hao, hbo]

theorem readsAs_vOne {mk : Ctl → ElemType → VDst → VSrc → Instr} (hm : ∀ r, cand64 .vec op 1 r = some (mk r.ctl r.ty (vdOf r.d) (vsOf r.a)))
    (h : (e == .vec && okLane k && p && okVOne d a) = true) (hop : op < 256 := by decide) :
    ReadsAs e (l64 k (vsv a) (vdv d) op 0 t.code 0) (some (mk k t d a)) := by
  simp only [okVOne, Bool.and_eq_true, beq_iff_eq] at h
  obtain ⟨⟨⟨rfl, hk⟩, -⟩, ⟨hd, ha⟩, -⟩ := h
  obtain ⟨hav, hao⟩ := vsrc_reads ha
  obtain ⟨hdv, hdo⟩ := vdOf_vdv hd
  obtain ⟨hc, hco⟩ := code_reads t
  refine readsAs_of_l64 (okLane_ctlFits hk) ⟨hav, hdv, by decide, hc, by decide⟩ hop ((hm _).trans ?_)
  simp only [fieldsOf_fields, Raw.ty, hco, hao, hdo]

/-! ### Conversions and moves (R167 to R174) -/

/-- PART fits its field: a lane converts to or from at most 16. -/
theorem convRatio_le (td ts : ElemType) : convRatio td ts ≤ 16 := by cases td <;> cases ts <;> decide

/-- The wide types of block formats are 2 to 8 times as wide as the narrow ones. -/
theorem convRatio_block {tw tn : ElemType} (hw : okQWide tw = true) (hn : okQNarrow tn = true) : convRatio tw tn ≤ 8 ∧ convRatio tn tw ≤ 8 := by
  revert hw hn
  cases tw <;> cases tn <;> decide

theorem readsAs_vcvt {td ts : ElemType} {part : Nat} (h : wellFormed e (.vcvt k td ts part d a) = true) :
    ReadsAs e (encode e (.vcvt k td ts part d a)) (some (.vcvt k td ts part d a)) := by
  replace h : (e == .vec && okLane k && td != .e8m0 && ts != .e8m0 && !(td == .e2m1 && ts == .e2m1) && decide (part < convRatio td ts) &&
    okVOne d a) = true := h
  simp only [okVOne, Bool.and_eq_true, beq_iff_eq, decide_eq_true_eq] at h
  obtain ⟨⟨⟨⟨⟨⟨rfl, hk⟩, -⟩, -⟩, -⟩, hp⟩, ⟨hd, ha⟩, -⟩ := h
  obtain ⟨hav, hao⟩ := vsrc_reads ha
  obtain ⟨hdv, hdo⟩ := vdOf_vdv hd
  obtain ⟨htd, htdo⟩ := ofCode_code td
  obtain ⟨hc, hcd, hct⟩ := ty_reads (Nat.lt_trans htd (by decide)) ts
  have hb : part < 512 := Nat.lt_of_lt_of_le hp (Nat.le_trans (convRatio_le td ts) (by decide))
  refine readsAs_of_l64 (okLane_ctlFits hk) ⟨hav, hdv, by decide, hc, hb⟩ (by decide) (congrArg some ?_)
  simp only [fieldsOf_fields, Raw.ty, hcd, Nat.mod_eq_of_lt htd, htdo, hct, hao, hdo]

theorem readsAs_vqnt {td ts : ElemType} {part : Nat} {s : SDst} (h : wellFormed e (.vqnt k td ts part d a s) = true) :
    ReadsAs e (encode e (.vqnt k td ts part d a s)) (some (.vqnt k td ts part d a s)) := by
  replace h : (e == .vec && okPlain k && okQWide ts && okQNarrow td && decide (part < convRatio td ts) && okVOne d a && okDst e s) = true := h
  simp only [okVOne, Bool.and_eq_true, beq_iff_eq, decide_eq_true_eq] at h
  obtain ⟨⟨⟨⟨⟨⟨rfl, hk⟩, hw⟩, hn⟩, hp⟩, ⟨hd, ha⟩, -⟩, hs⟩ := h
  obtain ⟨hav, hao⟩ := vsrc_reads ha
  obtain ⟨hdv, hdo⟩ := vdOf_vdv hd
  obtain ⟨htd, htdo⟩ := ofCode_code td
  obtain ⟨hc, hcd, hct⟩ := ty_reads (Nat.lt_trans htd (by decide)) ts
  have hp8 : part < 8 := Nat.lt_of_lt_of_le hp (convRatio_block hw hn).2
  have hsv : dv .vec s < 64 := dv_lt_field hs
  have hbp : (8 * dv .vec s + part) % 8 = part := by omega
  have hbs : (8 * dv .vec s + part) / 8 = dv .vec s := by omega
  refine readsAs_of_l64 (okPlain_ctlFits hk) ⟨hav, hdv, by decide, hc, by omega⟩ (by decide) (congrArg some ?_)
  simp only [fieldsOf_fields, Raw.ty, hcd, Nat.mod_eq_of_lt htd, htdo, hct, hbp, hbs, dstOf_dv hs, hao, hdo]

theorem readsAs_vdqnt {td ts : ElemType} {part : Nat} {s : SSrc} (h : wellFormed e (.vdqnt k td ts part d a s) = true) :
    ReadsAs e (encode e (.vdqnt k td ts part d a s)) (some (.vdqnt k td ts part d a s)) := by
  replace h : (e == .vec && okPlain k && okQWide td && okQNarrow ts && decide (part < convRatio td ts) && okVOne d a && okSrc e s) = true := h
  simp only [okVOne, Bool.and_eq_true, beq_iff_eq, decide_eq_true_eq] at h
  obtain ⟨⟨⟨⟨⟨⟨rfl, hk⟩, hw⟩, hn⟩, hp⟩, ⟨hd, ha⟩, -⟩, hs⟩ := h
  obtain ⟨hav, hao⟩ := vsrc_reads ha
  obtain ⟨hdv, hdo⟩ := vdOf_vdv hd
  obtain ⟨htd, htdo⟩ := ofCode_code td
  obtain ⟨hc, hcd, hct⟩ := ty_reads (Nat.lt_trans htd (by decide)) ts
  have hp8 : part < 8 := Nat.lt_of_lt_of_le hp (convRatio_block hw hn).1
  have hsv : sv .vec s < 64 := sv_lt_field hs
  have hbp : (8 * sv .vec s + part) % 8 = part := by omega
  have hbs : (8 * sv .vec s + part) / 8 = sv .vec s := by omega
  refine readsAs_of_l64 (okPlain_ctlFits hk) ⟨hav, hdv, by decide, hc, by omega⟩ (by decide) (congrArg some ?_)
  simp only [fieldsOf_fields, Raw.ty, hcd, Nat.mod_eq_of_lt htd, htdo, hct, hbp, hbs, srcOf_sv hs, hao, hdo]

theorem readsAs_vmov (h : wellFormed e (.vmov k t d a) = true) : ReadsAs e (encode e (.vmov k t d a)) (some (.vmov k t d a)) := by
  replace h : (e == .vec && okLane k && bitT t && okVDst d && okVSrc a) = true := h
  simp only [Bool.and_eq_true, beq_iff_eq] at h
  obtain ⟨⟨⟨⟨rfl, hk⟩, -⟩, hd⟩, ha⟩ := h
  obtain ⟨hav, hao⟩ := vsrc_reads ha
  obtain ⟨hdv, hdo⟩ := vdOf_vdv hd
  obtain ⟨hc, hco⟩ := code_reads t
  refine readsAs_of_l64 (okLane_ctlFits hk) ⟨hav, hdv, by decide, hc, by decide⟩ (by decide) (congrArg some ?_)
  simp only [fieldsOf_fields, Raw.ty, hco, hao, hdo]

theorem readsAs_vbcast {a : SSrc} (h : wellFormed e (.vbcast k t d a) = true) :
    ReadsAs e (encode e (.vbcast k t d a)) (some (.vbcast k t d a)) := by
  replace h : (e == .vec && okLane k && bitT t && okVDst d && okSrc e a) = true := h
  simp only [Bool.and_eq_true, beq_iff_eq] at h
  obtain ⟨⟨⟨⟨rfl, hk⟩, -⟩, hd⟩, ha⟩ := h
  obtain ⟨hav, hao⟩ := src_reads ha
  obtain ⟨hdv, hdo⟩ := vdOf_vdv hd
  obtain ⟨hc, hco⟩ := code_reads t
  refine readsAs_of_l64 (okLane_ctlFits hk) ⟨hav, hdv, by decide, hc, by decide⟩ (by decide) (congrArg some ?_)
  simp only [fieldsOf_fields, Raw.ty, hco, hao, hdo]

theorem readsAs_vextr {d : SDst} {b : SSrc} (h : wellFormed e (.vextr k t d a b) = true) :
    ReadsAs e (encode e (.vextr k t d a b)) (some (.vextr k t d a b)) := by
  replace h : (e == .vec && okPlain k && bitT t && okDst e d && okVSrc a && okSrc e b) = true := h
  simp only [Bool.and_eq_true, beq_iff_eq] at h
  obtain ⟨⟨⟨⟨⟨rfl, hk⟩, -⟩, hd⟩, ha⟩, hb⟩ := h
  obtain ⟨hav, hao⟩ := vsrc_reads ha
  obtain ⟨hbv, hbo⟩ := src_reads hb
  obtain ⟨hdv, hdo⟩ := dst_reads hd
  obtain ⟨hc, hco⟩ := code_reads t
  refine readsAs_of_l64 (okPlain_ctlFits hk) ⟨hav, hdv, by decide, hc, hbv⟩ (by decide) (congrArg some ?_)
  simp only [fieldsOf_fields, Raw.ty, hco, hao, hbo, hdo]

theorem readsAs_vins {d : Nat} {a b : SSrc} (h : wellFormed e (.vins k t d a b) = true) :
    ReadsAs e (encode e (.vins k t d a b)) (some (.vins k t d a b)) := by
  replace h : (e == .vec && okPlain k && bitT t && decide (d < 384) && okSrc e a && okSrc e b) = true := h
  simp only [Bool.and_eq_true, beq_iff_eq, decide_eq_true_eq] at h
  obtain ⟨⟨⟨⟨⟨rfl, hk⟩, -⟩, hd⟩, ha⟩, hb⟩ := h
  obtain ⟨hav, hao⟩ := src_reads ha
  obtain ⟨hbv, hbo⟩ := src_reads hb
  obtain ⟨hc, hco⟩ := code_reads t
  refine readsAs_of_l64 (okPlain_ctlFits hk) ⟨hav, Nat.lt_trans hd (by decide), by decide, hc, hbv⟩ (by decide) (congrArg some ?_)
  simp only [fieldsOf_fields, Raw.ty, hco, hao, hbo]

/-! ### Masks (R181 to R186) -/

theorem okMask_lt {n : Nat} (h : okMask n = true) : n < 16 := of_decide_eq_true h

theorem okMaskD_lt {n : Nat} (h : okMaskD n = true) : n < 512 := by
  simp only [okMaskD, Bool.and_eq_true, decide_eq_true_eq] at h
  omega

theorem okMask_field {n : Nat} (h : okMask n = true) : n < 512 := Nat.lt_trans (okMask_lt h) (by decide)

theorem readsAs_vcmp {cc : Cond} {d : Nat} (h : wellFormed e (.vcmp k cc t d a b) = true) :
    ReadsAs e (encode e (.vcmp k cc t d a b)) (some (.vcmp k cc t d a b)) := by
  replace h : (e == .vec && okLane k && fI t && okMaskD d && okVSrc a && okVSrc b && sameCluster (clusterVSrc a) (clusterVSrc b)) = true := h
  simp only [Bool.and_eq_true, beq_iff_eq] at h
  obtain ⟨⟨⟨⟨⟨⟨rfl, hk⟩, -⟩, hd⟩, ha⟩, hb⟩, -⟩ := h
  obtain ⟨hav, hao⟩ := vsrc_reads ha
  obtain ⟨hbv, hbo⟩ := vsrc_reads hb
  obtain ⟨hcc, hcco⟩ := cond_reads cc
  obtain ⟨hc, hcn, hct⟩ := ty_reads (Nat.lt_trans hcc (by decide)) t
  refine readsAs_of_l64 (okLane_ctlFits hk) ⟨hav, okMaskD_lt hd, by decide, hc, hbv⟩ (by decide) (congrArg some ?_)
  simp only [fieldsOf_fields, Raw.ty, hcn, hct, hcco, hao, hbo]

theorem readsAs_vsel {m : Nat} (h : wellFormed e (.vsel k t d a b m) = true) :
    ReadsAs e (encode e (.vsel k t d a b m)) (some (.vsel k t d a b m)) := by
  replace h : (e == .vec && okLane k && bitT t && okVTwo d a b && okMask m) = true := h
  simp only [okVTwo, Bool.and_eq_true, beq_iff_eq] at h
  obtain ⟨⟨⟨⟨rfl, hk⟩, -⟩, ⟨⟨hd, ha⟩, hb⟩, -⟩, hm⟩ := h
  obtain ⟨hav, hao⟩ := vsrc_reads ha
  obtain ⟨hbv, hbo⟩ := vsrc_reads hb
  obtain ⟨hdv, hdo⟩ := vdOf_vdv hd
  obtain ⟨hc, hcn, hct⟩ := ty_reads (Nat.lt_trans (okMask_lt hm) (by decide)) t
  refine readsAs_of_l64 (okLane_ctlFits hk) ⟨hav, hdv, by decide, hc, hbv⟩ (by decide) (congrArg some ?_)
  simp only [fieldsOf_fields, Raw.ty, hcn, hct, hao, hbo, hdo]

theorem readsAs_kTwo {d a b : Nat} {mk : Ctl → Nat → Nat → Nat → Instr} (hm : ∀ r, cand64 .vec op 1 r = some (mk r.ctl r.d r.a r.b))
    (h : (e == .vec && okPlain k && okMaskD d && okMask a && okMask b) = true) (hop : op < 256 := by decide) :
    ReadsAs e (l64 k a d op 0 0 b) (some (mk k d a b)) := by
  simp only [Bool.and_eq_true, beq_iff_eq] at h
  obtain ⟨⟨⟨⟨rfl, hk⟩, hd⟩, ha⟩, hb⟩ := h
  exact readsAs_of_l64 (okPlain_ctlFits hk) ⟨okMask_field ha, okMaskD_lt hd, by decide, by decide, okMask_field hb⟩ hop (hm _)

theorem readsAs_kOne {d a : Nat} {mk : Ctl → Nat → Nat → Instr} (hm : ∀ r : Raw, r.c = 0 → cand64 .vec op 1 r = some (mk r.ctl r.d r.a))
    (h : (e == .vec && okPlain k && okMaskD d && okMask a) = true) (hop : op < 256 := by decide) :
    ReadsAs e (l64 k a d op 0 0 0) (some (mk k d a)) := by
  simp only [Bool.and_eq_true, beq_iff_eq] at h
  obtain ⟨⟨⟨rfl, hk⟩, hd⟩, ha⟩ := h
  exact readsAs_of_l64 (okPlain_ctlFits hk) ⟨okMask_field ha, okMaskD_lt hd, by decide, by decide, by decide⟩ hop (hm _ rfl)

theorem readsAs_kpop {d : SDst} {a : Nat} (h : wellFormed e (.kpop k d a) = true) : ReadsAs e (encode e (.kpop k d a)) (some (.kpop k d a)) := by
  replace h : (e == .vec && okPlain k && okDst e d && okMask a) = true := h
  simp only [Bool.and_eq_true, beq_iff_eq] at h
  obtain ⟨⟨⟨rfl, hk⟩, hd⟩, ha⟩ := h
  obtain ⟨hdv, hdo⟩ := dst_reads hd
  exact readsAs_of_l64 (okPlain_ctlFits hk) ⟨okMask_field ha, hdv, by decide, by decide, by decide⟩ (by decide)
    (congrArg some (congrArg (Instr.kpop k · a) hdo))

theorem readsAs_kmovFromVector {d : Nat} (h : wellFormed e (.kmovFromVector k d a) = true) :
    ReadsAs e (encode e (.kmovFromVector k d a)) (some (.kmovFromVector k d a)) := by
  replace h : (e == .vec && okPlain k && okMaskD d && okVSrc a) = true := h
  simp only [Bool.and_eq_true, beq_iff_eq] at h
  obtain ⟨⟨⟨rfl, hk⟩, hd⟩, ha⟩ := h
  obtain ⟨hav, hao⟩ := vsrc_reads ha
  exact readsAs_of_l64 (okPlain_ctlFits hk) ⟨hav, okMaskD_lt hd, by decide, by decide, by decide⟩ (by decide)
    (congrArg some (congrArg (Instr.kmovFromVector k d) hao))

theorem readsAs_kmovToVector {a : Nat} (h : wellFormed e (.kmovToVector k d a) = true) :
    ReadsAs e (encode e (.kmovToVector k d a)) (some (.kmovToVector k d a)) := by
  replace h : (e == .vec && okPlain k && okVDst d && okMask a) = true := h
  simp only [Bool.and_eq_true, beq_iff_eq] at h
  obtain ⟨⟨⟨rfl, hk⟩, hd⟩, ha⟩ := h
  obtain ⟨hdv, hdo⟩ := vdOf_vdv hd
  exact readsAs_of_l64 (okPlain_ctlFits hk) ⟨okMask_field ha, hdv, by decide, by decide, by decide⟩ (by decide)
    (congrArg some (congrArg (Instr.kmovToVector k · a) hdo))

/-! ### Lane movement and reductions (R187 to R195) -/

theorem readsAs_vshuf {hi : Bool} (h : wellFormed e (.vshuf k hi t d a b) = true) :
    ReadsAs e (encode e (.vshuf k hi t d a b)) (some (.vshuf k hi t d a b)) := by
  replace h : (e == .vec && okLane k && bitT t && (!hi || t.width == 8) && okVTwo d a b) = true := h
  simp only [okVTwo, Bool.and_eq_true, beq_iff_eq] at h
  obtain ⟨⟨⟨⟨rfl, hk⟩, -⟩, -⟩, ⟨⟨hd, ha⟩, hb⟩, -⟩ := h
  obtain ⟨hav, hao⟩ := vsrc_reads ha
  obtain ⟨hbv, hbo⟩ := vsrc_reads hb
  obtain ⟨hdv, hdo⟩ := vdOf_vdv hd
  obtain ⟨hc, hcn, hct⟩ := ty_reads (Nat.lt_trans hi.toNat_lt (by decide)) t
  refine readsAs_of_l64 (okLane_ctlFits hk) ⟨hav, hdv, by decide, hc, hbv⟩ (by decide) (congrArg some ?_)
  simp only [fieldsOf_fields, Raw.ty, hcn, hct, toNat_beq_one, hao, hbo, hdo]

/-- A type that moves bit for bit has lanes of at least one byte. -/
theorem lanes_le_of_bitT (h : bitT t = true) : t.lanes ≤ 512 := by
  revert h
  cases t <;> decide

theorem readsAs_vxswp {dist : Nat} (h : wellFormed e (.vxswp k t d a dist) = true) :
    ReadsAs e (encode e (.vxswp k t d a dist)) (some (.vxswp k t d a dist)) := by
  replace h : (e == .vec && okLane k && bitT t && okVOne d a && decide (1 ≤ dist) && decide (dist < t.lanes)) = true := h
  simp only [okVOne, Bool.and_eq_true, beq_iff_eq, decide_eq_true_eq] at h
  obtain ⟨⟨⟨⟨⟨rfl, hk⟩, ht⟩, ⟨hd, ha⟩, -⟩, -⟩, hdist⟩ := h
  obtain ⟨hav, hao⟩ := vsrc_reads ha
  obtain ⟨hdv, hdo⟩ := vdOf_vdv hd
  obtain ⟨hc, hco⟩ := code_reads t
  refine readsAs_of_l64 (okLane_ctlFits hk) ⟨hav, hdv, by decide, hc, Nat.lt_of_lt_of_le hdist (lanes_le_of_bitT ht)⟩ (by decide) (congrArg some ?_)
  simp only [fieldsOf_fields, Raw.ty, hco, hao, hdo]

theorem readsAs_vrot {b : SSrc} (h : wellFormed e (.vrot k t d a b) = true) :
    ReadsAs e (encode e (.vrot k t d a b)) (some (.vrot k t d a b)) := by
  replace h : (e == .vec && okLane k && bitT t && okVOne d a && okSrc e b) = true := h
  simp only [okVOne, Bool.and_eq_true, beq_iff_eq] at h
  obtain ⟨⟨⟨⟨rfl, hk⟩, -⟩, ⟨hd, ha⟩, -⟩, hb⟩ := h
  obtain ⟨hav, hao⟩ := vsrc_reads ha
  obtain ⟨hbv, hbo⟩ := src_reads hb
  obtain ⟨hdv, hdo⟩ := vdOf_vdv hd
  obtain ⟨hc, hco⟩ := code_reads t
  refine readsAs_of_l64 (okLane_ctlFits hk) ⟨hav, hdv, by decide, hc, hbv⟩ (by decide) (congrArg some ?_)
  simp only [fieldsOf_fields, Raw.ty, hco, hao, hbo, hdo]

/-- Reductions, and votes with a scalar destination: C names the vote above TYPE. -/
theorem readsAs_vred {d : SDst} {c : Nat} {mk : Ctl → ElemType → SDst → VSrc → Instr}
    (hm : ∀ r : Raw, r.c = c → cand64 .vec op 1 r = some (mk r.ctl r.ty (dstOf .vec r.d) (vsOf r.a)))
    (h : (e == .vec && okLane k && p && okDst e d && okVSrc a) = true) (hc : c < 512 ∧ ElemType.ofCode (c % 16) = t)
    (hop : op < 256 := by decide) : ReadsAs e (l64 k (vsv a) (dv e d) op 0 c 0) (some (mk k t d a)) := by
  simp only [Bool.and_eq_true, beq_iff_eq] at h
  obtain ⟨⟨⟨⟨rfl, hk⟩, -⟩, hd⟩, ha⟩ := h
  obtain ⟨hav, hao⟩ := vsrc_reads ha
  obtain ⟨hdv, hdo⟩ := dst_reads hd
  obtain ⟨hcv, hct⟩ := hc
  refine readsAs_of_l64 (okLane_ctlFits hk) ⟨hav, hdv, by decide, hcv, by decide⟩ hop ((hm _ rfl).trans ?_)
  simp only [fieldsOf_fields, Raw.ty, hct, hao, hdo]

/-- VVOTE: what stands above TYPE in C names the vote (R192). -/
theorem cand64_vote {n : Nat} {r : Raw} (hr : r.c = 16 * n + t.code) : cand64 .vec 0x77 1 r =
    some (if n = 1 then .vvoteAll r.ctl r.ty (dstOf .vec r.d) (vsOf r.a) else if n = 2 then .vvoteBallot r.ctl r.ty r.d (vsOf r.a)
      else .vvoteAny r.ctl r.ty (dstOf .vec r.d) (vsOf r.a)) := by
  obtain ⟨ht, -⟩ := ofCode_code t
  have hn : r.c / 16 = n := by omega
  subst hn
  rfl

theorem readsAs_vvoteAny {d : SDst} (h : wellFormed e (.vvoteAny k t d a) = true) :
    ReadsAs e (encode e (.vvoteAny k t d a)) (some (.vvoteAny k t d a)) :=
  readsAs_vred (fun _ hr => cand64_vote (n := 0) (hr.trans (Nat.zero_add _).symm)) h (code_reads t)

theorem readsAs_vvoteAll {d : SDst} (h : wellFormed e (.vvoteAll k t d a) = true) :
    ReadsAs e (encode e (.vvoteAll k t d a)) (some (.vvoteAll k t d a)) :=
  have hc := ty_reads (n := 1) (by decide) t
  readsAs_vred (fun _ hr => cand64_vote (n := 1) hr) h ⟨hc.1, hc.2.2⟩

theorem readsAs_vvoteBallot {d : Nat} (h : wellFormed e (.vvoteBallot k t d a) = true) :
    ReadsAs e (encode e (.vvoteBallot k t d a)) (some (.vvoteBallot k t d a)) := by
  replace h : (e == .vec && okLane k && bitT t && okMaskD d && okVSrc a) = true := h
  simp only [Bool.and_eq_true, beq_iff_eq] at h
  obtain ⟨⟨⟨⟨rfl, hk⟩, -⟩, hd⟩, ha⟩ := h
  obtain ⟨hav, hao⟩ := vsrc_reads ha
  obtain ⟨hc, -, hct⟩ := ty_reads (n := 2) (by decide) t
  refine readsAs_of_l64 (okLane_ctlFits hk) ⟨hav, okMaskD_lt hd, by decide, hc, by decide⟩ (by decide) ((cand64_vote (n := 2) rfl).trans ?_)
  exact congrArg some (congrArg₂ (Instr.vvoteBallot k · d ·) hct hao)

theorem readsAs_vscan {d : Nat} (h : wellFormed e (.vscan k t d a) = true) : ReadsAs e (encode e (.vscan k t d a)) (some (.vscan k t d a)) := by
  replace h : (e == .vec && okLane k && fI t && decide (d < 384) && okVSrc a && sameCluster (some (d / 128)) (clusterVSrc a)) = true := h
  simp only [Bool.and_eq_true, beq_iff_eq, decide_eq_true_eq] at h
  obtain ⟨⟨⟨⟨⟨rfl, hk⟩, -⟩, hd⟩, ha⟩, -⟩ := h
  obtain ⟨hav, hao⟩ := vsrc_reads ha
  obtain ⟨hc, hco⟩ := code_reads t
  refine readsAs_of_l64 (okLane_ctlFits hk) ⟨hav, Nat.lt_trans hd (by decide), by decide, hc, by decide⟩ (by decide) (congrArg some ?_)
  simp only [fieldsOf_fields, Raw.ty, hco, hao]

theorem readsAs_vcompress {m : Nat} (h : wellFormed e (.vcompress k t d a m) = true) :
    ReadsAs e (encode e (.vcompress k t d a m)) (some (.vcompress k t d a m)) := by
  replace h : (e == .vec && okPlain k && bitT t && okVOne d a && okMask m) = true := h
  simp only [okVOne, Bool.and_eq_true, beq_iff_eq] at h
  obtain ⟨⟨⟨⟨rfl, hk⟩, -⟩, ⟨hd, ha⟩, -⟩, hm⟩ := h
  obtain ⟨hav, hao⟩ := vsrc_reads ha
  obtain ⟨hdv, hdo⟩ := vdOf_vdv hd
  obtain ⟨hc, hcn, hct⟩ := ty_reads (Nat.lt_trans (okMask_lt hm) (by decide)) t
  refine readsAs_of_l64 (okPlain_ctlFits hk) ⟨hav, hdv, by decide, hc, by decide⟩ (by decide) (congrArg some ?_)
  simp only [fieldsOf_fields, Raw.ty, hcn, hct, hao, hdo]

theorem readsAs_vexpand {d m : Nat} (h : wellFormed e (.vexpand k t d a m) = true) :
    ReadsAs e (encode e (.vexpand k t d a m)) (some (.vexpand k t d a m)) := by
  replace h : (e == .vec && okPlain k && bitT t && decide (d < 384) && okVSrc a && sameCluster (some (d / 128)) (clusterVSrc a) && okMask m) =
    true := h
  simp only [Bool.and_eq_true, beq_iff_eq, decide_eq_true_eq] at h
  obtain ⟨⟨⟨⟨⟨⟨rfl, hk⟩, -⟩, hd⟩, ha⟩, -⟩, hm⟩ := h
  obtain ⟨hav, hao⟩ := vsrc_reads ha
  obtain ⟨hc, hcn, hct⟩ := ty_reads (Nat.lt_trans (okMask_lt hm) (by decide)) t
  refine readsAs_of_l64 (okPlain_ctlFits hk) ⟨hav, Nat.lt_trans hd (by decide), by decide, hc, by decide⟩ (by decide) (congrArg some ?_)
  simp only [fieldsOf_fields, Raw.ty, hcn, hct, hao]

theorem readsAs_vbperm {pat : Nat} (h : wellFormed e (.vbperm k d a pat) = true) :
    ReadsAs e (encode e (.vbperm k d a pat)) (some (.vbperm k d a pat)) := by
  replace h : (e == .vec && okPlain k && okVOne d a && decide (pat < 8)) = true := h
  simp only [okVOne, Bool.and_eq_true, beq_iff_eq, decide_eq_true_eq] at h
  obtain ⟨⟨⟨rfl, hk⟩, ⟨hd, ha⟩, -⟩, hp⟩ := h
  obtain ⟨hav, hao⟩ := vsrc_reads ha
  obtain ⟨hdv, hdo⟩ := vdOf_vdv hd
  refine readsAs_of_l64 (okPlain_ctlFits hk) ⟨hav, hdv, by decide, by omega, by decide⟩ (by decide) (congrArg some ?_)
  simp only [fieldsOf_fields, Nat.mul_div_cancel_left pat (by decide : 0 < 16), hao, hdo]

theorem readsAs_vbpload {pat part : Nat} (h : wellFormed e (.vbpload k pat a part) = true) :
    ReadsAs e (encode e (.vbpload k pat a part)) (some (.vbpload k pat a part)) := by
  replace h : (e == .vec && okPlain k && decide (pat < 8) && okVSrc a && decide (part < 4)) = true := h
  simp only [Bool.and_eq_true, beq_iff_eq, decide_eq_true_eq] at h
  obtain ⟨⟨⟨⟨rfl, hk⟩, hp⟩, ha⟩, hn⟩ := h
  obtain ⟨hav, hao⟩ := vsrc_reads ha
  have hcp : (128 * part + 16 * pat) / 16 % 8 = pat := by omega
  have hcn : (128 * part + 16 * pat) / 128 = part := by omega
  refine readsAs_of_l64 (okPlain_ctlFits hk) ⟨hav, by decide, by decide, by omega, by decide⟩ (by decide) (congrArg some ?_)
  simp only [fieldsOf_fields, hcp, hcn, hao]

end

end Sys2Proof.Machine
end

section
/-! SUPPORT. The words of the matrix map are read back (R83). -/

namespace Sys2Proof.Machine

section
variable {e : Engine} {k : Ctl} {op d a b : Nat}

theorem okAcc_lt {n : Nat} (h : okAcc n = true) : n < 512 := Nat.lt_trans (of_decide_eq_true h) (by decide)

/-- A tile or an accumulator. -/
theorem tileOrAcc_lt {acc : Bool} {n : Nat} (h : (if acc then okAcc n else okTile n) = true) : n < 512 := by
  cases acc with
  | true => exact okAcc_lt h
  | false => exact okTile_lt h

theorem flag_lt_field (x : Bool) : x.toNat < 512 := Nat.lt_trans x.toNat_lt (by decide)

theorem readsAs_tset {acc : Bool} {a : SSrc} (h : wellFormed e (.tset k acc d a) = true) :
    ReadsAs e (encode e (.tset k acc d a)) (some (.tset k acc d a)) := by
  replace h : (e == .mtx && okCtl e k && (if acc then okAcc d else okTile d) && okSrc e a) = true := h
  simp only [Bool.and_eq_true, beq_iff_eq] at h
  obtain ⟨⟨⟨rfl, hk⟩, hd⟩, ha⟩ := h
  obtain ⟨hav, hao⟩ := src_reads ha
  exact readsAs_of_l64 (okCtl_ctlFits hk) ⟨hav, tileOrAcc_lt hd, by decide, flag_lt_field acc, by decide⟩ (by decide)
    (congrArg some (congrArg₂ (Instr.tset k · d ·) (toNat_beq_one acc) hao))

theorem readsAs_tget {acc : Bool} {d : SDst} (h : wellFormed e (.tget k acc d a) = true) :
    ReadsAs e (encode e (.tget k acc d a)) (some (.tget k acc d a)) := by
  replace h : (e == .mtx && okCtl e k && okDst e d && (if acc then okAcc a else okTile a)) = true := h
  simp only [Bool.and_eq_true, beq_iff_eq] at h
  obtain ⟨⟨⟨rfl, hk⟩, hd⟩, ha⟩ := h
  obtain ⟨hdv, hdo⟩ := dst_reads hd
  exact readsAs_of_l64 (okCtl_ctlFits hk) ⟨tileOrAcc_lt ha, hdv, by decide, flag_lt_field acc, by decide⟩ (by decide)
    (congrArg some (congrArg₂ (Instr.tget k · · a) (toNat_beq_one acc) hdo))

/-- TZERO and AZERO. -/
theorem readsAs_mtx_dst {ok : Nat → Bool} {mk : Ctl → Nat → Instr} (hm : ∀ r, cand64 .mtx op 1 r = some (mk r.ctl r.d))
    (h : (e == .mtx && okCtl e k && ok d) = true) (hd : ok d = true → d < 512) (hop : op < 256 := by decide) :
    ReadsAs e (l64 k 0 d op 0 0 0) (some (mk k d)) := by
  simp only [Bool.and_eq_true, beq_iff_eq] at h
  obtain ⟨⟨rfl, hk⟩, hok⟩ := h
  exact readsAs_of_l64 (okCtl_ctlFits hk) ⟨by decide, hd hok, by decide, by decide, by decide⟩ hop (hm _)

/-- TMOV, TTR, TCVT, TACC and ATILE. -/
theorem readsAs_mtx_dst_src {okD okA : Nat → Bool} {mk : Ctl → Nat → Nat → Instr} (hm : ∀ r, cand64 .mtx op 1 r = some (mk r.ctl r.d r.a))
    (h : (e == .mtx && okCtl e k && okD d && okA a) = true) (hd : okD d = true → d < 512) (ha : okA a = true → a < 512)
    (hop : op < 256 := by decide) : ReadsAs e (l64 k a d op 0 0 0) (some (mk k d a)) := by
  simp only [Bool.and_eq_true, beq_iff_eq] at h
  obtain ⟨⟨⟨rfl, hk⟩, hokd⟩, hoka⟩ := h
  exact readsAs_of_l64 (okCtl_ctlFits hk) ⟨ha hoka, hd hokd, by decide, by decide, by decide⟩ hop (hm _)

/-- MMA and MMA.P. -/
theorem readsAs_mma {sat : Bool} {mk : Ctl → Bool → Nat → Nat → Nat → Instr} (hm : ∀ r, cand64 .mtx op 1 r = some (mk r.ctl (r.c == 1) r.d r.a r.b))
    (h : (e == .mtx && okCtl e k && okAcc d && okTile a && okTile b) = true) (hop : op < 256 := by decide) :
    ReadsAs e (l64 k a d op 0 sat.toNat b) (some (mk k sat d a b)) := by
  simp only [Bool.and_eq_true, beq_iff_eq] at h
  obtain ⟨⟨⟨⟨rfl, hk⟩, hd⟩, ha⟩, hb⟩ := h
  exact readsAs_of_l64 (okCtl_ctlFits hk) ⟨okTile_lt ha, okAcc_lt hd, by decide, flag_lt_field sat, okTile_lt hb⟩ hop
    ((hm _).trans (by simp only [fieldsOf_fields, toNat_beq_one]))

theorem readsAs_mmaSp {sat : Bool} {n : Nat} (h : wellFormed e (.mmaSp k sat n d a b) = true) :
    ReadsAs e (encode e (.mmaSp k sat n d a b)) (some (.mmaSp k sat n d a b)) := by
  replace h : (e == .mtx && okCtl e k && decide (n < 4) && okAcc d && okTile a && okTile b) = true := h
  simp only [Bool.and_eq_true, beq_iff_eq, decide_eq_true_eq] at h
  obtain ⟨⟨⟨⟨⟨rfl, hk⟩, hn⟩, hd⟩, ha⟩, hb⟩ := h
  have hsat : sat.toNat < 2 := sat.toNat_lt
  have hcs : (2 * n + sat.toNat) % 2 = sat.toNat := by omega
  have hcn : (2 * n + sat.toNat) / 2 = n := by omega
  refine readsAs_of_l64 (okCtl_ctlFits hk) ⟨okTile_lt ha, okAcc_lt hd, by decide, by omega, okTile_lt hb⟩ (by decide) (congrArg some ?_)
  simp only [fieldsOf_fields, hcs, hcn, toNat_beq_one]

theorem readsAs_mfence (h : wellFormed e (.mfence k) = true) : ReadsAs e (encode e (.mfence k)) (some (.mfence k)) := by
  replace h : (e == .mtx && okCtl e k) = true := h
  simp only [Bool.and_eq_true, beq_iff_eq] at h
  obtain ⟨rfl, hk⟩ := h
  exact readsAs_ctl (fun _ => rfl) hk

end

end Sys2Proof.Machine
end

section
/-! SUPPORT. The encoder and the decoder agree (R62 to R83), and the obligations about them. -/

namespace Sys2Proof.Machine

/-! ### Words of an instruction are read as the instruction -/

theorem cand64_fence {c : Nat} {r : Raw} (hr : r.c = c) :
    cand64 .mem 0x4d 1 r = some (if c = 16 then .fenceAcq r.ctl else if c = 32 then .fenceRel r.ctl else .fenceSc r.ctl) := by
  subst hr
  rfl

theorem cand64_kmovMask {r : Raw} (hr : r.c = 0) : cand64 .vec 0x6f 1 r = some (.kmovMask r.ctl r.d r.a) := by
  show some (if r.c = 16 then Instr.kmovFromVector r.ctl r.d (vsOf r.a) else if r.c = 32 then .kmovToVector r.ctl (vdOf r.d) r.a
    else .kmovMask r.ctl r.d r.a) = _
  rw [hr, if_neg (by decide), if_neg (by decide)]

theorem readsAs_encode {e : Engine} {i : Instr} (hi : isEvent i = false) (hw : wellFormed e i = true) : ReadsAs e (encode e i) (some i) := by
  cases i with
  | nop | ret | halt | endl => exact readsAs_common_r32 rfl (by decide) (by decide)
  | brReg | callReg | chk => exact readsAs_common_src (fun _ => rfl) hw
  | trap | bkpt => exact readsAs_common_imm (fun _ => rfl) (Nat.lt_trans (of_decide_eq_true hw) (by decide))
  | semw | semp => exact readsAs_common_imm (fun _ => rfl) (Nat.lt_trans (of_decide_eq_true hw) (by decide))
  | rdcr => exact readsAs_rdcr hw
  | wrcr => exact readsAs_wrcr hw
  | br | call => exact readsAs_br (fun _ => rfl) hw
  | brc => exact readsAs_brc hw
  | loopReg => exact readsAs_src (fun _ => rfl) hw
  | loopImm => exact readsAs_loopImm hw
  | semwL64 | sempL64 => exact readsAs_sem (fun _ => rfl) hw
  | nopL64 => exact readsAs_ctl (fun _ => rfl) hw
  | add | sub => exact readsAs_int_scaled (fun _ _ _ _ _ => rfl) hw
  | mul | mulh | mulhu | div | divu | rem | remu | and | or | xor | andn | shl | shr | sar | rotr | min | minu | max | maxu =>
    exact readsAs_int3 (fun _ _ _ _ => rfl) hw
  | clz | ctz | popc | mov => exact readsAs_int2 (fun _ _ _ _ _ => rfl) hw
  | cmp => exact readsAs_cmp hw
  | addi | andi | ori | xori => exact readsAs_int_bits (fun _ _ _ _ _ => rfl) hw
  | shlImm | shrImm | sarImm | rotrImm => exact readsAs_int_shift (fun _ _ _ _ _ => rfl) hw
  | movi => exact readsAs_movi hw
  | moviHi => exact readsAs_moviHi hw
  | addiX96 | andiX96 | oriX96 | xoriX96 => exact readsAs_intLit (fun _ => rfl) hw
  | ext => exact readsAs_ext hw
  | ins => exact readsAs_ins hw
  | sel => exact readsAs_sel hw
  | lds => exact readsAs_lds hw
  | sts => exact readsAs_sts hw
  | qpush => exact readsAs_qpush hw
  | qpop | yield | gbar => exact readsAs_seq_dst (fun _ => rfl) hw
  | fork => exact readsAs_fork hw
  | launch | waitch | mwait => exact readsAs_seq_dst_src (fun _ => rfl) hw
  | exit | hintRem | watch => exact readsAs_seq_src (fun _ => rfl) hw
  | rdid => exact readsAs_rdid hw
  | cba => exact readsAs_cba hw
  | cbw => exact readsAs_cbw hw
  | cqPut | cqMcast => exact readsAs_cq (fun _ => rfl) hw
  | cqFence => exact readsAs_cqFence hw
  | lda => exact readsAs_lda hw
  | sta => exact readsAs_sta hw
  | vld => exact readsAs_vld hw
  | vst => exact readsAs_vst hw
  | vlds => exact readsAs_vlds hw
  | vsts => exact readsAs_vsts hw
  | vgath => exact readsAs_vgath hw
  | vscat => exact readsAs_vscat hw
  | tld => exact readsAs_tld hw
  | tst => exact readsAs_tst hw
  | ldS => exact readsAs_ldS hw
  | rspSt => exact readsAs_rspSt hw
  | pref => exact readsAs_pref hw
  | fenceAcq | fenceRel | fenceSc => exact readsAs_fence (fun _ hr => cand64_fence hr) hw
  | acqr | cwb | rowAct => exact readsAs_mem_src_src (fun _ => rfl) hw
  | rowCon | rowPut => exact readsAs_row (fun _ => rfl) hw
  | rowCon2 => exact readsAs_rowCon2 hw
  | rowPre => exact readsAs_rowPre hw
  | rowStat => exact readsAs_rowStat hw
  | rowWait => exact readsAs_rowWait hw
  | amoAdd | amoSub | amoMin | amoMax | amoMinu | amoMaxu | amoAnd | amoOr | amoXor | amoSwp => exact readsAs_amo (fun _ => rfl) hw
  | amoFadd | amoFmin | amoFmax => exact readsAs_amoF (fun _ => rfl) hw
  | amoCas => exact readsAs_amoCas hw
  | acas128 => exact readsAs_acas128 hw
  | redAdd | redSub | redMin | redMax | redMinu | redMaxu | redAnd | redOr | redXor => exact readsAs_red (fun _ => rfl) hw
  | redFadd | redFmin | redFmax => exact readsAs_redF (fun _ => rfl) hw
  | vamoAdd | vamoSub | vamoMin | vamoMax | vamoMinu | vamoMaxu | vamoAnd | vamoOr | vamoXor | vamoSwp => exact readsAs_vamo (fun _ => rfl) hw
  | vamoFadd | vamoFmin | vamoFmax => exact readsAs_vamoF (fun _ => rfl) hw
  | vadd | vsub | vmul | vmin | vmax | vadds | vsubs | vmulh | vdiv | vand | vor | vxor | vshl | vshr | vsar =>
    exact readsAs_vTwo (fun _ => rfl) hw
  | vfma | vfms | vfnma => exact readsAs_vRmw (fun _ => rfl) hw
  | vabs | vneg | vsqrt | vrcp | vrsq | vexp2 | vlog2 | vsinp | vcosp | vnot | vclz | vpopc => exact readsAs_vOne (fun _ => rfl) hw
  | vcvt => exact readsAs_vcvt hw
  | vqnt => exact readsAs_vqnt hw
  | vdqnt => exact readsAs_vdqnt hw
  | vmov => exact readsAs_vmov hw
  | vbcast => exact readsAs_vbcast hw
  | vextr => exact readsAs_vextr hw
  | vins => exact readsAs_vins hw
  | vcmp => exact readsAs_vcmp hw
  | vsel => exact readsAs_vsel hw
  | kand | kor | kxor => exact readsAs_kTwo (fun _ => rfl) hw
  | knot => exact readsAs_kOne (fun _ _ => rfl) hw
  | kmovMask => exact readsAs_kOne (fun _ hr => cand64_kmovMask hr) hw
  | kpop => exact readsAs_kpop hw
  | kmovFromVector => exact readsAs_kmovFromVector hw
  | kmovToVector => exact readsAs_kmovToVector hw
  | vshuf => exact readsAs_vshuf hw
  | vxswp => exact readsAs_vxswp hw
  | vrot => exact readsAs_vrot hw
  | vredsum _ t | vredmax _ t | vredmin _ t => exact readsAs_vred (fun _ _ => rfl) hw (code_reads t)
  | vscan => exact readsAs_vscan hw
  | vvoteAny => exact readsAs_vvoteAny hw
  | vvoteAll => exact readsAs_vvoteAll hw
  | vvoteBallot => exact readsAs_vvoteBallot hw
  | vcompress => exact readsAs_vcompress hw
  | vexpand => exact readsAs_vexpand hw
  | vbperm => exact readsAs_vbperm hw
  | vbpload => exact readsAs_vbpload hw
  | tset => exact readsAs_tset hw
  | tget => exact readsAs_tget hw
  | tzero => exact readsAs_mtx_dst (fun _ => rfl) hw okTile_lt
  | azero => exact readsAs_mtx_dst (fun _ => rfl) hw okAcc_lt
  | tmov | ttr | tcvt => exact readsAs_mtx_dst_src (fun _ => rfl) hw okTile_lt okTile_lt
  | tacc => exact readsAs_mtx_dst_src (fun _ => rfl) hw okTile_lt okAcc_lt
  | atile => exact readsAs_mtx_dst_src (fun _ => rfl) hw okAcc_lt okTile_lt
  | mma | mmaP => exact readsAs_mma (fun _ => rfl) hw
  | mmaSp => exact readsAs_mmaSp hw
  | mfence => exact readsAs_mfence hw
  | _ => exact nomatch hi

/-! ### Words that decode (R73) -/

/-- Words that are accepted are those of an instruction that the engine accepts. -/
theorem of_accept {e : Engine} {ws : List Nat} {c : Option Instr} {i : Instr} {n : Nat} (h : accept e ws c = .ok (i, n)) :
    c = some i ∧ wellFormed e i = true ∧ encode e i = ws ∧ n = ws.length := by
  cases c with
  | none => cases h
  | some j =>
    simp only [accept] at h
    split at h
    · next hok =>
      obtain ⟨hw, he⟩ := Bool.and_eq_true_iff.1 hok
      cases h
      exact ⟨rfl, hw, beq_iff_eq.1 he, rfl⟩
    · cases h

/-- Which words the decoder reads, by the length bits of the first (R62). -/
theorem of_decode {e : Engine} {ws : List Nat} {i : Instr} {n : Nat} (h : decode e ws = .ok (i, n)) :
    ∃ us vs c, ws = us ++ vs ∧ us ≠ [] ∧ accept e us c = .ok (i, n) := by
  unfold decode at h
  split at h
  · cases h
  · next w0 rest =>
    split at h
    · exact ⟨[w0], rest, _, rfl, List.cons_ne_nil _ _, h⟩
    split at h
    · split at h
      · next w1 t => exact ⟨[w0, w1], t, _, rfl, List.cons_ne_nil _ _, h⟩
      · cases h
    split at h
    · split at h
      · next w1 w2 t => exact ⟨[w0, w1, w2], t, _, rfl, List.cons_ne_nil _ _, h⟩
      · cases h
    · cases h

/-- The number of words of an instruction does not depend on the engine. The two lengths are compared as numbers:
the words themselves differ from engine to engine. -/
theorem length_encode (e : Engine) (i : Instr) : (encode e i).length = instrWords i := by
  cases i with
  | _ => exact Nat.eq_of_beq_eq_true rfl

/-- What has words is no event. -/
theorem isEvent_of_encode_ne {e : Engine} {i : Instr} (h : encode e i ≠ []) : isEvent i = false := by
  refine beq_eq_false_iff_ne.2 fun h0 => h (List.length_eq_zero_iff.1 ?_)
  rw [length_encode, h0]

/-! ### One length for each opcode (R63) -/

section
variable {e : Engine} {op : Nat} {r r' : Raw}

theorem com64_oneLength : com64 e op 1 r = none ∨ com64 e op 2 r' = none := by unfold com64; split <;> simp [inForm]
theorem int64_oneLength : int64 e op 1 r = none ∨ int64 e op 2 r' = none := by unfold int64; split <;> simp [inForm]
theorem seq64_oneLength : seq64 e op 1 r = none ∨ seq64 e op 2 r' = none := by unfold seq64; split <;> simp [inForm]
theorem mem64_oneLength : mem64 e op 1 r = none ∨ mem64 e op 2 r' = none := by unfold mem64; split <;> simp [inForm]
theorem vec64_oneLength : vec64 e op 1 r = none ∨ vec64 e op 2 r' = none := by unfold vec64; split <;> simp [inForm]
theorem mtx64_oneLength : mtx64 e op 1 r = none ∨ mtx64 e op 2 r' = none := by unfold mtx64; split <;> simp [inForm]

/-- An opcode names an instruction of 64 bits or one of 96 bits, not both, whatever the other fields. -/
theorem cand64_oneLength : cand64 e op 1 r = none ∨ cand64 e op 2 r' = none := by
  unfold cand64
  split
  · exact com64_oneLength
  split
  · split
    · exact .inl rfl
    · exact int64_oneLength
  cases e with
  | seq => exact seq64_oneLength
  | mem => exact mem64_oneLength
  | vec => exact vec64_oneLength
  | mtx => exact mtx64_oneLength

end

/-- Words of 64 bits that decode have an opcode of that length. -/
theorem cand64_of_decode_l64 {e : Engine} {w0 : Nat} {ws : List Nat} {x : Instr × Nat} (h0 : w0 % 4 = 1) (h : decode e (w0 :: ws) = .ok x) :
    ∃ r, cand64 e (w0 / 4 % 256) 1 r ≠ none := by
  cases ws with
  | nil =>
    simp only [decode, h0, Nat.one_ne_zero, if_true, if_false] at h
    cases h
  | cons w1 t =>
    have h : accept e [w0, w1] _ = .ok (x.1, x.2) := (readsAs_l64 h0 t).symm.trans h
    exact ⟨_, Option.ne_none_iff_exists'.2 ⟨_, (of_accept h).1⟩⟩

theorem cand64_of_decode_x96 {e : Engine} {w0 : Nat} {ws : List Nat} {x : Instr × Nat} (h0 : w0 % 4 = 2) (h : decode e (w0 :: ws) = .ok x) :
    ∃ r, cand64 e (w0 / 4 % 256) 2 r ≠ none := by
  match ws with
  | [] | [_] =>
    simp only [decode, h0, OfNat.ofNat_ne_zero, OfNat.ofNat_ne_one, if_true, if_false] at h
    cases h
  | w1 :: w2 :: t =>
    have h : accept e [w0, w1, w2] _ = .ok (x.1, x.2) := (readsAs_x96 h0 t).symm.trans h
    exact ⟨_, Option.ne_none_iff_exists'.2 ⟨_, (of_accept h).1⟩⟩

/-- Enough words with an opcode that is not of their length are rejected for the opcode (R73). -/
theorem decode_l64_unassigned {e : Engine} {v0 : Nat} {vs : List Nat} (h0 : v0 % 4 = 1) (hl : 1 ≤ vs.length)
    (hc : ∀ r, cand64 e (v0 / 4 % 256) 1 r = none) : decode e (v0 :: vs) = .error .opcode := by
  obtain ⟨v1, t, rfl⟩ := List.exists_cons_of_length_pos hl
  exact (readsAs_l64 h0 t).trans (by rw [hc]; rfl)

theorem decode_x96_unassigned {e : Engine} {v0 : Nat} {vs : List Nat} (h0 : v0 % 4 = 2) (hl : 2 ≤ vs.length)
    (hc : ∀ r, cand64 e (v0 / 4 % 256) 2 r = none) : decode e (v0 :: vs) = .error .opcode := by
  match vs, hl with
  | v1 :: v2 :: t, _ => exact (readsAs_x96 h0 t).trans (by rw [hc]; rfl)

end Sys2Proof.Machine

section
open Sys2Proof Sys2Proof.Machine

/-- Settles O53: the decoder reads the words of each instruction as that instruction, field by field, and accepts them. -/
theorem decodeOfEncode : Obligations.DecodeOfEncode := by
  unfold Obligations.DecodeOfEncode
  intro e i rest hi hw
  rw [readsAs_encode hi hw rest]
  exact accept_of_encode hw rfl

/-- Settles O54: what is accepted is compared with its encoding, and an event has none. -/
theorem encodeOfDecode : Obligations.EncodeOfDecode := by
  unfold Obligations.EncodeOfDecode
  intro e ws i n h
  obtain ⟨us, vs, c, rfl, hne, hacc⟩ := of_decode h
  obtain ⟨-, hw, hus, hn⟩ := of_accept hacc
  exact ⟨hw, by rw [hn, List.take_left, hus], isEvent_of_encode_ne (hus.symm ▸ hne)⟩

/-- Settles O37: no opcode of a map is one of both lengths, and the zero word is NOP's. -/
theorem opcodeLengths : Obligations.OpcodeLengths := by
  unfold Obligations.OpcodeLengths
  constructor
  · rintro e w0 ws i n v0 vs h hop (⟨hw, hv⟩ | ⟨hw, hv⟩) hl
    · obtain ⟨r, hr⟩ := cand64_of_decode_l64 hw h
      exact decode_x96_unassigned hv (hv ▸ hl) fun r' => hop ▸ cand64_oneLength.resolve_left hr
    · obtain ⟨r, hr⟩ := cand64_of_decode_x96 hw h
      exact decode_l64_unassigned hv (hv ▸ hl) fun r' => hop ▸ cand64_oneLength.resolve_right hr
  · exact fun e t => decodeOfEncode e .nop t rfl rfl

/-- Settles O55: each word is the encoding of its instruction; the two others are rejected. -/
theorem decodedWords : Obligations.DecodedWords := by
  unfold Obligations.DecodedWords
  decide +kernel

end
end

section
/-! SUPPORT. Every engine instruction issues, and what the issue answers where no effect follows (R68, R69, R73, R101). -/

namespace Sys2Proof.Machine

/-- The meaning of every engine instruction is its issue with a body of its own. -/
theorem exec_eq_issue {i : Instr} (s : State) (hi : isEvent i = false) : ∃ body, exec i s = issue i s body := by
  cases i with
  | nop | nopL64 => exact ⟨plainDone, rfl⟩
  | trap n => exact ⟨fun s => .done { s := s, after := some { trap := .trap, arg := n } }, rfl⟩
  | bkpt n => exact ⟨bkptBody n, rfl⟩
  | br p slot line => exact ⟨fun s => .done { s := s, flow := .goto (.pos line slot) }, rfl⟩
  | fenceAcq => exact ⟨fenceBody .fenceAcq false, rfl⟩
  | ret | halt | endl | brReg | callReg | chk | rdcr | wrcr | semw | semp | brc | call | loopReg | loopImm | semwL64 | sempL64 | add
    | sub | mul | mulh | mulhu | div | divu | rem | remu | and | or | xor | andn | shl | shr | sar | rotr | min | minu | max | maxu | clz
    | ctz | popc | cmp | mov | addi | andi | ori | xori | shlImm | shrImm | sarImm | rotrImm | movi | moviHi | addiX96 | andiX96 | oriX96
    | xoriX96 | ext | ins | sel | lds | sts | qpush | qpop | fork | launch | waitch | exit | yield | rdid | hintRem | cba | cbw | gbar
    | watch | mwait | cqPut | cqMcast | cqFence | lda | sta | vld | vst | vlds | vsts | vgath | vscat | tld | tst | ldS | rspSt | pref
    | fenceRel | fenceSc | acqr | cwb | rowAct | rowCon | rowCon2 | rowPut | rowPre | rowStat | rowWait | amoAdd | amoSub | amoMin
    | amoMax | amoMinu | amoMaxu | amoAnd | amoOr | amoXor | amoSwp | amoCas | amoFadd | amoFmin | amoFmax | acas128 | redAdd | redSub
    | redMin | redMax | redMinu | redMaxu | redAnd | redOr | redXor | redFadd | redFmin | redFmax | vamoAdd | vamoSub | vamoMin | vamoMax
    | vamoMinu | vamoMaxu | vamoAnd | vamoOr | vamoXor | vamoSwp | vamoFadd | vamoFmin | vamoFmax | vadd | vsub | vmul | vfma | vfms
    | vfnma | vmin | vmax | vabs | vneg | vadds | vsubs | vmulh | vdiv | vsqrt | vrcp | vrsq | vexp2 | vlog2 | vsinp | vcosp | vcvt
    | vqnt | vdqnt | vand | vor | vxor | vnot | vshl | vshr | vsar | vclz | vpopc | vmov | vbcast | vextr | vins | vcmp | vsel | kand
    | kor | kxor | knot | kpop | kmovMask | kmovFromVector | kmovToVector | vshuf | vxswp | vrot | vredsum | vredmax | vredmin | vscan
    | vvoteAny | vvoteAll | vvoteBallot | vcompress | vexpand | vbperm | vbpload | tset | tget | tzero | azero | tmov | ttr | tcvt | tacc
    | atile | mma | mmaP | mmaSp | mfence => exact ⟨_, rfl⟩
  | _ => exact nomatch hi

section
variable {i : Instr} {s : State} {body : State → Verdict}

/-- No instruction issues where no stream may run (R101). -/
theorem issue_noStream (h : runnable s s.focusCore s.focusEng = false) : issue i s body = .fault .noStream := by
  simp [issue, h]

/-- An engine that must wait changes nothing. -/
theorem issue_waits (h : runnable s s.focusCore s.focusEng = true) (hm : mustWait s (focusCs s) s.focusEng = true) :
    issue i s body = .next s := by
  rw [focusCs] at hm
  simp [issue, h, hm]

/-- A field that is not acceptable takes ILLEGAL_FIELD (R73). -/
theorem issue_illegalField (h : runnable s s.focusCore s.focusEng = true) (hm : mustWait s (focusCs s) s.focusEng = false)
    (hw : wellFormed s.focusEng i = false) :
    issue i s body = .next (raiseTrap s s.focusCore s.focusEng { trap := .illegalField } (focusSt s).waitDone (focusSt s).pc) := by
  rw [focusCs] at hm
  simp [issue, focusSt, focusCs, h, hm, hw]

/-- A wait that is not granted changes nothing (R69). -/
theorem issue_notGranted (h : runnable s s.focusCore s.focusEng = true) (hm : mustWait s (focusCs s) s.focusEng = false)
    (hw : wellFormed s.focusEng i = true) (ht : takeWait s s.focusCore s.focusEng (instrCtl i).wait = none) : issue i s body = .next s := by
  rw [focusCs] at hm
  simp [issue, h, hm, hw, ht]

/-- A false predicate leaves the wait and the post (R68). -/
theorem issue_predFalse {s1 : State} {w : Bool} (h : runnable s s.focusCore s.focusEng = true) (hm : mustWait s (focusCs s) s.focusEng = false)
    (hw : wellFormed s.focusEng i = true) (ht : takeWait s s.focusCore s.focusEng (instrCtl i).wait = some (s1, w))
    (hp : predTrue (focusCs s) s.focusEng (instrCtl i).pred = false) :
    issue i s body = .next (finish s.focusCore s.focusEng (instrWords i) (instrCtl i).post w { s := s1 }) := by
  rw [focusCs] at hm hp
  simp [issue, h, hm, hw, ht, hp]

end

end Sys2Proof.Machine

section
open Sys2Proof Sys2Proof.Machine

/-- Settles O46: what precedes the effect is the issue's own work, whatever the body. -/
theorem issueRules : Obligations.IssueRules := by
  unfold Obligations.IssueRules
  intro i s hi
  obtain ⟨body, hbody⟩ := exec_eq_issue s hi
  simp only [GoesTo, hbody]
  exact ⟨issue_noStream, fun hr => ⟨issue_waits hr, fun hm => ⟨issue_illegalField hr hm, fun hw =>
    ⟨issue_notGranted hr hm hw, fun _ _ ht hp => issue_predFalse hr hm hw ht hp⟩⟩⟩⟩

end
end

section
/-! SUPPORT. What a stream finds at its PC, and what one step does with the schedule, the time and the stream in focus (R58, R60, R73, R437). -/

namespace Sys2Proof.Machine

/-- A line that is there, has words and passes its entry check gives the instruction of its words (R58, R73). -/
theorem fetchAt_instr {cs : CoreSt} {e : Engine} {line slot k : Nat} {entry : Option Bool} {l : BitVec 512} {i : Instr}
    (hl : mget (cs.imem e) line = some l) (hfill : linkFill (lineWord l 0) ≠ 0)
    (hentry : ∀ f, entry = some f → entryTrap e (lineWord l 0) slot f = none) (hdec : decode e (wordsFrom l slot) = .ok (i, k)) :
    fetchAt cs e line slot entry = .instr i := by
  cases entry with
  | none => simp [fetchAt, hl, hfill, hdec]
  | some f => simp [fetchAt, hl, hfill, hdec, hentry f rfl]

section
variable {s : State} {line slot : Nat} {i : Instr}

/-- A stream that may run and finds an instruction executes it, its line entered. -/
theorem streamAct_instr (hr : runnable s s.focusCore s.focusEng = true) (hm : mustWait s (getCore s s.focusCore) s.focusEng = false)
    (hpc : (getStream s s.focusCore s.focusEng).pc = .pos line slot)
    (hf : fetchAt (getCore s s.focusCore) s.focusEng line slot (getStream s s.focusCore s.focusEng).entry = .instr i) :
    streamAct s = mapNext (fun t => withTags s t s.focusCore s.focusEng)
      (exec i (setStream s s.focusCore s.focusEng { getStream s s.focusCore s.focusEng with entry := none })) := by
  unfold streamAct
  rw [getStream] at hpc hf
  rw [if_neg (by simp only [hr, hm, Bool.not_true, Bool.or_self, Bool.false_eq_true, not_false_eq_true])]
  dsimp only
  split
  · next h => cases hpc.symm.trans h
  · next h =>
    cases hpc.symm.trans h
    rw [hf]
    dsimp only [getStream]

theorem streamInstr_instr {c : Nat} {e : Engine} (hpc : (getStream s c e).pc = .pos line slot)
    (hf : fetchAt (getCore s c) e line slot (getStream s c e).entry = .instr i) : streamInstr s c e = some i := by
  simp [streamInstr, hpc, hf]

/-- A stream that no rival precedes acts. -/
theorem streamStep_acts (hi : streamInstr s s.focusCore s.focusEng = some i) (hy : yields s s.focusCore s.focusEng i = false) :
    streamStep s = streamAct s := by
  unfold streamStep
  generalize streamAct s = o
  dsimp only
  rw [hi]
  cases o with
  | next t => exact if_neg (by simp only [hy, Bool.and_false, Bool.false_eq_true, not_false_eq_true])
  | fault r | refused r => rfl

/-- A stream that a rival precedes does not move. -/
theorem streamStep_yields {u : State} (hi : streamInstr s s.focusCore s.focusEng = some i) (hy : yields s s.focusCore s.focusEng i = true)
    (ha : streamAct s = .next u) : streamStep s = .next (if moved s u s.focusCore s.focusEng then s else u) := by
  unfold streamStep
  rw [ha, hi]
  show (if _ && yields s s.focusCore s.focusEng i then Host.Outcome.next s else _) = _
  rw [hy, Bool.and_true, apply_ite Host.Outcome.next]

end

theorem withTags_of_nil {s : State} {c : Nat} (t : State) (e : Engine) (h : (getCore s c).tagOps = []) : withTags s t c e = t := by
  simp [withTags, h]

/-- The head of the schedule acts after its delay. -/
theorem step_scheduled {s : State} {n : Nat} {a : Actor} {rest : List Sched} (h : s.schedule = ⟨n, a⟩ :: rest) :
    step s = actorStep a (pass n { s with schedule := rest }) := by
  simp [step, h]

/-- Without a schedule and a due event the stream in focus has its core cycle. -/
theorem step_unscheduled {s : State} (h : s.schedule = []) (hd : dueEvent s = none) (hs : stopDue s = none) :
    step s = mapNext (tick 2) (streamStep (pastEmpty s)) := by
  simp [step, h, freeStep, hd, hs]

theorem actorStep_stream (s : State) (c : Nat) (e : Engine) :
    actorStep (.stream c e) s = streamStep { s with focusCore := c, focusEng := e } := rfl

theorem actorStep_env (s : State) (x : EnvEvent) : actorStep (.env x) s = .next ((envEvent x s).getD s) := rfl

theorem actorStep_event {i : Instr} (s : State) (hi : isEvent i = true) :
    actorStep (.event i) s = if stopWaits s i then .next s else exec i s := by
  unfold actorStep
  dsimp only
  rw [hi, Bool.true_and]
  by_cases h : stopWaits s i = true
  · rw [if_pos h, if_neg (by rw [h]; decide)]
  · rw [if_neg h, if_pos (by rw [Bool.eq_false_of_not_eq_true h]; rfl)]

theorem passEmpty_of_not_atEmpty {s : State} (h : atEmpty s = false) (n : Nat) : passEmpty n s = s := by
  cases n with
  | zero => rfl
  | succ n => exact if_neg (by rw [h]; decide)

/-- Where no CBW may complete, none does. -/
theorem cbwsComplete_of_none {s : State} (h : ∀ c, cbwComplete c s = none) : cbwsComplete s = s := by
  unfold cbwsComplete
  induction s.cores with
  | nil => rfl
  | cons p t ih => simpa [h] using ih

/-- A delay within the core cycle moves the time only. -/
theorem pass_within {s : State} {n : Nat} (h : s.time + n < 2 * (coreCycle s + 1)) : pass n s = { s with time := s.time + n } := by
  simp [pass, tick, h]

/-- So does one beyond it, where no CBW may complete in the cycles that it leaves and enters. -/
theorem pass_of_no_cbw {s : State} (n : Nat)
    (h : ∀ c, cbwComplete c s = none ∧ cbwComplete c { s with time := 2 * (coreCycle s + 1) } = none) :
    pass n s = { s with time := s.time + n } := by
  have hnow := cbwsComplete_of_none fun c => (h c).1
  have hnext := cbwsComplete_of_none fun c => (h c).2
  simp only [pass, hnow, hnext, tick]
  split
  · rfl
  · split <;> rfl

end Sys2Proof.Machine

section
open Sys2Proof Sys2Proof.Machine

/-- Settles O47: the stream's fetch gives the decoded instruction, and the head of the schedule acts after its delay. -/
theorem stepRunsDecoded : Obligations.StepRunsDecoded := by
  unfold Obligations.StepRunsDecoded
  refine ⟨?_, fun s t c e => withTags_of_nil t e, fun s n c e rest h => (step_scheduled h).trans (actorStep_stream _ c e), fun s => step_unscheduled,
    fun s h => passEmpty_of_not_atEmpty h _, fun s n h => h.elim pass_within (pass_of_no_cbw n),
    fun s n i rest hi h => (step_scheduled h).trans (actorStep_event _ hi), fun s n x rest h => (step_scheduled h).trans (actorStep_env _ x)⟩
  intro s line slot l i k c e st hr hm hpc hl hfill hentry hdec
  have hf : fetchAt (getCore s c) e line slot st.entry = .instr i := fetchAt_instr hl hfill hentry hdec
  have ha := streamAct_instr hr hm hpc hf
  have hi := streamInstr_instr hpc hf
  exact ⟨fun hy => (streamStep_acts hi hy).trans ha, fun t hy hx => streamStep_yields hi hy (ha.trans (congrArg _ hx))⟩

end
end

section
/-! SUPPORT. The common group's control registers and semaphore instructions (R128 to R132, R140, R286 to R290). -/

namespace Sys2Proof.Machine

/-! ### The source whose post overflows (R288) -/

theorem rankEng_engRank (e : Engine) : rankEng (engRank e) = e := by cases e <;> rfl

theorem foldl_max_of_le {l : List Nat} {r : Nat} (h : ∀ x ∈ l, x ≤ r) : l.foldl max r = r := by
  rw [List.foldl_max, Nat.max_eq_left]
  cases hm : l.max? with
  | none => exact Nat.le_refl r
  | some m => exact h m (List.max?_mem hm)

theorem le_foldl_max {l : List Nat} {x : Nat} (h : x ∈ l) (r : Nat) : x ≤ l.foldl max r := by
  rw [List.foldl_max]
  exact (List.le_max?_getD_of_mem h).trans (Nat.le_max_right ..)

/-- The ranks that have posted to the semaphore in this cycle. -/
def postRanks (now : Nat) (cs : CoreSt) (n : Nat) : List Nat := ((semLogAt now cs).posts.filter fun p => p.1 == n).map (·.2)

theorem mem_postRanks {now n r : Nat} {cs : CoreSt} : r ∈ postRanks now cs n ↔ (n, r) ∈ (semLogAt now cs).posts := by
  simp [postRanks]

section
variable {now n rank : Nat} {cs : CoreSt}

theorem postAt_full (h : 65535 ≤ countBefore now cs n) : (postAt now cs rank n).2 = some ((postRanks now cs n).foldl max rank) := by
  rw [postAt, if_pos h]
  rfl

theorem postAt_room (h : countBefore now cs n < 65535) : postAt now cs rank n = (applyPost now cs rank n, none) := by
  rw [postAt, if_neg (Nat.not_le.2 h)]

theorem getSem_postAt_full (h : 65535 ≤ countBefore now cs n) : getSem (postAt now cs rank n).1 n = getSem cs n := by
  rw [postAt, if_pos h]
  rfl

/-- The posting source overflows when none of a higher rank has posted. -/
theorem postAt_blames_self (h : 65535 ≤ countBefore now cs n) (hall : ∀ p ∈ (semLogAt now cs).posts, p.1 = n → p.2 ≤ rank) :
    (postAt now cs rank n).2 = some rank := by
  rw [postAt_full h, foldl_max_of_le fun x hx => hall _ (mem_postRanks.1 hx) rfl]

/-- One of a higher rank is blamed before it. -/
theorem postAt_blames_other {r : Nat} (h : 65535 ≤ countBefore now cs n) (hp : (n, r) ∈ (semLogAt now cs).posts) (hr : rank < r) :
    (postAt now cs rank n).2 ≠ some rank := by
  rw [postAt_full h]
  have hle := le_foldl_max (mem_postRanks.2 hp) rank
  exact fun heq => absurd (Option.some.inj heq) (by omega)

end

/-! ### The bodies -/

theorem useBody_of_useReady {s : State} {a : SSrc} {v : Word} {cs : CoreSt} {f : CoreSt → Word → Verdict} (h : UseReady s a v cs) :
    useBody a f s = f cs v := by
  obtain ⟨hz, ht⟩ := h
  simp [useBody, hz, ht]

section
variable {s : State} {n : Nat}

/-- RDCR writes its register when nothing holds it. -/
theorem rdcrBody_reads {d : SDst} {cr : Nat} {cs : CoreSt} (hb : crBusy (focusCs s) s.focusEng cr = false) (h : SrcsReady s [] d [] cs) :
    rdcrBody d cr s = .done (scalarDone s cs d { val := readCr s (focusCs s) s.focusEng cr }) := by
  obtain ⟨hz, ht, hr⟩ := h
  rw [List.flatMap_nil] at hz
  cases d with
  | reg d => simp [rdcrBody, scalarBody, scalarDone, hb, hz, ht]
  | qr => simp [rdcrBody, scalarBody, scalarDone, hb, hz, ht, hr]

theorem wrcrBody_writes {cr : Nat} {a : SSrc} {v : Word} {cs : CoreSt} (h : UseReady s a v cs) (hb : crBusy (focusCs s) s.focusEng cr = false) :
    wrcrBody cr a s = .done { s := withCs s (writeCr cs s.focusEng cr v) } := by
  rw [wrcrBody, if_neg (by simp [hb]), useBody_of_useReady h]

theorem semwBody_takes (h : 0 < (getSem (focusCs s) n).count ∧ ((getSem (focusCs s) n).cqrel = true → loadsDone (focusCs s) s.focusEng = true)) :
    semwBody n s =
      .done { s := withCs s (grantWait (coreCycle s) (if (getSem (focusCs s) n).cqrel then acquire (focusCs s) else focusCs s) n) } := by
  obtain ⟨hc, hl⟩ := h
  have hready : semReady (focusCs s) s.focusEng n = true := by
    cases hq : (getSem (focusCs s) n).cqrel with
    | false => simp [semReady, hq, Nat.pos_iff_ne_zero.1 hc]
    | true => simp [semReady, hl hq, Nat.pos_iff_ne_zero.1 hc]
  exact if_pos hready

theorem sempBody_waits (h : settledBefore s (focusCs s) s.focusEng (focusCs s).nextId = false) :
    sempBody n s = .done { s := s, openEnd := true, semp := some n } := if_neg (by simp [h])

theorem sempBody_posts (h : settledBefore s (focusCs s) s.focusEng (focusCs s).nextId = true)
    (hc : countBefore (coreCycle s) (focusCs s) n < 65535) :
    sempBody n s = .done { s := withCs s (applyPost (coreCycle s) (focusCs s) (engRank s.focusEng) n) } := by
  simp [sempBody, h, postAt_room hc]

/-- An overflow that its own post makes is its fault. -/
theorem sempBody_overflows (h : settledBefore s (focusCs s) s.focusEng (focusCs s).nextId = true)
    (hp : (postAt (coreCycle s) (focusCs s) (engRank s.focusEng) n).2 = some (engRank s.focusEng)) :
    sempBody n s = .done { s := withCs s (postAt (coreCycle s) (focusCs s) (engRank s.focusEng) n).1
                           after := some { trap := .semOverflow } } := by
  simp [sempBody, h, hp, rankEng_engRank]

/-- One that the post of another engine makes is that engine's. -/
theorem sempBody_overflows_other {e : Engine} (he : e ≠ s.focusEng) (h : settledBefore s (focusCs s) s.focusEng (focusCs s).nextId = true)
    (hp : (postAt (coreCycle s) (focusCs s) (engRank s.focusEng) n).2 = some (engRank e)) :
    let s1 := withCs s (postAt (coreCycle s) (focusCs s) (engRank s.focusEng) n).1
    sempBody n s = .done { s := semOverflow s1 s1.focusCore e } := by
  simp [sempBody, h, hp, rankEng_engRank, he]

end

end Sys2Proof.Machine

section
open Sys2Proof Sys2Proof.Machine

/-- Settles O4: each body's effect under its conditions, and who is blamed for a post that finds the count full. -/
theorem commonRegisterAndSyncResults : Obligations.CommonRegisterAndSyncResults := by
  unfold Obligations.CommonRegisterAndSyncResults
  refine ⟨fun d cr s s1 w cs1 hi hb h => issue_goes hi (rdcrBody_reads hb h), fun cr a s s1 w v cs1 hi h hb => issue_goes hi (wrcrBody_writes h hb),
    fun a => uses_of (fun _ => rfl) fun _ _ _ _ => rfl, fun n => plain_of (fun _ => rfl) fun _ _ => rfl,
    fun n => plain_of (fun _ => rfl) fun _ _ => rfl, fun n => plain_of (fun _ => rfl) fun _ => semwBody_takes,
    fun n => plain_of (fun _ => rfl) fun _ h => sempBody_posts h.1 h.2, fun n => plain_of (fun _ => rfl) fun _ => sempBody_waits,
    fun k n => plain_of (fun _ => rfl) fun _ => sempBody_waits, ?_, ?_,
    fun k n => plain_of (fun _ => rfl) fun _ => semwBody_takes, fun k n => plain_of (fun _ => rfl) fun _ h => sempBody_posts h.1 h.2⟩
  · intro n i hi
    have hexec : ∀ s, exec i s = issue i s (sempBody n) := by
      obtain rfl | ⟨k, rfl⟩ := hi <;> exact fun _ => rfl
    exact ⟨plain_of hexec fun _ ⟨h, _, hp⟩ => sempBody_overflows h hp,
      fun e => plain_of hexec fun _ ⟨he, h, _, hp⟩ => sempBody_overflows_other he h hp⟩
  · intro now cs e n hfull
    refine ⟨getSem_postAt_full hfull, bareCore_postAt .., fun hall => postAt_blames_self hfull fun p hp hn => ?_,
      fun p hp hn hr => postAt_blames_other hfull (hn ▸ hp) hr⟩
    simpa [hn] using List.all_eq_true.1 hall p hp

end
end

section
/-! SUPPORT. Events of memory: what each does where its conditions hold (R60, R159, R247, R250, R259, R272, R278, R411). -/

namespace Sys2Proof.Machine

section
variable {c id line slot : Nat} {e : Engine} {s : State} {a : Access}

theorem retire_due {f : Flight} (h : dueFlight (postsTo (coreCycle s - 1) s c) c e = some f) :
    retire c e s = some (retireFlight (postsTo (coreCycle s - 1) s c) c f) := by
  simp only [retire, h, Option.map_some]

/-! ### Code lines (R60) -/

/-- The address of a code line of the launch on a core. -/
def codeVa (s : State) (c line : Nat) : Nat := ((launchOf s (getCore s c)).map (·.codeBase)).getD 0 + 64 * line

/-- The engine stands at a line of its code segment that it does not hold. -/
structure LineMissing (s : State) (c : Nat) (e : Engine) (line slot : Nat) : Prop where
  pc : ((getCore s c).stream e).pc = .pos line slot
  runs : runnable s c e = true
  absent : mget ((getCore s c).imem e) line = none
  inSegment : ∀ n, codeLines s (getCore s c) = some n → line < n
  near : ∀ p, vaClass s (codeVa s c line) ≠ .remote p

theorem LineMissing.not_past_end (h : LineMissing s c e line slot) :
    ((codeLines s (getCore s c)).map fun n => decide (n ≤ line)) ≠ some true := by
  cases hn : codeLines s (getCore s c) with
  | none => nofun
  | some n => simpa using h.inSegment n hn

/-- A line of DRAM comes from the LLC. -/
theorem lineFetch_dram {s1 s' : State} {x : Xlate} {d b : Nat} {bs : List Byte} (h : LineMissing s c e line slot)
    (hreach : reach s (asidOf s (getCore s c)) (codeVa s c line) .fetch = .ok (s1, x, .dram d b))
    (hbytes : codeBytes s1 c (asidOf s (getCore s c)) (codeVa s c line) x = .ok (s', bs)) :
    lineFetch c e s = some (setCore s' c (putCode (getCore s' c) e line bs)) := by
  have hend := h.not_past_end
  obtain ⟨hpc, hr, hm, -, hnear⟩ := h
  rw [codeVa] at hreach hbytes hnear
  simp only [lineFetch, hpc, hr, hm, Bool.not_true, Option.isSome_none, Bool.or_self, Bool.false_eq_true, if_false, if_neg hend]
  cases hv : vaClass s (((launchOf s (getCore s c)).map (·.codeBase)).getD 0 + 64 * line) with
  | remote p => exact absurd hv (hnear p)
  | _ =>
    simp only [hreach, hbytes]
    rfl

/-- A line of host memory comes when the host has been asked for it in time. -/
theorem lineFetch_host {s1 : State} {x : Xlate} (h : LineMissing s c e line slot)
    (hreach : reach s (asidOf s (getCore s c)) (codeVa s c line) .fetch = .ok (s1, x, .host))
    (hask : hostAsk s (codeAskOf ((getCore s c).stream e) (codeVa s c line)) = .here) :
    lineFetch c e s = some (setCore { s1 with fresh := s1.fresh + 1 } c (putCode (getCore s1 c) e line (hostLine s1 x.pa))) := by
  have hend := h.not_past_end
  obtain ⟨hpc, hr, hm, -, hnear⟩ := h
  rw [codeVa] at hreach hask hnear
  simp only [lineFetch, hpc, hr, hm, Bool.not_true, Option.isSome_none, Bool.or_self, Bool.false_eq_true, if_false, if_neg hend]
  cases hv : vaClass s (((launchOf s (getCore s c)).map (·.codeBase)).getD 0 + 64 * line) with
  | remote p => exact absurd hv (hnear p)
  | _ => simp only [hreach, hask]

/-! ### Clearing (R247, R252) -/

/-- The access may take its places in this cycle. -/
structure MayClear (s : State) (c id : Nat) (a : Access) (xs : List Place) : Prop where
  found : findAccess s c id = some a
  notCleared : a.cleared = false
  issued : a.issuedAt < coreCycle s
  occupied : (getCore s c).occ.isSome = true
  notChecked : a.checked = false
  first : seqFirst s c a = false
  free : a.pieces.any (partHeld s c a) = false
  places : placesOf s (getCore s c) a a.pieces = .ok xs
  kept : prefGone a xs = false

/-- Its parts take their places, those of a store in other packages as operations for each line. -/
theorem accessClear_places {xs : List Place} (h : MayClear s c id a xs) :
    let r := settleAll c a (a.pieces.zip xs) s
    let q := if a.store && a.ops.isEmpty then awayStore r.1 c a r.2 else (r.2, a.ops)
    accessClear c id s =
      some (afterClear (setCore r.1 c (putAccess (getCore r.1 c) { a with checked := true, pieces := q.1, ops := q.2 })) c id) := by
  obtain ⟨hf, hcl, hi, ho, hch, hfirst, hfree, hp, hk⟩ := h
  have ho : (getCore s c).occ.isNone = false := by rw [← Option.not_isSome, ho]; rfl
  simp only [accessClear, clearOne, hf, hfirst, hch, hcl, Nat.not_le.2 hi, ho, hfree, hp, hk, decide_false, Bool.or_self, Bool.false_eq_true, if_false]

theorem accessClear_load {xs : List Place} (h : MayClear s c id a xs) (hs : a.store = false) :
    let r := settleAll c a (a.pieces.zip xs) s
    accessClear c id s = some (afterClear (setCore r.1 c (putAccess (getCore r.1 c) { a with checked := true, pieces := r.2 })) c id) := by
  simp only [accessClear_places h, hs, Bool.false_and, Bool.false_eq_true, if_false]

theorem accessClear_store {xs : List Place} (h : MayClear s c id a xs) (hs : a.store = true) (ho : a.ops = []) :
    let r := settleAll c a (a.pieces.zip xs) s
    let q := awayStore r.1 c a r.2
    accessClear c id s =
      some (afterClear (setCore r.1 c (putAccess (getCore r.1 c) { a with checked := true, pieces := q.1, ops := q.2 })) c id) := by
  simp only [accessClear_places h, hs, ho, List.isEmpty_nil, Bool.and_self, if_true]

/-! ### Return, fills and deliveries -/

theorem hostWaits_of_done (h : ∀ p ∈ a.pieces, p.st = .done) : hostWaits a = false := by
  refine List.any_eq_false.2 fun p hp => ?_
  rw [h p hp]
  cases p.route <;> simp

/-- A cleared load whose parts all have their data ends. -/
theorem loadReturn_ends (hf : findAccess s c id = some a) (hs : a.store = false) (hp : a.pref = false) (ho : a.ops = [])
    (hcl : a.cleared = true) (hpend : ∀ p ∈ (getCore s c).pend, p.flight ≠ a.flight) (hdone : ∀ p ∈ a.pieces, p.st = .done) :
    loadReturn c id s = some (loadEnds (setCore s c (putAccess (getCore s c) a)) c a a.pieces) := by
  have hpend : ((getCore s c).pend.any fun p => p.flight == a.flight) = false := by simpa using hpend
  have hsame : (a.pieces.map fun p => if p.st == .done then p else fillAway s p) = a.pieces :=
    (List.map_congr_left fun p hp => if_pos (beq_iff_eq.2 (hdone p hp))).trans (List.map_id' _)
  have hall : (a.pieces.all fun p => p.st == .done) = true := List.all_eq_true.2 fun p hp => beq_iff_eq.2 (hdone p hp)
  simp only [loadReturn, hf, hsame, if_true, if_pos hall]
  refine (if_neg ?_).trans (if_neg fun h => ?_)
  · simp [hs, hp, ho, hcl, hpend]
  · obtain ⟨hhost, -⟩ := Bool.and_eq_true_iff.1 h
    exact absurd hhost (Bool.eq_false_iff.1 (hostWaits_of_done hdone))

theorem llcFill_fills {key : LineKey} {st : Option Nat} {hint pa perm : Nat} (hw : lineWaiter s key = some (st, hint, pa, perm))
    (hl : getLine s key = none) : llcFill key s = some (fillLine s key pa perm hint st) := by
  simp only [llcFill, hw, hl]

theorem migInterval_halves (h : s.hub.migEnd + s.hub.migInterval.toNat * usec ≤ s.time) :
    migInterval s = some (migSweep { s with hub := { s.hub with
      migEnd := s.hub.migEnd + s.hub.migInterval.toNat * usec
      migRegions := s.hub.migRegions.map fun r => { r with counts := r.counts.map (· / 2) } } }) :=
  if_neg (Nat.not_lt.2 h)

theorem rspWrite_performs {from' off : Nat} {d : BitVec 4096} {rest : List (Nat × Nat × BitVec 4096)}
    (h : (getCore s c).rspIn = (from', off, d) :: rest) (ho : (getCore s c).occ.isSome = true) :
    rspWrite c s = some (setCore s c (spmWrite { getCore s c with rspIn := rest } off (vecBytes d.toNat 512))) := by
  simp only [rspWrite, h, ho, if_true]

/-- A store to the aperture is delivered when no earlier one of its core may go there. -/
theorem apertureStore_delivers (hf : findAccess s c id = some a) (hs : a.store = true) (hcl : a.cleared = false)
    (hup : s.fw.linkUp = true) (ht : hostInTime s a = true) (hp : ∃ p ∈ a.pieces, (hostPart p).isSome)
    (hb : ∀ b ∈ (getCore s c).accesses.takeWhile fun b => b.id != id, apertureBefore b = false) :
    let out := a.pieces.filterMap fun p => (hostPart p).map fun pa => (pa, p.data)
    let ps := a.pieces.map fun p => if (hostPart p).isSome then { p with st := .done } else p
    let s' := { s with fw := { s.fw with hostOut := out.reverse ++ s.fw.hostOut } }
    apertureStore c id s = some (afterClear (setCore s' c (putAccess (getCore s c) { a with pieces := ps })) c id) := by
  have hp : (a.pieces.any fun p => (hostPart p).isSome) = true := by simpa using hp
  have hb : ((getCore s c).accesses.takeWhile fun b => b.id != id).any apertureBefore = false :=
    List.any_eq_false.2 fun b hb' => by simp [hb b hb']
  simp only [apertureStore, hf, hs, hcl, hup, ht, hp, hb, Bool.not_true, Bool.or_self, Bool.false_eq_true, if_false]
  rfl

/-- A request that the host has not completed in 50 ms takes BUS_ERROR. -/
theorem slateTimeout_faults {va pa : Nat} (hf : findAccess s c id = some a)
    (hp : (a.pieces.findSome? fun p => (hostPart p).map fun pa => (p.va, pa)) = some (va, pa))
    (ht : 2 * a.issuedAt + 50 * msec ≤ s.time) (hs : isSpec a.dst = false) :
    slateTimeout c id s = some (logHub (faultAccess s c a { trap := .busError, addr := BitVec.ofNat 64 va })
      0x0811 [(8, pa), (1, if a.store then 1 else 0)]) := by
  simp only [slateTimeout, hf, hp, ge_iff_le, ht, hs, Bool.false_eq_true, if_true, if_false]

end

end Sys2Proof.Machine

section
open Sys2Proof Sys2Proof.Machine

/-- Settles O23: each event's function gives the state under its conditions. -/
theorem memoryEventResults : Obligations.MemoryEventResults := by
  unfold Obligations.MemoryEventResults
  refine ⟨fun c e s f => ?_, fun c e s line slot x s1 s' bs hpc hr hm hl => ?_,
    fun c id s a xs hf hcl hi ho hch hs hq hh hp hk => evOut_some (accessClear_load ⟨hf, hcl, hi, ho, hch, hq, hh, hp, hk⟩ hs),
    fun c id s a xs hf hcl hi ho hch hs hops hq hh hp hk => evOut_some (accessClear_store ⟨hf, hcl, hi, ho, hch, hq, hh, hp, hk⟩ hs hops),
    fun c id s a hf hs hp ho hcl hpend hdone => evOut_some (loadReturn_ends hf hs hp ho hcl hpend hdone),
    fun key s st hint pa perm hw hl => evOut_some (llcFill_fills hw hl), fun s h => evOut_some (migInterval_halves h),
    fun t s from' off d rest h ho => evOut_some (rspWrite_performs h ho),
    fun c id s a hf hs hcl hup ht hp hb => evOut_some (apertureStore_delivers hf hs hcl hup ht hp hb),
    fun c id s a va pa hf hp ht hs => evOut_some (slateTimeout_faults hf hp ht hs)⟩
  · exact fun h => evOut_some (retire_due h)
  · intro va hnear
    have h : LineMissing s c e line slot := ⟨hpc, hr, hm, hl, hnear⟩
    exact ⟨fun a b hreach hbytes => evOut_some (lineFetch_dram h hreach hbytes), fun hreach hask => evOut_some (lineFetch_host h hreach hask)⟩

end
end
